-- ==== Sys2Proof/Word.lean ====
section
/-!
DEFINITION. Word.lean: the machine's bit-vector types. Registers, memory bytes, addresses while they are computed and
packet fields are bit vectors; counts, indexes and exact integers (accumulators, lane results before they wrap) are Nat and Int.
-/

namespace Sys2Proof

/-- One byte of memory. -/
abbrev Byte := BitVec 8

/-- A 16-bit field: package numbers, ranks, poison masks. -/
abbrev U16 := BitVec 16

/-- A 32-bit field. -/
abbrev U32 := BitVec 32

/-- A 64-bit word: a CSR (R14), a global address (R12), a lane value (R78). -/
abbrev U64 := BitVec 64

/-- A fold digest (R315, R316). -/
abbrev U128 := BitVec 128

end Sys2Proof
end

