-- ==== Sys2Proof/Syntax.lean ====
section
/-!
DEFINITION. Syntax.lean: the commands of the XN-9608: one constructor of `Instr` per row of spec/opcode_table.json, with the
operands a step of that kind has in the spec, and the plain records those operands are made of.
Indices of units are `Fin`; fields the spec lays out in bits are bit vectors; sizes and exact numbers are `Nat` and `Int`.
-/

namespace Sys2Proof

/-! ## Rudiments: the operation parameters a beat names (R128 to R137, R148, R212) -/

/-- One term of an address generator (R129): a loop counter, whether it takes part, and its signed stride in words. -/
structure AgTerm where
  ctr    : Nat
  en     : Bool
  stride : Int
  deriving DecidableEq, Repr

/-- An address generator (R129): start in 8-byte words, signed stride per core index in words, up to three terms. -/
structure AG where
  base    : Nat
  cstride : Int
  terms   : List AgTerm
  deriving DecidableEq, Repr

/-- An index generator of a converter rudiment (R135): base in elements of the shard, stride per core, up to two terms. -/
structure IdxGen where
  base    : Nat
  cstride : Int
  terms   : List AgTerm
  deriving DecidableEq, Repr

/-- A matrix rudiment (R131): format codes of the A and B tiles, and their address generators. -/
structure MatRud where
  fmta : Nat
  fmtb : Nat
  agA  : AG
  agB  : AG
  deriving DecidableEq, Repr

/-- A vector rudiment without its opcode (R132). `m` and `n` are the row and column counts M and N themselves. -/
structure VecRud where
  forma : Nat
  formb : Nat
  fmta  : Nat
  fmtb  : Nat
  ga    : Nat
  gb    : Nat
  dest  : Nat
  m     : Nat
  n     : Nat
  imm   : U16
  rlo   : Nat
  rhi   : Nat
  smk   : Nat
  skind : Nat
  var   : Bool
  agA   : AG
  agB   : AG
  agD   : AG
  deriving DecidableEq, Repr

/-- A converter rudiment, both entries (R135). `chn`, `rows` and `cols` are the counts themselves. -/
structure ConvRud where
  src   : Nat
  x     : Int
  eb    : Nat
  clip  : Bool
  ec    : Nat
  rmode : Bool
  chn   : Nat
  desc  : Nat
  rows  : Nat
  cols  : Nat
  lo    : Int
  hi    : Int
  agD   : AG
  agC   : AG
  row   : IdxGen
  col   : IdxGen
  deriving DecidableEq, Repr

/-- A move rudiment (R137): length in bytes, LDT element format, broadcast set, LDT row length in elements. -/
structure MoveRud where
  len    : Nat
  efmt   : Nat
  bset   : U16
  rowlen : Nat
  agL    : AG
  agS    : AG
  deriving DecidableEq, Repr

/-- A DMA rudiment (R148). `len` is the length in bytes itself. -/
structure DmaRud where
  dir     : Nat
  cluster : Nat
  len     : Nat
  done    : Nat
  gbase   : U64
  terms   : List AgTerm
  agL     : AG
  errb    : Nat
  errbEn  : Bool
  deriving DecidableEq, Repr

/-- A pivot rudiment without its operation (R212). `count` is the number of entries itself. -/
structure PivRud where
  dl    : Bool
  count : Nat
  ag    : AG
  deriving DecidableEq, Repr

/-! ## Packets and requests -/

/-- The packet types (R347). -/
inductive PType where
  | rdReq | rdRsp | wr | wrDone | atom | atomRsp | bell | team | coll | grpq | mgmt | errRsp
  deriving DecidableEq, Repr

/-- A packet: the header fields of R346 and the payload. The lane follows from the type (R347). -/
structure Packet where
  ptype   : PType
  exped   : Bool
  hops    : Byte
  dst     : U16
  src     : U16
  group   : BitVec 12
  mask    : U16
  tag     : U32
  wordA   : U64
  wordB   : U64
  payload : List Byte
  deriving DecidableEq, Repr

/-- Who makes an access (R12, R236, R378, R471, R503, R504): it decides what the access may reach. -/
inductive Source where
  | controlDie
  | dma (d : Fin 4) (h : Fin 2)
  | port (n : Fin 64)
  | service
  | jtag
  deriving DecidableEq, Repr

/-- The source ports of a yard (R259). -/
inductive YPort where
  | die (d : Fin 4)
  | fabric (f : Fin 2)
  | control
  | exchange
  | engines
  | scrubber
  deriving DecidableEq, Repr

/-- A one-line request to a yard (R256, R260): port, class P0 to P3, stack offset, length in bytes, and for a write the bytes. -/
structure YReq where
  port  : YPort
  cls   : Fin 4
  pen   : Option (Fin 8)
  off   : BitVec 37
  len   : Nat
  write : Option (List Byte)
  deriving DecidableEq, Repr

/-- The enableable functions (R455). -/
inductive Func where
  | port (n : Fin 64)
  | pen (p : Fin 8)
  | grpq (f : Fin 2) (g : BitVec 12)
  | xch (y : Fin 8)
  | eng (y : Fin 8)
  | opt (n : Fin 4)
  deriving DecidableEq, Repr

/-- What link training found (R362): signal, equalisation and lanes; the partner's package and port; the round trip. -/
structure Training where
  signal  : Bool
  eq      : Bool
  lanes   : Bool
  package : U16
  port    : BitVec 6
  rttNs   : U32
  deriving DecidableEq, Repr

/-- Why a link goes down (R352, R354, R373). -/
inductive DownCause where
  | retryLimit | lossOfSignal | protocol
  deriving DecidableEq, Repr

/-- A member's package manifest as it stands in the file store (R425), with what its entry of the job manifest names (R426): the namespace of
its package area and the manifest's first logical block. -/
structure MemberManifest where
  ns    : U32
  block : U64
  bytes : List Byte
  deriving DecidableEq, Repr

/-- What the coordinator of a pen's checkpoint writes the job manifest from (R426): the job's run time in seconds and rollback count, and the
members' package manifests by rank. -/
structure JobWrite where
  pen     : Fin 8
  runS    : U64
  fails   : U32
  members : List MemberManifest
  deriving DecidableEq, Repr

/-- One checkpoint as the file store returns it, with the root slot it was read from (R422, R425 to R427): a part that cannot be read is
`none`. -/
structure StoredCheckpoint where
  slot      : Nat
  root      : List Byte
  job       : Option (List Byte)
  packages  : List (Option (List Byte))
  shards    : List (Option (List Byte))
  deriving DecidableEq, Repr

/-- The codes of die faults (R493). -/
inductive DieFaultCode where
  | clock | volt | therm | seq | bell | dma
  deriving DecidableEq, Repr

/-- The codes of package faults (R494). -/
inductive PkgFaultCode where
  | bridge | reference | power | therm | fabric | cd
  deriving DecidableEq, Repr

/-- A read-out request (R503): a read of `len` bytes or a write of a word at a local address. -/
structure ReadoutReq where
  port  : U16
  magic : U32
  op    : Byte
  addr  : U64
  len   : U32
  tag   : U32
  data  : U64
  deriving DecidableEq, Repr

/-- A root-of-trust command (R482): its sequence number, the slot it loads, the public key it enrols (96 bytes, x then y, big-endian), the
signed message and its signature. -/
structure RotCmd where
  seq   : U64
  owner : Bool
  slot  : Fin 16
  key   : List Byte
  msg   : List Byte
  sig   : List Byte
  deriving DecidableEq, Repr

/-! ## The commands -/

/-- The commands: one per row of spec/opcode_table.json, in the table's order. -/
inductive Instr where
  -- 03 The cadence: sequencer steps
  | beatIssue (d : Fin 4) (h : Fin 2)
  | nop (d : Fin 4) (h : Fin 2)
  | loop (d : Fin 4) (h : Fin 2) (lc : BitVec 4) (count : BitVec 24) (lend : U16)
  | br (d : Fin 4) (h : Fin 2) (sset : BitVec 4) (sm : BitVec 2) (cond : BitVec 2) (off : BitVec 24)
  | jmp (d : Fin 4) (h : Fin 2) (off : BitVec 24)
  | step (d : Fin 4) (h : Fin 2)
  | stepDrained (d : Fin 4) (h : Fin 2)
  | stepBarrierPass (p : Fin 8)
  | stepAction5 (p : Fin 8)
  | rebaseDone (p : Fin 8)
  | halt (d : Fin 4) (h : Fin 2)
  | haltComplete (d : Fin 4) (h : Fin 2)
  | ring (d : Fin 4) (h : Fin 2) (bell : BitVec 12) (count : U16)
  | await (d : Fin 4) (h : Fin 2) (bell : BitVec 12) (count : U16)
  | awaitPass (d : Fin 4) (h : Fin 2)
  | awaitTmo (d : Fin 4) (h : Fin 2) (held : BitVec 48)
  | ringx (d : Fin 4) (h : Fin 2) (rud : BitVec 12) (count : U16)
  | dmaIssue (d : Fin 4) (h : Fin 2) (rud : U16) (cls : BitVec 2)
  | dmaQueueFree (d : Fin 4) (h : Fin 2)
  | dmaLineIssue (d : Fin 4)
  | dmaTransferDone (d : Fin 4) (h : Fin 2)
  -- 02 Matrix engine and accumulator file
  | chunk (d : Fin 4) (c : Fin 8) (k : Fin 16) (slot : BitVec 4) (r : MatRud)
  | chunkc (d : Fin 4) (c : Fin 8) (k : Fin 16) (slot : BitVec 4) (r : MatRud)
  | accst (d : Fin 4) (c : Fin 8) (k : Fin 16) (slot : BitVec 4) (r : MatRud)
  | accadd (d : Fin 4) (c : Fin 8) (k : Fin 16) (slot : BitVec 4) (r : MatRud)
  | accclr (d : Fin 4) (c : Fin 8) (k : Fin 16) (slot : BitVec 4)
  -- 02 Vector lanes and the function unit; `cv` is the converter rudiment of the CONV issued in the same beat, if any
  | vecAdd (d : Fin 4) (c : Fin 8) (k : Fin 16) (r : VecRud) (cv : Option ConvRud)
  | vecSub (d : Fin 4) (c : Fin 8) (k : Fin 16) (r : VecRud) (cv : Option ConvRud)
  | vecAdds (d : Fin 4) (c : Fin 8) (k : Fin 16) (r : VecRud) (cv : Option ConvRud)
  | vecSubs (d : Fin 4) (c : Fin 8) (k : Fin 16) (r : VecRud) (cv : Option ConvRud)
  | vecNegs (d : Fin 4) (c : Fin 8) (k : Fin 16) (r : VecRud) (cv : Option ConvRud)
  | vecAbss (d : Fin 4) (c : Fin 8) (k : Fin 16) (r : VecRud) (cv : Option ConvRud)
  | vecMin (d : Fin 4) (c : Fin 8) (k : Fin 16) (r : VecRud) (cv : Option ConvRud)
  | vecMax (d : Fin 4) (c : Fin 8) (k : Fin 16) (r : VecRud) (cv : Option ConvRud)
  | vecAnd (d : Fin 4) (c : Fin 8) (k : Fin 16) (r : VecRud) (cv : Option ConvRud)
  | vecOr (d : Fin 4) (c : Fin 8) (k : Fin 16) (r : VecRud) (cv : Option ConvRud)
  | vecXor (d : Fin 4) (c : Fin 8) (k : Fin 16) (r : VecRud) (cv : Option ConvRud)
  | vecAndn (d : Fin 4) (c : Fin 8) (k : Fin 16) (r : VecRud) (cv : Option ConvRud)
  | vecNot (d : Fin 4) (c : Fin 8) (k : Fin 16) (r : VecRud) (cv : Option ConvRud)
  | vecShl (d : Fin 4) (c : Fin 8) (k : Fin 16) (r : VecRud) (cv : Option ConvRud)
  | vecShls (d : Fin 4) (c : Fin 8) (k : Fin 16) (r : VecRud) (cv : Option ConvRud)
  | vecShra (d : Fin 4) (c : Fin 8) (k : Fin 16) (r : VecRud) (cv : Option ConvRud)
  | vecShrl (d : Fin 4) (c : Fin 8) (k : Fin 16) (r : VecRud) (cv : Option ConvRud)
  | vecShrn (d : Fin 4) (c : Fin 8) (k : Fin 16) (r : VecRud) (cv : Option ConvRud)
  | vecClz (d : Fin 4) (c : Fin 8) (k : Fin 16) (r : VecRud) (cv : Option ConvRud)
  | vecPopc (d : Fin 4) (c : Fin 8) (k : Fin 16) (r : VecRud) (cv : Option ConvRud)
  | vecCmpeq (d : Fin 4) (c : Fin 8) (k : Fin 16) (r : VecRud) (cv : Option ConvRud)
  | vecCmplt (d : Fin 4) (c : Fin 8) (k : Fin 16) (r : VecRud) (cv : Option ConvRud)
  | vecCmple (d : Fin 4) (c : Fin 8) (k : Fin 16) (r : VecRud) (cv : Option ConvRud)
  | vecSel (d : Fin 4) (c : Fin 8) (k : Fin 16) (r : VecRud) (cv : Option ConvRud)
  | vecClamp (d : Fin 4) (c : Fin 8) (k : Fin 16) (r : VecRud) (cv : Option ConvRud)
  | vecMul (d : Fin 4) (c : Fin 8) (k : Fin 16) (r : VecRud) (cv : Option ConvRud)
  | vecMulw (d : Fin 4) (c : Fin 8) (k : Fin 16) (r : VecRud) (cv : Option ConvRud)
  | vecMulhs (d : Fin 4) (c : Fin 8) (k : Fin 16) (r : VecRud) (cv : Option ConvRud)
  | vecRsum (d : Fin 4) (c : Fin 8) (k : Fin 16) (r : VecRud) (cv : Option ConvRud)
  | vecRmax (d : Fin 4) (c : Fin 8) (k : Fin 16) (r : VecRud) (cv : Option ConvRud)
  | vecRmin (d : Fin 4) (c : Fin 8) (k : Fin 16) (r : VecRud) (cv : Option ConvRud)
  | vecCsum (d : Fin 4) (c : Fin 8) (k : Fin 16) (r : VecRud) (cv : Option ConvRud)
  | vecCmax (d : Fin 4) (c : Fin 8) (k : Fin 16) (r : VecRud) (cv : Option ConvRud)
  | vecCmin (d : Fin 4) (c : Fin 8) (k : Fin 16) (r : VecRud) (cv : Option ConvRud)
  | vecExp2 (d : Fin 4) (c : Fin 8) (k : Fin 16) (r : VecRud) (cv : Option ConvRud)
  | vecLog2 (d : Fin 4) (c : Fin 8) (k : Fin 16) (r : VecRud) (cv : Option ConvRud)
  | vecRecip (d : Fin 4) (c : Fin 8) (k : Fin 16) (r : VecRud) (cv : Option ConvRud)
  | vecRsqrt (d : Fin 4) (c : Fin 8) (k : Fin 16) (r : VecRud) (cv : Option ConvRud)
  | vecSigm (d : Fin 4) (c : Fin 8) (k : Fin 16) (r : VecRud) (cv : Option ConvRud)
  | vecTanh (d : Fin 4) (c : Fin 8) (k : Fin 16) (r : VecRud) (cv : Option ConvRud)
  | smx1 (d : Fin 4) (c : Fin 8) (k : Fin 16) (r : VecRud) (cv : Option ConvRud)
  | smx2 (d : Fin 4) (c : Fin 8) (k : Fin 16) (r : VecRud) (cv : Option ConvRud)
  | smx3 (d : Fin 4) (c : Fin 8) (k : Fin 16) (r : VecRud) (cv : Option ConvRud)
  | nrm1 (d : Fin 4) (c : Fin 8) (k : Fin 16) (r : VecRud) (cv : Option ConvRud)
  | nrm2 (d : Fin 4) (c : Fin 8) (k : Fin 16) (r : VecRud) (cv : Option ConvRud)
  | vecMov (d : Fin 4) (c : Fin 8) (k : Fin 16) (r : VecRud) (cv : Option ConvRud)
  -- 01, 03 Output converter and moves
  | conv (d : Fin 4) (c : Fin 8) (k : Fin 16) (r : ConvRud)
  | chld (d : Fin 4) (c : Fin 8) (k : Fin 16) (r : ConvRud)
  | ld (d : Fin 4) (c : Fin 8) (k : Fin 16) (r : MoveRud)
  | st (d : Fin 4) (c : Fin 8) (k : Fin 16) (r : MoveRud)
  | ldt (d : Fin 4) (c : Fin 8) (k : Fin 16) (r : MoveRud)
  | bcast (d : Fin 4) (c : Fin 8) (r : MoveRud)
  -- 05 Pivot engine
  | begin (d : Fin 4) (c : Fin 8) (r : PivRud)
  | run (d : Fin 4) (c : Fin 8) (r : PivRud)
  | dpt (d : Fin 4) (c : Fin 8) (r : PivRud)
  | cnt (d : Fin 4) (c : Fin 8) (r : PivRud)
  -- 03 Loading a cadence; registers
  | seqLoadStart (d : Fin 4) (h : Fin 2)
  | scanComplete (d : Fin 4) (h : Fin 2)
  | seqGo (d : Fin 4) (h : Fin 2)
  | storeApertureWrite (d : Fin 4) (off : BitVec 25) (data : List Byte)
  | csrWrite (src : Source) (addr : BitVec 48) (size : Nat) (data : U64)
  | coreInjStallCe (d : Fin 4) (c : Fin 8) (k : Fin 16)
  | coreInjStallUe (d : Fin 4) (c : Fin 8) (k : Fin 16)
  | loftInjCe (d : Fin 4) (c : Fin 8)
  | loftInjUe (d : Fin 4) (c : Fin 8)
  -- 06, 07 Yard commands
  | xcmdPost (src : Source) (y : Fin 8) (eng : Bool) (w : Fin 9) (last : U64)
  | windowRoom (y : Fin 8) (eng : Bool) (w : Fin 9)
  | yardCmdStart (y : Fin 8) (eng : Bool)
  | narrow (y : Fin 8)
  | widen (y : Fin 8)
  | imp (y : Fin 8)
  | exp (y : Fin 8)
  | yardCmdComplete (y : Fin 8) (eng : Bool)
  | spmv (y : Fin 8)
  | resid (y : Fin 8)
  | gather (y : Fin 8)
  | reduce (y : Fin 8)
  | convert (y : Fin 8)
  | eqrow (y : Fin 8)
  | eqcol (y : Fin 8)
  | eqapply (y : Fin 8)
  | digest (y : Fin 8)
  | atomList (y : Fin 8)
  | atomAdd (y : Fin 8) (off : BitVec 37) (v : U64)
  | atomMin (y : Fin 8) (off : BitVec 37) (v : U64)
  | atomMax (y : Fin 8) (off : BitVec 37) (v : U64)
  | atomAnd (y : Fin 8) (off : BitVec 37) (v : U64)
  | atomOr (y : Fin 8) (off : BitVec 37) (v : U64)
  | atomXor (y : Fin 8) (off : BitVec 37) (v : U64)
  | fadd (y : Fin 8) (off : BitVec 37) (v : U64)
  | swap (y : Fin 8) (off : BitVec 37) (v : U64)
  | cas (y : Fin 8) (off : BitVec 37) (v : U64) (cmp : U64)
  | fmin (y : Fin 8) (off : BitVec 37) (v : U64)
  | fmax (y : Fin 8) (off : BitVec 37) (v : U64)
  -- 07 Yards: channels, refresh, scrub
  | yardRequest (y : Fin 8) (q : YReq)
  | slotGrant (y : Fin 8) (c : Fin 64)
  | cowWriteResume (y : Fin 8)
  | refresh (y : Fin 8) (c : Fin 64) (rank : Fin 3) (bank : Fin 16)
  | targetedRefresh (y : Fin 8) (c : Fin 64) (rank : Fin 3) (bank : Fin 16) (row : BitVec 13)
  | scrubRead (y : Fin 8)
  | yrdInjCe (y : Fin 8) (ch : BitVec 6)
  | yrdInjUe (y : Fin 8) (ch : BitVec 6)
  | yrdInjPoison (y : Fin 8) (ch : BitVec 6)
  -- 09 Fabric: packets arriving at this package on port n
  | rdReq (n : Fin 64) (k : Packet)
  | rdRsp (n : Fin 64) (k : Packet)
  | wr (n : Fin 64) (k : Packet)
  | wrDone (n : Fin 64) (k : Packet)
  | atomPkt (n : Fin 64) (k : Packet)
  | atomRsp (n : Fin 64) (k : Packet)
  | bell (n : Fin 64) (k : Packet)
  | bellRing (p : Fin 8) (name : U64) (count : U16) (err : Bool)
  | team (n : Fin 64) (k : Packet)
  | tmLost (p : Fin 8)
  | ldgTailWrite (p : Fin 8) (v : BitVec 44)
  | mgmtWrite (n : Fin 64) (k : Packet)
  | mgmtRead (n : Fin 64) (k : Packet)
  | mgmtReadResponse (n : Fin 64) (k : Packet)
  | checkpointReport (n : Fin 64) (k : Packet)
  | errRsp (n : Fin 64) (k : Packet)
  -- 09 Fabric: the link layer
  | codewordReceive (n : Fin 64) (bytes : List Byte)
  | linkControlEntry (n : Fin 64) (entry : List Byte)
  | retryTimeout (n : Fin 64)
  | codewordSend (n : Fin 64)
  | linkDown (n : Fin 64) (cause : DownCause)
  | lossOfSignal (n : Fin 64)
  | partnerTraining (n : Fin 64)
  | trainingDone (n : Fin 64) (t : Training)
  | retrainTimer (n : Fin 64)
  | portEnableWrite (n : Fin 64) (v : Bool)
  | portDrain (n : Fin 64)
  -- 12 Enable writes
  | penEnableWrite (p : Fin 8) (v : Bool)
  | grpqEnableWrite (f : Fin 2) (g : BitVec 12) (v : Bool)
  | xchEnableWrite (y : Fin 8) (v : Bool)
  | engEnableWrite (y : Fin 8) (v : Bool)
  | optEnableWrite (n : Fin 4) (v : Bool)
  | drainComplete (f : Func)
  -- 10 Groups and collectives; the packet arrives on port n
  | grpCmdPost (src : Source) (f : Fin 2) (w : Fin 9) (last : U64)
  | collStart (g : BitVec 12)
  | collGatePass (g : BitVec 12)
  | barrier (g : BitVec 12)
  | collBcast (g : BitVec 12)
  | collReduce (g : BitVec 12)
  | allreduce (g : BitVec 12)
  | send (g : BitVec 12)
  | collUp (n : Fin 64) (k : Packet)
  | collDown (n : Fin 64) (k : Packet)
  | collConfirm (n : Fin 64) (k : Packet)
  | collRelease (n : Fin 64) (k : Packet)
  | collReject (n : Fin 64) (k : Packet)
  | collError (n : Fin 64) (k : Packet)
  | collStatus (n : Fin 64) (k : Packet)
  | gcTimeout (g : BitVec 12)
  | grpq (n : Fin 64) (k : Packet)
  | grpSwapArm (f : Fin 2)
  -- 11 Checkpoints
  | drainPageRead (p : Fin 8) (y : Fin 8)
  | ckpDrainDone (p : Fin 8) (free : U64)
  | jobManifestWrite (p : JobWrite)
  | ckpPublished (p : Fin 8) (cMs : U32) (tUs : U64) (runS : U64) (fails : U32)
  | nvmeCompletion (p : Fin 8) (ok : Bool)
  | ckPartial (p : Fin 8)
  | restore (p : Fin 8) (keys : List (List Byte)) (store : List StoredCheckpoint)
  -- 12 Layout
  | layoutLoad
  | layoutChecksDone
  | layoutUnload
  | unloadComplete
  | layoutArm
  | armChecksDone
  | layoutDisarm
  -- 13 Control die
  | copy (n : Fin 16)
  | dmaImport (n : Fin 16)
  | dmaExport (n : Fin 16)
  | cdDmaComplete (n : Fin 16)
  | cdDmaqTailWrite (n : Fin 16) (tail : U16)
  | watchFire (n : Fin 64)
  | watchPendingClear (n : Fin 64)
  | scoreRequest (n : Fin 4) (udpPort : U16) (flow : U32)
  | vunz2 (core : Fin 36) (regs : List Nat) (base : U64) (z : Nat) (count : U64)
  | vunz3 (core : Fin 36) (regs : List Nat) (base : U64) (z : Nat) (count : U64)
  | vunz4 (core : Fin 36) (regs : List Nat) (base : U64) (z : Nat) (count : U64)
  | vzip2 (core : Fin 36) (regs : List Nat) (base : U64) (z : Nat) (count : U64)
  | vzip3 (core : Fin 36) (regs : List Nat) (base : U64) (z : Nat) (count : U64)
  | vzip4 (core : Fin 36) (regs : List Nat) (base : U64) (z : Nat) (count : U64)
  | trapReturn (core : Fin 36)
  | ptpMessage (offsetNs : BitVec 32) (domain : Byte) (udp : Bool)
  | rotEnrol (cmd : RotCmd)
  | rotKeyLoad (cmd : RotCmd)
  | cnpReceive (qp : Nat)
  | rateRegainTimer (qp : Nat)
  | ecnMarkedReceive (qp : Nat)
  | rdmaTargetAccess (qp : Nat) (write : Bool) (addr : BitVec 26) (len : Nat) (data : List Byte)
  | pcieHostAccess (bar : Nat) (off : U64) (len : Nat) (write : Option (List Byte))
  -- 14 Faults, freeze, reset
  | dieFault (d : Fin 4) (code : DieFaultCode)
  | packageFault (code : PkgFaultCode) (die : Fin 8)
  | freezePin
  | freezeRequest (pkg : Bool) (p : Fin 8) (atBoundary : Bool)
  | freezeResume
  | readoutRequest (q : ReadoutReq)
  | powerOnReset
  | pkgRstWarm
  | resetPin
  | pkgRstDie (mask : BitVec 4)
  | pkgRstPen (mask : Byte)
  -- 15 Power, start-up, SMBus, JTAG
  | powerSample (vin iin pin : U16)
  | inputOutOfRange (vin iin : U16)
  | outOfRangeTimeout
  | inputCollapse (vin : U16)
  | tempWarning (s : Fin 16) (temp : BitVec 16)
  | tempTrip (s : Fin 16) (temp : BitVec 16)
  | hardwareThermtrip (s : Fin 16)
  | bootVerifyDone (okA okB : Bool) (verA verB : U16)
  | railSequencingDone
  | memoryTrainingDone (fails : List U64)
  | bridgeTrainingDone (ok : Bool) (eth : BitVec 5)
  | vin
  | iin
  | pin
  | tempMax
  | temps
  | status
  | stretch
  | cap
  | fault
  | layout
  | ident
  | clearAlert (pecOk : Bool)
  | alertResponse
  | extest (cells : BitVec 11)
  | idcode
  | samplePreload (cells : BitVec 11)
  | clamp
  | highz
  | readoutAddr (dr : U64)
  | readoutData (dr : U64)
  | bypass
  | clrPeak
  | inputBackInRange (vin iin : U16)
  | tempBelowWarn (s : Fin 16) (temp : BitVec 16)
  | resetNRelease
  | softStartDone
  | pcieTrainingDone (width : BitVec 5) (speed : BitVec 3)
  | pcieInboundDma (addr : U64) (data : List Byte)
  | ethLinkDown (n : Fin 5)
  | ethLinkUp (n : Fin 5)
  | ptpTransmitterLost
  | refreshDone (y : Fin 8) (c : Fin 64) (rank : Fin 3) (bank : Fin 16) (ns : Nat)
  | testReset
  deriving DecidableEq, Repr

end Sys2Proof
end

