-- ==== Sys2Proof/Decode.lean ====
section
/-!
DEFINITION. Decode.lean: commands from the table's bits. No row of spec/opcode_table.json gives bits: its rows are commands and
steps, not encodings of one instruction word, so no word spells a command. The encodings the spec does give (beat words, yard and
group commands, packets, descriptors) are read where they stand, by the meanings of the commands that take them.
-/

namespace Sys2Proof

/-- The command that a word of `nbits` bits spells by the table's bits: none, since no row of the table gives bits. -/
def decodeTableWord (_nbits _w : Nat) : Option Instr := none

end Sys2Proof
end

