-- ==== Sys2Proof/Config.lean ====
section
/-!
DEFINITION. Config.lean: what one part or one implementation fixes and the spec does not: constants with no body, so that
no proof can see a value of theirs. Each is named in a log entry.
-/

namespace Sys2Proof.Config

/-- PKG_ID.part and the PACKAGE section's part code: 0x0A18 for XN-9608-A18, 0x0A15 for XN-9608-A15 (R1, R447, R530).
Which of the two the part is, is not fixed by the spec: any code but these two is never used. Log entry 3. -/
opaque isA18 : Bool

/-- The part code of the device (R447). -/
def partCode : Nat := if isA18 then 0x0A18 else 0x0A15

/-- PKG_ID.stepping (R530), reset "—". Log entry 3. -/
opaque stepping : BitVec 8

/-- PKG_ID.serial (R530), reset "—". Log entry 3. -/
opaque serial : BitVec 32

/-- CD_BOOT.rollback, the fused rollback counter (R481, R488), reset "—". Log entry 3. -/
opaque rollback : BitVec 16

/-- The bytes of a public key (96 bytes, x then y) that its identifier is the hash of (R425, R445): which encoding is hashed is not given.
Log entry 8. -/
opaque publicKeyBytes : (key : List Byte) → List Byte

/-- The device public key, 96 bytes: the key pair is generated at manufacture (R482). Log entry 8. -/
opaque deviceKey : Vector Byte 96

/-- The signature the device key makes over `msg` (R425), 96 bytes: the device key never leaves the root of trust (R482), and ECDSA draws a
fresh number for each signature. Log entry 8. -/
opaque ecdsaSign : (msg : List Byte) → Vector Byte 96

/-- The AES-256 key of the `load`-th key load (R482): it comes wrapped under a key the device key agrees. Log entry 8. -/
opaque aesKey : (load : Nat) → Vector Byte 32

/-- What an accumulator of width n holds once an exact sum has left its extended width n + 8, which R40 rules out and R39 gives no value for.
Log entry 53. -/
opaque accBeyond : (n : Nat) → (sum : Int) → Nat

/-- E_in of a DIAG or EQB entry of the pivot engine, and of an INV whose triangle no DIAG left (R201): the exponent of the entry's input tile, which no field
holds; a function of the entry's bytes and the tile's, as the rule's last sentence has it. Log entry 33. -/
opaque pivotExponent : (entry tile : List Byte) → BitVec 16

/-- A free value: the `n`-th value the spec leaves open, drawn by the counter `State.fresh` (log entry 6). -/
opaque freeValue : Nat → U64

/-- The byte offset, within the global snapshot range it is a part of, of the part that begins at `start` of a stack of a package (R422): the
program that divides a range over packages knows it; no register or image field holds it. Log entry 51. -/
opaque rangeOffset : (package index stack start : Nat) → Nat

/-- The logical blocks of the package area, a circular log of extents (R428): the file store's, not in the spec. Log entry 51. -/
opaque areaBlocks : Nat

/-- The length in bytes of a snapshot range over all packages, by range index (R432): no register, image field or manifest holds it. Log entry
51. -/
opaque rangeBytes : (index : Nat) → Nat

/-- The entry of the digest table that a scoring pen's score tensor folds into (R473, R474), by watch: Giorqua's choice. Log entry 118. -/
opaque scoreTensor : (watch : Nat) → Nat

/-- The hash of a flow that steers a scoring request to one of 32 main cores (R473), not given. Log entry 52. -/
opaque flowHash : (flow : U32) → Nat

/-- The unpadded width of a tensor's global columns (R29, R55, R316): elements whose global column index is at or above it are padding
and enter no fold digest. The program records it; the spec gives it no place the part could read it from. Log entry 14. -/
opaque unpadded : (tensorId gcols : Nat) → Nat

end Sys2Proof.Config
end

