-- ==== Sys2Proof/Machine/State.lean ====
section
/-!
DEFINITION. State.lean: all the state the spec gives the package, as plain data, and the machine right after power-on reset.
Register fields are one sparse table (`State.regs`), keyed by the field's bit address (8 × register address + low bit): a field
with no entry holds its reset value (Machine/Regs.lean lists every field with its width, access code and reset value).
What is no register is held in sparse tables of records, one per unit, whose absent entry is the record of a cleared unit.
-/

namespace Sys2Proof.Machine

/-- A sparse table: keys strictly rising, no entry equal to the table's default (Machine/Ops.lean keeps the form). -/
abbrev Tab (α : Type) := List (Nat × α)

/-- The element formats (R23, R26, R27): four short and two wide block formats, four accumulator formats. -/
inductive Fmt where
  | i4 | i8 | i16 | w32 | w64 | a48 | a64 | a96 | a192
  deriving DecidableEq, Repr

/-- What a stored granule carries besides its data: the poison syndrome (R66, R268), a latent single error, a latent double
error (R66, R101, R269). A granule is an 8-byte SRAM word or a 16-byte DRAM codeword. -/
structure Mark where
  poison : Bool
  ce     : Bool
  ue     : Bool
  deriving DecidableEq, Repr

/-- Addressed memory by local address (R12): the DRAM stacks, the SRAM apertures of the compute dies (R120) and the shared
SRAM. `cells` lists the bytes that differ from what an unlisted address reads as (0: R506 for SRAM, log entry 1 for DRAM),
addresses strictly rising. `marks` lists the granules that are not clean, by base address / 8. -/
structure Memory where
  cells : List Host.Cell
  marks : Tab Mark
  deriving DecidableEq, Repr

/-! ## A compute die's cores and clusters -/

/-- An accumulator element at its extended width (R39, R74): value, saturation flag, poison bit, and whether its parity is wrong, which the
next read of it finds (R102, R107). -/
structure AccElem where
  val    : Int
  sat    : Bool
  poison : Bool
  parity : Bool
  deriving DecidableEq, Repr

/-- An accumulator slot (R74, R75): its format tag, none while cleared, and its elements. Element (i, j) of the tile of half
`half` with C columns is entry half × 1024 + i × C + j. -/
structure Slot where
  tag   : Option Fmt
  elems : Tab AccElem
  deriving DecidableEq, Repr

/-- A lane register with its poison bit (R78). -/
structure LaneReg where
  val    : U64
  poison : Bool
  deriving DecidableEq, Repr

/-- A channel-cache entry (R49, R136). -/
structure Channel where
  k      : Int
  s      : Nat
  beta   : Int
  poison : Bool
  deriving DecidableEq, Repr

/-- A summary latched by a vector operation (R87), readable from cadence cycle `cyc` on. -/
structure Latch where
  sm     : Nat
  kind   : Nat
  value  : U64
  poison : Bool
  sat    : Bool
  cyc    : Nat
  deriving DecidableEq, Repr

/-- What an access in flight takes in its cycle: a stall bank (R65), an accumulator slot's update source (R73), a loft bank
group (R100); `fin` takes nothing and marks the cycle of an operation's last result. -/
inductive Resource where
  | bank (b : Nat)
  | accPort (slot : Nat)
  | group (g : Nat)
  | fin
  deriving DecidableEq, Repr

/-- One access of an operation in flight: the cadence cycle and what it takes. -/
structure Access where
  cyc : Nat
  res : Resource
  deriving DecidableEq, Repr

/-- The fields of a tensor descriptor (R27). `fmt` is the raw format code. -/
structure Desc where
  elem  : Nat
  shift : Nat
  gidx  : Nat
  tid   : Nat
  exp   : Int
  rows  : Nat
  cols  : Nat
  gcols : Nat
  fmt   : Nat
  digest : Bool
  nanFault : Bool
  rsv   : Bool
  deriving DecidableEq, Repr

/-- One element handed to the converter: tile row and column, value, exponent of its scale, poison, the
channel-cache entry of its column, and the cycle it is accepted in. -/
structure ConvElem where
  i      : Nat
  j      : Nat
  v      : Int
  x      : Int
  poison : Bool
  ch     : Channel
  cyc    : Nat
  deriving DecidableEq, Repr

/-- What one conversion of one core works with: where it is, its rudiment and output descriptor, the tile's origin in the shard and its
place in the stall. -/
structure ConvJob where
  d    : Nat
  c    : Nat
  k    : Nat
  h    : Nat
  r    : ConvRud
  desc : Desc
  row0 : Int
  col0 : Int
  dest : Nat
  deriving DecidableEq, Repr

/-- A source as it stands at issue (R79, R132): form, format code, alignment, base of its generator, stall address, immediate, its own
rows and columns, whether an L128 element enters whole. -/
structure VSrc where
  form  : Nat
  fmt   : Nat
  g     : Nat
  base  : Nat
  addr  : Nat
  imm   : Int
  rows  : Nat
  cols  : Nat
  whole : Bool
  deriving DecidableEq, Repr

/-- A value read: the lane value, poisoned, clamped on the way in (R81). -/
structure VVal where
  v      : Int
  poison : Bool
  sat    : Bool
  deriving DecidableEq, Repr

/-- What a vector operation of one core works with: its place, opcode and rudiment, sources, destination address, issue cycle, interval
of the converter where it feeds one. -/
structure VJob where
  d    : Nat
  c    : Nat
  k    : Nat
  h    : Nat
  op   : Nat
  r    : VecRud
  a    : VSrc
  b    : VSrc
  cond : Option VSrc
  dst  : Nat
  t    : Nat
  rate : Nat
  deriving DecidableEq, Repr

/-- A group: row, first column, elements, first cycle of its interval, the cycle its results are produced in: the last cycle of its
interval plus the latency (R80, R82; the example after R154). -/
structure VGroup where
  i   : Nat
  j   : Nat
  n   : Nat
  t   : Nat
  res : Nat
  deriving DecidableEq, Repr

/-- A result: where it goes in the stall and its bytes, its row and column, value, poison, the exponent handed to the converter where
the operation fixes it (R96, R97), its cycle. -/
structure VRes where
  addr   : Nat
  size   : Nat
  i      : Nat
  j      : Nat
  v      : Int
  poison : Bool
  x      : Option Int
  cyc    : Nat
  deriving DecidableEq, Repr

/-- A word to be written: its byte offset from the destination, its bytes, poisoned. -/
structure MoveWord where
  off    : Nat
  bytes  : List Byte
  poison : Bool
  deriving DecidableEq, Repr

/-- What a group has read so far: its elements of sources A, B and of the SEL condition, and the lane registers its rudiment names (R78,
R82). -/
structure VRec where
  g  : VGroup
  a  : List VVal
  b  : List VVal
  c  : List VVal
  lo : LaneReg
  hi : LaneReg
  deriving DecidableEq, Repr

/-- A k of a chunk that has been read: the cycle from which its terms are visible (R70), its A and B operands as code, shift and
poison. -/
structure KTerm where
  k   : Nat
  vis : Nat
  a   : List (Int × Nat × Bool)
  b   : List (Int × Nat × Bool)
  deriving DecidableEq, Repr

/-- A chunk in flight (R68 to R71): formats, tile addresses, slot code, whether it clears, the cycle of its first k, whether it continues a
run, the header bytes read so far, the k's read and not yet visible. -/
structure ChunkWork where
  fa    : Fmt
  fb    : Fmt
  a     : Nat
  b     : Nat
  code  : Nat
  clear : Bool
  t0    : Nat
  cont  : Bool
  hdrA  : List (Byte × Bool)
  hdrB  : List (Byte × Bool)
  ks    : List KTerm
  deriving DecidableEq, Repr

/-- The header of the chunk that will continue a run, read ahead in the first sixteen cycles of the chunk that runs (R70, R536): the two tiles, the
cycle the reads begin in, the cycle the chunk will issue in, the bytes read so far with the poison of their words. -/
structure Ahead where
  a    : Nat
  b    : Nat
  t0   : Nat
  next : Nat
  hdrA : List (Byte × Bool)
  hdrB : List (Byte × Bool)
  deriving DecidableEq, Repr

/-- A conversion in flight (R48, R77): elements accepted per cycle from a slot, the elements accepted and not yet written. -/
structure ConvWork where
  m    : ConvJob
  rate : Nat
  got  : List ConvElem
  deriving DecidableEq, Repr

/-- A vector operation in flight (R82, R134, R536): the groups not yet read, the prologue's values by row, what the groups have read, the
destination values so far for the summary, the results to be written with their cycle, the conversion it feeds. -/
structure VecWork where
  m    : VJob
  todo : List VGroup
  pro  : List (List VVal)
  recs : List VRec
  outs : List (Int × Bool)
  wr   : List (Nat × VRes)
  conv : Option ConvWork
  deriving DecidableEq, Repr

/-- A transposing move in flight (R539): element format, addresses, bytes of a row, rows, elements of a row, the bytes read so far with the
poison of their words. -/
structure LdtWork where
  f      : Fmt
  la     : Nat
  sa     : Nat
  rb     : Nat
  rows   : Nat
  rowlen : Nat
  raw    : List (Byte × Bool)
  deriving DecidableEq, Repr

/-- What an engine operation in flight still has to do. Of the moves: `dst` lists the cores that receive and their stall addresses, `got` the
words read with the cycle they are written in. -/
inductive Work where
  | chunk (w : ChunkWork)
  | accst (a code : Nat) (f : Fmt)
  | accadd (a code : Nat) (f : Fmt) (got : List (Nat × Int × Bool))
  | accclr (code : Nat)
  | vec (w : VecWork)
  | conv (w : ConvWork)
  | chld (r : ConvRud) (tab : Nat) (col0 : Int)
  | ld (la n : Nat) (dst : List (Nat × Nat)) (got : List (Nat × List MoveWord))
  | st (la sa n : Nat) (got : List (Nat × List MoveWord))
  | ldt (w : LdtWork)
  deriving DecidableEq, Repr

/-- An engine operation of a core in flight: its issue cycle and the cycle by which nothing of it is left. -/
structure Job where
  t    : Nat
  stop : Nat
  work : Work
  deriving DecidableEq, Repr

/-- What a schedule entry of the pivot engine leaves at its end (R203 to R207): the loft writes (address, bytes, poison), the counts, the values
its output rounding took to zero (R54), the exponents of its output tiles, by their place in 512-byte units. -/
structure PivOut where
  writes : List (Nat × List Byte × Bool)
  pert   : Nat
  neg    : Nat
  sat    : Nat
  col    : Option Nat
  unf    : Nat
  exps   : List (Nat × Option Int)
  deriving DecidableEq, Repr

/-- A BEGIN in flight (R212): the cycle its results are visible in, τ as mantissa and exponent, whether it clears the deadline points. -/
structure PivBegin where
  vis  : Nat
  tauM : Nat
  tauE : Int
  dl   : Bool
  deriving DecidableEq, Repr

/-- A RUN of the pivot engine in flight (R212): the address of its entries, the next entry, how many are left, the cycle it begins in, the
entry that runs, with what it leaves then, and what the entries before it leave, visible at the end of the last. -/
structure PivWork where
  a    : Nat
  n    : Nat
  left : Nat
  t    : Nat
  run  : Option PivOut
  outs : List PivOut
  deriving DecidableEq, Repr

/-- A core beyond its registers: accumulator file (R74), lane registers (R78, key 16 × lane + index), channel cache (R136),
summaries not yet readable (R87), the first cycle in which each engine is free (R139), whether the matrix engine's last operation was
a chunk (R70), the accesses in flight, the operations in flight, the header read ahead. -/
structure Core where
  slots   : Tab Slot
  lanes   : Tab LaneReg
  chans   : Tab Channel
  latches : List Latch
  mBusy   : Nat
  mChunk  : Bool
  vBusy   : Nat
  cBusy   : Nat
  lBusy   : Nat
  use     : List Access
  jobs    : List Job
  ahead   : Option Ahead
  deriving DecidableEq, Repr

/-- A cluster beyond its registers: the loft pattern of its last word (R127), the pivot engine's τ as mantissa and exponent
(R205) and the first cycle in which it is free, its RUN in flight, its loft writes not yet visible, with the cycle from which they are, its
BEGIN in flight, and the exponent of each out1 tile that a DIAG left, by its place in 512-byte units (R206). -/
structure Cluster where
  pat   : Nat
  tauM  : Nat
  tauE  : Int
  pBusy : Nat
  piv   : Option PivWork
  lands : List (Nat × Nat × List Byte × Bool)
  start : Option PivBegin
  exps  : Tab (Option Int)
  deriving DecidableEq, Repr

/-- A governor counter entry (R179). -/
structure Gov where
  nsat   : Nat
  ntop   : Nat
  nfloor : Nat
  nblk   : Nat
  deriving DecidableEq, Repr

/-- A digest entry (R319). -/
structure Dig where
  sum      : U128
  tid      : U32
  used     : Bool
  poison   : Bool
  conflict : Bool
  count    : Nat
  deriving DecidableEq, Repr

/-- A transfer on a context's DMA queue (R147, R148): its rudiment index, class, direction, global and loft addresses as
resolved at issue, length, bells, and how far it is: bytes whose lines have been issued, remote lines awaiting a response, the offset
of the line it failed at, and whether SEQ_DMA_ERR holds its failure. -/
structure DmaEntry where
  rud     : U16
  cls     : Nat
  toMem   : Bool
  gaddr   : U64
  cluster : Nat
  laddr   : Nat
  len     : Nat
  done    : Nat
  errb    : Option Nat
  issued  : Nat
  waiting : Nat
  failed  : Option Nat
  noted   : Bool
  deriving DecidableEq, Repr

/-- Where a context stands in its step boundary (R152) or HALT (R153). -/
inductive Phase where
  | none
  | draining
  | arrived
  | latched
  | resumed
  | halting
  deriving DecidableEq, Repr

/-- A context beyond its registers: loop bodies by counter (start and end offset, R141), beats issued since go (R106), cycles of the current continuous hold
(R151), rings not yet visible with the cycle from which they are (R146), the DMA queue, the boundary phase, the governor and digest tables (R179, R319), SEQ_CYC and SEQ_HELD as they stood at the last ledger
record (R324), whether the STEP in progress asks for a snapshot (R152). -/
structure Ctx where
  loops   : Tab (Nat × Nat)
  beats   : Nat
  hold    : Nat
  rings   : List (Nat × Nat × Nat)
  dmaq    : List DmaEntry
  phase   : Phase
  gov     : Tab Gov
  dig     : Tab Dig
  cycMark : Nat
  heldMark : Nat
  snap    : Bool
  deriving DecidableEq, Repr

/-! ## Pens: ledger, team, counts -/

/-- A team value of a step, own or received (R327, R328, R330). -/
structure TeamVal where
  step   : U64
  scope  : Bool
  tag    : U64
  t      : U128
  count  : U64
  void   : Bool
  poison : Bool
  stale  : Bool
  deriving DecidableEq, Repr

/-- Where a pen stands at a step boundary (R152, R187, R329, R412, R418): running; action 4 done and action 5 to come; rewrites of the
governor running; held in action 5 until the checkpoint unit is IDLE, or until an all-stop checkpoint has drained. -/
inductive Boundary where
  | none
  | latched
  | rebasing
  | unitBusy
  | allstop
  deriving DecidableEq, Repr

/-- A pen beyond its registers: boundary phase; own team values and partner frames kept (R330, R335); a failed comparison that
waits for the boundary (R330); bytes of a record written and not published (R332); ledger records lost since the last record
(R325); a freeze asked for at the next boundary (R497); package time when a hold in action 5 began (R412, R418); SHRINK to be recorded (R314); the step's conversion counts of IEEE
converters and core converters (R54, R62), record flags and reason code to go into the next record (R331, R333), whether the pen's action 5 began
after the arm checks (R453), shed stall and clock stretch of the step (R415, R515). -/
structure Pen where
  boundary : Boundary
  own      : List TeamVal
  partner  : List TeamVal
  failed   : Option (Nat × TeamVal × TeamVal)
  pubLen   : Nat
  pubHead  : Nat
  lost     : Nat
  atBound  : Bool
  shrink   : Bool
  flags    : Nat
  reason   : Nat
  share    : Bool
  holdNs   : Nat
  sat      : Nat
  unf      : Nat
  nan      : Nat
  inf      : Nat
  ovf      : Nat
  shedNs   : Nat
  strEv    : Nat
  strNs    : Nat
  deriving DecidableEq, Repr

/-! ## Yards -/

/-- A running yard command (R239, R240, R242): its window, its 128 bytes, and its completion record so far. -/
structure Run where
  w        : Nat
  cmd      : List Byte
  status   : Nat
  detail   : Nat
  finished : Bool
  rows     : Nat
  sat      : Nat
  unf      : Nat
  nan      : Option Nat
  poisoned : Bool
  errRow   : Nat
  deriving DecidableEq, Repr

/-- Commands completed and failed, codes saturated and rounded to zero, of one pen in a block (R249, R310). -/
structure EngCount where
  cmds : Nat
  errs : Nat
  sat  : Nat
  unf  : Nat
  deriving DecidableEq, Repr

/-- An exchange converter or engine block (R236, R237, R279): staged bytes and command queue by window, postings not yet
accepted, the window served last, the running command, the counts of the step by pen (15: commands of no pen). -/
structure Engine where
  staged : Tab (List Byte)
  queue  : Tab (List (List Byte))
  held   : Tab (List Byte)
  last   : Nat
  run    : Option Run
  counts : Tab EngCount
  deriving DecidableEq, Repr

/-- A line of the yard cache (R288): its line number in the stack, the pen whose ways hold it, dirty or not. -/
structure CacheLine where
  line  : Nat
  pen   : Nat
  dirty : Bool
  deriving DecidableEq, Repr

/-- The state of a snapshot page (R413); `shed` is the stack offset of its shed page. -/
inductive Page where
  | home
  | held (pen : Nat)
  | redirected (pen : Nat) (shed : Nat)
  deriving DecidableEq, Repr

/-- What the slots of a channel request do: a read answers with its data and the numbers of its poisoned 8-byte words, as they were when the
yard took it (R260, R261); a fill brings a line into the cache, or is a scrub read; a write, and a dirty cache line, are stored. -/
inductive ChanKind where
  | read (data : List Byte) (bad : List Nat)
  | fill
  | write
  | line
  deriving DecidableEq, Repr

/-- A request in a channel's class queue (R259): the storage offset of its next 64-byte unit, the bytes left, its place in arrival order. -/
structure ChanReq where
  pos  : Nat
  len  : Nat
  kind : ChanKind
  seq  : Nat
  deriving DecidableEq, Repr

/-- A write that waits for its page (R413, R414): port FIFO (key as in `fifo`), the unit behind the port, the page, and the request where
the write is a YARD_REQUEST. -/
structure CowWait where
  key  : Nat
  who  : Nat
  page : Nat
  req  : Option YReq
  deriving DecidableEq, Repr

/-- An access that its yard does not take yet (R258, R259, R414): yard, port FIFO, the unit behind the port, and the page a write waits for. -/
structure YardHold where
  yard : Nat
  key  : Nat
  who  : Nat
  page : Option Nat
  deriving DecidableEq, Repr

/-- A yard beyond its registers: exchange converter and engine block; cache lines, most recent first (R288); channel queues (key
4 × channel + class) and port FIFOs (key 4 × port + class) (R259); the classes of the slots granted in the current window of a
channel (R258); slots granted this step (key 4 × channel + class, R307); banks blocked by refresh (R264, key
48 × channel + 16 × rank + bank); row activations (R265); codewords with a write-back queued (R272), true when to be poisoned, with their place
in arrival order (R258); scrub position (R271); page map (R413); writes that wait (R413); by pen the package time since which writes wait,
plus one (R415); atomics of the step (R306); the row each bank was last accessed in, plus one (log entry 20); requests and write-backs
queued so far. -/
structure Yard where
  xch     : Engine
  eng     : Engine
  lines   : List CacheLine
  chq     : Tab (List ChanReq)
  fifo    : Tab (List YReq)
  window  : Tab (List Nat)
  slots   : Tab Nat
  blocked : List Nat
  acts    : Tab Nat
  wback   : List (Nat × Bool × Nat)
  scrub   : Nat
  pages   : Tab Page
  waiting : List CowWait
  stallFrom : Tab Nat
  atomics : Nat
  openRow : Tab Nat
  seq     : Nat
  deriving DecidableEq, Repr

/-! ## Fabric -/

/-- A stored stream cell (R343, R352): sequence number, expedited or ordinary, 250 data bytes, and the packets whose last byte it
carries (R354). -/
structure StreamCell where
  seq   : Nat
  exped : Bool
  data  : List Byte
  ends  : List Packet
  deriving DecidableEq, Repr

/-- A packet queued for a port or begun on it, with the bytes of it that have not arrived yet (R356): its payload holds those that have. -/
structure Item where
  pkt  : Packet
  more : Nat
  deriving DecidableEq, Repr

/-- A packet that passes through while it arrives (R356): the port it leaves by, 64 where it is discarded, and its bytes still to come. -/
structure Passing where
  out  : Nat
  more : Nat
  deriving DecidableEq, Repr

/-- A port beyond its registers: packets queued by class, lane and input (key 65 × lane number of R350 + input; inputs 0 to 63 the
ports, 64 the local endpoint, 65 none any more, R351, R361), the input served last of each class; of each class's stream the bytes still to send of an entry begun
and, for a packet, its input and itself; next sequence number, cells sent and not acknowledged, cells to send again, resends without
progress; the number expected, a NAK sent and its number awaited, a NAK to send; bytes received of an unfinished entry per class;
credits as cumulative counts by lane (R350): granted by the partner, used, returned to it; the last link-control entry sent and the
codewords sent since it went out of date; the classes of the last 63 codewords (R361); scrambler states; the partner's quiet; has the
link left TRAINING since the port came ON (R363); the symbols of the codeword sent last on its four lanes (R344). -/
structure Port where
  queues  : Tab (List Item)
  served  : Tab Nat
  outE    : List Byte
  outO    : List Byte
  begE    : Option (Nat × Item)
  begO    : Option (Nat × Item)
  seq     : Nat
  unacked : List StreamCell
  again   : List StreamCell
  resends : Nat
  rxSeq   : Nat
  nakOut  : Bool
  nakDue  : Bool
  inE     : List Byte
  inO     : List Byte
  passE   : Option Passing
  passO   : Option Passing
  granted : Tab Nat
  used    : Tab Nat
  returned : Tab Nat
  lastEntry : List Byte
  since   : Nat
  window  : List Bool
  scrTx   : BitVec 31
  scrRx   : BitVec 31
  quiet   : Bool
  left    : Bool
  lanes   : List (List Nat)
  deriving DecidableEq, Repr

/-- A chunk of a running collective (R382, R392 to R394). Elements by index in the chunk: bytes combined so far (`parts`), the
elements that are poisoned (`mask`), those that landed here as poisoned (`bad`), who has contributed (`from_`, 4 × element + 0 for this member, 1 and 2 for its children, 3 when it has gone
up). Then: have bytes of it landed here, all of them; the digest and poison count the root gave; children whose CONFIRM is in,
and the OR of the mismatches; whether this member's CONFIRM went up, whether RELEASE is in, whether the chunk was counted toward the
done bell; the REJECTs so far. -/
structure Chunk where
  parts    : Tab (List Byte)
  mask     : List Nat
  bad      : List Nat
  from_    : List Nat
  begun    : Bool
  landed   : Bool
  digest   : U128
  poisons  : Nat
  confirms : List Nat
  mismatch : Bool
  confirmSent : Bool
  releaseIn : Bool
  counted  : Bool
  rejects  : Nat
  deriving DecidableEq, Repr

/-- A running collective (R385 to R397): the command's bytes, posting window, the step sampled at its start, chunks by index, the minimum
and maximum of the step over the subtree so far and who contributed (0 this member, 1 and 2 its children, 3 the root's verdict is in),
whether this member's pair went up; saturations and poisoned elements landed; whether this member has contributed its own part. -/
structure Coll where
  cmd     : List Byte
  w       : Nat
  step    : U64
  chunks  : Tab Chunk
  minStep : Nat
  maxStep : Nat
  stepFrom : List Nat
  stepSent : Bool
  sats    : Nat
  poisons : Nat
  done    : Bool
  deriving DecidableEq, Repr

/-- A group on its home die beyond its registers: queue of posted commands with their windows (R384), a command waiting on its
gate (R389), the running collective, packets buffered until their collective runs, with their arrival ports (R388), the numbers of the
collectives that ended here in error (R396), SENDs made, a message discarded since the last one appended (R399), the STATUS records
received, by package (R402). -/
structure Group where
  queue   : List (Nat × List Byte)
  gated   : Bool
  coll    : Option Coll
  early   : List (Nat × Packet)
  failed  : List Nat
  sends   : Nat
  lostNext : Bool
  status  : List (Nat × List Byte)
  deriving DecidableEq, Repr

/-- The nine command windows of a fabric die's group block (R384): staged bytes, queue, posting not yet accepted. -/
structure GroupWindows where
  staged : Tab (List Byte)
  queue  : Tab (List (List Byte))
  held   : Tab (List Byte)
  deriving DecidableEq, Repr

/-! ## Checkpoints, layout -/

/-- A shard of a checkpoint as written (R422): stack, range and index, its offset in the range and length, state digest, SHA-256, logical block. -/
structure Shard where
  stack  : Nat
  range  : Nat
  index  : Nat
  off    : Nat
  len    : Nat
  digest : U128
  sha    : List Byte
  block  : Nat
  deriving DecidableEq, Repr

/-- The NVMe over Fabrics commands the control die uses (R429). -/
inductive NvmeCmd where
  | connect | propertyGet | propertySet | identify | getLogPage | keepAlive | write | read | flush
  deriving DecidableEq, Repr

/-- A checkpoint unit (R420): checkpoint step and generation, the ledger record of the marking step, the exponent table of the state shard,
the pages drained and their bytes (key stack × 0x200000 + page), shards written, the NVMe commands in flight, oldest first (R429), the ranks
whose package manifest the coordinator holds, this package's own entry of the job manifest, the next logical block of the package area, the
first block and the number of blocks of the extent being written and the free blocks left after it, the extents of the two newest published
checkpoints, newest first (R428), published roots (slot, generation), the package manifest, job manifest and root block as written, how far
the publication is (job manifest, Flush, root block, Flush: R429), the steps the last published write took (R431), membership changes: step,
packages before and after, those removed (R437). -/
structure Ckp where
  step    : U64
  gen     : U64
  record  : List Byte
  exps    : List (U32 × BitVec 16)
  drained : Tab Nat
  bytes   : Tab (List Byte)
  shards  : List Shard
  nvme    : List NvmeCmd
  held    : List Nat
  entry   : List Byte
  block   : Nat
  first   : Nat
  used    : Nat
  left    : Nat
  live    : List (Nat × Nat)
  roots   : List (Nat × Nat)
  manifest : List Byte
  job     : List Byte
  root    : List Byte
  rootStage : Nat
  took    : Nat
  members : List (Nat × Nat × Nat × List Nat)
  deriving DecidableEq, Repr

/-- A memory range of the active layout (R447). `pen` is none for a system range. -/
structure Range where
  stack     : Nat
  start     : Nat
  len       : Nat
  pen       : Option Nat
  cacheable : Bool
  snapshot  : Bool
  index     : Nat
  deriving DecidableEq, Repr

/-- A shed reserve (R447, R411). -/
structure Shed where
  stack : Nat
  pen   : Nat
  start : Nat
  pages : Nat
  deriving DecidableEq, Repr

/-- What the active layout says beyond the registers it fills (R447): ranges, sheds, ledger pen and window-8 pen of each stack,
the pen of group window 8, the used clusters, the image's bytes (compared with a shadow, R452), the armed shadow's, those under check,
PCIe caps; by fabric die, the pens that have taken their groups from an armed shadow table (bit p, R383). -/
structure Layout where
  ranges    : List Range
  sheds     : List Shed
  ledgerPen : Tab Nat
  win8      : Tab Nat
  grpWin8   : Nat
  clusters  : Nat
  image     : List Byte
  shadow    : List Byte
  checking  : List Byte
  pcieWidth : Nat
  pcieSpeed : Nat
  grpTaken  : Tab Nat
  deriving DecidableEq, Repr

/-! ## Control die -/

/-- A control-die DMA channel's descriptor in flight (R469, R470): its ring slot's bytes, its status and completion record; of another
package's memory (R535), the pieces asked for, those that came with their poison masks, both by their number, and the accesses not yet
answered; and whether the descriptor's work is done. -/
structure CdRun where
  desc     : List Byte
  status   : Nat
  detail   : Nat
  worked   : Bool
  units    : Nat
  sat      : Nat
  unf      : Nat
  nan      : Option Nat
  asked    : List (Nat × Nat)
  got      : Tab (List Byte × Nat)
  acks     : Nat
  deriving DecidableEq, Repr

/-- A vector record instruction that faulted at an element (R466). -/
structure VecPending where
  store : Bool
  nf    : Nat
  regs  : List Nat
  base  : U64
  z     : Nat
  count : U64
  deriving DecidableEq, Repr

/-- The exceptions this manual names of a Hiold-64 core (R465 to R467). -/
inductive Exc where
  | none | illegal | access | poison
  deriving DecidableEq, Repr

/-- A Hiold-64 core (R464 to R466): vector registers (bytes), VPROG, TSTAT.elem and the faulting address, the exception taken
last, the vector instruction that faulted, interrupts raised and not yet taken (the watches that raised them, R472), frames
steered to it (R473), the audit trailer of its scoring response (R474). -/
structure HCore where
  vregs  : Tab (List Byte)
  vprog  : Nat
  tElem  : Nat
  tAddr  : U64
  exc    : Exc
  vec    : Option VecPending
  irqs   : List Nat
  frames : Nat
  trailer : List Byte
  deriving DecidableEq, Repr

/-- The root of trust (R482, R424): owner key, layout keys and AES keys by slot (key identifier; an AES slot holds the number
of its load), generation high-water marks, last sequence number accepted. -/
structure Rot where
  owner   : Option (List Byte)
  layout  : Tab (List Byte)
  aes     : Tab Nat
  high    : Tab Nat
  lastSeq : Nat
  loads   : Nat
  deriving DecidableEq, Repr

/-- A RoCE queue pair (R477): its rate, rate / (20 × 2^halvings) of full rate, the buffer of the command in flight on it (address in the
shared SRAM, length), CNPs sent. -/
structure QPair where
  rate   : Nat
  halvings : Nat
  buffer : Option (Nat × Nat)
  cnps   : Nat
  deriving DecidableEq, Repr

/-! ## Package services -/

/-- The start-up stages (R521). -/
inductive Stage where
  | off | softStart | boot | rails | memory | bridges | ready | failed
  deriving DecidableEq, Repr

/-- The power manager beyond its registers (R512, R513): low_us, over_us, the ten last input-power samples, converters on, input voltage out of range, input current out of range, the reset pin low, the stretch
time's fraction of a nanosecond in units of 1/205,931,880. -/
structure Power where
  lowUs   : Nat
  overUs  : Nat
  samples : List Nat
  on      : Bool
  badV    : Bool
  badI    : Bool
  resetLow : Bool
  strFrac : Nat
  deriving DecidableEq, Repr

/-- The pins of R524 that the package drives: true is high. FAULT_N follows PKG_FAULT.valid and is not held. -/
structure Pins where
  pwrOk     : Bool
  ready     : Bool
  thermtripN : Bool
  alertN    : Bool
  deriving DecidableEq, Repr

/-- The test access port (R529): instruction, boundary-scan latch and capture, read-out address and write flag, whether the pins
are driven from the boundary register, the data register shifted out last. -/
structure Jtag where
  ir     : Byte
  cells  : BitVec 11
  addr   : U64
  write  : Bool
  shift  : U64
  deriving DecidableEq, Repr

/-- What the initiator of the last command received (log entry 5): nothing to say; accepted; an access fault (R13, R14, R121, R503);
refused (R236, R505); data, with a poison mask by 8-byte word; an unsupported-request status (R478); a remote access error (R477);
no acknowledgement (R528). -/
inductive Reply where
  | none
  | accepted
  | held
  | accessFault
  | refused
  | data (bytes : List Byte) (poison : List Nat)
  | unsupported
  | remoteError
  | nack
  deriving DecidableEq, Repr

/-- The package. `regs` holds every register field. Sparse tables by unit number: cores 128 × die + 16 × cluster + core, clusters
8 × die + cluster, contexts 2 × die + half, pens, yards, ports, groups, fabric dies, checkpoint units, DMA channels, control cores,
queue pairs. `routes` and `shadowRoutes` are the routing tables (key 65,536 × pen + destination, R357). `deadDies` has bit d set from a die fault of die d to its reset (R493). `pcieRole` is the role the PCIe link is up in, 0 while it is down (R478).
`ptpSlew` is the offset still to be slewed away and `timeFrac` the part of a nanosecond of package time, both in units of 0.1 ns (R480). `pending` is the queue of waiting commands; `fresh` the
counter of free values (log entry 6); `reply` the answer of the last command (log entry 5); `yardHold` notes, within one command, the first
access that a yard does not take yet, and is none between commands (log entry 108). -/
structure State where
  regs     : Tab Nat
  mem      : Memory
  cores    : Tab Core
  clusters : Tab Cluster
  ctxs     : Tab Ctx
  dmaLast  : Tab Nat
  pens     : Tab Pen
  yards    : Tab Yard
  ports    : Tab Port
  routes   : Tab Nat
  shadowRoutes : Tab Nat
  groups   : Tab Group
  gwins    : Tab GroupWindows
  ckps     : Tab Ckp
  lay      : Layout
  cddma    : Tab CdRun
  hcores   : Tab HCore
  rot      : Rot
  qps      : Tab QPair
  deadDies : Nat
  pcieRole : Nat
  ptpSlew  : Int
  timeFrac : Nat
  stage    : Stage
  power    : Power
  pins     : Pins
  jtag     : Jtag
  fresh    : Nat
  reply    : Reply
  yardHold : Option YardHold
  pending  : List Instr
  deriving DecidableEq, Repr

/-- Why a command stops the model. -/
inductive Fault where
  /-- Raised by a command that carries an operand code the spec calls reserved, or leaves out of its tables, without saying what the
  part then does (a format code of a matrix rudiment above 0x4). Safe: the model stops where the spec gives no effect (log entry 29). -/
  | reservedCode
  deriving DecidableEq, Repr

/-- Why a command is refused. -/
inductive Refusal where
  /-- Raised by an arm of `exec` whose command has no meaning yet; the string is its mnemonic. Safe. -/
  | notModelled (mnemonic : String)
  deriving DecidableEq, Repr

/-- An empty memory. -/
def Memory.empty : Memory := ⟨[], []⟩

/-- No layout (R450). Log entry 2: with no layout nothing is owned. -/
def Layout.none : Layout :=
  { ranges := [], sheds := [], ledgerPen := [], win8 := [], grpWin8 := 15, clusters := 0, image := [], shadow := [],
    checking := [], pcieWidth := 0, pcieSpeed := 0, grpTaken := [] }

/-- The package right after power-on reset (R505, R506, R521): every register field at its reset value, every SRAM, core,
context and queue cleared, no layout, start-up at stage 1, no command waiting. -/
def State.reset : State :=
  { regs := [], mem := Memory.empty, cores := [], clusters := [], ctxs := [], dmaLast := [], pens := [], yards := [],
    ports := [], routes := [], shadowRoutes := [], groups := [], gwins := [], ckps := [], lay := Layout.none,
    cddma := [], hcores := [],
    rot := { owner := none, layout := [], aes := [], high := [], lastSeq := 0, loads := 0 },
    qps := [], deadDies := 0, pcieRole := 0, ptpSlew := 0, timeFrac := 0, stage := .softStart,
    power := { lowUs := 0, overUs := 0, samples := [], on := true, badV := false, badI := false, resetLow := false,
               strFrac := 0 },
    pins := { pwrOk := false, ready := false, thermtripN := true, alertN := true },
    jtag := { ir := 0x01#8, cells := 0, addr := 0, write := false, shift := 0 },
    fresh := 0, reply := .none, yardHold := none, pending := [] }

end Sys2Proof.Machine
end

