-- ==== Sys2Proof/Machine/Regs.lean ====
section
/-!
DEFINITION. Regs.lean: every register field of the spec's register tables (columns Bits | Field | Access | Reset, R15, R16): its
address, low bit, width, access code and reset value, under the spec's own name REGISTER.field; the list of the fields at a CSR
address; and the reading and writing of one field in the state.
A field with reset "L" is given the value it reads before any layout (R299, R372, R408; log entry 2), a field with reset "—" an
opaque constant (log entry 3).
-/

namespace Sys2Proof.Machine

/-- The access codes (R16). -/
inductive Acc where
  | RW | RO | WO | W1C | W1S | RWL
  deriving DecidableEq, Repr

/-- A register field: register address, low bit, width, access code, value at power-on reset. -/
structure Fld where
  addr : Nat
  lo   : Nat
  w    : Nat
  acc  : Acc
  rst  : Nat

/-- The field's key in `State.regs`: its bit address. -/
def Fld.key (f : Fld) : Nat := 8 * f.addr + f.lo

/-! ## Block addresses -/

/-- CSR slot 0, the control die's registers (R12, R484). -/
abbrev cdBlk : Nat := 0x010000000000
/-- B_d, the CSR slot of compute die d (R103). -/
abbrev dieBlk (d : Nat) : Nat := 0x010000000000 + (1 + d) * 0x04000000
/-- The register block of cluster c (R103). -/
abbrev clusterBlk (d c : Nat) : Nat := dieBlk d + 0x02000000 + c * 0x20000
/-- The register block of core k (R103). -/
abbrev coreBlk (d c k : Nat) : Nat := clusterBlk d c + 0x1000 * (1 + k)
/-- The register block of context h (R159). -/
abbrev ctxBlk (d h : Nat) : Nat := dieBlk d + 0x100000 + h * 0x1000
/-- The block of SEQ_DIE (R159). -/
abbrev seqDieBlk (d : Nat) : Nat := dieBlk d + 0x102000
/-- F_f, the CSR slot of fabric die f (R367). -/
abbrev fabBlk (f : Nat) : Nat := 0x010000000000 + (5 + f) * 0x04000000
/-- The register block of port n (R367). -/
abbrev portBlk (n : Nat) : Nat := fabBlk (n / 32) + 0x10000 + (n % 32) * 0x100
/-- The group block of fabric die f (R403). -/
abbrev grpBlk (f : Nat) : Nat := fabBlk f + 0x200000
/-- Where the model keeps GRP_QCTL of group g: one register address shows the group that GRP_QSEL selects (R405), so each group's
copy has a key of its own above the 48-bit address space. -/
abbrev grpQBlk (f g : Nat) : Nat := grpBlk f + 0x1000000000000 * (1 + g)
/-- The bell block (R403): 0 to 3 for CP0 to CP3, 4 and 5 for FB0 and FB1 (the codes of R377). -/
abbrev bellBlk (b : Nat) : Nat := if b < 4 then dieBlk b + 0x200000 else fabBlk (b - 4) + 0x300000
/-- The package-services CSR slot (R12). -/
abbrev svcBlk : Nat := 0x01001C000000
/-- Y_s, the register block of yard y (R236). -/
abbrev yardBlk (y : Nat) : Nat := svcBlk + 0x01000000 + y * 0x100000
/-- The block of channel c (R296). -/
abbrev chanBlk (y c : Nat) : Nat := yardBlk y + 0x10000 + c * 0x100
/-- The exchange block (R236). -/
abbrev xchBlk (y : Nat) : Nat := yardBlk y + 0x40000
/-- The engine block (R296). -/
abbrev engBlk (y : Nat) : Nat := yardBlk y + 0x50000
/-- The ledger block of pen p (R336). -/
abbrev ldgBlk (p : Nat) : Nat := svcBlk + 0x200000 + p * 0x1000
/-- The checkpoint block of pen p (R438). -/
abbrev ckpBlk (p : Nat) : Nat := svcBlk + 0x300000 + p * 0x1000
/-- The layout block (R457). -/
abbrev layBlk : Nat := svcBlk + 0x400000
/-- The block of pen p (R457). -/
abbrev penBlk (p : Nat) : Nat := layBlk + 0x1000 + p * 0x100
/-- The freeze block (R507). -/
abbrev frzBlk : Nat := svcBlk + 0x500000
/-- The power block (R530). -/
abbrev pwrBlk : Nat := svcBlk + 0x600000

/-! ## The fields -/


/-! CORE_STATUS (R105) -/

/-- A core fault has stopped the cadence -/
abbrev CORE_STATUS.fault (d c k : Nat) : Fld := ⟨coreBlk d c k + 0x0, 0, 1, .RO, 0⟩
/-- Code from the fault code table, valid while fault = 1 -/
abbrev CORE_STATUS.fault_code (d c k : Nat) : Fld := ⟨coreBlk d c k + 0x0, 8, 8, .RO, 0x00⟩
/-- A poisoned element was read this step -/
abbrev CORE_STATUS.poison_seen (d c k : Nat) : Fld := ⟨coreBlk d c k + 0x0, 16, 1, .RO, 0⟩
/-- A lane saturated this step (R81, R83) -/
abbrev CORE_STATUS.lane_sat (d c k : Nat) : Fld := ⟨coreBlk d c k + 0x0, 17, 1, .RO, 0⟩
/-- A function-unit input was out of domain (R95) -/
abbrev CORE_STATUS.fu_domain (d c k : Nat) : Fld := ⟨coreBlk d c k + 0x0, 18, 1, .RO, 0⟩

/-! CORE_FAULT_BEAT (R106) -/

/-- Number of beats that the context issued since go before the faulting beat; the faulting beat's record offset is in SEQ_PC (R163) -/
abbrev CORE_FAULT_BEAT.beat (d c k : Nat) : Fld := ⟨coreBlk d c k + 0x8, 0, 48, .RO, 0⟩

/-! CORE_ECC (R107) -/

/-- Corrected stall words this step -/
abbrev CORE_ECC.stall_ce (d c k : Nat) : Fld := ⟨coreBlk d c k + 0x10, 0, 24, .RO, 0⟩
/-- Uncorrectable stall words this step -/
abbrev CORE_ECC.stall_ue (d c k : Nat) : Fld := ⟨coreBlk d c k + 0x10, 24, 8, .RO, 0⟩
/-- Accumulator parity errors this step -/
abbrev CORE_ECC.acc_parity (d c k : Nat) : Fld := ⟨coreBlk d c k + 0x10, 32, 8, .RO, 0⟩

/-! CORE_ECC_ADDR (R108) -/

/-- Word address of the first uncorrectable stall word this step -/
abbrev CORE_ECC_ADDR.word (d c k : Nat) : Fld := ⟨coreBlk d c k + 0x18, 0, 18, .RO, 0⟩
/-- word holds an address -/
abbrev CORE_ECC_ADDR.valid (d c k : Nat) : Fld := ⟨coreBlk d c k + 0x18, 63, 1, .RO, 0⟩

/-! CORE_INJ (R109) -/

/-- Flip one data bit of the next written word -/
abbrev CORE_INJ.stall_ce (d c k : Nat) : Fld := ⟨coreBlk d c k + 0x20, 0, 1, .W1S, 0⟩
/-- Flip two data bits of the next written word -/
abbrev CORE_INJ.stall_ue (d c k : Nat) : Fld := ⟨coreBlk d c k + 0x20, 1, 1, .W1S, 0⟩

/-! CORE_SM (R110) -/

/-- Summary value, as in R87 -/
abbrev CORE_SM.value (d c k j : Nat) : Fld := ⟨coreBlk d c k + 0x040 + 8 * j, 0, 64, .RO, 0⟩

/-! CORE_SMCTL (R111) -/

/-- Bit k: summary SMk is poisoned -/
abbrev CORE_SMCTL.poison (d c k j : Nat) : Fld := ⟨coreBlk d c k + 0x60, j, 1, .RO, 0⟩
/-- Bit 4 + k: summary SMk saturated -/
abbrev CORE_SMCTL.sat (d c k j : Nat) : Fld := ⟨coreBlk d c k + 0x60, 4 + j, 1, .RO, 0⟩
/-- Four bits per summary: 0 ANY, 1 ALL, 2 MAX, 3 MIN, 4 SUM, 5 CNT -/
abbrev CORE_SMCTL.kind (d c k j : Nat) : Fld := ⟨coreBlk d c k + 0x60, 8 + 4 * j, 4, .RO, 0⟩

/-! CORE_LOFT_ECC (R112) -/

/-- Corrected loft words this step -/
abbrev CORE_LOFT_ECC.ce (d c : Nat) : Fld := ⟨clusterBlk d c + 0x0, 0, 24, .RO, 0⟩
/-- Uncorrectable loft words this step -/
abbrev CORE_LOFT_ECC.ue (d c : Nat) : Fld := ⟨clusterBlk d c + 0x0, 24, 8, .RO, 0⟩
/-- Set by an uncorrectable loft error; acted on at the next layout load (R101) -/
abbrev CORE_LOFT_ECC.quarantine_pending (d c : Nat) : Fld := ⟨clusterBlk d c + 0x0, 32, 1, .RO, 0⟩

/-! CORE_LOFT_UEADDR (R113) -/

/-- Word address of the first uncorrectable loft word this step -/
abbrev CORE_LOFT_UEADDR.word (d c : Nat) : Fld := ⟨clusterBlk d c + 0x8, 0, 21, .RO, 0⟩
/-- word holds an address -/
abbrev CORE_LOFT_UEADDR.valid (d c : Nat) : Fld := ⟨clusterBlk d c + 0x8, 63, 1, .RO, 0⟩

/-! CORE_LOFT_INJ (R114) -/

/-- Flip one data bit -/
abbrev CORE_LOFT_INJ.ce (d c : Nat) : Fld := ⟨clusterBlk d c + 0x10, 0, 1, .W1S, 0⟩
/-- Flip two data bits -/
abbrev CORE_LOFT_INJ.ue (d c : Nat) : Fld := ⟨clusterBlk d c + 0x10, 1, 1, .W1S, 0⟩

/-! SEQ_DIE (R160) -/

/-- 1: split mode (R118) -/
abbrev SEQ_DIE.split (d : Nat) : Fld := ⟨seqDieBlk d + 0x0, 0, 1, .RWL, 0⟩

/-! SEQ_CTL (R161) -/

/-- Start the scan (R156) -/
abbrev SEQ_CTL.load (d h : Nat) : Fld := ⟨ctxBlk d h + 0x0, 0, 1, .W1S, 0⟩
/-- Start the cadence (R156) -/
abbrev SEQ_CTL.go (d h : Nat) : Fld := ⟨ctxBlk d h + 0x0, 1, 1, .W1S, 0⟩
/-- Region start in 64 KiB units -/
abbrev SEQ_CTL.region_base (d h : Nat) : Fld := ⟨ctxBlk d h + 0x0, 16, 9, .RWL, 0⟩
/-- Region length in 64 KiB units, 1–512 -/
abbrev SEQ_CTL.region_size (d h : Nat) : Fld := ⟨ctxBlk d h + 0x0, 32, 10, .RWL, 0⟩

/-! SEQ_STATUS (R162) -/

/-- 0 IDLE, 1 LOADING, 2 LOADED, 3 RUN, 4 HELD, 5 HALTED, 6 FAULT -/
abbrev SEQ_STATUS.state (d h : Nat) : Fld := ⟨ctxBlk d h + 0x8, 0, 3, .RO, 0⟩
/-- 0 none, 1 AWAIT, 2 DMA queue full, 3 step barrier -/
abbrev SEQ_STATUS.held_reason (d h : Nat) : Fld := ⟨ctxBlk d h + 0x8, 4, 2, .RO, 0⟩
/-- Code from R169, R193, R409 or R491, or 0x20–0x25 for a core fault -/
abbrev SEQ_STATUS.fault_code (d h : Nat) : Fld := ⟨ctxBlk d h + 0x8, 8, 8, .RO, 0x00⟩
/-- Cluster of a core fault -/
abbrev SEQ_STATUS.fault_cluster (d h : Nat) : Fld := ⟨ctxBlk d h + 0x8, 16, 3, .RO, 0⟩
/-- Core of a core fault -/
abbrev SEQ_STATUS.fault_core (d h : Nat) : Fld := ⟨ctxBlk d h + 0x8, 20, 4, .RO, 0⟩
/-- Active loop counters -/
abbrev SEQ_STATUS.loops (d h : Nat) : Fld := ⟨ctxBlk d h + 0x8, 24, 5, .RO, 0⟩

/-! SEQ_PC (R163) -/

/-- Offset of the current, faulting or awaiting beat -/
abbrev SEQ_PC.record (d h : Nat) : Fld := ⟨ctxBlk d h + 0x10, 0, 21, .RO, 0⟩

/-! SEQ_CYC (R164) -/

/-- Cadence cycles (SEQ_CYC) or held cycles (SEQ_HELD) since go -/
abbrev SEQ_CYC.cycles (d h : Nat) : Fld := ⟨ctxBlk d h + 0x18, 0, 64, .RO, 0⟩

/-! SEQ_HELD (R164) -/

/-- Cadence cycles (SEQ_CYC) or held cycles (SEQ_HELD) since go -/
abbrev SEQ_HELD.cycles (d h : Nat) : Fld := ⟨ctxBlk d h + 0x20, 0, 64, .RO, 0⟩

/-! SEQ_AWAIT_TMO (R165) -/

/-- Limit for one AWAIT hold (R151); 0 disables -/
abbrev SEQ_AWAIT_TMO.cycles (d h : Nat) : Fld := ⟨ctxBlk d h + 0x28, 0, 48, .RW, 0⟩

/-! SEQ_STORE_ECC (R166) -/

/-- Corrected store words this step -/
abbrev SEQ_STORE_ECC.ce (d h : Nat) : Fld := ⟨ctxBlk d h + 0x30, 0, 24, .RO, 0⟩
/-- Uncorrectable store words this step -/
abbrev SEQ_STORE_ECC.ue (d h : Nat) : Fld := ⟨ctxBlk d h + 0x30, 24, 8, .RO, 0⟩
/-- 16-byte unit of the first uncorrectable word -/
abbrev SEQ_STORE_ECC.ue_unit (d h : Nat) : Fld := ⟨ctxBlk d h + 0x30, 32, 21, .RO, 0⟩
/-- ue_unit holds an offset -/
abbrev SEQ_STORE_ECC.valid (d h : Nat) : Fld := ⟨ctxBlk d h + 0x30, 63, 1, .RO, 0⟩

/-! SEQ_LOAD (R167) -/

/-- 0x00 accepted, or a code of R157 -/
abbrev SEQ_LOAD.reason (d h : Nat) : Fld := ⟨ctxBlk d h + 0x38, 0, 8, .RO, 0x00⟩
/-- Descriptor fault code for PRG_DESC -/
abbrev SEQ_LOAD.detail (d h : Nat) : Fld := ⟨ctxBlk d h + 0x38, 8, 8, .RO, 0x00⟩
/-- The value that R157 gives for the reason: a record offset, 16-byte unit, header byte offset, or rudiment, descriptor, pattern or core-set index -/
abbrev SEQ_LOAD.index (d h : Nat) : Fld := ⟨ctxBlk d h + 0x38, 32, 32, .RO, 0⟩

/-! SEQ_LC (R167) -/

/-- Current iteration -/
abbrev SEQ_LC.value (d h j : Nat) : Fld := ⟨ctxBlk d h + 0x040 + 8 * j, 0, 24, .RO, 0⟩
/-- The counter is active -/
abbrev SEQ_LC.active (d h j : Nat) : Fld := ⟨ctxBlk d h + 0x040 + 8 * j, 24, 1, .RO, 0⟩
/-- Count loaded by LOOP -/
abbrev SEQ_LC.count (d h j : Nat) : Fld := ⟨ctxBlk d h + 0x040 + 8 * j, 40, 24, .RO, 0⟩

/-! SEQ_DMA_ERR (R168) -/

/-- Status of R149 -/
abbrev SEQ_DMA_ERR.status (d h : Nat) : Fld := ⟨ctxBlk d h + 0xd0, 0, 8, .RO, 0⟩
/-- Reason of R355 for DM_REMOTE; 0 otherwise -/
abbrev SEQ_DMA_ERR.detail (d h : Nat) : Fld := ⟨ctxBlk d h + 0xd0, 8, 8, .RO, 0⟩
/-- DMA rudiment index of the failed transfer -/
abbrev SEQ_DMA_ERR.rudiment (d h : Nat) : Fld := ⟨ctxBlk d h + 0xd0, 16, 16, .RO, 0⟩
/-- The fields hold a record; the next failure is recorded only after a clear -/
abbrev SEQ_DMA_ERR.valid (d h : Nat) : Fld := ⟨ctxBlk d h + 0xd0, 63, 1, .W1C, 0⟩

/-! SEQ_DMA_ERRPOS (R168) -/

/-- Byte offset, within the transfer, of the first line not completed -/
abbrev SEQ_DMA_ERRPOS.offset (d h : Nat) : Fld := ⟨ctxBlk d h + 0xd8, 0, 32, .RO, 0⟩

/-! SEQ_SEED_LO (R189) -/

/-- Job seed bits [63:0]; writes in RUN or HELD are ignored (R177) -/
abbrev SEQ_SEED_LO.k0 (d h : Nat) : Fld := ⟨ctxBlk d h + 0x80, 0, 64, .RW, 0⟩

/-! SEQ_SEED_HI (R189) -/

/-- Job seed bits [127:64]; writes in RUN or HELD are ignored -/
abbrev SEQ_SEED_HI.k1 (d h : Nat) : Fld := ⟨ctxBlk d h + 0x88, 0, 64, .RW, 0⟩

/-! SEQ_GOV_PARAM (R190) -/

/-- 1: the governor acts at each STEP of this context -/
abbrev SEQ_GOV_PARAM.enable (d h : Nat) : Fld := ⟨ctxBlk d h + 0x90, 0, 1, .RW, 0⟩
/-- Global address bits [63:6] of the parameter table (R182) -/
abbrev SEQ_GOV_PARAM.base (d h : Nat) : Fld := ⟨ctxBlk d h + 0x90, 6, 58, .RW, 0⟩

/-! SEQ_GOV_IN (R191) -/

/-- Global address bits [63:6] of the input table (R181) -/
abbrev SEQ_GOV_IN.base (d h : Nat) : Fld := ⟨ctxBlk d h + 0x98, 6, 58, .RW, 0⟩

/-! SEQ_GOV_STAT (R192) -/

/-- Descriptors whose exponent changed, 0–4,096 -/
abbrev SEQ_GOV_STAT.changed (d h : Nat) : Fld := ⟨ctxBlk d h + 0xa0, 0, 13, .RO, 0⟩
/-- The input table's step tag did not match (R183) -/
abbrev SEQ_GOV_STAT.stale (d h : Nat) : Fld := ⟨ctxBlk d h + 0xa0, 16, 1, .RO, 0⟩
/-- Codes clamped by rebasing (R185); stops at all ones -/
abbrev SEQ_GOV_STAT.rb_sat (d h : Nat) : Fld := ⟨ctxBlk d h + 0xa0, 20, 20, .RO, 0⟩
/-- Nonzero codes rebased to zero (R185); stops at all ones -/
abbrev SEQ_GOV_STAT.rb_unf (d h : Nat) : Fld := ⟨ctxBlk d h + 0xa0, 40, 20, .RO, 0⟩

/-! CORE_PIV_CFG (R221) -/

/-- τ exponent of R205; latched by BEGIN -/
abbrev CORE_PIV_CFG.t (d c : Nat) : Fld := ⟨clusterBlk d c + 0x100, 0, 7, .RW, 0x28⟩

/-! CORE_PIV_STATUS (R222) -/

/-- An operation is running -/
abbrev CORE_PIV_STATUS.busy (d c : Nat) : Fld := ⟨clusterBlk d c + 0x108, 0, 1, .RO, 0⟩
/-- The pivot engine raised LOFT_SLOT (R200) -/
abbrev CORE_PIV_STATUS.slot_fault (d c : Nat) : Fld := ⟨clusterBlk d c + 0x108, 1, 1, .RO, 0⟩
/-- An entry held a reserved op (R211) -/
abbrev CORE_PIV_STATUS.bad_entry (d c : Nat) : Fld := ⟨clusterBlk d c + 0x108, 2, 1, .RO, 0⟩
/-- An entry read poisoned input (R207) -/
abbrev CORE_PIV_STATUS.poison (d c : Nat) : Fld := ⟨clusterBlk d c + 0x108, 3, 1, .RO, 0⟩
/-- Index within the RUN of the current or faulting entry -/
abbrev CORE_PIV_STATUS.entry (d c : Nat) : Fld := ⟨clusterBlk d c + 0x108, 16, 16, .RO, 0⟩

/-! CORE_PIV_CNT (R223) -/

/-- Perturbed pivots since BEGIN -/
abbrev CORE_PIV_CNT.pert (d c : Nat) : Fld := ⟨clusterBlk d c + 0x110, 0, 24, .RO, 0⟩
/-- Negative Cholesky pivots since BEGIN -/
abbrev CORE_PIV_CNT.neg (d c : Nat) : Fld := ⟨clusterBlk d c + 0x110, 24, 16, .RO, 0⟩
/-- Saturations of R201 and R203 since BEGIN -/
abbrev CORE_PIV_CNT.sat (d c : Nat) : Fld := ⟨clusterBlk d c + 0x110, 40, 24, .RO, 0⟩

/-! CORE_PIV_FIRST (R224) -/

/-- Global column of the first perturbed pivot since BEGIN -/
abbrev CORE_PIV_FIRST.col (d c : Nat) : Fld := ⟨clusterBlk d c + 0x118, 0, 48, .RO, 0⟩
/-- col holds a column -/
abbrev CORE_PIV_FIRST.valid (d c : Nat) : Fld := ⟨clusterBlk d c + 0x118, 63, 1, .RO, 0⟩

/-! CORE_PIV_STEP (R225) -/

/-- Perturbed pivots this step -/
abbrev CORE_PIV_STEP.pert (d c : Nat) : Fld := ⟨clusterBlk d c + 0x120, 0, 24, .RO, 0⟩
/-- Pivot-engine saturations this step -/
abbrev CORE_PIV_STEP.sat (d c : Nat) : Fld := ⟨clusterBlk d c + 0x120, 24, 24, .RO, 0⟩

/-! SEQ_DL_CTL (R226) -/

/-- 0 none, 1 budget, 2 wall, 3 both (R213) -/
abbrev SEQ_DL_CTL.mode (d h : Nat) : Fld := ⟨ctxBlk d h + 0xb0, 0, 2, .RW, 0⟩
/-- Point index at which the budget expires -/
abbrev SEQ_DL_CTL.budget (d h : Nat) : Fld := ⟨ctxBlk d h + 0xb0, 32, 32, .RW, 0⟩

/-! SEQ_DL_TIME (R227) -/

/-- Wall deadline in package time, nanoseconds -/
abbrev SEQ_DL_TIME.time (d h : Nat) : Fld := ⟨ctxBlk d h + 0xb8, 0, 64, .RW, 0⟩

/-! SEQ_DL_POINT (R228) -/

/-- Points counted -/
abbrev SEQ_DL_POINT.point (d h : Nat) : Fld := ⟨ctxBlk d h + 0xc0, 0, 32, .RO, 0⟩
/-- A DPT found the deadline reached -/
abbrev SEQ_DL_POINT.expired (d h : Nat) : Fld := ⟨ctxBlk d h + 0xc0, 32, 1, .RO, 0⟩
/-- The budget condition held at that DPT -/
abbrev SEQ_DL_POINT.by_budget (d h : Nat) : Fld := ⟨ctxBlk d h + 0xc0, 33, 1, .RO, 0⟩
/-- The wall condition held at that DPT -/
abbrev SEQ_DL_POINT.by_wall (d h : Nat) : Fld := ⟨ctxBlk d h + 0xc0, 34, 1, .RO, 0⟩
/-- DPTs this step that found the deadline reached -/
abbrev SEQ_DL_POINT.deadlines (d h : Nat) : Fld := ⟨ctxBlk d h + 0xc0, 40, 16, .RO, 0⟩

/-! YRD_XCH_CTL (R247) -/

/-- 1: accept commands -/
abbrev YRD_XCH_CTL.enable (y : Nat) : Fld := ⟨xchBlk y + 0x0, 0, 1, .RW, 0⟩
/-- 0 OFF, 1 DRAINING, 2 ON -/
abbrev YRD_XCH_CTL.state (y : Nat) : Fld := ⟨xchBlk y + 0x0, 1, 2, .RO, 0⟩
/-- Enable was written during DRAINING -/
abbrev YRD_XCH_CTL.rearm (y : Nat) : Fld := ⟨xchBlk y + 0x0, 3, 1, .RO, 0⟩
/-- Four bits per window: owning pen, or 0xF for none; window w at [4w + 11:4w + 8] -/
abbrev YRD_XCH_CTL.owner (y w : Nat) : Fld := ⟨xchBlk y + 0x0, 8 + 4 * w, 4, .RWL, 0xF⟩

/-! YRD_XCH_STAT (R248) -/

/-- A command is running -/
abbrev YRD_XCH_STAT.busy (y : Nat) : Fld := ⟨xchBlk y + 0x8, 0, 1, .RO, 0⟩
/-- Window of the running command -/
abbrev YRD_XCH_STAT.window (y : Nat) : Fld := ⟨xchBlk y + 0x8, 1, 4, .RO, 0⟩
/-- Three bits per window, window w at [3w + 10:3w + 8]: queued commands, 0–7; a full queue of 8 reads as 7 with full set -/
abbrev YRD_XCH_STAT.depth (y w : Nat) : Fld := ⟨xchBlk y + 0x8, 8 + 3 * w, 3, .RO, 0⟩
/-- Bit 35 + w: window w's queue is full -/
abbrev YRD_XCH_STAT.full (y w : Nat) : Fld := ⟨xchBlk y + 0x8, 35 + w, 1, .RO, 0⟩

/-! YRD_XCH_CNT (R249) -/

/-- Commands completed -/
abbrev YRD_XCH_CNT.cmds (y : Nat) : Fld := ⟨xchBlk y + 0x10, 0, 16, .RO, 0⟩
/-- Commands ended with nonzero status -/
abbrev YRD_XCH_CNT.errs (y : Nat) : Fld := ⟨xchBlk y + 0x10, 16, 16, .RO, 0⟩
/-- Codes saturated -/
abbrev YRD_XCH_CNT.sat (y : Nat) : Fld := ⟨xchBlk y + 0x10, 32, 16, .RO, 0⟩
/-- Nonzero values rounded to zero -/
abbrev YRD_XCH_CNT.unf (y : Nat) : Fld := ⟨xchBlk y + 0x10, 48, 16, .RO, 0⟩

/-! YRD_XCH_ERR (R250) -/

/-- Status of R240 -/
abbrev YRD_XCH_ERR.status (y : Nat) : Fld := ⟨xchBlk y + 0x18, 0, 8, .RO, 0⟩
/-- Window that posted it -/
abbrev YRD_XCH_ERR.window (y : Nat) : Fld := ⟨xchBlk y + 0x18, 8, 4, .RO, 0⟩
/-- The fields hold a record; the next failure is recorded only after a clear -/
abbrev YRD_XCH_ERR.valid (y : Nat) : Fld := ⟨xchBlk y + 0x18, 63, 1, .W1C, 0⟩

/-! YRD_XCH_NAN (R250) -/

/-- Global index of the first NaN of the recorded failure -/
abbrev YRD_XCH_NAN.gidx (y : Nat) : Fld := ⟨xchBlk y + 0x20, 0, 64, .RO, 0⟩

/-! YRD_CTL (R297) -/

/-- 1: patrol scrub runs (R271) -/
abbrev YRD_CTL.scrub_en (y : Nat) : Fld := ⟨yardBlk y + 0x0, 0, 1, .RW, 1⟩
/-- Scrub period, 1–168 hours; writes of other values are ignored -/
abbrev YRD_CTL.scrub_hours (y : Nat) : Fld := ⟨yardBlk y + 0x0, 8, 8, .RW, 24⟩
/-- Activations per row in 32 ms that trigger targeted refresh (R265), 256–65,535 -/
abbrev YRD_CTL.trr_thresh (y : Nat) : Fld := ⟨yardBlk y + 0x0, 16, 16, .RWL, 0⟩

/-! YRD_STATUS (R298) -/

/-- Memory training has completed -/
abbrev YRD_STATUS.trained (y : Nat) : Fld := ⟨yardBlk y + 0x8, 0, 1, .RO, 0⟩
/-- The channels are in self-refresh (R266) -/
abbrev YRD_STATUS.self_refresh (y : Nat) : Fld := ⟨yardBlk y + 0x8, 1, 1, .RO, 0⟩
/-- Retirement fold is active (R273) -/
abbrev YRD_STATUS.fold (y : Nat) : Fld := ⟨yardBlk y + 0x8, 2, 1, .RO, 0⟩

/-! YRD_ARB (R299) -/

/-- P0 slots per 64 while others wait, 1–32 (R258) -/
abbrev YRD_ARB.p0_cap (y : Nat) : Fld := ⟨yardBlk y + 0x10, 0, 6, .RWL, 16⟩
/-- Guaranteed P2 slots per 64, 0–16 -/
abbrev YRD_ARB.p2_floor (y : Nat) : Fld := ⟨yardBlk y + 0x10, 8, 5, .RWL, 4⟩
/-- Guaranteed P3 slots per 64, 1–16 -/
abbrev YRD_ARB.p3_floor (y : Nat) : Fld := ⟨yardBlk y + 0x10, 16, 5, .RWL, 4⟩

/-! YRD_RETIRE (R300) -/

/-- Bit c: channel c is retired (R273); written only by a layout load, and kept across unload and warm reset -/
abbrev YRD_RETIRE.mask (y : Nat) : Fld := ⟨yardBlk y + 0x18, 0, 64, .RO, 0⟩

/-! YRD_TRFAIL (R300) -/

/-- Bit c: channel c failed memory training -/
abbrev YRD_TRFAIL.mask (y : Nat) : Fld := ⟨yardBlk y + 0x58, 0, 64, .RO, 0⟩

/-! YRD_CACHE_WAYS (R301) -/

/-- Way mask of pen p, p = 0–3 (R290) -/
abbrev YRD_CACHE_WAYS.pen (y p : Nat) : Fld := ⟨yardBlk y + 0x020 + 8 * (p / 4), 16 * (p % 4), 16, .RWL, 0⟩

/-! YRD_ECC (R302) -/

/-- Codewords corrected, on demand or by scrub -/
abbrev YRD_ECC.ce (y : Nat) : Fld := ⟨yardBlk y + 0x30, 0, 24, .RO, 0⟩
/-- Double-symbol errors found -/
abbrev YRD_ECC.ue (y : Nat) : Fld := ⟨yardBlk y + 0x30, 24, 16, .RO, 0⟩
/-- Codewords delivered poisoned by reads, one count per codeword (R269) -/
abbrev YRD_ECC.poison_rd (y : Nat) : Fld := ⟨yardBlk y + 0x30, 40, 16, .RO, 0⟩

/-! YRD_ECC_ADDR (R303) -/

/-- Stack offset of the first uncorrectable codeword -/
abbrev YRD_ECC_ADDR.offset (y : Nat) : Fld := ⟨yardBlk y + 0x38, 4, 33, .RO, 0⟩
/-- 1: the scrubber found it; 0: a demand read did -/
abbrev YRD_ECC_ADDR.scrub (y : Nat) : Fld := ⟨yardBlk y + 0x38, 40, 1, .RO, 0⟩
/-- The fields hold a record; the next error is recorded only after a clear -/
abbrev YRD_ECC_ADDR.valid (y : Nat) : Fld := ⟨yardBlk y + 0x38, 63, 1, .W1C, 0⟩

/-! YRD_STEP (R304) -/

/-- Channel with the most busy slots -/
abbrev YRD_STEP.hot_ch (y : Nat) : Fld := ⟨yardBlk y + 0x40, 0, 6, .RO, 0⟩
/-- That channel's busy slots × 1,024 ÷ the stack's busy slots, 16–1,024 -/
abbrev YRD_STEP.hot_ratio (y : Nat) : Fld := ⟨yardBlk y + 0x40, 16, 11, .RO, 0⟩
/-- Targeted refreshes (R265) -/
abbrev YRD_STEP.trr (y : Nat) : Fld := ⟨yardBlk y + 0x40, 32, 16, .RO, 0⟩

/-! YRD_REFSTALL (R304) -/

/-- Request waiting caused by refresh, summed, in nanoseconds -/
abbrev YRD_REFSTALL.ns (y : Nat) : Fld := ⟨yardBlk y + 0x60, 0, 40, .RO, 0⟩

/-! YRD_INJ (R305) -/

/-- Corrupt one symbol -/
abbrev YRD_INJ.ce (y : Nat) : Fld := ⟨yardBlk y + 0x48, 0, 1, .W1S, 0⟩
/-- Corrupt two symbols -/
abbrev YRD_INJ.ue (y : Nat) : Fld := ⟨yardBlk y + 0x48, 1, 1, .W1S, 0⟩
/-- Write the codeword poisoned (R268) -/
abbrev YRD_INJ.poison (y : Nat) : Fld := ⟨yardBlk y + 0x48, 2, 1, .W1S, 0⟩
/-- Target channel -/
abbrev YRD_INJ.ch (y : Nat) : Fld := ⟨yardBlk y + 0x48, 8, 6, .RW, 0⟩

/-! YRD_CACHE_CNT (R306) -/

/-- Line hits -/
abbrev YRD_CACHE_CNT.hits (y : Nat) : Fld := ⟨yardBlk y + 0x50, 0, 24, .RO, 0⟩
/-- Line misses that allocated -/
abbrev YRD_CACHE_CNT.misses (y : Nat) : Fld := ⟨yardBlk y + 0x50, 24, 24, .RO, 0⟩
/-- Atomics applied, in units of 1,024 -/
abbrev YRD_CACHE_CNT.atomics (y : Nat) : Fld := ⟨yardBlk y + 0x50, 48, 16, .RO, 0⟩

/-! MCH_STAT (R307) -/

/-- The channel is retired -/
abbrev MCH_STAT.retired (y c : Nat) : Fld := ⟨chanBlk y c + 0x0, 0, 1, .RO, 0⟩
/-- The channel failed training -/
abbrev MCH_STAT.failed (y c : Nat) : Fld := ⟨chanBlk y c + 0x0, 1, 1, .RO, 0⟩
/-- The channel carries its retired partner's lines -/
abbrev MCH_STAT.donor (y c : Nat) : Fld := ⟨chanBlk y c + 0x0, 2, 1, .RO, 0⟩

/-! MCH_SLOTS (R307) -/

/-- Slots granted to class Pp, p = 0–3, in units of 1,024 -/
abbrev MCH_SLOTS.cls (y c p : Nat) : Fld := ⟨chanBlk y c + 0x8, 16 * p, 16, .RO, 0⟩

/-! MCH_ECC (R307) -/

/-- Corrected codewords -/
abbrev MCH_ECC.ce (y c : Nat) : Fld := ⟨chanBlk y c + 0x10, 0, 16, .RO, 0⟩
/-- Double-symbol errors -/
abbrev MCH_ECC.ue (y c : Nat) : Fld := ⟨chanBlk y c + 0x10, 16, 8, .RO, 0⟩
/-- Targeted refreshes -/
abbrev MCH_ECC.trr (y c : Nat) : Fld := ⟨chanBlk y c + 0x10, 40, 16, .RO, 0⟩

/-! YRD_ENG_CTL (R308) -/

/-- 1: accept commands -/
abbrev YRD_ENG_CTL.enable (y : Nat) : Fld := ⟨engBlk y + 0x0, 0, 1, .RW, 0⟩
/-- 0 OFF, 1 DRAINING, 2 ON -/
abbrev YRD_ENG_CTL.state (y : Nat) : Fld := ⟨engBlk y + 0x0, 1, 2, .RO, 0⟩
/-- Enable was written during DRAINING -/
abbrev YRD_ENG_CTL.rearm (y : Nat) : Fld := ⟨engBlk y + 0x0, 3, 1, .RO, 0⟩
/-- Four bits per window: owning pen, or 0xF for none; window w at [4w + 11:4w + 8] -/
abbrev YRD_ENG_CTL.owner (y w : Nat) : Fld := ⟨engBlk y + 0x0, 8 + 4 * w, 4, .RWL, 0xF⟩

/-! YRD_ENG_STAT (R309) -/

/-- A command is running -/
abbrev YRD_ENG_STAT.busy (y : Nat) : Fld := ⟨engBlk y + 0x8, 0, 1, .RO, 0⟩
/-- Window of the running command -/
abbrev YRD_ENG_STAT.window (y : Nat) : Fld := ⟨engBlk y + 0x8, 1, 4, .RO, 0⟩
/-- Three bits per window, window w at [3w + 10:3w + 8]: queued commands, 0–7; a full queue of 8 reads as 7 with full set -/
abbrev YRD_ENG_STAT.depth (y w : Nat) : Fld := ⟨engBlk y + 0x8, 8 + 3 * w, 3, .RO, 0⟩
/-- Bit 35 + w: window w's queue is full -/
abbrev YRD_ENG_STAT.full (y w : Nat) : Fld := ⟨engBlk y + 0x8, 35 + w, 1, .RO, 0⟩

/-! YRD_ENG_CNT (R310) -/

/-- Commands completed -/
abbrev YRD_ENG_CNT.cmds (y : Nat) : Fld := ⟨engBlk y + 0x10, 0, 16, .RO, 0⟩
/-- Commands ended with nonzero status -/
abbrev YRD_ENG_CNT.errs (y : Nat) : Fld := ⟨engBlk y + 0x10, 16, 16, .RO, 0⟩
/-- Codes or containers saturated -/
abbrev YRD_ENG_CNT.sat (y : Nat) : Fld := ⟨engBlk y + 0x10, 32, 16, .RO, 0⟩
/-- Nonzero values rounded to zero -/
abbrev YRD_ENG_CNT.unf (y : Nat) : Fld := ⟨engBlk y + 0x10, 48, 16, .RO, 0⟩

/-! YRD_ENG_ERR (R311) -/

/-- Status of R285 -/
abbrev YRD_ENG_ERR.status (y : Nat) : Fld := ⟨engBlk y + 0x18, 0, 8, .RO, 0⟩
/-- Window that posted it -/
abbrev YRD_ENG_ERR.window (y : Nat) : Fld := ⟨engBlk y + 0x18, 8, 4, .RO, 0⟩
/-- Row or entry at which a YE_ status was detected -/
abbrev YRD_ENG_ERR.row (y : Nat) : Fld := ⟨engBlk y + 0x18, 16, 32, .RO, 0⟩
/-- The fields hold a record; the next failure is recorded only after a clear -/
abbrev YRD_ENG_ERR.valid (y : Nat) : Fld := ⟨engBlk y + 0x18, 63, 1, .W1C, 0⟩

/-! LDG_CTL (R336) -/

/-- 1: records are written; 0: records are discarded and counted as lost -/
abbrev LDG_CTL.enable (p : Nat) : Fld := ⟨ldgBlk p + 0x000, 0, 1, .RWL, 0⟩
/-- 0 hold, 1 overwrite (R325) -/
abbrev LDG_CTL.full_mode (p : Nat) : Fld := ⟨ldgBlk p + 0x000, 1, 1, .RW, 0⟩

/-! LDG_BASE (R336) -/

/-- Global address bits [63:12] of the ring -/
abbrev LDG_BASE.base (p : Nat) : Fld := ⟨ldgBlk p + 0x008, 12, 52, .RWL, 0⟩

/-! LDG_SIZE (R336) -/

/-- Ring length in 4 KiB units, 1–1,048,576 -/
abbrev LDG_SIZE.size (p : Nat) : Fld := ⟨ldgBlk p + 0x010, 0, 32, .RWL, 0⟩

/-! LDG_HEAD (R336) -/

/-- Byte offset of the next record -/
abbrev LDG_HEAD.offset (p : Nat) : Fld := ⟨ldgBlk p + 0x018, 0, 44, .RO, 0⟩

/-! LDG_TAIL (R336) -/

/-- Byte offset of the oldest unread record -/
abbrev LDG_TAIL.offset (p : Nat) : Fld := ⟨ldgBlk p + 0x020, 0, 44, .RW, 0⟩

/-! LDG_STAT (R336) -/

/-- The pen is holding on a full ring -/
abbrev LDG_STAT.full_hold (p : Nat) : Fld := ⟨ldgBlk p + 0x028, 0, 1, .RO, 0⟩
/-- Records lost since power-on, stops at all ones -/
abbrev LDG_STAT.lost (p : Nat) : Fld := ⟨ldgBlk p + 0x028, 16, 32, .RO, 0⟩

/-! LDG_STEP (R336) -/

/-- Step in progress (R321); writes in RUN ignored -/
abbrev LDG_STEP.step (p : Nat) : Fld := ⟨ldgBlk p + 0x030, 0, 64, .RW, 0⟩

/-! LDG_JOB (R336) -/

/-- Job tag copied to records and team frames; writes in RUN ignored -/
abbrev LDG_JOB.tag (p : Nat) : Fld := ⟨ldgBlk p + 0x038, 0, 64, .RW, 0⟩

/-! LDG_TEAM (R337) -/

/-- 1: team operation -/
abbrev LDG_TEAM.enable (p : Nat) : Fld := ⟨ldgBlk p + 0x040, 0, 1, .RWL, 0⟩
/-- 0 LOCAL, 1 GLOBAL (R327) -/
abbrev LDG_TEAM.scope (p : Nat) : Fld := ⟨ldgBlk p + 0x040, 1, 1, .RWL, 0⟩
/-- 1: lagged mode (R330) -/
abbrev LDG_TEAM.lagged (p : Nat) : Fld := ⟨ldgBlk p + 0x040, 2, 1, .RWL, 0⟩
/-- 1–4; other values are refused at layout load -/
abbrev LDG_TEAM.lag (p : Nat) : Fld := ⟨ldgBlk p + 0x040, 3, 3, .RWL, 0⟩
/-- 1: continue alone on TM_LOST (R333) -/
abbrev LDG_TEAM.solo (p : Nat) : Fld := ⟨ldgBlk p + 0x040, 6, 1, .RW, 0⟩
/-- Fabric port for team frames, 0–63 -/
abbrev LDG_TEAM.port (p : Nat) : Fld := ⟨ldgBlk p + 0x040, 8, 6, .RWL, 0⟩
/-- TM_LOST limit in µs, 1–65,535 -/
abbrev LDG_TEAM.tmo_us (p : Nat) : Fld := ⟨ldgBlk p + 0x040, 16, 16, .RW, 1000⟩
/-- Partner package number -/
abbrev LDG_TEAM.partner (p : Nat) : Fld := ⟨ldgBlk p + 0x040, 32, 16, .RWL, 0⟩

/-! LDG_TEAM_IN (R337) -/

/-- Global address bits [63:6] of the team input table; writes in RUN ignored -/
abbrev LDG_TEAM_IN.base (p : Nat) : Fld := ⟨ldgBlk p + 0x048, 6, 58, .RW, 0⟩

/-! LDG_TEAM_MM (R337) -/

/-- Step of the failed comparison -/
abbrev LDG_TEAM_MM.step (p : Nat) : Fld := ⟨ldgBlk p + 0x050, 0, 64, .RO, 0⟩

/-! LDG_TEAM_STAT (R337) -/

/-- Code of R331 -/
abbrev LDG_TEAM_STAT.reason (p : Nat) : Fld := ⟨ldgBlk p + 0x058, 0, 4, .RO, 0⟩
/-- The pen runs without a partner (R333) -/
abbrev LDG_TEAM_STAT.solo_active (p : Nat) : Fld := ⟨ldgBlk p + 0x058, 4, 1, .RO, 0⟩
/-- Frames discarded under R333 -/
abbrev LDG_TEAM_STAT.late (p : Nat) : Fld := ⟨ldgBlk p + 0x058, 16, 16, .RO, 0⟩
/-- LDG_TEAM_MM and reason hold a failure; the next failure is recorded only after a clear -/
abbrev LDG_TEAM_STAT.valid (p : Nat) : Fld := ⟨ldgBlk p + 0x058, 63, 1, .W1C, 0⟩

/-! LDG_TEAM_LOC0 (R337) -/

/-- Local T of the failed comparison, bits [63:0] and [127:64] -/
abbrev LDG_TEAM_LOC0.t (p : Nat) : Fld := ⟨ldgBlk p + 0x060, 0, 64, .RO, 0⟩

/-! LDG_TEAM_LOC1 (R337) -/

/-- Local T of the failed comparison, bits [63:0] and [127:64] -/
abbrev LDG_TEAM_LOC1.t (p : Nat) : Fld := ⟨ldgBlk p + 0x068, 0, 64, .RO, 0⟩

/-! LDG_TEAM_PAR0 (R337) -/

/-- Partner's T, bits [63:0] and [127:64] -/
abbrev LDG_TEAM_PAR0.t (p : Nat) : Fld := ⟨ldgBlk p + 0x070, 0, 64, .RO, 0⟩

/-! LDG_TEAM_PAR1 (R337) -/

/-- Partner's T, bits [63:0] and [127:64] -/
abbrev LDG_TEAM_PAR1.t (p : Nat) : Fld := ⟨ldgBlk p + 0x078, 0, 64, .RO, 0⟩

/-! FAB_ID (R368) -/

/-- This package's number -/
abbrev FAB_ID.package (f : Nat) : Fld := ⟨fabBlk f + 0x0, 0, 16, .RWL, 0⟩
/-- 0 on FB0, 1 on FB1 -/
abbrev FAB_ID.die (f : Nat) : Fld := ⟨fabBlk f + 0x0, 16, 1, .RO, f⟩

/-! FAB_CTL (R369) -/

/-- Expedited codewords per 64 while ordinary cells wait, 1–63 (R361) -/
abbrev FAB_CTL.exp_cap (f : Nat) : Fld := ⟨fabBlk f + 0x8, 0, 6, .RWL, 0⟩
/-- Hop limit, 1–63 (R360) -/
abbrev FAB_CTL.max_hops (f : Nat) : Fld := ⟨fabBlk f + 0x8, 8, 6, .RWL, 0⟩

/-! FAB_CNT (R370) -/

/-- Packets discarded under R358 -/
abbrev FAB_CNT.unroute (f : Nat) : Fld := ⟨fabBlk f + 0x10, 0, 16, .RO, 0⟩
/-- Packets discarded under R360 -/
abbrev FAB_CNT.hops (f : Nat) : Fld := ⟨fabBlk f + 0x10, 16, 16, .RO, 0⟩
/-- Packets lost under R354 and R364 -/
abbrev FAB_CNT.lost (f : Nat) : Fld := ⟨fabBlk f + 0x10, 32, 16, .RO, 0⟩
/-- Requests refused under R349 -/
abbrev FAB_CNT.addr (f : Nat) : Fld := ⟨fabBlk f + 0x10, 48, 16, .RO, 0⟩

/-! FAB_ERR (R371) -/

/-- Code of R355 -/
abbrev FAB_ERR.reason (f : Nat) : Fld := ⟨fabBlk f + 0x18, 0, 8, .RO, 0⟩
/-- Pen of the failed request -/
abbrev FAB_ERR.pen (f : Nat) : Fld := ⟨fabBlk f + 0x18, 8, 3, .RO, 0⟩
/-- Package that answered -/
abbrev FAB_ERR.package (f : Nat) : Fld := ⟨fabBlk f + 0x18, 16, 16, .RO, 0⟩
/-- The fields hold a record; the next error is recorded only after a clear -/
abbrev FAB_ERR.valid (f : Nat) : Fld := ⟨fabBlk f + 0x18, 63, 1, .W1C, 0⟩

/-! PRT_CTL (R372) -/

/-- 1: the port is to be ON -/
abbrev PRT_CTL.enable (n : Nat) : Fld := ⟨portBlk n + 0x0, 0, 1, .RW, 0⟩
/-- 0 OFF, 1 DRAINING, 2 ON -/
abbrev PRT_CTL.state (n : Nat) : Fld := ⟨portBlk n + 0x0, 1, 2, .RO, 0⟩
/-- Enable was written 1 during DRAINING -/
abbrev PRT_CTL.rearm (n : Nat) : Fld := ⟨portBlk n + 0x0, 3, 1, .RO, 0⟩
/-- Owning pen, or 0xF for none -/
abbrev PRT_CTL.owner (n : Nat) : Fld := ⟨portBlk n + 0x0, 4, 4, .RWL, 0xF⟩
/-- 1: retrain after a failure; from the PORTS section, and 1 while no layout is active -/
abbrev PRT_CTL.auto_retrain (n : Nat) : Fld := ⟨portBlk n + 0x0, 8, 1, .RW, 1⟩
/-- Drain limit in µs, 1–65,535; from the PORTS section, and 100 while no layout is active -/
abbrev PRT_CTL.drain_us (n : Nat) : Fld := ⟨portBlk n + 0x0, 16, 16, .RW, 100⟩

/-! PRT_LINK (R373) -/

/-- 0 DOWN, 1 TRAINING, 2 UP, 3 PARKED, 4 FAILED -/
abbrev PRT_LINK.link (n : Nat) : Fld := ⟨portBlk n + 0x8, 0, 3, .RO, 0⟩
/-- 0 none, 1 NO_SIGNAL, 2 EQ_FAIL, 3 LANE_ALIGN, 4 NEIGHBOUR, 5 RTT_LONG, 6 RETRY_LIMIT, 7 PROTOCOL -/
abbrev PRT_LINK.reason (n : Nat) : Fld := ⟨portBlk n + 0x8, 8, 4, .RO, 0⟩
/-- The port is optical -/
abbrev PRT_LINK.optical (n : Nat) : Fld := ⟨portBlk n + 0x8, 12, 1, .RO, (if n % 32 < 24 then 0 else 1)⟩
/-- Round trip measured in training -/
abbrev PRT_LINK.rtt_ns (n : Nat) : Fld := ⟨portBlk n + 0x8, 16, 32, .RO, 0⟩

/-! PRT_NBR (R374) -/

/-- Expected partner package; writes while state is not OFF are ignored -/
abbrev PRT_NBR.package (n : Nat) : Fld := ⟨portBlk n + 0x10, 0, 16, .RW, 0⟩
/-- Expected partner port; as above -/
abbrev PRT_NBR.port (n : Nat) : Fld := ⟨portBlk n + 0x10, 16, 6, .RW, 0⟩
/-- 1: stage 4 of R362 compares -/
abbrev PRT_NBR.check (n : Nat) : Fld := ⟨portBlk n + 0x10, 63, 1, .RW, 0⟩

/-! PRT_PEER (R374) -/

/-- Partner package learned in training -/
abbrev PRT_PEER.package (n : Nat) : Fld := ⟨portBlk n + 0x18, 0, 16, .RO, 0⟩
/-- Partner port learned in training -/
abbrev PRT_PEER.port (n : Nat) : Fld := ⟨portBlk n + 0x18, 16, 6, .RO, 0⟩

/-! PRT_CNT (R375) -/

/-- Resends under R352 -/
abbrev PRT_CNT.retries (n : Nat) : Fld := ⟨portBlk n + 0x20, 0, 16, .RO, 0⟩
/-- Codewords corrected by the decoder -/
abbrev PRT_CNT.fec_ce (n : Nat) : Fld := ⟨portBlk n + 0x20, 16, 24, .RO, 0⟩
/-- Codewords failing the CRC or uncorrectable -/
abbrev PRT_CNT.crc_fail (n : Nat) : Fld := ⟨portBlk n + 0x20, 40, 16, .RO, 0⟩
/-- Times the link went down -/
abbrev PRT_CNT.down (n : Nat) : Fld := ⟨portBlk n + 0x20, 56, 8, .RO, 0⟩

/-! GRP_TBL (R404) -/

/-- Active table address bits [63:6] -/
abbrev GRP_TBL.base (f : Nat) : Fld := ⟨grpBlk f + 0x0, 6, 58, .RO, 0⟩

/-! GRP_TBL_S (R404) -/

/-- Shadow table address bits [63:6] -/
abbrev GRP_TBL_S.base (f : Nat) : Fld := ⟨grpBlk f + 0x8, 6, 58, .RW, 0⟩

/-! GRP_SWAP (R404) -/

/-- Arm the shadow (R383) -/
abbrev GRP_SWAP.arm (f : Nat) : Fld := ⟨grpBlk f + 0x10, 0, 1, .W1S, 0⟩
/-- Armed and not yet swapped -/
abbrev GRP_SWAP.armed (f : Nat) : Fld := ⟨grpBlk f + 0x10, 1, 1, .RO, 0⟩
/-- The last step boundary swapped -/
abbrev GRP_SWAP.swapped (f : Nat) : Fld := ⟨grpBlk f + 0x10, 2, 1, .RO, 0⟩

/-! GRP_QSEL (R405) -/

/-- Selected group -/
abbrev GRP_QSEL.group (f : Nat) : Fld := ⟨grpBlk f + 0x18, 0, 12, .RW, 0⟩

/-! GRP_QCTL (R405) -/

/-- 1: the queue accepts commands -/
abbrev GRP_QCTL.enable (f g : Nat) : Fld := ⟨grpQBlk f g + 0x20, 0, 1, .RW, 0⟩
/-- 0 OFF, 1 DRAINING, 2 ON -/
abbrev GRP_QCTL.state (f g : Nat) : Fld := ⟨grpQBlk f g + 0x20, 1, 2, .RO, 0⟩
/-- Enable was written 1 during DRAINING -/
abbrev GRP_QCTL.rearm (f g : Nat) : Fld := ⟨grpQBlk f g + 0x20, 3, 1, .RO, 0⟩
/-- Queued commands, 0–16 -/
abbrev GRP_QCTL.depth (f g : Nat) : Fld := ⟨grpQBlk f g + 0x20, 4, 5, .RO, 0⟩
/-- Current collective number (R388) -/
abbrev GRP_QCTL.number (f g : Nat) : Fld := ⟨grpQBlk f g + 0x20, 9, 32, .RO, 0⟩

/-! GRP_ERR (R406) -/

/-- Code of R398 -/
abbrev GRP_ERR.status (f : Nat) : Fld := ⟨grpBlk f + 0x28, 0, 8, .RO, 0⟩
/-- Group -/
abbrev GRP_ERR.group (f : Nat) : Fld := ⟨grpBlk f + 0x28, 8, 12, .RO, 0⟩
/-- Pen of the group -/
abbrev GRP_ERR.pen (f : Nat) : Fld := ⟨grpBlk f + 0x28, 20, 3, .RO, 0⟩
/-- Reporting rank -/
abbrev GRP_ERR.rank (f : Nat) : Fld := ⟨grpBlk f + 0x28, 32, 16, .RO, 0⟩
/-- The fields hold a record; the next failure is recorded only after a clear -/
abbrev GRP_ERR.valid (f : Nat) : Fld := ⟨grpBlk f + 0x28, 63, 1, .W1C, 0⟩

/-! GRP_CNT (R407) -/

/-- Collectives completed with GC_DONE -/
abbrev GRP_CNT.done (f p : Nat) : Fld := ⟨grpBlk f + 0x100 + 8 * p, 0, 24, .RO, 0⟩
/-- Collectives ended with nonzero status -/
abbrev GRP_CNT.errs (f p : Nat) : Fld := ⟨grpBlk f + 0x100 + 8 * p, 24, 16, .RO, 0⟩
/-- Packets discarded under R383 -/
abbrev GRP_CNT.discard (f p : Nat) : Fld := ⟨grpBlk f + 0x100 + 8 * p, 40, 12, .RO, 0⟩
/-- REJECTs sent or received -/
abbrev GRP_CNT.rejects (f p : Nat) : Fld := ⟨grpBlk f + 0x100 + 8 * p, 52, 12, .RO, 0⟩

/-! BEL_OWN (R408) -/

/-- Owning pen of bell 16k + j, or 0xF for none -/
abbrev BEL_OWN.pen (b j : Nat) : Fld := ⟨bellBlk b + 8 * (j / 16), 4 * (j % 16), 4, .RWL, 0xF⟩

/-! BEL_CNT (R408) -/

/-- Rings discarded under R378 -/
abbrev BEL_CNT.refused (b : Nat) : Fld := ⟨bellBlk b + 0x800, 0, 16, .RO, 0⟩
/-- Rings that saturated (R376) -/
abbrev BEL_CNT.overflow (b : Nat) : Fld := ⟨bellBlk b + 0x800, 16, 16, .RO, 0⟩

/-! BEL_VAL (R408) -/

/-- Count; writes ignored while the owning pen has a context in RUN or HELD -/
abbrev BEL_VAL.count (b j : Nat) : Fld := ⟨bellBlk b + 0x8000 + 8 * j, 0, 32, .RW, 0⟩
/-- Error bit (R376, R379) -/
abbrev BEL_VAL.err (b j : Nat) : Fld := ⟨bellBlk b + 0x8000 + 8 * j, 32, 1, .W1C, 0⟩

/-! CKP_CTL (R438) -/

/-- 1: snapshots may be marked (R412) -/
abbrev CKP_CTL.enable (p : Nat) : Fld := ⟨ckpBlk p + 0x000, 0, 1, .RWL, 0⟩
/-- 1: XN-4800 all-stop mode (R418) -/
abbrev CKP_CTL.allstop (p : Nat) : Fld := ⟨ckpBlk p + 0x000, 1, 1, .RWL, 0⟩
/-- 1: AES-256-GCM payloads (R424) -/
abbrev CKP_CTL.encrypt (p : Nat) : Fld := ⟨ckpBlk p + 0x000, 2, 1, .RWL, 0⟩
/-- Root-of-trust key slot -/
abbrev CKP_CTL.key_slot (p : Nat) : Fld := ⟨ckpBlk p + 0x000, 4, 4, .RWL, 0⟩
/-- N − 1 of R427; values below 1 are refused at layout load -/
abbrev CKP_CTL.root_slots (p : Nat) : Fld := ⟨ckpBlk p + 0x000, 8, 4, .RWL, 0⟩
/-- Checkpoint group, whose rank 0 coordinates (R419) -/
abbrev CKP_CTL.group (p : Nat) : Fld := ⟨ckpBlk p + 0x000, 16, 12, .RWL, 0⟩

/-! CKP_POLICY (R438) -/

/-- Loss bound in steps, 1 to 2^32 − 1 (R431) -/
abbrev CKP_POLICY.max_lost (p : Nat) : Fld := ⟨ckpBlk p + 0x008, 0, 32, .RW, 0⟩
/-- CK_PARTIAL limit in seconds -/
abbrev CKP_POLICY.tmo_s (p : Nat) : Fld := ⟨ckpBlk p + 0x008, 32, 16, .RW, 60⟩
/-- Prior mean time between failures, seconds -/
abbrev CKP_POLICY.mtbf0_s (p : Nat) : Fld := ⟨ckpBlk p + 0x010, 0, 64, .RW, 0⟩

/-! CKP_NEXT (R438) -/

/-- First checkpoint step that may be marked (R412, R430) -/
abbrev CKP_NEXT.step (p : Nat) : Fld := ⟨ckpBlk p + 0x018, 0, 64, .RW, 0⟩

/-! CKP_GEN (R438) -/

/-- Generation of the next checkpoint (R420, R424) -/
abbrev CKP_GEN.gen (p : Nat) : Fld := ⟨ckpBlk p + 0x020, 0, 64, .RW, 0⟩

/-! CKP_STAT (R438) -/

/-- 0 IDLE, 1 DRAINING, 2 MANIFEST, 3 PUBLISHED -/
abbrev CKP_STAT.state (p : Nat) : Fld := ⟨ckpBlk p + 0x028, 0, 3, .RO, 0⟩
/-- R430 or R431 -/
abbrev CKP_STAT.bound_miss (p : Nat) : Fld := ⟨ckpBlk p + 0x028, 3, 1, .W1C, 0⟩
/-- This unit is the coordinator -/
abbrev CKP_STAT.coordinator (p : Nat) : Fld := ⟨ckpBlk p + 0x028, 4, 1, .RO, 0⟩
/-- Last i of R430 -/
abbrev CKP_STAT.interval (p : Nat) : Fld := ⟨ckpBlk p + 0x028, 32, 32, .RO, 0⟩

/-! CKP_LAST (R438) -/

/-- Checkpoint step of the newest published checkpoint -/
abbrev CKP_LAST.step (p : Nat) : Fld := ⟨ckpBlk p + 0x030, 0, 64, .RO, 0⟩

/-! CKP_COST (R438) -/

/-- Last C in milliseconds -/
abbrev CKP_COST.c_ms (p : Nat) : Fld := ⟨ckpBlk p + 0x038, 0, 32, .RO, 0⟩
/-- Last mtbf estimate in seconds -/
abbrev CKP_COST.mtbf_s (p : Nat) : Fld := ⟨ckpBlk p + 0x038, 32, 32, .RO, 0⟩

/-! CKP_ERR (R438) -/

/-- Code of R421 or R433 -/
abbrev CKP_ERR.reason (p : Nat) : Fld := ⟨ckpBlk p + 0x040, 0, 8, .RO, 0⟩
/-- Checkpoint step concerned, bits [47:0] -/
abbrev CKP_ERR.step (p : Nat) : Fld := ⟨ckpBlk p + 0x040, 8, 48, .RO, 0⟩
/-- The fields hold a record; the next error is recorded only after a clear -/
abbrev CKP_ERR.valid (p : Nat) : Fld := ⟨ckpBlk p + 0x040, 63, 1, .W1C, 0⟩

/-! CKP_SHED (R439) -/

/-- Shed pages reserved, 0 to 1,572,864 -/
abbrev CKP_SHED.size (p s : Nat) : Fld := ⟨ckpBlk p + 0x100 + 8 * s, 0, 21, .RO, 0⟩
/-- Shed pages in use now -/
abbrev CKP_SHED.in_use (p s : Nat) : Fld := ⟨ckpBlk p + 0x100 + 8 * s, 21, 21, .RO, 0⟩
/-- Highest in_use this step -/
abbrev CKP_SHED.peak (p s : Nat) : Fld := ⟨ckpBlk p + 0x100 + 8 * s, 42, 21, .RO, 0⟩
/-- A write waits on this stack (R413) -/
abbrev CKP_SHED.waiting (p s : Nat) : Fld := ⟨ckpBlk p + 0x100 + 8 * s, 63, 1, .RO, 0⟩

/-! LAY_CTL (R458) -/

/-- Load the image at LAY_IMAGE (R450) -/
abbrev LAY_CTL.load : Fld := ⟨layBlk + 0x0, 0, 1, .W1S, 0⟩
/-- Check and arm the image at LAY_SHADOW (R452) -/
abbrev LAY_CTL.arm : Fld := ⟨layBlk + 0x0, 1, 1, .W1S, 0⟩
/-- Discard the armed shadow (R454) -/
abbrev LAY_CTL.disarm : Fld := ⟨layBlk + 0x0, 2, 1, .W1S, 0⟩
/-- Unload the active image (R450) -/
abbrev LAY_CTL.unload : Fld := ⟨layBlk + 0x0, 3, 1, .W1S, 0⟩

/-! LAY_IMAGE (R459) -/

/-- Image address; writes outside state NONE are ignored -/
abbrev LAY_IMAGE.base : Fld := ⟨layBlk + 0x8, 6, 58, .RW, 0⟩

/-! LAY_SHADOW (R459) -/

/-- Shadow address; writes while the shadow is CHECKING or ARMED are ignored -/
abbrev LAY_SHADOW.base : Fld := ⟨layBlk + 0x10, 6, 58, .RW, 0⟩

/-! LAY_ID (R459) -/

/-- Identifier of the active image -/
abbrev LAY_ID.id : Fld := ⟨layBlk + 0x18, 0, 64, .RO, 0⟩

/-! LAY_STATUS (R460) -/

/-- 0 NONE, 1 LOADING, 2 ACTIVE, 3 UNLOADING -/
abbrev LAY_STATUS.state : Fld := ⟨layBlk + 0x20, 0, 2, .RO, 0⟩
/-- 0 none, 1 CHECKING, 2 ARMED -/
abbrev LAY_STATUS.shadow : Fld := ⟨layBlk + 0x20, 4, 2, .RO, 0⟩
/-- Code of R451 -/
abbrev LAY_STATUS.reason : Fld := ⟨layBlk + 0x20, 8, 8, .RO, 0x00⟩
/-- Section type of the failure, 0 for the header -/
abbrev LAY_STATUS.section : Fld := ⟨layBlk + 0x20, 16, 8, .RO, 0⟩
/-- Bit p: pen p has not taken its share of the shadow -/
abbrev LAY_STATUS.pending : Fld := ⟨layBlk + 0x20, 24, 8, .RO, 0⟩
/-- Entry, range, port, group, bell or table index of the failure -/
abbrev LAY_STATUS.index : Fld := ⟨layBlk + 0x20, 32, 32, .RO, 0⟩

/-! PEN_CTL (R461) -/

/-- 1: the pen is to be ON -/
abbrev PEN_CTL.enable (p : Nat) : Fld := ⟨penBlk p + 0x0, 0, 1, .RW, 0⟩
/-- 0 OFF, 1 DRAINING, 2 ON -/
abbrev PEN_CTL.state (p : Nat) : Fld := ⟨penBlk p + 0x0, 1, 2, .RO, 0⟩
/-- Enable was written 1 during DRAINING -/
abbrev PEN_CTL.rearm (p : Nat) : Fld := ⟨penBlk p + 0x0, 3, 1, .RO, 0⟩

/-! PEN_INFO (R461) -/

/-- Half-die mask -/
abbrev PEN_INFO.halves (p : Nat) : Fld := ⟨penBlk p + 0x8, 0, 8, .RO, 0⟩
/-- Clock grade code -/
abbrev PEN_INFO.grade (p : Nat) : Fld := ⟨penBlk p + 0x8, 8, 3, .RO, 0⟩
/-- The pen exists -/
abbrev PEN_INFO.used (p : Nat) : Fld := ⟨penBlk p + 0x8, 11, 1, .RO, 0⟩
/-- The job may shrink (R435) -/
abbrev PEN_INFO.shrinkable (p : Nat) : Fld := ⟨penBlk p + 0x8, 12, 1, .RO, 0⟩
/-- Power allowance, 0.1 W units -/
abbrev PEN_INFO.allowance (p : Nat) : Fld := ⟨penBlk p + 0x8, 32, 32, .RO, 0⟩

/-! PKG_OPT (R462) -/

/-- 1: the engine is to be ON; set at load when any of its ports is enabled -/
abbrev PKG_OPT.enable (n : Nat) : Fld := ⟨layBlk + 0x0800 + 8 * n, 0, 1, .RW, 0⟩
/-- 0 OFF, 1 DRAINING, 2 ON -/
abbrev PKG_OPT.state (n : Nat) : Fld := ⟨layBlk + 0x0800 + 8 * n, 1, 2, .RO, 0⟩
/-- Enable was written 1 during DRAINING -/
abbrev PKG_OPT.rearm (n : Nat) : Fld := ⟨layBlk + 0x0800 + 8 * n, 3, 1, .RO, 0⟩

/-! CD_TIME (R484) -/

/-- Package time (R479) -/
abbrev CD_TIME.ns : Fld := ⟨cdBlk + 0x100, 0, 64, .RO, 0⟩

/-! CD_PTP_CTL (R484) -/

/-- 1: discipline package time -/
abbrev CD_PTP_CTL.enable : Fld := ⟨cdBlk + 0x108, 0, 1, .RW, 0⟩
/-- 0 Layer 2, 1 UDP over IPv4 -/
abbrev CD_PTP_CTL.udp : Fld := ⟨cdBlk + 0x108, 1, 1, .RW, 0⟩
/-- Domain number -/
abbrev CD_PTP_CTL.domain : Fld := ⟨cdBlk + 0x108, 8, 8, .RW, 0⟩
/-- Slew limit of R480 -/
abbrev CD_PTP_CTL.step_us : Fld := ⟨cdBlk + 0x108, 16, 32, .RW, 1000⟩

/-! CD_PTP_STAT (R484) -/

/-- A time transmitter is heard and the offset is within step_us -/
abbrev CD_PTP_STAT.locked : Fld := ⟨cdBlk + 0x110, 0, 1, .RO, 0⟩
/-- Last measured offset, signed -/
abbrev CD_PTP_STAT.offset_ns : Fld := ⟨cdBlk + 0x110, 32, 32, .RO, 0⟩

/-! CD_SCORE (R484) -/

/-- Scoring request port; 0 disables steering -/
abbrev CD_SCORE.udp_port : Fld := ⟨cdBlk + 0x118, 0, 16, .RW, 0⟩

/-! CD_DMA_STAT (R484) -/

/-- Bit n: channel n has a descriptor in flight -/
abbrev CD_DMA_STAT.busy : Fld := ⟨cdBlk + 0x200, 0, 16, .RO, 0⟩
/-- Bit n: channel n stopped on a nonzero status (R470) -/
abbrev CD_DMA_STAT.stopped : Fld := ⟨cdBlk + 0x200, 16, 16, .RO, 0⟩

/-! CD_DMAQ (R485) -/

/-- Ring start in SRAM, 64-byte units; writes ignored unless head equals tail -/
abbrev CD_DMAQ.base (n : Nat) : Fld := ⟨cdBlk + 0x300 + 8 * n, 0, 20, .RW, 0⟩
/-- log2 of entries − 4, 0–11, so 16 to 32,768; a write of 12–15 leaves the field unchanged; writes ignored unless head equals tail -/
abbrev CD_DMAQ.size (n : Nat) : Fld := ⟨cdBlk + 0x300 + 8 * n, 20, 4, .RW, 0⟩
/-- Pen, or 0xF for system (R471); writes ignored unless head equals tail -/
abbrev CD_DMAQ.owner (n : Nat) : Fld := ⟨cdBlk + 0x300 + 8 * n, 24, 4, .RW, 0xF⟩
/-- Next slot software fills; a write restarts a stopped channel -/
abbrev CD_DMAQ.tail (n : Nat) : Fld := ⟨cdBlk + 0x300 + 8 * n, 32, 16, .RW, 0⟩
/-- Next slot the channel completes -/
abbrev CD_DMAQ.head (n : Nat) : Fld := ⟨cdBlk + 0x300 + 8 * n, 48, 16, .RO, 0⟩

/-! CD_WATCH (R486) -/

/-- 1: the watch is tested (R472) -/
abbrev CD_WATCH.enable (n : Nat) : Fld := ⟨cdBlk + 0x400 + 8 * n, 0, 1, .RW, 0⟩
/-- The watch has fired; while set, the watch is not tested (R472) -/
abbrev CD_WATCH.pending (n : Nat) : Fld := ⟨cdBlk + 0x400 + 8 * n, 1, 1, .W1C, 0⟩
/-- It fired on a bell with err set -/
abbrev CD_WATCH.error (n : Nat) : Fld := ⟨cdBlk + 0x400 + 8 * n, 2, 1, .W1C, 0⟩
/-- Main core interrupted -/
abbrev CD_WATCH.core (n : Nat) : Fld := ⟨cdBlk + 0x400 + 8 * n, 3, 5, .RW, 0⟩
/-- [11:0] bell index, [14:12] compute die 0–3 -/
abbrev CD_WATCH.bell (n : Nat) : Fld := ⟨cdBlk + 0x400 + 8 * n, 8, 15, .RW, 0⟩
/-- 1–65,535; a write of 0 is ignored -/
abbrev CD_WATCH.threshold (n : Nat) : Fld := ⟨cdBlk + 0x400 + 8 * n, 32, 16, .RW, 1⟩

/-! CD_ETH (R487) -/

/-- Link up -/
abbrev CD_ETH.up (n : Nat) : Fld := ⟨cdBlk + 0x700 + 8 * n, 0, 1, .RO, 0⟩
/-- Bit 1 storage, bit 2 request; ports 0–3 only -/
abbrev CD_ETH.role (n : Nat) : Fld := ⟨cdBlk + 0x700 + 8 * n, 1, 2, .RW, 3⟩
/-- Port 4 only: 0 RS-FEC, 1 BASE-R FEC, 2 none -/
abbrev CD_ETH.fec (n : Nat) : Fld := ⟨cdBlk + 0x700 + 8 * n, 3, 2, .RW, 0⟩
/-- Frames received with a bad FCS since power-on -/
abbrev CD_ETH.fcs_err (n : Nat) : Fld := ⟨cdBlk + 0x700 + 8 * n, 16, 16, .RO, 0⟩
/-- Frames dropped for lack of buffer since power-on -/
abbrev CD_ETH.rx_drop (n : Nat) : Fld := ⟨cdBlk + 0x700 + 8 * n, 32, 16, .RO, 0⟩

/-! CD_BOOT (R488) -/

/-- Firmware slot running: 0 A, 1 B -/
abbrev CD_BOOT.slot : Fld := ⟨cdBlk + 0x800, 0, 1, .RO, 0⟩
/-- Slot tried first at the next boot -/
abbrev CD_BOOT.prefer : Fld := ⟨cdBlk + 0x800, 1, 1, .RW, 0⟩
/-- Both slots failed (R481) -/
abbrev CD_BOOT.fail : Fld := ⟨cdBlk + 0x800, 2, 1, .RO, 0⟩
/-- Fused rollback counter -/
abbrev CD_BOOT.rollback : Fld := ⟨cdBlk + 0x800, 16, 16, .RO, Config.rollback.toNat⟩
/-- Root-of-trust commands refused (R482) -/
abbrev CD_BOOT.rot_refused : Fld := ⟨cdBlk + 0x800, 32, 16, .RO, 0⟩

/-! CD_PCIE (R488) -/

/-- 0 disabled, 1 root port, 2 endpoint -/
abbrev CD_PCIE.role : Fld := ⟨cdBlk + 0x808, 0, 2, .RO, 0⟩
/-- Trained width in lanes -/
abbrev CD_PCIE.width : Fld := ⟨cdBlk + 0x808, 2, 5, .RO, 0⟩
/-- Trained speed code, as in the PCIE section -/
abbrev CD_PCIE.speed : Fld := ⟨cdBlk + 0x808, 7, 3, .RO, 0⟩
/-- Index of the system range of R478 among the image's system ranges; writes ignored while the link is up -/
abbrev CD_PCIE.window : Fld := ⟨cdBlk + 0x808, 12, 4, .RW, 0⟩

/-! FRZ_CTL (R507) -/

/-- Request a freeze (R497) -/
abbrev FRZ_CTL.req : Fld := ⟨frzBlk + 0x000, 0, 1, .W1S, 0⟩
/-- Scope of req: 0 pen, 1 package -/
abbrev FRZ_CTL.pkg : Fld := ⟨frzBlk + 0x000, 1, 1, .RW, 0⟩
/-- Pen of a pen-scope req -/
abbrev FRZ_CTL.pen : Fld := ⟨frzBlk + 0x000, 2, 3, .RW, 0⟩
/-- 1: a pen-scope req takes effect after STEP action 4 -/
abbrev FRZ_CTL.at_boundary : Fld := ⟨frzBlk + 0x000, 5, 1, .RW, 0⟩
/-- Resume a resumable freeze (R501) -/
abbrev FRZ_CTL.resume : Fld := ⟨frzBlk + 0x000, 8, 1, .W1S, 0⟩

/-! FRZ_STAT (R507) -/

/-- 0 running, 1 die-level, 2 package -/
abbrev FRZ_STAT.state : Fld := ⟨frzBlk + 0x008, 0, 2, .RO, 0⟩
/-- Bit 2d + h: half-die frozen -/
abbrev FRZ_STAT.halves : Fld := ⟨frzBlk + 0x008, 2, 8, .RO, 0⟩
/-- Cause code of R497 -/
abbrev FRZ_STAT.cause : Fld := ⟨frzBlk + 0x008, 10, 3, .RO, 0⟩
/-- R500 -/
abbrev FRZ_STAT.resumable : Fld := ⟨frzBlk + 0x008, 13, 1, .RO, 0⟩
/-- A further trigger arrived (R502) -/
abbrev FRZ_STAT.more : Fld := ⟨frzBlk + 0x008, 14, 1, .RO, 0⟩

/-! FRZ_STEP (R507) -/

/-- LDG_STEP of the frozen pen at the freeze -/
abbrev FRZ_STEP.step : Fld := ⟨frzBlk + 0x010, 0, 64, .RO, 0⟩

/-! FRZ_RO (R507) -/

/-- 1: service-port read-out (R503); writes while frozen ignored -/
abbrev FRZ_RO.enable : Fld := ⟨frzBlk + 0x018, 0, 1, .RW, 0⟩
/-- Read-out UDP port -/
abbrev FRZ_RO.udp_port : Fld := ⟨frzBlk + 0x018, 16, 16, .RW, 0⟩

/-! FRZ_TRIG (R508) -/

/-- A pen fault freezes the pen -/
abbrev FRZ_TRIG.on_fault (p : Nat) : Fld := ⟨frzBlk + 0x100 + 8 * p, 0, 1, .RW, 0⟩
/-- Cores with poison_seen, or poisoned memory reads -/
abbrev FRZ_TRIG.poison (p : Nat) : Fld := ⟨frzBlk + 0x100 + 8 * p, 1, 1, .RW, 0⟩
/-- Core converter or yard saturations -/
abbrev FRZ_TRIG.sat (p : Nat) : Fld := ⟨frzBlk + 0x100 + 8 * p, 2, 1, .RW, 0⟩
/-- Pivot perturbations -/
abbrev FRZ_TRIG.pert (p : Nat) : Fld := ⟨frzBlk + 0x100 + 8 * p, 3, 1, .RW, 0⟩
/-- Deadlines reached -/
abbrev FRZ_TRIG.deadline (p : Nat) : Fld := ⟨frzBlk + 0x100 + 8 * p, 4, 1, .RW, 0⟩
/-- NaN imports -/
abbrev FRZ_TRIG.nan (p : Nat) : Fld := ⟨frzBlk + 0x100 + 8 * p, 5, 1, .RW, 0⟩
/-- GOV_STALE -/
abbrev FRZ_TRIG.gov_stale (p : Nat) : Fld := ⟨frzBlk + 0x100 + 8 * p, 6, 1, .RW, 0⟩
/-- Uncorrectable stall, loft or memory errors -/
abbrev FRZ_TRIG.ue (p : Nat) : Fld := ⟨frzBlk + 0x100 + 8 * p, 7, 1, .RW, 0⟩

/-! PKG_FAULT (R509) -/

/-- Code of R493 or R494 -/
abbrev PKG_FAULT.code : Fld := ⟨frzBlk + 0x20, 0, 8, .RO, 0⟩
/-- 0–3 CP0–CP3, 4 FB0, 5 FB1, 6 control die, 7 package -/
abbrev PKG_FAULT.die : Fld := ⟨frzBlk + 0x20, 8, 3, .RO, 0⟩
/-- The fields hold a record; the next fault is recorded only after a clear -/
abbrev PKG_FAULT.valid : Fld := ⟨frzBlk + 0x20, 63, 1, .W1C, 0⟩

/-! PKG_RST (R509) -/

/-- Warm reset -/
abbrev PKG_RST.warm : Fld := ⟨frzBlk + 0x28, 0, 1, .W1S, 0⟩
/-- A die reset was refused (R505) -/
abbrev PKG_RST.refused : Fld := ⟨frzBlk + 0x28, 1, 1, .W1C, 0⟩
/-- Bit d: reset compute die d -/
abbrev PKG_RST.die : Fld := ⟨frzBlk + 0x28, 4, 4, .W1S, 0⟩
/-- Bit p: reset pen p -/
abbrev PKG_RST.pen : Fld := ⟨frzBlk + 0x28, 16, 8, .W1S, 0⟩

/-! PWR_CAP (R530) -/

/-- Active cap, W -/
abbrev PWR_CAP.cap : Fld := ⟨pwrBlk + 0x000, 0, 16, .RO, 0⟩
/-- p_fixed of the image, 0.1 W units -/
abbrev PWR_CAP.p_fixed : Fld := ⟨pwrBlk + 0x000, 16, 32, .RO, 0⟩

/-! PWR_IN (R530) -/

/-- Input voltage, mV -/
abbrev PWR_IN.vin : Fld := ⟨pwrBlk + 0x008, 0, 16, .RO, 0⟩
/-- Input current, 10 mA units -/
abbrev PWR_IN.iin : Fld := ⟨pwrBlk + 0x008, 16, 16, .RO, 0⟩
/-- p10, W (R513) -/
abbrev PWR_IN.p10 : Fld := ⟨pwrBlk + 0x008, 32, 16, .RO, 0⟩
/-- Highest p10 since power-on or clr_peak, W -/
abbrev PWR_IN.peak : Fld := ⟨pwrBlk + 0x008, 48, 16, .RO, 0⟩

/-! PWR_STRETCH (R530) -/

/-- Current L -/
abbrev PWR_STRETCH.level : Fld := ⟨pwrBlk + 0x010, 0, 4, .RO, 0⟩
/-- Stretch events since power-on -/
abbrev PWR_STRETCH.events : Fld := ⟨pwrBlk + 0x010, 8, 32, .RO, 0⟩

/-! PWR_STRETCH_NS (R530) -/

/-- Stretch time since power-on, ns -/
abbrev PWR_STRETCH_NS.ns : Fld := ⟨pwrBlk + 0x018, 0, 64, .RO, 0⟩

/-! PWR_STAT (R530) -/

/-- R513 -/
abbrev PWR_STAT.cap_miss : Fld := ⟨pwrBlk + 0x020, 0, 1, .W1C, 0⟩
/-- Brief under-voltage (R512) -/
abbrev PWR_STAT.uv : Fld := ⟨pwrBlk + 0x020, 1, 1, .W1C, 0⟩
/-- Brief over-voltage (R512) -/
abbrev PWR_STAT.ov : Fld := ⟨pwrBlk + 0x020, 2, 1, .W1C, 0⟩
/-- Restart PWR_IN.peak; reads 0 -/
abbrev PWR_STAT.clr_peak : Fld := ⟨pwrBlk + 0x020, 3, 1, .W1S, 0⟩
/-- A sensor is at or above its warning threshold -/
abbrev PWR_STAT.therm_warn : Fld := ⟨pwrBlk + 0x020, 4, 1, .RO, 0⟩

/-! PKG_ID (R530) -/

/-- 0x0A18 or 0x0A15, as in the PACKAGE section -/
abbrev PKG_ID.part : Fld := ⟨pwrBlk + 0x030, 0, 16, .RO, Config.partCode⟩
/-- Silicon stepping -/
abbrev PKG_ID.stepping : Fld := ⟨pwrBlk + 0x030, 16, 8, .RO, Config.stepping.toNat⟩
/-- Package serial number -/
abbrev PKG_ID.serial : Fld := ⟨pwrBlk + 0x030, 32, 32, .RO, Config.serial.toNat⟩

/-! PWR_THERM (R531) -/

/-- Temperature, 1/16 °C, signed -/
abbrev PWR_THERM.temp (s : Nat) : Fld := ⟨pwrBlk + 0x100 + 8 * s, 0, 16, .RO, 0⟩
/-- Highest temp since power-on -/
abbrev PWR_THERM.max (s : Nat) : Fld := ⟨pwrBlk + 0x100 + 8 * s, 16, 16, .RO, 0⟩
/-- Warning threshold, °C; writes above the sensor's trip temperature are ignored -/
abbrev PWR_THERM.warn (s : Nat) : Fld := ⟨pwrBlk + 0x100 + 8 * s, 32, 8, .RW, 90⟩
/-- temp is at or above warn -/
abbrev PWR_THERM.over (s : Nat) : Fld := ⟨pwrBlk + 0x100 + 8 * s, 40, 1, .RO, 0⟩

/-! ## The fields of a block -/

/-- Every field of the block at coreBlk d c k. -/
def coreRegs (d c k : Nat) : List Fld :=
  [CORE_STATUS.fault d c k,
    CORE_STATUS.fault_code d c k,
    CORE_STATUS.poison_seen d c k,
    CORE_STATUS.lane_sat d c k,
    CORE_STATUS.fu_domain d c k,
    CORE_FAULT_BEAT.beat d c k,
    CORE_ECC.stall_ce d c k,
    CORE_ECC.stall_ue d c k,
    CORE_ECC.acc_parity d c k,
    CORE_ECC_ADDR.word d c k,
    CORE_ECC_ADDR.valid d c k,
    CORE_INJ.stall_ce d c k,
    CORE_INJ.stall_ue d c k] ++
  ((List.range 4).flatMap fun j => [CORE_SM.value d c k j]) ++
  ((List.range 4).flatMap fun j => [CORE_SMCTL.poison d c k j, CORE_SMCTL.sat d c k j, CORE_SMCTL.kind d c k j])

/-- Every field of the block at clusterBlk d c. -/
def clusterRegs (d c : Nat) : List Fld :=
  [CORE_LOFT_ECC.ce d c,
    CORE_LOFT_ECC.ue d c,
    CORE_LOFT_ECC.quarantine_pending d c,
    CORE_LOFT_UEADDR.word d c,
    CORE_LOFT_UEADDR.valid d c,
    CORE_LOFT_INJ.ce d c,
    CORE_LOFT_INJ.ue d c,
    CORE_PIV_CFG.t d c,
    CORE_PIV_STATUS.busy d c,
    CORE_PIV_STATUS.slot_fault d c,
    CORE_PIV_STATUS.bad_entry d c,
    CORE_PIV_STATUS.poison d c,
    CORE_PIV_STATUS.entry d c,
    CORE_PIV_CNT.pert d c,
    CORE_PIV_CNT.neg d c,
    CORE_PIV_CNT.sat d c,
    CORE_PIV_FIRST.col d c,
    CORE_PIV_FIRST.valid d c,
    CORE_PIV_STEP.pert d c,
    CORE_PIV_STEP.sat d c]

/-- Every field of the block at seqDieBlk d. -/
def seqDieRegs (d : Nat) : List Fld :=
  [SEQ_DIE.split d]

/-- Every field of the block at ctxBlk d h. -/
def ctxRegs (d h : Nat) : List Fld :=
  [SEQ_CTL.load d h,
    SEQ_CTL.go d h,
    SEQ_CTL.region_base d h,
    SEQ_CTL.region_size d h,
    SEQ_STATUS.state d h,
    SEQ_STATUS.held_reason d h,
    SEQ_STATUS.fault_code d h,
    SEQ_STATUS.fault_cluster d h,
    SEQ_STATUS.fault_core d h,
    SEQ_STATUS.loops d h,
    SEQ_PC.record d h,
    SEQ_CYC.cycles d h,
    SEQ_HELD.cycles d h,
    SEQ_AWAIT_TMO.cycles d h,
    SEQ_STORE_ECC.ce d h,
    SEQ_STORE_ECC.ue d h,
    SEQ_STORE_ECC.ue_unit d h,
    SEQ_STORE_ECC.valid d h,
    SEQ_LOAD.reason d h,
    SEQ_LOAD.detail d h,
    SEQ_LOAD.index d h,
    SEQ_DMA_ERR.status d h,
    SEQ_DMA_ERR.detail d h,
    SEQ_DMA_ERR.rudiment d h,
    SEQ_DMA_ERR.valid d h,
    SEQ_DMA_ERRPOS.offset d h,
    SEQ_SEED_LO.k0 d h,
    SEQ_SEED_HI.k1 d h,
    SEQ_GOV_PARAM.enable d h,
    SEQ_GOV_PARAM.base d h,
    SEQ_GOV_IN.base d h,
    SEQ_GOV_STAT.changed d h,
    SEQ_GOV_STAT.stale d h,
    SEQ_GOV_STAT.rb_sat d h,
    SEQ_GOV_STAT.rb_unf d h,
    SEQ_DL_CTL.mode d h,
    SEQ_DL_CTL.budget d h,
    SEQ_DL_TIME.time d h,
    SEQ_DL_POINT.point d h,
    SEQ_DL_POINT.expired d h,
    SEQ_DL_POINT.by_budget d h,
    SEQ_DL_POINT.by_wall d h,
    SEQ_DL_POINT.deadlines d h] ++
  ((List.range 8).flatMap fun j => [SEQ_LC.value d h j, SEQ_LC.active d h j, SEQ_LC.count d h j])

/-- Every field of the block at xchBlk y. -/
def xchRegs (y : Nat) : List Fld :=
  [YRD_XCH_CTL.enable y,
    YRD_XCH_CTL.state y,
    YRD_XCH_CTL.rearm y,
    YRD_XCH_STAT.busy y,
    YRD_XCH_STAT.window y,
    YRD_XCH_CNT.cmds y,
    YRD_XCH_CNT.errs y,
    YRD_XCH_CNT.sat y,
    YRD_XCH_CNT.unf y,
    YRD_XCH_ERR.status y,
    YRD_XCH_ERR.window y,
    YRD_XCH_ERR.valid y,
    YRD_XCH_NAN.gidx y] ++
  ((List.range 9).flatMap fun w => [YRD_XCH_CTL.owner y w]) ++
  ((List.range 9).flatMap fun w => [YRD_XCH_STAT.depth y w, YRD_XCH_STAT.full y w])

/-- Every field of the block at yardBlk y. -/
def yardRegs (y : Nat) : List Fld :=
  [YRD_CTL.scrub_en y,
    YRD_CTL.scrub_hours y,
    YRD_CTL.trr_thresh y,
    YRD_STATUS.trained y,
    YRD_STATUS.self_refresh y,
    YRD_STATUS.fold y,
    YRD_ARB.p0_cap y,
    YRD_ARB.p2_floor y,
    YRD_ARB.p3_floor y,
    YRD_RETIRE.mask y,
    YRD_TRFAIL.mask y,
    YRD_ECC.ce y,
    YRD_ECC.ue y,
    YRD_ECC.poison_rd y,
    YRD_ECC_ADDR.offset y,
    YRD_ECC_ADDR.scrub y,
    YRD_ECC_ADDR.valid y,
    YRD_STEP.hot_ch y,
    YRD_STEP.hot_ratio y,
    YRD_STEP.trr y,
    YRD_REFSTALL.ns y,
    YRD_INJ.ce y,
    YRD_INJ.ue y,
    YRD_INJ.poison y,
    YRD_INJ.ch y,
    YRD_CACHE_CNT.hits y,
    YRD_CACHE_CNT.misses y,
    YRD_CACHE_CNT.atomics y] ++
  ((List.range 8).flatMap fun p => [YRD_CACHE_WAYS.pen y p])

/-- Every field of the block at chanBlk y c. -/
def chanRegs (y c : Nat) : List Fld :=
  [MCH_STAT.retired y c,
    MCH_STAT.failed y c,
    MCH_STAT.donor y c,
    MCH_ECC.ce y c,
    MCH_ECC.ue y c,
    MCH_ECC.trr y c] ++
  ((List.range 4).flatMap fun p => [MCH_SLOTS.cls y c p])

/-- Every field of the block at engBlk y. -/
def engRegs (y : Nat) : List Fld :=
  [YRD_ENG_CTL.enable y,
    YRD_ENG_CTL.state y,
    YRD_ENG_CTL.rearm y,
    YRD_ENG_STAT.busy y,
    YRD_ENG_STAT.window y,
    YRD_ENG_CNT.cmds y,
    YRD_ENG_CNT.errs y,
    YRD_ENG_CNT.sat y,
    YRD_ENG_CNT.unf y,
    YRD_ENG_ERR.status y,
    YRD_ENG_ERR.window y,
    YRD_ENG_ERR.row y,
    YRD_ENG_ERR.valid y] ++
  ((List.range 9).flatMap fun w => [YRD_ENG_CTL.owner y w]) ++
  ((List.range 9).flatMap fun w => [YRD_ENG_STAT.depth y w, YRD_ENG_STAT.full y w])

/-- Every field of the block at ldgBlk p. -/
def ldgRegs (p : Nat) : List Fld :=
  [LDG_CTL.enable p,
    LDG_CTL.full_mode p,
    LDG_BASE.base p,
    LDG_SIZE.size p,
    LDG_HEAD.offset p,
    LDG_TAIL.offset p,
    LDG_STAT.full_hold p,
    LDG_STAT.lost p,
    LDG_STEP.step p,
    LDG_JOB.tag p,
    LDG_TEAM.enable p,
    LDG_TEAM.scope p,
    LDG_TEAM.lagged p,
    LDG_TEAM.lag p,
    LDG_TEAM.solo p,
    LDG_TEAM.port p,
    LDG_TEAM.tmo_us p,
    LDG_TEAM.partner p,
    LDG_TEAM_IN.base p,
    LDG_TEAM_MM.step p,
    LDG_TEAM_STAT.reason p,
    LDG_TEAM_STAT.solo_active p,
    LDG_TEAM_STAT.late p,
    LDG_TEAM_STAT.valid p,
    LDG_TEAM_LOC0.t p,
    LDG_TEAM_LOC1.t p,
    LDG_TEAM_PAR0.t p,
    LDG_TEAM_PAR1.t p]

/-- Every field of the block at fabBlk f. -/
def fabRegs (f : Nat) : List Fld :=
  [FAB_ID.package f,
    FAB_ID.die f,
    FAB_CTL.exp_cap f,
    FAB_CTL.max_hops f,
    FAB_CNT.unroute f,
    FAB_CNT.hops f,
    FAB_CNT.lost f,
    FAB_CNT.addr f,
    FAB_ERR.reason f,
    FAB_ERR.pen f,
    FAB_ERR.package f,
    FAB_ERR.valid f]

/-- Every field of the block at portBlk n. -/
def portRegs (n : Nat) : List Fld :=
  [PRT_CTL.enable n,
    PRT_CTL.state n,
    PRT_CTL.rearm n,
    PRT_CTL.owner n,
    PRT_CTL.auto_retrain n,
    PRT_CTL.drain_us n,
    PRT_LINK.link n,
    PRT_LINK.reason n,
    PRT_LINK.optical n,
    PRT_LINK.rtt_ns n,
    PRT_NBR.package n,
    PRT_NBR.port n,
    PRT_NBR.check n,
    PRT_PEER.package n,
    PRT_PEER.port n,
    PRT_CNT.retries n,
    PRT_CNT.fec_ce n,
    PRT_CNT.crc_fail n,
    PRT_CNT.down n]

/-- Every field of the block at grpBlk f. -/
def grpRegs (f : Nat) : List Fld :=
  [GRP_TBL.base f,
    GRP_TBL_S.base f,
    GRP_SWAP.arm f,
    GRP_SWAP.armed f,
    GRP_SWAP.swapped f,
    GRP_QSEL.group f,
    GRP_ERR.status f,
    GRP_ERR.group f,
    GRP_ERR.pen f,
    GRP_ERR.rank f,
    GRP_ERR.valid f] ++
  ((List.range 8).flatMap fun p => [GRP_CNT.done f p, GRP_CNT.errs f p, GRP_CNT.discard f p, GRP_CNT.rejects f p])

/-- Every field of the block at grpQBlk f g. -/
def grpQRegs (f g : Nat) : List Fld :=
  [GRP_QCTL.enable f g,
    GRP_QCTL.state f g,
    GRP_QCTL.rearm f g,
    GRP_QCTL.depth f g,
    GRP_QCTL.number f g]

/-- Every field of the block at ckpBlk p. -/
def ckpRegs (p : Nat) : List Fld :=
  [CKP_CTL.enable p,
    CKP_CTL.allstop p,
    CKP_CTL.encrypt p,
    CKP_CTL.key_slot p,
    CKP_CTL.root_slots p,
    CKP_CTL.group p,
    CKP_POLICY.max_lost p,
    CKP_POLICY.tmo_s p,
    CKP_POLICY.mtbf0_s p,
    CKP_NEXT.step p,
    CKP_GEN.gen p,
    CKP_STAT.state p,
    CKP_STAT.bound_miss p,
    CKP_STAT.coordinator p,
    CKP_STAT.interval p,
    CKP_LAST.step p,
    CKP_COST.c_ms p,
    CKP_COST.mtbf_s p,
    CKP_ERR.reason p,
    CKP_ERR.step p,
    CKP_ERR.valid p] ++
  ((List.range 8).flatMap fun s => [CKP_SHED.size p s, CKP_SHED.in_use p s, CKP_SHED.peak p s, CKP_SHED.waiting p s])

/-- Every field of the block at layBlk. -/
def layRegs : List Fld :=
  [LAY_CTL.load,
    LAY_CTL.arm,
    LAY_CTL.disarm,
    LAY_CTL.unload,
    LAY_IMAGE.base,
    LAY_SHADOW.base,
    LAY_ID.id,
    LAY_STATUS.state,
    LAY_STATUS.shadow,
    LAY_STATUS.reason,
    LAY_STATUS.section,
    LAY_STATUS.pending,
    LAY_STATUS.index] ++
  ((List.range 4).flatMap fun n => [PKG_OPT.enable n, PKG_OPT.state n, PKG_OPT.rearm n])

/-- Every field of the block at penBlk p. -/
def penRegs (p : Nat) : List Fld :=
  [PEN_CTL.enable p,
    PEN_CTL.state p,
    PEN_CTL.rearm p,
    PEN_INFO.halves p,
    PEN_INFO.grade p,
    PEN_INFO.used p,
    PEN_INFO.shrinkable p,
    PEN_INFO.allowance p]

/-- Every field of the block at cdBlk. -/
def cdRegs : List Fld :=
  [CD_TIME.ns,
    CD_PTP_CTL.enable,
    CD_PTP_CTL.udp,
    CD_PTP_CTL.domain,
    CD_PTP_CTL.step_us,
    CD_PTP_STAT.locked,
    CD_PTP_STAT.offset_ns,
    CD_SCORE.udp_port,
    CD_DMA_STAT.busy,
    CD_DMA_STAT.stopped,
    CD_BOOT.slot,
    CD_BOOT.prefer,
    CD_BOOT.fail,
    CD_BOOT.rollback,
    CD_BOOT.rot_refused,
    CD_PCIE.role,
    CD_PCIE.width,
    CD_PCIE.speed,
    CD_PCIE.window] ++
  ((List.range 16).flatMap fun n => [CD_DMAQ.base n, CD_DMAQ.size n, CD_DMAQ.owner n, CD_DMAQ.tail n, CD_DMAQ.head n]) ++
  ((List.range 64).flatMap fun n => [CD_WATCH.enable n, CD_WATCH.pending n, CD_WATCH.error n, CD_WATCH.core n, CD_WATCH.bell n, CD_WATCH.threshold n]) ++
  ((List.range 5).flatMap fun n => [CD_ETH.up n, CD_ETH.role n, CD_ETH.fec n, CD_ETH.fcs_err n, CD_ETH.rx_drop n])

/-- Every field of the block at frzBlk. -/
def frzRegs : List Fld :=
  [FRZ_CTL.req,
    FRZ_CTL.pkg,
    FRZ_CTL.pen,
    FRZ_CTL.at_boundary,
    FRZ_CTL.resume,
    FRZ_STAT.state,
    FRZ_STAT.halves,
    FRZ_STAT.cause,
    FRZ_STAT.resumable,
    FRZ_STAT.more,
    FRZ_STEP.step,
    FRZ_RO.enable,
    FRZ_RO.udp_port,
    PKG_FAULT.code,
    PKG_FAULT.die,
    PKG_FAULT.valid,
    PKG_RST.warm,
    PKG_RST.refused,
    PKG_RST.die,
    PKG_RST.pen] ++
  ((List.range 8).flatMap fun p => [FRZ_TRIG.on_fault p, FRZ_TRIG.poison p, FRZ_TRIG.sat p, FRZ_TRIG.pert p, FRZ_TRIG.deadline p, FRZ_TRIG.nan p, FRZ_TRIG.gov_stale p, FRZ_TRIG.ue p])

/-- Every field of the block at pwrBlk. -/
def pwrRegs : List Fld :=
  [PWR_CAP.cap,
    PWR_CAP.p_fixed,
    PWR_IN.vin,
    PWR_IN.iin,
    PWR_IN.p10,
    PWR_IN.peak,
    PWR_STRETCH.level,
    PWR_STRETCH.events,
    PWR_STRETCH_NS.ns,
    PWR_STAT.cap_miss,
    PWR_STAT.uv,
    PWR_STAT.ov,
    PWR_STAT.clr_peak,
    PWR_STAT.therm_warn,
    PKG_ID.part,
    PKG_ID.stepping,
    PKG_ID.serial] ++
  ((List.range 16).flatMap fun s => [PWR_THERM.temp s, PWR_THERM.max s, PWR_THERM.warn s, PWR_THERM.over s])

/-- The fields at offset `o` of bell block `b` (R408), whose die has `n` bells. -/
def bellRegsAt (b n o : Nat) : List Fld :=
  if o = 0x800 then [BEL_CNT.refused b, BEL_CNT.overflow b]
  else if o < 0x800 ∧ o / 8 * 16 < n then (List.range 16).map fun j => BEL_OWN.pen b (16 * (o / 8) + j)
  else if 0x8000 ≤ o ∧ (o - 0x8000) / 8 < n then [BEL_VAL.count b ((o - 0x8000) / 8), BEL_VAL.err b ((o - 0x8000) / 8)]
  else []

/-- The fields of `l` that stand in the register at address `a`. -/
def fldsAt (l : List Fld) (a : Nat) : List Fld := l.filter fun f => f.addr == a

/-- The fields of the register at offset `o` of compute die d's CSR slot (R103, R159, R403). -/
def dieFlds (d o : Nat) : List Fld :=
  let a := dieBlk d + o
  if 0x100000 ≤ o ∧ o < 0x102000 then fldsAt (ctxRegs d ((o - 0x100000) / 0x1000)) a
  else if o = 0x102000 then fldsAt (seqDieRegs d) a
  else if 0x200000 ≤ o ∧ o < 0x210000 then bellRegsAt d 3584 (o - 0x200000)
  else if 0x2000000 ≤ o ∧ o < 0x2100000 then
    let c := (o - 0x2000000) / 0x20000
    let r := (o - 0x2000000) % 0x20000
    if r < 0x1000 then fldsAt (clusterRegs d c) a
    else if r < 0x11000 then fldsAt (coreRegs d c (r / 0x1000 - 1)) a
    else []
  else []

/-- The fields of the register at offset `o` of fabric die f's CSR slot (R367, R403); `g` is the group GRP_QSEL selects. -/
def fabFlds (f g o : Nat) : List Fld :=
  let a := fabBlk f + o
  if o < 0x1000 then fldsAt (fabRegs f) a
  else if 0x10000 ≤ o ∧ o < 0x12000 then fldsAt (portRegs (32 * f + (o - 0x10000) / 0x100)) a
  else if o = 0x200020 then grpQRegs f g
  else if 0x200000 ≤ o ∧ o < 0x210000 then fldsAt (grpRegs f) a
  else if 0x300000 ≤ o ∧ o < 0x310000 then bellRegsAt (4 + f) 1024 (o - 0x300000)
  else []

/-- The fields of the register at offset `o` of a yard's block (R236, R296). -/
def yardFlds (y o : Nat) : List Fld :=
  let a := yardBlk y + o
  if o < 0x1000 then fldsAt (yardRegs y) a
  else if 0x10000 ≤ o ∧ o < 0x14000 then fldsAt (chanRegs y ((o - 0x10000) / 0x100)) a
  else if 0x40000 ≤ o ∧ o < 0x41000 then fldsAt (xchRegs y) a
  else if 0x50000 ≤ o ∧ o < 0x51000 then fldsAt (engRegs y) a
  else []

/-- The fields of the register at offset `o` of the package-services CSR slot (R236, R336, R438, R457, R507, R530). -/
def svcFlds (o : Nat) : List Fld :=
  let a := svcBlk + o
  if 0x200000 ≤ o ∧ o < 0x208000 then fldsAt (ldgRegs ((o - 0x200000) / 0x1000)) a
  else if 0x300000 ≤ o ∧ o < 0x308000 then fldsAt (ckpRegs ((o - 0x300000) / 0x1000)) a
  else if 0x400000 ≤ o ∧ o < 0x401000 then fldsAt layRegs a
  else if 0x401000 ≤ o ∧ o < 0x401800 then fldsAt (penRegs ((o - 0x401000) / 0x100)) a
  else if 0x500000 ≤ o ∧ o < 0x501000 then fldsAt frzRegs a
  else if 0x600000 ≤ o ∧ o < 0x601000 then fldsAt pwrRegs a
  else if 0x1000000 ≤ o ∧ o < 0x1800000 then yardFlds ((o - 0x1000000) / 0x100000) ((o - 0x1000000) % 0x100000)
  else []

/-- The fields of the register at the local CSR address `a`; empty where the slot holds no register (reserved: reads zero,
R17, log entry 12). `q` gives GRP_QSEL.group of each fabric die. -/
def regFlds (q : Nat → Nat) (a : Nat) : List Fld :=
  let slot := (a - 0x010000000000) / 0x04000000
  let o := (a - 0x010000000000) % 0x04000000
  if slot = 0 then fldsAt cdRegs a
  else if slot < 5 then dieFlds (slot - 1) o
  else if slot < 7 then fabFlds (slot - 5) (q (slot - 5)) o
  else if slot = 7 then svcFlds o
  else []

/-- Is the local CSR address mapped (R12, R13)? CSR slots 0 to 7, less offsets 0x1_1000 to 0x1_FFFF of each cluster block (R103). -/
def csrMapped (a : Nat) : Bool :=
  let slot := (a - 0x010000000000) / 0x04000000
  let o := (a - 0x010000000000) % 0x04000000
  decide (0x010000000000 ≤ a) && decide (slot < 8) &&
    !(decide (1 ≤ slot) && decide (slot < 5) && decide (0x2000000 ≤ o) && decide (o < 0x2100000) &&
      decide (0x11000 ≤ (o - 0x2000000) % 0x20000))

end Sys2Proof.Machine
end

