-- ==== Sys2Proof/Machine/Ops.lean ====
section
/-!
DEFINITION. Ops.lean: the named operations every meaning is written with: sparse tables, register fields, unit records, the
address map (R12, R13, R120, R273, R413), memory with poison and latent errors (R66, R270), CSR access by access code
(R14 to R17), bells (R376 to R378), pens and context states.
-/

namespace Sys2Proof.Machine

/-! ## Sparse tables -/

/-- The entry of key `k`, or the table's default `d`. -/
def Tab.get {α : Type} (d : α) : Tab α → Nat → α
  | [], _ => d
  | e :: t, k => if e.1 = k then e.2 else Tab.get d t k

/-- The table without an entry for `k`. -/
def Tab.erase {α : Type} (t : Tab α) (k : Nat) : Tab α := t.filter fun e => e.1 != k

/-- Insert an entry where the keys stay rising. -/
def Tab.ins {α : Type} : Tab α → Nat → α → Tab α
  | [], k, v => [(k, v)]
  | e :: t, k, v => if k < e.1 then (k, v) :: e :: t else e :: Tab.ins t k v

/-- Set the entry of `k`; an entry equal to the default is not listed. -/
def Tab.set {α : Type} [DecidableEq α] (d : α) (t : Tab α) (k : Nat) (v : α) : Tab α :=
  if v = d then Tab.erase t k else Tab.ins (Tab.erase t k) k v

/-! ## Bits and bytes -/

/-- Bit `i` of `n`. -/
def bitOf (n i : Nat) : Bool := n / 2 ^ i % 2 == 1

/-- Bits [lo + w − 1 : lo] of `n`. -/
def bitsOf (n lo w : Nat) : Nat := n / 2 ^ lo % 2 ^ w

/-- The little-endian value of a byte list. -/
def leNat : List Byte → Nat
  | [] => 0
  | b :: t => b.toNat + 256 * leNat t

/-- The `n` little-endian bytes of `v`. -/
def leBytes : Nat → Nat → List Byte
  | 0, _ => []
  | n + 1, v => BitVec.ofNat 8 v :: leBytes n (v / 256)

/-- A `w`-bit two's-complement field read as signed. -/
def sext (w n : Nat) : Int := if n % 2 ^ w < 2 ^ (w - 1) then Int.ofNat (n % 2 ^ w) else Int.ofNat (n % 2 ^ w) - 2 ^ w

/-- A signed value as a `w`-bit two's-complement field. -/
def uns (w : Nat) (i : Int) : Nat := (i % (2 ^ w : Int)).toNat

/-- Clamp to [lo, hi]. -/
def clampInt (lo hi v : Int) : Int := min (max v lo) hi

/-- Bytes [off, off + n) of a record. -/
def fieldBytes (l : List Byte) (off n : Nat) : List Byte := (l.drop off).take n

/-- The little-endian field of `n` bytes at `off` of a record. -/
def fieldNat (l : List Byte) (off n : Nat) : Nat := leNat (fieldBytes l off n)

/-! ## Register fields -/

/-- Put a before the first element it may stand before. -/
def insertBy {α : Type} (le : α → α → Bool) (a : α) : List α → List α
  | [] => [a]
  | b :: t => if le a b then a :: b :: t else b :: insertBy le a t

/-- A list in the order `le`; elements that are equal in it keep their order. -/
def sortBy {α : Type} (le : α → α → Bool) : List α → List α
  | [] => []
  | a :: t => insertBy le a (sortBy le t)

/-- The value of a register field. -/
def State.get (s : State) (f : Fld) : Nat := Tab.get f.rst s.regs f.key

/-- The state with a register field set (its width's low bits are kept). -/
def State.set (s : State) (f : Fld) (v : Nat) : State :=
  { s with regs := Tab.set f.rst s.regs f.key (v % 2 ^ f.w) }

/-- Is a one-bit field set? -/
def State.flag (s : State) (f : Fld) : Bool := s.get f == 1

/-- Set a one-bit field from a truth value. -/
def State.setB (s : State) (f : Fld) (b : Bool) : State := s.set f b.toNat

/-- Count `n` on a field that stops at all ones (R104). -/
def State.inc (s : State) (f : Fld) (n : Nat) : State := s.set f (min (s.get f + n) (2 ^ f.w - 1))

/-- Set every field of a list to its reset value. -/
def State.clearFlds (s : State) (l : List Fld) : State := l.foldl (fun t f => t.set f f.rst) s

/-! ## Records of units -/

def Slot.clear : Slot := ⟨none, []⟩
def AccElem.zero : AccElem := ⟨0, false, false, false⟩
def LaneReg.zero : LaneReg := ⟨0, false⟩
/-- The identity channel (R136). -/
def Channel.identity : Channel := ⟨1, 0, 0, false⟩
def Core.clear : Core := ⟨[], [], [], [], 0, false, 0, 0, 0, [], [], none⟩
def Cluster.clear : Cluster := ⟨0, 0, 0, 0, none, [], none, []⟩
def Gov.zero : Gov := ⟨0, 0, 0, 0⟩
def Dig.zero : Dig := ⟨0, 0, false, false, false, 0⟩
def Ctx.clear : Ctx :=
  { loops := [], beats := 0, hold := 0, rings := [], dmaq := [], phase := .none, gov := [], dig := [], cycMark := 0, heldMark := 0, snap := false }
def Pen.clear : Pen :=
  { boundary := .none, own := [], partner := [], failed := none, pubLen := 0, pubHead := 0, lost := 0,
    atBound := false, shrink := false, flags := 0, reason := 0, share := false, holdNs := 0, sat := 0, unf := 0, nan := 0, inf := 0, ovf := 0,
    shedNs := 0, strEv := 0, strNs := 0 }
def EngCount.zero : EngCount := ⟨0, 0, 0, 0⟩
def Engine.clear : Engine := ⟨[], [], [], 8, none, []⟩
def Yard.clear : Yard :=
  { xch := Engine.clear, eng := Engine.clear, lines := [], chq := [], fifo := [], window := [], slots := [], blocked := [],
    acts := [], wback := [], scrub := 0, pages := [], waiting := [], stallFrom := [], atomics := 0, openRow := [], seq := 0 }
def Port.clear : Port :=
  { queues := [], served := [], outE := [], outO := [], begE := none, begO := none, seq := 0, unacked := [], again := [], resends := 0,
    rxSeq := 0, nakOut := false, nakDue := false, inE := [], inO := [], passE := none, passO := none, granted := [], used := [], returned := [], lastEntry := [],
    since := 0, window := [], scrTx := BitVec.allOnes 31, scrRx := BitVec.allOnes 31, quiet := false, left := false, lanes := [] }
def Group.clear : Group := ⟨[], false, none, [], [], 0, false, []⟩
def Chunk.clear : Chunk := ⟨[], [], [], [], false, false, 0, 0, [], false, false, false, false, 0⟩
def GroupWindows.clear : GroupWindows := ⟨[], [], []⟩
def Ckp.clear : Ckp :=
  { step := 0, gen := 0, record := [], exps := [], drained := [], bytes := [], shards := [], nvme := [], held := [], entry := [],
    block := 0, first := 0, used := 0, left := 0, live := [], roots := [], manifest := [], job := [], root := [], rootStage := 0, took := 0, members := [] }
/-- What outlives a checkpoint in its unit: the log of extents and roots, the last write's steps, the membership changes. -/
def Ckp.kept (k : Ckp) : Ckp :=
  { Ckp.clear with block := k.block, live := k.live, roots := k.roots, took := k.took, members := k.members }
def HCore.clear : HCore := ⟨[], 0, 0, 0, .none, none, [], 0, []⟩
def QPair.full : QPair := ⟨20, 0, none, 0⟩
def CdRun.idle : CdRun := ⟨[], 0, 0, false, 0, 0, 0, none, [], [], 0⟩
def Mark.clean : Mark := ⟨false, false, false⟩

/-- The number of core k of cluster c of die d. -/
def coreIx (d c k : Nat) : Nat := 128 * d + 16 * c + k
/-- The number of context h of die d. -/
def ctxIx (d h : Nat) : Nat := 2 * d + h

def State.core (s : State) (d c k : Nat) : Core := Tab.get Core.clear s.cores (coreIx d c k)
def State.setCore (s : State) (d c k : Nat) (v : Core) : State :=
  { s with cores := Tab.set Core.clear s.cores (coreIx d c k) v }
def State.cluster (s : State) (d c : Nat) : Cluster := Tab.get Cluster.clear s.clusters (8 * d + c)
def State.setCluster (s : State) (d c : Nat) (v : Cluster) : State :=
  { s with clusters := Tab.set Cluster.clear s.clusters (8 * d + c) v }
def State.ctx (s : State) (d h : Nat) : Ctx := Tab.get Ctx.clear s.ctxs (ctxIx d h)
def State.setCtx (s : State) (d h : Nat) (v : Ctx) : State :=
  { s with ctxs := Tab.set Ctx.clear s.ctxs (ctxIx d h) v }
def State.pen (s : State) (p : Nat) : Pen := Tab.get Pen.clear s.pens p
def State.setPen (s : State) (p : Nat) (v : Pen) : State := { s with pens := Tab.set Pen.clear s.pens p v }
def State.yard (s : State) (y : Nat) : Yard := Tab.get Yard.clear s.yards y
def State.setYard (s : State) (y : Nat) (v : Yard) : State := { s with yards := Tab.set Yard.clear s.yards y v }
def State.port (s : State) (n : Nat) : Port := Tab.get Port.clear s.ports n
def State.setPort (s : State) (n : Nat) (v : Port) : State := { s with ports := Tab.set Port.clear s.ports n v }
def State.group (s : State) (g : Nat) : Group := Tab.get Group.clear s.groups g
def State.setGroup (s : State) (g : Nat) (v : Group) : State := { s with groups := Tab.set Group.clear s.groups g v }
def State.gwin (s : State) (f : Nat) : GroupWindows := Tab.get GroupWindows.clear s.gwins f
def State.setGwin (s : State) (f : Nat) (v : GroupWindows) : State :=
  { s with gwins := Tab.set GroupWindows.clear s.gwins f v }
def State.ckp (s : State) (p : Nat) : Ckp := Tab.get Ckp.clear s.ckps p
def State.setCkp (s : State) (p : Nat) (v : Ckp) : State := { s with ckps := Tab.set Ckp.clear s.ckps p v }
def State.hcore (s : State) (i : Nat) : HCore := Tab.get HCore.clear s.hcores i
def State.setHcore (s : State) (i : Nat) (v : HCore) : State := { s with hcores := Tab.set HCore.clear s.hcores i v }
def State.cdrun (s : State) (n : Nat) : CdRun := Tab.get CdRun.idle s.cddma n
def State.setCdrun (s : State) (n : Nat) (v : CdRun) : State := { s with cddma := Tab.set CdRun.idle s.cddma n v }

/-- The engine block (`eng`) or the exchange converter of yard y. -/
def State.engine (s : State) (y : Nat) (eng : Bool) : Engine := if eng then (s.yard y).eng else (s.yard y).xch
def State.setEngine (s : State) (y : Nat) (eng : Bool) (v : Engine) : State :=
  s.setYard y (if eng then { s.yard y with eng := v } else { s.yard y with xch := v })

def State.qpair (s : State) (n : Nat) : QPair := Tab.get QPair.full s.qps n
def State.setQpair (s : State) (n : Nat) (v : QPair) : State := { s with qps := Tab.set QPair.full s.qps n v }

def State.setLay (s : State) (v : Layout) : State := { s with lay := v }

/-- The answer to the command's initiator (log entry 5). -/
def State.answer (s : State) (r : Reply) : State := { s with reply := r }

/-- ALERT_N falls (R528). -/
def State.alert (s : State) : State := { s with pins := { s.pins with alertN := false } }

/-! ## Layout, pens and contexts -/

/-- RWL fields are locked while a layout is active, until its unload is complete (R16, R450). -/
def State.layoutActive (s : State) : Bool := s.get LAY_STATUS.state == 2 || s.get LAY_STATUS.state == 3

/-- This package's number (R368, R535). -/
def State.package (s : State) : Nat := s.get (FAB_ID.package 0)

/-- The pen that holds half h of die d (R440), if any. -/
def State.penOfHalf (s : State) (d h : Nat) : Option Nat :=
  (List.range 8).find? fun p => s.flag (PEN_INFO.used p) && bitOf (s.get (PEN_INFO.halves p)) (2 * d + h)

/-- Is die d in split mode (R118)? -/
def State.split (s : State) (d : Nat) : Bool := s.flag (SEQ_DIE.split d)

/-- The context that drives cluster c of die d (R118). -/
def State.ctxOfCluster (s : State) (d c : Nat) : Nat := if s.split d && decide (4 ≤ c) then 1 else 0

/-- The clusters of context h (R118). -/
def State.ctxClusters (s : State) (d h : Nat) : List Nat :=
  if s.split d then (List.range 4).map (· + 4 * h) else if h = 0 then List.range 8 else []

/-- The contexts of a pen on this package (R118, R440): context 1 exists only in split mode. -/
def State.penCtxs (s : State) (p : Nat) : List (Nat × Nat) :=
  (List.range 8).filterMap fun i =>
    let d := i / 2; let h := i % 2
    if s.penOfHalf d h == some p && (h == 0 || s.split d) then some (d, h) else none

/-- SEQ_STATUS.state (R162). -/
def State.cstate (s : State) (d h : Nat) : Nat := s.get (SEQ_STATUS.state d h)
/-- The context is in RUN or HELD. -/
def State.running (s : State) (d h : Nat) : Bool := s.cstate d h == 3 || s.cstate d h == 4
/-- A context of the pen on this package is in RUN or HELD. -/
def State.penRunning (s : State) (p : Nat) : Bool := (s.penCtxs p).any fun x => s.running x.1 x.2
/-- A context of any pen is in RUN or HELD (R450). -/
def State.anyRunning (s : State) : Bool := (List.range 8).any fun i => s.running (i / 2) (i % 2)

/-- Is half h of die d gated by a freeze (R498)? In whole mode a context needs both halves. -/
def State.halfFrozen (s : State) (d h : Nat) : Bool := bitOf (s.get FRZ_STAT.halves) (2 * d + h)
/-- A package freeze holds (R498). -/
def State.pkgFrozen (s : State) : Bool := s.get FRZ_STAT.state == 2
/-- Context h of die d may act: no freeze gates its half-die, no package freeze holds. -/
def State.ctxLive (s : State) (d h : Nat) : Bool := !s.pkgFrozen && !s.halfFrozen d h

/-! ## The address map -/

/-- The first local address above the stacks' windows. -/
abbrev dramTop : Nat := 0x010000000000
/-- The SRAM aperture of die d (R12, R120). -/
abbrev apertureBase (d : Nat) : Nat := 0x020000000000 + d * 0x20000000
/-- Byte 0 of the loft of cluster c (R120). -/
abbrev loftBase (d c : Nat) : Nat := apertureBase d + c * 0x01000000
/-- Byte 0 of the stall of core k of cluster c (R120). -/
abbrev stallBase (d c k : Nat) : Nat := apertureBase d + 0x08000000 + (16 * c + k) * 0x00200000
/-- Byte 0 of the cadence store (R120). -/
abbrev storeBase (d : Nat) : Nat := apertureBase d + 0x18000000
/-- Byte 0 of the shared SRAM (R12). -/
abbrev sharedBase : Nat := 0x030000000000

/-- The mapped bytes of stack y (R12, R273). -/
def State.stackSize (s : State) (y : Nat) : Nat := if s.get (YRD_RETIRE.mask y) = 0 then 0x1800000000 else 0x0C00000000

/-- Is the local address mapped memory: a stack (R12, R273) or an SRAM aperture (R120)? -/
def State.memMapped (s : State) (a : Nat) : Bool :=
  if a < dramTop then decide (a % 0x2000000000 < s.stackSize (a / 0x2000000000))
  else if 0x020000000000 ≤ a ∧ a < 0x020080000000 then
    let o := (a - 0x020000000000) % 0x20000000
    decide (o < 0x1A000000)
  else false

/-- Is the local address in the shared SRAM (R12)? -/
def inShared (a : Nat) : Bool := decide (sharedBase ≤ a) && decide (a < sharedBase + 0x04000000)

/-- Is every byte of [a, a + n) mapped memory? -/
def State.rangeMapped (s : State) (a n : Nat) : Bool :=
  n == 0 || (s.memMapped a && s.memMapped (a + n - 1) &&
    (if a < dramTop then a / 0x2000000000 == (a + n - 1) / 0x2000000000 else a / 0x20000000 == (a + n - 1) / 0x20000000))

/-- The channel of stack offset o (R253). -/
def channelOf (o : Nat) : Nat :=
  (bitsOf o 8 6) ^^^ (bitsOf o 14 6) ^^^ (bitsOf o 20 6) ^^^ (bitsOf o 26 6) ^^^ (bitsOf o 32 5)

/-- The channel line of stack offset o (R253). -/
def channelLine (o : Nat) : Nat := bitsOf o 14 23

/-- The stack offset of byte `b` of channel line q of channel c: R253 solved for bits [13:8]. -/
def offsetOf (c q b : Nat) : Nat :=
  let hi := q * 2 ^ 14
  hi + ((c ^^^ channelOf hi) % 64) * 256 + b

/-- Rank, bank, row and line-in-row of channel line q (R254). -/
def rankOf (q : Nat) : Nat := bitsOf q 21 2
def bankOf (q : Nat) : Nat := (bitsOf q 0 4) ^^^ (bitsOf q 8 4)
def rowOf (q : Nat) : Nat := bitsOf q 8 13
def lineInRow (q : Nat) : Nat := bitsOf q 4 4

/-- Where stack offset o lies: under the retirement fold a retired channel's line lies on its donor (R273). -/
def State.fold (s : State) (y o : Nat) : Nat :=
  if bitOf (s.get (YRD_RETIRE.mask y)) (channelOf o) then
    offsetOf (channelOf o ^^^ 0x20) (channelLine o + 3145728) (o % 256)
  else o

/-- The page a stack offset is served from: its shed page while redirected (R413). -/
def State.cowPage (s : State) (y o : Nat) : Nat :=
  match Tab.get Page.home (s.yard y).pages (o / 65536) with
  | .redirected _ shed => shed + o % 65536
  | _ => o

/-- Where a local address lies in storage: through the page map and the fold for DRAM, itself for SRAM. -/
def State.loc (s : State) (a : Nat) : Nat :=
  if a < dramTop then
    let y := a / 0x2000000000
    y * 0x2000000000 + s.fold y (s.cowPage y (a % 0x2000000000))
  else a

/-! ## Memory -/

/-- The granule of an address: 16-byte codewords in DRAM (R251), 8-byte words in SRAM (R64, R99). -/
def granule (a : Nat) : Nat := if a < dramTop then 16 else 8

/-- The mark key of the granule that holds address a. -/
def markKey (a : Nat) : Nat := a / granule a * granule a / 8

/-- The byte stored at a. -/
def Memory.byte (m : Memory) (a : Nat) : Byte := Tab.get 0 m.cells a

/-- Store a byte. -/
def Memory.setByte (m : Memory) (a : Nat) (b : Byte) : Memory := { m with cells := Tab.set 0 m.cells a b }

/-- The marks of the granule that holds a. -/
def Memory.mark (m : Memory) (a : Nat) : Mark := Tab.get Mark.clean m.marks (markKey a)

/-- Set the marks of the granule that holds a. -/
def Memory.setMark (m : Memory) (a : Nat) (v : Mark) : Memory := { m with marks := Tab.set Mark.clean m.marks (markKey a) v }

/-- Is a read of this granule delivered poisoned: poison syndrome or an uncorrectable error (R66, R101, R269)? -/
def Memory.bad (m : Memory) (a : Nat) : Bool := (m.mark a).poison || (m.mark a).ue

/-- The bases of the granules that [a, a + n) touches. -/
def granules (a n : Nat) : List Nat :=
  let g := granule a
  if n = 0 then [] else (List.range ((a + n - 1) / g - a / g + 1)).map fun i => (a / g + i) * g

/-- The marks after a write of [a, a + n) to the granule at `g`: a write of all of it clears them, a write of part of it leaves a
granule that was uncorrectable or poisoned poisoned and corrects a single error (R66, R270); `p` writes it poisoned. -/
def Memory.mergeMark (m : Memory) (a n : Nat) (p : Bool) (g : Nat) : Mark :=
  if p then ⟨true, false, false⟩
  else if a ≤ g ∧ g + granule g ≤ a + n then Mark.clean
  else if m.bad g then ⟨true, false, false⟩ else Mark.clean

/-- Store bytes at consecutive addresses. -/
def Memory.setBytes (m : Memory) (a : Nat) : List Byte → Memory
  | [] => m
  | b :: t => (m.setByte a b).setBytes (a + 1) t

/-- Where the poisoned ones of pieces that follow each other from address a lie, and how long they are. -/
def badSpans : Nat → List (List Byte × Bool) → List (Nat × Nat)
  | _, [] => []
  | a, q :: t => if q.2 then (a, q.1.length) :: badSpans (a + q.1.length) t else badSpans (a + q.1.length) t

/-- Write bytes at storage address a, poisoned or clean, keeping granule marks by R66 and R270. The bytes lie in one line. -/
def Memory.write (m : Memory) (a : Nat) (bs : List Byte) (p : Bool) : Memory :=
  (granules a bs.length).foldl (fun acc g => acc.setMark g (m.mergeMark a bs.length p g)) (m.setBytes a bs)

/-- Store pieces that follow each other at storage address a, each poisoned or clean, as one write (R66, R270): a granule they cover whole is
poisoned where a piece of it is, one they cover in part also where it was. The bytes lie in one line. -/
def Memory.writePieces (m : Memory) (a : Nat) (l : List (List Byte × Bool)) : Memory :=
  let bs := l.flatMap (·.1)
  let bad := badSpans a l
  (granules a bs.length).foldl (fun acc g =>
    acc.setMark g (m.mergeMark a bs.length (bad.any fun x => decide (x.1 < g + granule g) && decide (g < x.1 + x.2)) g)) (m.setBytes a bs)

/-- Read n bytes at local address a. -/
def State.read (s : State) (a n : Nat) : List Byte := (List.range n).map fun i => s.mem.byte (s.loc (a + i))

/-- The little-endian value of n bytes at local address a. -/
def State.readNat (s : State) (a n : Nat) : Nat := leNat (s.read a n)

/-- Is any granule of [a, a + n) delivered poisoned? -/
def State.readBad (s : State) (a n : Nat) : Bool := (granules a n).any fun g => s.mem.bad (s.loc g)

/-- Does any granule of [a, a + n) hold an uncorrectable error or poison, as a descriptor read sees it (R240, R285)? -/
def State.readUe (s : State) (a n : Nat) : Bool := s.readBad a n

/-- Cut [a, a + n) at 256-byte line boundaries (R256). -/
def linePieces : Nat → Nat → List Byte → List (Nat × List Byte)
  | 0, _, _ => []
  | fuel + 1, a, bs =>
    if bs.isEmpty then []
    else
      let n := 256 - a % 256
      (a, bs.take n) :: linePieces fuel (a + n) (bs.drop n)

/-- Write bytes at local address a, line by line, each where the address map puts it; no copy-on-write, no counts. -/
def State.put (s : State) (a : Nat) (bs : List Byte) (p : Bool) : State :=
  (linePieces (bs.length + 1) a bs).foldl (fun t x => { t with mem := t.mem.write (t.loc x.1) x.2 p }) s

/-! ## Injected errors (R109, R114) -/

/-- A stall or loft write that meets an armed injection leaves a latent error in the first word written; the double flip wins and both
bits clear (R109, R114). Which data bits are flipped, and which word of a write of several words is the next one written, the spec leaves open: the
bytes stand as written, the first word carries the error (DESIGN CHOICE, log entry 106). -/
def State.inject (s : State) (ceF ueF : Fld) (a : Nat) : State :=
  if s.flag ueF then
    { (s.set ueF 0).set ceF 0 with mem := s.mem.setMark a ⟨false, false, true⟩ }
  else if s.flag ceF then
    { s.set ceF 0 with mem := s.mem.setMark a ⟨(s.mem.mark a).poison, true, (s.mem.mark a).ue⟩ }
  else s

/-- A stall word is decoded (R66): a single error is counted, a double error is counted and its address recorded once (R107, R108). The
word itself is not written back. -/
def State.stallEcc (s : State) (d c k g : Nat) : State :=
  let m := s.mem.mark (stallBase d c k + g)
  let s1 := if m.ce && !m.ue && !m.poison then s.inc (CORE_ECC.stall_ce d c k) 1 else s
  if m.ue then
    let t := s1.inc (CORE_ECC.stall_ue d c k) 1
    if t.flag (CORE_ECC_ADDR.valid d c k) then t
    else (t.set (CORE_ECC_ADDR.word d c k) (g / 8)).set (CORE_ECC_ADDR.valid d c k) 1
  else s1

/-- A stall word is read: poison is seen (R105). -/
def State.stallCount (s : State) (d c k g : Nat) : State :=
  let m := s.mem.mark (stallBase d c k + g)
  let s1 := s.stallEcc d c k g
  if m.ue || m.poison then s1.set (CORE_STATUS.poison_seen d c k) 1 else s1

/-- Every word of a stall range is read. -/
def State.stallRead (s : State) (d c k a n : Nat) : State :=
  if n = 0 then s else
  (List.range ((a + n - 1) / 8 - a / 8 + 1)).foldl (fun t i => t.stallCount d c k ((a / 8 + i) * 8)) s

/-- A loft word is read (R101): counted, its address recorded once, the cluster marked for quarantine on a double error (R112, R113). -/
def State.loftCount (s : State) (d c g : Nat) : State :=
  let m := s.mem.mark (loftBase d c + g)
  let s1 := if m.ce && !m.ue && !m.poison then s.inc (CORE_LOFT_ECC.ce d c) 1 else s
  if m.ue then
    let t := (s1.inc (CORE_LOFT_ECC.ue d c) 1).set (CORE_LOFT_ECC.quarantine_pending d c) 1
    if t.flag (CORE_LOFT_UEADDR.valid d c) then t
    else (t.set (CORE_LOFT_UEADDR.word d c) (g / 8)).set (CORE_LOFT_UEADDR.valid d c) 1
  else s1

/-- Every word of a loft range is read. -/
def State.loftRead (s : State) (d c a n : Nat) : State :=
  if n = 0 then s else
  (List.range ((a + n - 1) / 8 - a / 8 + 1)).foldl (fun t i => t.loftCount d c ((a / 8 + i) * 8)) s

/-- The words that a write of n bytes at a covers in part: their old contents are decoded for the merge (R66). -/
def partialWords (a n : Nat) : List Nat :=
  if n = 0 then []
  else ((if a % 8 = 0 then [] else [a / 8 * 8]) ++ (if (a + n) % 8 = 0 then [] else [(a + n) / 8 * 8])).eraseDups.filter fun g =>
    !(decide (a ≤ g) && decide (g + 8 ≤ a + n))

/-- Write to the stall of a core. `a` is the stall byte address. -/
def State.stallWrite (s : State) (d c k a : Nat) (bs : List Byte) (p : Bool) : State :=
  if bs.isEmpty then s
  else ((((partialWords a bs.length).foldl (fun t g => t.stallEcc d c k g) s).put (stallBase d c k + a) bs p).inject
    (CORE_INJ.stall_ce d c k) (CORE_INJ.stall_ue d c k) (stallBase d c k + a))

/-- Write to the loft of a cluster. `a` is the loft byte address. -/
def State.loftWrite (s : State) (d c a : Nat) (bs : List Byte) (p : Bool) : State :=
  if bs.isEmpty then s
  else ((((partialWords a bs.length).foldl (fun t g => t.loftCount d c g) s).put (loftBase d c + a) bs p).inject
    (CORE_LOFT_INJ.ce d c) (CORE_LOFT_INJ.ue d c) (loftBase d c + a))

/-- A cadence-store word is read (R119, R166). -/
def State.storeCount (s : State) (d h g : Nat) : State :=
  let m := s.mem.mark (storeBase d + g)
  if m.ue || m.poison then
    let t := s.inc (SEQ_STORE_ECC.ue d h) 1
    if t.flag (SEQ_STORE_ECC.valid d h) then t
    else (t.set (SEQ_STORE_ECC.ue_unit d h) ((g - s.get (SEQ_CTL.region_base d h) * 65536) / 16)).set
      (SEQ_STORE_ECC.valid d h) 1
  else if m.ce then s.inc (SEQ_STORE_ECC.ce d h) 1
  else s

/-- Every word of a store range is read. -/
def State.storeRead (s : State) (d h a n : Nat) : State :=
  if n = 0 then s else
  (List.range ((a + n - 1) / 8 - a / 8 + 1)).foldl (fun t i => t.storeCount d h ((a / 8 + i) * 8)) s

/-! ## CSR access by access code (R14 to R17) -/

/-- The group GRP_QSEL selects on fabric die f (R405). -/
def State.qsel (s : State) (f : Nat) : Nat := s.get (GRP_QSEL.group f)

/-- The register at CSR address a as a read returns it: its fields in place, WO fields and reserved bits zero. -/
def State.csrWord (s : State) (a : Nat) : Nat :=
  (regFlds s.qsel a).foldl (fun n f => if f.acc = .WO then n else n + s.get f * 2 ^ f.lo) 0

/-- One field under a write of the register bits `data`, of which the bits of `mask` are written (R16). -/
def State.writeFld (s : State) (mask data : Nat) (f : Fld) : State :=
  let fm := bitsOf mask f.lo f.w
  let dv := bitsOf data f.lo f.w &&& fm
  let old := s.get f
  let sets := s.set f ((old - (old &&& fm)) ||| dv)
  if fm = 0 then s
  else match f.acc with
    | .RW => sets
    | .RWL => if s.layoutActive then s else sets
    | .RO => s
    | .WO => s
    | .W1C => s.set f (old - (old &&& dv))
    | .W1S => s.set f (old ||| dv)

/-- A write to a register acts on each of its fields by its access code (R16). -/
def State.writeFlds (s : State) (mask data : Nat) (l : List Fld) : State :=
  l.foldl (fun t f => t.writeFld mask data f) s

/-- Is a CSR access of this size and alignment accepted (R14)? -/
def csrSizeOk (a size : Nat) : Bool := (size == 8 && a % 8 == 0) || (size == 4 && a % 4 == 0)

/-- The register bits an access writes. -/
def csrMask (a size : Nat) : Nat := if size = 8 then 2 ^ 64 - 1 else (2 ^ 32 - 1) * 2 ^ (8 * (a % 8))

/-- The data of an access in its place in the register. -/
def csrData (a size data : Nat) : Nat := if size = 8 then data % 2 ^ 64 else data % 2 ^ 32 * 2 ^ (8 * (a % 8))

/-! ## Bells (R376 to R378) -/

/-- The number of bells of a die by its code in a bell name (R6, R377). -/
def bellsOf (die : Nat) : Nat := if die < 4 then 3584 else if die < 6 then 1024 else 0

/-- Add to a bell's count and set err if the ring says so (R376). -/
def State.ringBell (s : State) (b j n : Nat) (err : Bool) : State :=
  let v := s.get (BEL_VAL.count b j) + n
  let s1 := if v < 2 ^ 32 then s.set (BEL_VAL.count b j) v
    else (s.set (BEL_VAL.count b j) (2 ^ 32 - 1)).inc (BEL_CNT.overflow b) 1
  if err then s1.set (BEL_VAL.err b j) 1 else s1

/-- A ring of a bell of this package for pen p: taken if a layout is active and p owns the bell, else discarded and counted (R378, R408). -/
def State.ringOwn (s : State) (p : Option Nat) (b j n : Nat) (err : Bool) : State :=
  if 2 ≤ s.get LAY_STATUS.state ∧ j < bellsOf b ∧ p = some (s.get (BEL_OWN.pen b j)) then s.ringBell b j n err
  else s.inc (BEL_CNT.refused b) 1

/-- The fields of a bell name (R377). -/
def bellDie (name : Nat) : Nat := bitsOf name 12 3
def bellIndex (name : Nat) : Nat := bitsOf name 0 12
def bellPackage (name : Nat) : Nat := bitsOf name 16 16
def bellReserved (name : Nat) : Bool := bitOf name 15 || bitsOf name 32 32 != 0 || decide (6 ≤ bellDie name)

/-- A BELL packet (R347, R378). -/
def bellPacket (s : State) (name n : Nat) (err : Bool) : Packet :=
  { ptype := .bell, exped := true, hops := 0, dst := BitVec.ofNat 16 (bellPackage name), src := BitVec.ofNat 16 s.package,
    group := 0, mask := 0, tag := 0, wordA := BitVec.ofNat 64 name,
    wordB := BitVec.ofNat 64 (n % 65536 + err.toNat * 65536), payload := [] }

/-- A step whose own condition does not hold is not due: the part takes none, and nothing changes (log entry 7). -/
abbrev State.notDue (s : State) : Host.Outcome State Fault Refusal := .next s

/-- An operand code without a meaning (log entry 29). -/
abbrev reservedCode : Host.Outcome State Fault Refusal := .fault .reservedCode

end Sys2Proof.Machine
end

