-- ==== Sys2Proof/Machine/Operands.lean ====
section
/-!
DEFINITION. Operands.lean: the forms of the operands: element formats (R23 to R26, R34), packed codes, the tensor descriptor and its
checks (R27 to R30), address generators and index generators (R129, R130, R135), operand tiles (R67, R69) and the row header
layout (R541).
-/

namespace Sys2Proof.Machine

/-! ## Formats -/

/-- The format a code names (R27); other codes are reserved. -/
def Fmt.ofCode : Nat → Option Fmt
  | 0 => some .i4 | 1 => some .i8 | 2 => some .i16 | 3 => some .w32 | 4 => some .w64
  | 5 => some .a48 | 6 => some .a64 | 7 => some .a96 | 8 => some .a192
  | _ => none

/-- The code of a format (R27). -/
def Fmt.code : Fmt → Nat
  | .i4 => 0 | .i8 => 1 | .i16 => 2 | .w32 => 3 | .w64 => 4 | .a48 => 5 | .a64 => 6 | .a96 => 7 | .a192 => 8

/-- Is it a block format (R23)? -/
def Fmt.block : Fmt → Bool
  | .i4 | .i8 | .i16 | .w32 | .w64 => true
  | .a48 | .a64 | .a96 | .a192 => false

/-- The stored bits of one element: the width w of a block format (R23), the container of an A format (R26). -/
def Fmt.bits : Fmt → Nat
  | .i4 => 4 | .i8 => 8 | .i16 => 16 | .w32 => 32 | .w64 => 64 | .a48 => 64 | .a64 => 128 | .a96 => 128 | .a192 => 256

/-- Elements per block L (R23); a container counts as its own block (R59). -/
def Fmt.len : Fmt → Nat
  | .i4 | .i8 | .i16 => 32
  | .w32 | .w64 => 8
  | .a48 | .a64 | .a96 | .a192 => 1

/-- The accumulator width n (R26), of an A format. -/
def Fmt.accW : Fmt → Nat
  | .a48 => 48 | .a64 => 64 | .a96 => 96 | .a192 => 192
  | _ => 48

/-- The accumulator format whose width goes with products of which the wider operand has this format (R34). -/
def Fmt.acc : Fmt → Fmt
  | .i4 | .i8 => .a48 | .i16 => .a64 | .w32 => .a96 | .w64 => .a192 | f => f

/-- The guard bits g of the wider operand (R34). -/
def Fmt.guard : Fmt → Nat
  | .i4 | .i8 | .i16 => 16 | .w32 => 24 | .w64 => 32 | _ => 0

/-- The wider of two operand formats (R34, R69). -/
def Fmt.wider (a b : Fmt) : Fmt := if b.code ≤ a.code then a else b

/-- The visible clamp of R41: ±(2^(n − 1) − 1). -/
def visible (n : Nat) (v : Int) : Int := clampInt (-(2 ^ (n - 1) - 1)) (2 ^ (n - 1) - 1) v

/-- The extended clamp of R56: ±(2^(n + 7) − 1). -/
def extended (n : Nat) (v : Int) : Int := clampInt (-(2 ^ (n + 7) - 1)) (2 ^ (n + 7) - 1) v

/-- floor(v × 2^e): exact for e ≥ 0, a floor toward minus infinity below (R36). -/
def scale2 (v : Int) (e : Int) : Int := if 0 ≤ e then v * 2 ^ e.toNat else v / 2 ^ (-e).toNat

/-- The largest code magnitude a converter writes, 2^(w − 1) − 1 (R21). -/
def maxCode (w : Nat) : Int := 2 ^ (w - 1) - 1

/-- Code `i` of packed `w`-bit codes (R24). -/
def codeAt (w : Nat) (bs : List Byte) (i : Nat) : Int :=
  if w = 4 then sext 4 ((bs.getD (i / 2) 0).toNat / 2 ^ (4 * (i % 2)))
  else sext w (fieldNat bs (i * (w / 8)) (w / 8))

/-- Codes packed into bytes, the first lowest (R24). -/
def packCodes (w : Nat) (codes : List Int) : List Byte :=
  if w = 4 then
    (List.range ((codes.length + 1) / 2)).map fun i =>
      BitVec.ofNat 8 (uns 4 (codes.getD (2 * i) 0) + 16 * uns 4 (codes.getD (2 * i + 1) 0))
  else codes.flatMap fun c => leBytes (w / 8) (uns w c)

/-! ## The tensor descriptor -/

/-- The descriptor in 64 bytes (R27). -/
def descOf (b : List Byte) : Desc :=
  let w5 := fieldNat b 40 8
  { elem := fieldNat b 0 8, shift := fieldNat b 8 8, gidx := fieldNat b 16 8, tid := fieldNat b 24 4,
    exp := sext 16 (fieldNat b 28 2), rows := fieldNat b 32 4, cols := fieldNat b 36 4, gcols := bitsOf w5 0 32,
    fmt := bitsOf w5 32 4, digest := bitOf w5 36, nanFault := bitOf w5 37,
    rsv := fieldNat b 30 2 != 0 || bitsOf w5 38 26 != 0 || fieldNat b 48 16 != 0 }

/-- The descriptor's format; a reserved code does not pass R30. -/
def Desc.format (d : Desc) : Fmt := (Fmt.ofCode d.fmt).getD .i8

/-- Bytes of the element or container plane (R24, R26). -/
def Desc.elemBytes (d : Desc) : Nat := (d.rows * d.cols * d.format.bits + 7) / 8

/-- Bytes of the shift plane (R24, R25): one per block. -/
def Desc.shiftBytes (d : Desc) : Nat := d.rows * (d.cols / d.format.len)

/-- Is every byte of [a, a + n) a mapped CSR address? The end of each cluster block of a compute die is a hole (R103). -/
def csrRange (a n : Nat) : Bool :=
  csrMapped a && csrMapped (a + n - 1) && (List.range 32).all fun i =>
    let e := 0x010000000000 + (1 + i / 8) * 0x04000000 + 0x02000000 + (i % 8 + 1) * 0x20000
    decide (e ≤ a) || decide (a + n ≤ e)

/-- Is [a, a + n) mapped, as R535 judges it: an address that names another package passes? -/
def State.gMapped (s : State) (a n : Nat) : Bool :=
  if a / 2 ^ 48 % 65536 ≠ s.package then true
  else
    let l := a % 2 ^ 48
    n == 0 || (decide (l + n ≤ 2 ^ 48) && (s.rangeMapped l n || (inShared l && inShared (l + n - 1)) || csrRange l n))

/-- The descriptor check of R30: 0, or the code of the first failing row. -/
def State.descFault (s : State) (d : Desc) : Nat :=
  if (Fmt.ofCode d.fmt).isNone then 1
  else if d.rsv then 2
  else if d.rows = 0 ∨ d.cols = 0 ∨
      (d.format.block = true ∧ (d.cols % d.format.len ≠ 0 ∨ d.gcols % d.format.len ≠ 0 ∨ d.gidx % d.format.len ≠ 0 ∨
        d.gcols < d.cols)) then 3
  else if !s.gMapped d.elem d.elemBytes || (d.format.block && !s.gMapped d.shift d.shiftBytes) then 4
  else 0

/-- The global element index of shard element (i, j) (R28). -/
def Desc.global (d : Desc) (i j : Nat) : Nat := (d.gidx + i * d.gcols + j) % 2 ^ 64

/-- The byte offset of element number e of a plane. -/
def Fmt.offset (f : Fmt) (e : Nat) : Nat := e * f.bits / 8

/-! ## Address generators -/

/-- The physical counter a context's counter index names (R118). -/
def State.physCtr (s : State) (d h c : Nat) : Nat := if s.split d then (8 * h + c) % 16 else c % 16

/-- ctr[c]: the current value of a counter, 0 while it is inactive (R130). -/
def State.ctr (s : State) (d h c : Nat) : Nat :=
  let p := s.physCtr d h c
  if s.flag (SEQ_LC.active d (p / 8) (p % 8)) then s.get (SEQ_LC.value d (p / 8) (p % 8)) else 0

/-- The sum of the enabled terms of a generator. -/
def State.terms (s : State) (d h : Nat) (l : List AgTerm) : Int :=
  l.foldl (fun n t => if t.en then n + t.stride * s.ctr d h t.ctr else n) 0

/-- The byte address an AG yields for core index k (R130), within a space of `size` bytes. A sum that lies outside the space is taken modulo its
size (DESIGN CHOICE, log entry 54). -/
def State.agAddr (s : State) (d h k : Nat) (g : AG) (size : Nat) : Nat :=
  ((8 * (g.base + g.cstride * k + s.terms d h g.terms)) % (size : Int)).toNat

/-- A stall address (2 MiB). -/
def State.stallAddr (s : State) (d h k : Nat) (g : AG) : Nat := s.agAddr d h k g 0x200000
/-- A loft address (16 MiB). -/
def State.loftAddr (s : State) (d h k : Nat) (g : AG) : Nat := s.agAddr d h k g 0x1000000

/-- The origin an index generator yields (R135). -/
def State.idx (s : State) (d h k : Nat) (g : IdxGen) : Int := g.base + g.cstride * k + s.terms d h g.terms

/-! ## Rudiment records (R128 to R137, R148, R212) -/

/-- An AG term in 24 bits (R129). -/
def agTermOf (n : Nat) : AgTerm := ⟨bitsOf n 0 4, bitOf n 4, sext 19 (bitsOf n 5 19)⟩

/-- An AG in 16 bytes (R129). -/
def agOf (b : List Byte) : AG :=
  let n := leNat b
  ⟨bitsOf n 0 24, sext 20 (bitsOf n 24 20), [agTermOf (bitsOf n 44 24), agTermOf (bitsOf n 68 24), agTermOf (bitsOf n 92 24)]⟩

/-- An 8-byte term of an index generator or a DMA rudiment: counter, enable, signed 32-bit stride (R135, R148). -/
def term8Of (b : List Byte) : AgTerm := ⟨bitsOf (leNat b) 0 4, bitOf (leNat b) 4, sext 32 (bitsOf (leNat b) 32 32)⟩

/-- An index generator in 32 bytes (R135). -/
def idxOf (b : List Byte) : IdxGen :=
  ⟨fieldNat b 0 8, sext 32 (fieldNat b 8 4), [term8Of (fieldBytes b 16 8), term8Of (fieldBytes b 24 8)]⟩

/-- A matrix rudiment (R131). -/
def matOf (b : List Byte) : MatRud :=
  let n := fieldNat b 0 16
  ⟨bitsOf n 8 4, bitsOf n 12 4, agOf (fieldBytes b 16 16), agOf (fieldBytes b 32 16)⟩

/-- A vector rudiment (R132), and its opcode. -/
def vecOf (b : List Byte) : Nat × VecRud :=
  let n := fieldNat b 0 16
  (bitsOf n 8 8,
   { forma := bitsOf n 16 3, formb := bitsOf n 19 3, fmta := bitsOf n 22 4, fmtb := bitsOf n 26 4,
     ga := bitsOf n 30 8, gb := bitsOf n 38 8, dest := bitsOf n 46 2, m := bitsOf n 48 16 + 1, n := bitsOf n 64 16 + 1,
     imm := BitVec.ofNat 16 (bitsOf n 80 16), rlo := bitsOf n 96 4, rhi := bitsOf n 100 4, smk := bitsOf n 104 2,
     skind := bitsOf n 106 4, var := bitOf n 110,
     agA := agOf (fieldBytes b 16 16), agB := agOf (fieldBytes b 32 16), agD := agOf (fieldBytes b 48 16) })

/-- A converter rudiment in its two entries (R135). -/
def convOf (b : List Byte) : ConvRud :=
  let n := fieldNat b 0 16
  { src := bitsOf n 8 4, x := sext 16 (bitsOf n 12 16), eb := bitsOf n 28 7, clip := bitOf n 35, ec := bitsOf n 36 7,
    rmode := bitOf n 43, chn := bitsOf n 44 16 + 1, desc := bitsOf n 60 12, rows := bitsOf n 72 6 + 1,
    cols := bitsOf n 78 6 + 1, lo := sext 64 (fieldNat b 16 8), hi := sext 64 (fieldNat b 24 8),
    agD := agOf (fieldBytes b 32 16), agC := agOf (fieldBytes b 48 16),
    row := idxOf (fieldBytes b 64 32), col := idxOf (fieldBytes b 96 32) }

/-- A move rudiment (R137). -/
def moveOf (b : List Byte) : MoveRud :=
  let n := fieldNat b 0 16
  ⟨bitsOf n 8 24 + 1, bitsOf n 32 4, BitVec.ofNat 16 (bitsOf n 36 16), bitsOf n 52 16 + 1,
   agOf (fieldBytes b 16 16), agOf (fieldBytes b 32 16)⟩

/-- A DMA rudiment (R148). -/
def dmaOf (b : List Byte) : DmaRud :=
  let n := fieldNat b 0 8
  let e := fieldNat b 56 2
  { dir := bitsOf n 8 2, cluster := bitsOf n 10 3, len := bitsOf n 16 32 + 1, done := bitsOf n 48 12,
    gbase := BitVec.ofNat 64 (fieldNat b 8 8),
    terms := [term8Of (fieldBytes b 16 8), term8Of (fieldBytes b 24 8), term8Of (fieldBytes b 32 8)],
    agL := agOf (fieldBytes b 40 16), errb := bitsOf e 0 12, errbEn := bitOf e 15 }

/-! ## Tiles in the stall -/

/-- Rows of an A tile, columns of a B tile and K of a chunk whose wider operand has this format (R67, R68): tile edge and K. -/
def Fmt.tile : Fmt → Nat × Nat
  | .i4 => (64, 64) | .i8 => (64, 32) | .i16 => (32, 32) | .w32 => (32, 8) | .w64 => (32, 8) | _ => (32, 8)

/-- Rows and columns of an accumulator tile (R74). -/
def Fmt.accEdge : Fmt → Nat
  | .a48 => 64
  | _ => 32

/-- a divided by b, rounded up. -/
def ceilDiv (a b : Nat) : Nat := (a + b - 1) / b

/-- Bytes of the header in the row header layout (R541) of a tile of R rows and C columns. -/
def headerBytes (f : Fmt) (rows cols : Nat) : Nat :=
  if f.block then max 128 (ceilDiv (rows * ceilDiv cols f.len) 128 * 128) else 0

/-- Bytes of one row of elements (R541: each row laid out as in R24). -/
def rowBytes (f : Fmt) (cols : Nat) : Nat := ceilDiv (cols * f.bits) 8

/-- The header byte of block q of row r (R541). -/
def headerByte (f : Fmt) (cols r q : Nat) : Nat := r * ceilDiv cols f.len + q

/-- Bits of fmta and fmtb that a vector rudiment gives beyond R27: L64, L128, accumulator slot (R132). -/
abbrev fmtL64 : Nat := 9
abbrev fmtL128 : Nat := 10
abbrev fmtSlot : Nat := 11

end Sys2Proof.Machine
end

