-- ==== Sys2Proof/Machine/Numerics.lean ====
section
/-!
DEFINITION. Numerics.lean: the exact arithmetic the converters share: choosing the block shift and rounding (R48 to R56), IEEE 754
-/

namespace Sys2Proof.Machine

/-! ## CG-64 and the element hash -/

/-- The mixing function of R175. -/
def mix (x : U64) : U64 :=
  let a := x ^^^ (x >>> 31)
  let b := a * 0xB7E151628AED2A6B#64
  let c := b ^^^ (b >>> 29)
  let d := c * 0x9E3779B97F4A7C15#64
  d ^^^ (d >>> 32)

/-- CG-64 (R176). -/
def cg64 (k0 k1 s t i : U64) : U64 :=
  let a := mix (i ^^^ k0)
  let b := mix (a ^^^ s ^^^ k1)
  mix (b ^^^ t ^^^ k0.rotateLeft 32)

/-- fold_elem (R315): tensor id, global index, format code, block shift, stored words. -/
def foldElem (t : U32) (i : U64) (f b : Nat) (w : List U64) : U128 :=
  let x0 := mix (i ^^^ 0x6A09E667F3BCC908#64)
  let x1 := mix (x0 ^^^ t.setWidth 64 ^^^ BitVec.ofNat 64 (f * 2 ^ 32) ^^^ BitVec.ofNat 64 (b * 2 ^ 40))
  let x2 := w.foldl (fun x v => mix (x ^^^ v)) x1
  let hi := mix (x2 ^^^ 0xBB67AE8584CAA73B#64)
  hi ++ x2

/-- The words of a stored code of a block format: the code sign-extended to 64 bits (R315). -/
def codeWords (m : Int) : List U64 := [BitVec.ofInt 64 m]

/-- The words of a stored container (R315). -/
def containerWords (bits : Nat) (v : Int) : List U64 :=
  (List.range (bits / 64)).map fun k => BitVec.ofNat 64 (uns bits v / 2 ^ (64 * k))

/-! ## Rounding -/

/-- Round V to nearest, ties to even, at 2^d (R51). -/
def roundNe (v : Int) (d : Int) : Int :=
  if d ≤ 0 then v * 2 ^ (-d).toNat
  else
    let e := d.toNat
    let q := v / 2 ^ e
    let r := v - q * 2 ^ e
    if r > 2 ^ (e - 1) ∨ (r = 2 ^ (e - 1) ∧ q % 2 = 1) then q + 1 else q

/-- Round V stochastically at 2^d with the 16 random bits u (R52). -/
def roundSr (u : Nat) (v : Int) (d : Int) : Int :=
  if d ≤ 0 then v * 2 ^ (-d).toNat
  else
    let e := d.toNat
    if 16 ≤ e then (v + u * 2 ^ (e - 16)) / 2 ^ e
    else (v + Int.ofNat (u / 2 ^ (16 - e))) / 2 ^ e

/-- floor(log2 |v|) of a nonzero integer. -/
def log2Abs (v : Int) : Nat := Nat.log2 v.natAbs

/-- b0 of R50 for the largest magnitude `m` (not zero) at scale 2^σ. -/
def shift0 (e σ : Int) (m : Nat) : Int := e - 1 - (Nat.log2 m + σ)

/-- The outcome of one block through stages 4 and 5 (R50, R54). -/
structure BlockOut where
  shift : Nat
  codes : List Int
  sat   : Nat
  unf   : Nat
  b0    : Int
  zero  : Bool
  deriving DecidableEq, Repr

/-- The exact magnitude of the largest value of a block. -/
def maxAbs (l : List Int) : Nat := l.foldl (fun m v => max m v.natAbs) 0

/-- Codes saturated under R54, with how many were. -/
def saturate (w : Nat) (codes : List Int) : List Int × Nat :=
  (codes.map (clampInt (-maxCode w) (maxCode w)), (codes.filter fun m => decide (m.natAbs ≥ 2 ^ (w - 1))).length)

/-- Stages 4 and 5 on the exact stage-3 values of a block at scale 2^σ (R50 to R52, R54): `rnd i v d` rounds element i. -/
def roundBlock (w : Nat) (e σ : Int) (rnd : Nat → Int → Int → Int) (vals : List Int) : BlockOut :=
  let m := maxAbs vals
  if m = 0 then ⟨255, vals.map fun _ => 0, 0, 0, 0, true⟩
  else
    let b0 := shift0 e σ m
    let b := (clampInt 0 255 b0).toNat
    let at_ := fun b : Nat => (vals.zipIdx).map fun x => rnd x.2 x.1 (e - b - (w - 1) - σ)
    let c0 := at_ b
    let past := fun l : List Int => l.any fun c => decide (c.natAbs ≥ 2 ^ (w - 1))
    let b' := if past c0 && decide (0 < b) then b - 1 else b
    let c1 := if past c0 && decide (0 < b) then at_ (b - 1) else c0
    let r := saturate w c1
    ⟨b', r.1, r.2, ((vals.zip r.1).filter fun x => x.1 != 0 && x.2 == 0).length, b0, false⟩

/-- An element through stages 1 to 3 (R48): the channel's multiplier and bias, the clip. The scale becomes X − s. -/
def stage123 (ch : Channel) (eb : Nat) (clip : Option (Int × Int × Nat)) (a : Int) : Int :=
  let v := a * ch.k + ch.beta * 2 ^ eb
  match clip with
  | none => v
  | some (lo, hi, ec) => min (max v (lo * 2 ^ ec)) (hi * 2 ^ ec)

/-! ## IEEE 754 -/

/-- Width, exponent bits and fraction bits of binary16, binary32, binary64. -/
structure Ieee where
  bits : Nat
  eb   : Nat
  fb   : Nat
  deriving DecidableEq, Repr

def binary16 : Ieee := ⟨16, 5, 10⟩
def binary32 : Ieee := ⟨32, 8, 23⟩
def binary64 : Ieee := ⟨64, 11, 52⟩

/-- The scale of the least significant bit of the smallest subnormal. -/
def Ieee.lsb (f : Ieee) : Int := 2 - 2 ^ (f.eb - 1) - f.fb

/-- A source value of a conversion: a finite value as an exact integer at the conversion's scale, an infinity by sign, a NaN. -/
inductive Src where
  | fin (v : Int)
  | inf (neg : Bool)
  | nan
  deriving DecidableEq, Repr

/-- The value an encoding stands for (R57, R58), at scale 2^lsb. -/
def Ieee.value (f : Ieee) (n : Nat) : Src :=
  let neg := bitOf n (f.bits - 1)
  let ex := bitsOf n f.fb f.eb
  let fr := bitsOf n 0 f.fb
  if ex = 2 ^ f.eb - 1 then (if fr = 0 then .inf neg else .nan)
  else
    let m : Int := if ex = 0 then fr else (2 ^ f.fb + fr) * 2 ^ (ex - 1)
    .fin (if neg then -m else m)

/-- The finite part of a source value. -/
def Src.fin? : Src → Int
  | .fin v => v
  | _ => 0

/-- The counts of an import (R58, R62). -/
structure Counts where
  sat : Nat
  unf : Nat
  nan : Nat
  inf : Nat
  ovf : Nat
  deriving DecidableEq, Repr

def Counts.zero : Counts := ⟨0, 0, 0, 0, 0⟩
def Counts.add (a b : Counts) : Counts := ⟨a.sat + b.sat, a.unf + b.unf, a.nan + b.nan, a.inf + b.inf, a.ovf + b.ovf⟩

/-- Import one block of IEEE values at scale 2^σ (R57, R58): its shift, its codes, what is counted. -/
def importBlock (w : Nat) (e σ : Int) (src : List Src) : Nat × List Int × Counts :=
  let r := roundBlock w e σ (fun _ => roundNe) (src.map Src.fin?)
  let codes := (src.zip r.codes).map fun x => match x.1 with
    | .inf neg => if neg then -maxCode w else maxCode w
    | .nan => 0
    | .fin _ => x.2
  let infs := (src.filter fun x => match x with | .inf _ => true | _ => false).length
  let nans := (src.filter fun x => x == .nan).length
  (r.shift, codes, ⟨r.sat + infs, r.unf, nans, infs, 0⟩)

/-- Import one IEEE value into an A-format container at scale 2^x (R57, R537): the stored integer and what is counted. -/
def importA (n : Nat) (x σ : Int) (src : Src) : Int × Counts :=
  match src with
  | .inf neg => (if neg then -(2 ^ (n + 7) - 1) else 2 ^ (n + 7) - 1, ⟨1, 0, 0, 1, 0⟩)
  | .nan => (0, ⟨0, 0, 1, 0, 0⟩)
  | .fin v =>
    let q := scale2 v (σ - x)
    let c := extended n q
    (c, ⟨if c = q then 0 else 1, if v ≠ 0 ∧ q = 0 then 1 else 0, 0, 0, 0⟩)

/-- Export an exact value v × 2^σ (R60): the encoding, and whether it overflowed. A zero value exports as +0; a nonzero value that
rounds to zero keeps its sign. -/
def Ieee.encode (f : Ieee) (v : Int) (σ : Int) : Nat × Bool :=
  let sign := if v < 0 then 2 ^ (f.bits - 1) else 0
  if v = 0 then (0, false)
  else
    let a : Int := v.natAbs
    let top : Int := Nat.log2 v.natAbs + σ
    let lam := max (top - f.fb) f.lsb
    let q := (roundNe a (lam - σ)).toNat
    let q' := if q = 2 ^ (f.fb + 1) then 2 ^ f.fb else q
    let lam' := if q = 2 ^ (f.fb + 1) then lam + 1 else lam
    let ex := if q' < 2 ^ f.fb then 0 else (lam' - f.lsb).toNat + 1
    if 2 ^ f.eb - 1 ≤ ex then (sign + (2 ^ f.eb - 1) * 2 ^ f.fb, true)
    else (sign + ex * 2 ^ f.fb + q' % 2 ^ f.fb, false)

/-- The quiet NaN a poisoned element exports as (R61). -/
def Ieee.poison (f : Ieee) : Nat :=
  if f.bits = 16 then 0x7E5A else if f.bits = 32 then 0x7FC0005A else 0x7FF800000000005A

end Sys2Proof.Machine
end

