-- ==== Sys2Proof/Machine/Flags.lean ====
section
/-!
DEFINITION. Flags.lean: what operations leave behind them besides their results: the step's conversion counts (R54, R62), the fold
digest tables (R316, R317, R319, R320), the governor counter tables (R179), the core flags of the step (R81, R95, R102, R105).
-/

namespace Sys2Proof.Machine

/-- The pen that context h of die d serves. -/
def State.ctxPen (s : State) (d h : Nat) : Option Nat := s.penOfHalf d h

/-- Add conversion counts to the step's counts of a pen (R54, R62). -/
def State.countPen (s : State) (p : Option Nat) (c : Counts) : State :=
  match p with
  | none => s
  | some p =>
    let r := s.pen p
    s.setPen p { r with sat := r.sat + c.sat, unf := r.unf + c.unf, nan := r.nan + c.nan, inf := r.inf + c.inf,
                        ovf := r.ovf + c.ovf }

/-! ## The fold digest -/

/-- A folded write into a digest entry (R316, R317, R320): the hashes' sum, how many elements, whether a poisoned block was written. -/
def Dig.fold (e : Dig) (tid : U32) (sum : U128) (n : Nat) (poison : Bool) : Dig :=
  { sum := e.sum + sum, tid := if e.used then e.tid else tid, used := true, poison := e.poison || poison,
    conflict := e.conflict || (e.used && e.tid != tid), count := min (e.count + n) (2 ^ 64 - 1) }

/-- Is the element with this global index padding of its tensor (R29)? -/
def Desc.padding (d : Desc) (g : Nat) : Bool :=
  d.format.block && decide (Config.unpadded d.tid d.gcols ≤ g % d.gcols)

/-- The sum of the hashes of stored elements, given as global index, shift and words (R315, R316), and how many were folded. -/
def Desc.hashes (d : Desc) (l : List (Nat × Nat × List U64)) : U128 × Nat :=
  l.foldl (fun a x =>
    if d.padding x.1 then a
    else (a.1 + foldElem (BitVec.ofNat 32 d.tid) (BitVec.ofNat 64 x.1) d.fmt x.2.1 x.2.2, a.2 + 1)) (0, 0)

/-- Fold a write of elements of a designated tensor into the digest table of context h of die d (R319). -/
def State.foldWrite (s : State) (d h : Nat) (t : Desc) (l : List (Nat × Nat × List U64)) (poison : Bool) : State :=
  if !t.digest then s
  else
    let c := s.ctx d h
    let k := t.tid % 4096
    let r := t.hashes l
    s.setCtx d h { c with dig := Tab.set Dig.zero c.dig k ((Tab.get Dig.zero c.dig k).fold (BitVec.ofNat 32 t.tid) r.1 r.2 poison) }

/-- The context whose digest table takes the folded writes of a yard command of window w (R319): the window's own context; for
window 8 the lowest-numbered context of the owning pen. -/
def State.digestCtx (s : State) (w : Nat) (p : Option Nat) : Option (Nat × Nat) :=
  if w < 8 then some (w / 2, w % 2) else match p with
    | some p => (s.penCtxs p).head?
    | none => none

/-- The same fold for a write made for a window or a control-die DMA channel. -/
def State.foldFor (s : State) (x : Option (Nat × Nat)) (t : Desc) (l : List (Nat × Nat × List U64)) (poison : Bool) : State :=
  match x with
  | some (d, h) => s.foldWrite d h t l poison
  | none => s

/-! ## Governor counters -/

/-- One block of output descriptor x written (R179); a poisoned one is stored with shift 255 (R534). -/
def Gov.block (g : Gov) (sat : Nat) (top floor : Bool) : Gov :=
  let m := fun n : Nat => min n (2 ^ 32 - 1)
  ⟨m (g.nsat + sat), m (g.ntop + top.toNat), m (g.nfloor + floor.toNat), m (g.nblk + 1)⟩

def State.govBlock (s : State) (d h x : Nat) (r : BlockOut) (bad : Bool) : State :=
  let c := s.ctx d h
  let g := (Tab.get Gov.zero c.gov x).block r.sat (!bad && r.shift == 0) (!r.zero && decide (255 < r.b0))
  s.setCtx d h { c with gov := Tab.set Gov.zero c.gov x g }

/-! ## Core flags of the step -/

def State.laneSat (s : State) (d c k : Nat) (b : Bool) : State := if b then s.set (CORE_STATUS.lane_sat d c k) 1 else s
def State.fuDomain (s : State) (d c k : Nat) (b : Bool) : State := if b then s.set (CORE_STATUS.fu_domain d c k) 1 else s
def State.poisonSeen (s : State) (d c k : Nat) (b : Bool) : State :=
  if b then s.set (CORE_STATUS.poison_seen d c k) 1 else s

end Sys2Proof.Machine
end

