-- ==== Sys2Proof/Machine/Dram.lean ====
section
/-!
DEFINITION. Dram.lean: what a yard does on the way to its stack: classes and slots (R257, R258, R277), row activations (R265), codeword decoding
and its counts (R269, R272), writes on a channel and injections (R305), the yard cache (R288 to R291), snapshot pages (R413), accesses that
must wait (R259, R414), reads and writes of a range by any unit, global addresses.
-/

namespace Sys2Proof.Machine

/-- The first local address of stack y. -/
abbrev stackBase (y : Nat) : Nat := y * 0x2000000000

/-- Where stack offset o is stored, as an offset of its stack (R273, R413). -/
def State.stored (s : State) (y o : Nat) : Nat := s.fold y (s.cowPage y o)

/-- Draw a free value (log entry 6). -/
def State.draw (s : State) : U64 × State := (Config.freeValue s.fresh, { s with fresh := s.fresh + 1 })

/-! ## Who accesses a stack (R257, R259) -/

/-- The number of a source port (R259). -/
def yportNum : YPort → Nat
  | .die d => d.val
  | .fabric f => 4 + f.val
  | .control => 6
  | .exchange => 7
  | .engines => 8
  | .scrubber => 9

/-- Behind an access to a stack: the pen it works for, source port and class, and the unit of that port it comes from. -/
structure Via where
  pen  : Option Nat
  port : YPort
  cls  : Nat
  who  : Nat

/-- The key of a port's FIFO of a class. -/
def Via.key (v : Via) : Nat := 4 * yportNum v.port + v.cls

/-- The key of a request's FIFO. -/
def fifoKey (q : YReq) : Nat := 4 * yportNum q.port + q.cls.val

/-- The yard's channels serve accesses: not in self-refresh, no package freeze (R266). -/
def State.yardLive (s : State) (y : Nat) : Bool := !s.flag (YRD_STATUS.self_refresh y) && !s.pkgFrozen

/-! ## Slots and rows -/

/-- The key of a bank of a channel. -/
def bankKey (c q : Nat) : Nat := 48 * c + 16 * rankOf q + bankOf q

/-- The key of a row of a channel. -/
def rowKey (c q : Nat) : Nat := bankKey c q * 8192 + rowOf q

/-- Does a refresh block the bank of storage offset o (R258)? -/
def Yard.bankBlocked (r : Yard) (o : Nat) : Bool := r.blocked.contains (bankKey (channelOf o) (channelLine o))

/-- The first request of a class queue whose bank no refresh blocks (R258), with its place. -/
def Yard.firstReady (r : Yard) (c k : Nat) : Option (Nat × ChanReq) :=
  ((Tab.get [] r.chq (4 * c + k)).zipIdx.find? fun x => !r.bankBlocked x.1.pos).map fun x => (x.2, x.1)

/-- The slots granted on a channel this step, of all classes. -/
def Yard.busy (r : Yard) (c : Nat) : Nat := ((List.range 4).map fun k => Tab.get 0 r.slots (4 * c + k)).sum

/-- A slot went to channel c: the step's hot channel is the one with the most slots, the lowest of those that tie (R277, R304). -/
def State.showHot (s : State) (y c : Nat) : State :=
  let r := s.yard y
  let was := s.get (YRD_STEP.hot_ch y)
  let hot := if r.busy was < r.busy c ∨ (r.busy was = r.busy c ∧ c < was) then c else was
  (s.set (YRD_STEP.hot_ch y) hot).set (YRD_STEP.hot_ratio y) (r.busy hot * 1024 / (r.slots.map (·.2)).sum)

/-- A slot of a channel goes to class k: the window, the slot counts, the hot channel (R258, R277, R307). -/
def State.countSlot (s : State) (y c k : Nat) : State :=
  let r := s.yard y
  let w := Tab.get [] r.window c ++ [k]
  let n := Tab.get 0 r.slots (4 * c + k) + 1
  let s1 := s.setYard y { r with window := Tab.set [] r.window c (if 64 ≤ w.length then [] else w),
                                 slots := Tab.set 0 r.slots (4 * c + k) n }
  (s1.set (MCH_SLOTS.cls y c k) (min (n / 1024) 65535)).showHot y c

/-- An access to a row: an activation when the bank's last access was to another row (R265). -/
def State.activate (s : State) (y c q : Nat) : State :=
  let r := s.yard y
  if Tab.get 0 r.openRow (bankKey c q) = rowOf q + 1 then s
  else s.setYard y { r with openRow := Tab.set 0 r.openRow (bankKey c q) (rowOf q + 1),
                            acts := Tab.set 0 r.acts (rowKey c q) (Tab.get 0 r.acts (rowKey c q) + 1) }

/-- A 64-byte unit at storage offset o takes a slot of class k. -/
def State.takeSlot (s : State) (y o k : Nat) : State :=
  (s.activate y (channelOf o) (channelLine o)).countSlot y (channelOf o) k

/-- The 64-byte units that [o, o + n) touches. -/
def unitsOf (o n : Nat) : List Nat :=
  if n = 0 then [] else (List.range ((o + n - 1) / 64 - o / 64 + 1)).map fun i => (o / 64 + i) * 64

/-- The units of a range of one line take their slots (R251). -/
def State.takeSlots (s : State) (y o n k : Nat) : State := (unitsOf o n).foldl (fun t u => t.takeSlot y (t.stored y u) k) s

/-! ## Codewords -/

/-- Queue a write-back of a codeword unless one is pending (R272). -/
def State.queueWback (s : State) (y o : Nat) (poison : Bool) : State :=
  let r := s.yard y
  if r.wback.any (fun e => e.1 == o) then s
  else s.setYard y { r with wback := r.wback ++ [(o, poison, r.seq)], seq := r.seq + 1 }

/-- The codeword of stack offset w, at storage offset o of stack y, is read and decoded (R269): counted, its stack offset recorded if it is the
first uncorrectable one (R303), a write-back queued. The latent error stays until the write-back is written. -/
def State.codewordRead (s : State) (y o w : Nat) (scrub : Bool) : State :=
  let m := s.mem.mark (stackBase y + o)
  let c := channelOf o
  if m.poison then s.inc (YRD_ECC.poison_rd y) 1
  else if m.ue then
    let t := ((s.inc (MCH_ECC.ue y c) 1).inc (YRD_ECC.ue y) 1).inc (YRD_ECC.poison_rd y) 1
    let u := if t.flag (YRD_ECC_ADDR.valid y) then t
      else ((t.set (YRD_ECC_ADDR.offset y) (w / 16)).setB (YRD_ECC_ADDR.scrub y) scrub).set (YRD_ECC_ADDR.valid y) 1
    u.queueWback y o true
  else if m.ce then
    ((s.inc (MCH_ECC.ce y c) 1).inc (YRD_ECC.ce y) 1).queueWback y o false
  else s

/-- Codewords of stack y, by stack offset, are read and decoded. -/
def State.decode (s : State) (y : Nat) (ws : List Nat) : State := ws.foldl (fun t w => t.codewordRead y (t.stored y w) w false) s

/-- An armed yard injection acts on the codeword just written on its channel, at storage offset o: poison before a double error before a single
one; every set bit then clears (R305). Which two symbols a double error corrupts is left open, so its syndrome may be the one that is read as
poison (R268): a free value decides (log entry 108). -/
def State.injectYard (s : State) (y o : Nat) : State :=
  let po := s.flag (YRD_INJ.poison y)
  let ue := s.flag (YRD_INJ.ue y)
  let ce := s.flag (YRD_INJ.ce y)
  if (po || ue || ce) && channelOf o == s.get (YRD_INJ.ch y) then
    let a := stackBase y + o
    let m := s.mem.mark a
    let r := if ue then s.draw else (0, s)
    let v : Mark := if po || (ue && bitOf r.1.toNat 0) then ⟨true, false, false⟩ else if ue then ⟨false, false, true⟩ else ⟨m.poison, true, m.ue⟩
    { r.2 with mem := r.2.mem.setMark a v }.clearFlds [YRD_INJ.poison y, YRD_INJ.ue y, YRD_INJ.ce y]
  else s

/-- The codeword at storage offset o is stored on its channel with good check bits, poisoned where its data are: an error it held is gone, and
an injection may act. `line`: the data come from a cache line, which holds an uncorrectable codeword poisoned. -/
def State.codewordStored (s : State) (y o : Nat) (line : Bool) : State :=
  let a := stackBase y + o
  let m := s.mem.mark a
  { s with mem := s.mem.setMark a ⟨m.poison || (line && m.ue), false, false⟩ }.injectYard y o

/-- The codewords of storage range [o, o + n) are stored. -/
def State.unitStored (s : State) (y o n : Nat) (line : Bool) : State :=
  (granules (stackBase y + o) n).foldl (fun t g => t.codewordStored y (g - stackBase y) line) s

/-- A write of n bytes at storage address a of a stack drops the write-backs queued for codewords it touches (R272). -/
def State.dropWbacks (s : State) (a n : Nat) : State :=
  let y := a / 0x2000000000
  let o := a % 0x2000000000
  let r := s.yard y
  s.setYard y { r with wback := r.wback.filter fun e => !(decide (o / 16 ≤ e.1 / 16) && decide (e.1 / 16 ≤ (o + n - 1) / 16)) }

/-! ## The yard cache (R288 to R291) -/

/-- Is the line of stack offset o in the yard cache? -/
def State.cached (s : State) (y o : Nat) : Bool := (s.yard y).lines.any fun l => l.line == o / 256

/-- The number of ways pen p owns in the cache of yard y (R290); 8 stands for no pen, which has the ways that no pen owns (log entry 109). -/
def State.ways (s : State) (y p : Nat) : Nat :=
  ((List.range 16).filter fun i =>
    if p < 8 then bitOf (s.get (YRD_CACHE_WAYS.pen y p)) i
    else !(List.range 8).any fun q => bitOf (s.get (YRD_CACHE_WAYS.pen y q)) i).length

/-- Does the layout mark the memory at offset o of stack y cacheable (R289)? -/
def State.cacheable (s : State) (y o : Nat) : Bool :=
  s.lay.ranges.any fun r => r.stack == y && decide (r.start ≤ o) && decide (o < r.start + r.len) && r.cacheable

/-- The pen in whose ways a line is allocated (R290): that of the access, else that of the memory range, else none (log entry 109). -/
def State.linePen (s : State) (y o : Nat) (p : Option Nat) : Nat :=
  match p with
  | some p => p
  | none => ((s.lay.ranges.find? fun r => r.stack == y && decide (r.start ≤ o) && decide (o < r.start + r.len)).bind (·.pen)).getD 8

/-- The line that makes room for one of pen p in a set: the least recently used of the pen's own ways, and where those have room the least
recently used of those that lie in ways their pen no longer owns (R288; log entry 109); none while the set has room. -/
def State.victim (s : State) (y set p : Nat) : Option CacheLine :=
  let l := (s.yard y).lines.filter fun x => x.line % 16384 == set
  let mine := l.filter (·.pen == p)
  if s.ways y p ≤ mine.length then mine.getLast?
  else if l.length < 16 then none
  else match (l.filter fun x => decide (s.ways y x.pen < (l.filter (·.pen == x.pen)).length)).getLast? with
    | some x => some x
    | none => l.getLast?

/-- Put a request at the end of a channel's class queue (R259). -/
def State.pushChannel (s : State) (y o n k : Nat) (kind : ChanKind) : State :=
  let r := s.yard y
  let st := s.stored y o
  let key := 4 * channelOf st + k
  s.setYard y { r with chq := Tab.set [] r.chq key (Tab.get [] r.chq key ++ [⟨st, n, kind, r.seq⟩]), seq := r.seq + 1 }

/-- A line leaves the cache; a dirty one is written back in class P2 (R288): queued, or, for an access that is one step (`now`), with its
slots taken in the step (log entry 108). -/
def State.evict (s : State) (y : Nat) (v : CacheLine) (now : Bool) : State :=
  let s1 := s.setYard y { s.yard y with lines := (s.yard y).lines.filter fun x => x.line != v.line }
  if !v.dirty then s1
  else if now then (s1.takeSlots y (v.line * 256) 256 2).unitStored y (s1.stored y (v.line * 256)) 256 true
  else s1.pushChannel y (v.line * 256) 256 2 .line

/-- What the cache did with an access: it had the line, it has it now, it does not take it. -/
inductive Touch where
  | hit
  | filled
  | missed
  deriving DecidableEq

/-- The 256-byte line at offset o of stack y is accessed through the cache (R288, R289): a hit moves it to the front; a miss allocates it in the
pen's ways if it is to be allocated. -/
def State.cacheTouch (s : State) (y o : Nat) (p : Option Nat) (alloc write now : Bool) : State × Touch :=
  let ln := o / 256
  let ls := (s.yard y).lines
  match ls.find? (fun l => l.line == ln) with
  | some l =>
    let l' := { l with dirty := l.dirty || write }
    ((s.setYard y { s.yard y with lines := l' :: ls.filter fun x => x.line != ln }).inc (YRD_CACHE_CNT.hits y) 1, .hit)
  | none =>
    let q := s.linePen y o p
    if (alloc || s.cacheable y o) && decide (0 < s.ways y q) then
      let s1 := match s.victim y (ln % 16384) q with
        | some v => s.evict y v now
        | none => s
      ((s1.setYard y { s1.yard y with lines := ⟨ln, q, write⟩ :: (s1.yard y).lines }).inc (YRD_CACHE_CNT.misses y) 1, .filled)
    else (s, .missed)

/-! ## Snapshot pages (R413) -/

/-- The pen that holds a page of a snapshot, or redirected it. -/
def Page.holder : Page → Option Nat
  | .home => none
  | .held p => some p
  | .redirected p _ => some p

/-- CKP_SHED.waiting follows the waiting writes (R439); the time a stack had one waiting is shed stall of the pen (R415). -/
def State.showWaiting (s : State) (y : Nat) : State :=
  (List.range 8).foldl (fun t p =>
    let r := t.yard y
    let now := r.waiting.any fun w => (Tab.get Page.home r.pages w.page).holder == some p
    let was := t.flag (CKP_SHED.waiting p y)
    let t1 := t.setB (CKP_SHED.waiting p y) now
    if now == was then t1
    else if now then t1.setYard y { r with stallFrom := Tab.set 0 r.stallFrom p (t.get CD_TIME.ns + 1) }
    else
      let t2 := t1.setYard y { r with stallFrom := Tab.set 0 r.stallFrom p 0 }
      t2.setPen p { t2.pen p with shedNs := (t2.pen p).shedNs + (t.get CD_TIME.ns + 1 - Tab.get 0 r.stallFrom p) }) s

/-- A page changes state; a step that waited for it waits no longer. -/
def State.setPage (s : State) (y pg : Nat) (v : Page) : State :=
  let r := s.yard y
  s.setYard y { r with pages := Tab.set Page.home r.pages pg v,
                       waiting := r.waiting.filter fun w => w.req.isSome || w.page != pg }

/-- The shed pages of pen p in stack y: base offset and number of pages (R447). -/
def State.shedOf (s : State) (p y : Nat) : Nat × Nat :=
  match s.lay.sheds.find? (fun x => x.stack == y && x.pen == p) with
  | some x => (x.start, x.pages)
  | none => (0, 0)

/-- A free shed page of pen p in stack y, if one exists: the first no redirected page uses. -/
def State.freeShed (s : State) (p y : Nat) : Option Nat :=
  let sh := s.shedOf p y
  (List.range sh.2).findSome? fun i =>
    let o := sh.1 + i * 65536
    if (s.yard y).pages.any (fun e => match e.2 with | .redirected _ x => x == o | _ => false) then none else some o

/-- Copy a page of stack y between the stack offsets `src` and `dst` (R413): each codeword read and decoded unless the cache holds its line
(R269), then stored, poisoned where it was delivered so; write-backs pending for the old contents are dropped (R272). -/
def State.copyPage (s : State) (y src dst : Nat) : State :=
  (List.range 4096).foldl (fun t i =>
    let from_ := t.fold y (src + 16 * i)
    let to_ := t.fold y (dst + 16 * i)
    let t1 := if t.cached y (src + 16 * i) then t else t.codewordRead y from_ (src + 16 * i) false
    let bad := t1.mem.bad (stackBase y + from_)
    let bs := (List.range 16).map fun j => t1.mem.byte (stackBase y + from_ + j)
    ({ t1 with mem := t1.mem.write (stackBase y + to_) bs bad }.dropWbacks (stackBase y + to_) 16).injectYard y to_) s

/-- The drain has sent page `pg` of stack y for pen p (R413, R416): HELD becomes HOME; a redirected page's home bytes have gone out, its shed page
is copied back home and freed. The bytes join the checkpoint unit's stream. -/
def State.drainPage (s : State) (p y pg : Nat) : State :=
  let bytes := (List.range 65536).map fun i => s.mem.byte (stackBase y + s.fold y (pg * 65536 + i))
  let k := s.ckp p
  let s1 := s.setCkp p { k with
    bytes := Tab.set [] k.bytes (y * 0x200000 + pg) bytes,
    drained := Tab.set 0 k.drained (y * 0x200000 + pg) 1 }
  match Tab.get Page.home (s.yard y).pages pg with
  | .redirected q shed =>
    let s2 := (s1.copyPage y shed (pg * 65536)).setPage y pg .home
    s2.set (CKP_SHED.in_use q y) (s2.get (CKP_SHED.in_use q y) - 1)
  | _ => s1.setPage y pg .home

/-- Redirect a held page to a free shed page (R413), copying its home page unless the write covers the whole page. -/
def State.redirect (s : State) (p y pg shed : Nat) (whole : Bool) : State :=
  let s1 := if whole then s else s.copyPage y (pg * 65536) shed
  let s2 := s1.setPage y pg (.redirected p shed)
  let n := s2.get (CKP_SHED.in_use p y) + 1
  (s2.set (CKP_SHED.in_use p y) n).set (CKP_SHED.peak p y) (max n (s2.get (CKP_SHED.peak p y)))

/-! ## Accesses that wait (R259, R266, R413, R414) -/

/-- The yard takes an access to the line at stack offset o: its channels are live (R266), no request or waiting write stands before it in its
port's FIFO (R259, R414), and, where the cache does not serve it, its bank is not blocked, its queue has room, and no request of its class or
a higher one is ready on the channel (R258; log entry 108). -/
def State.takes (s : State) (v : Via) (y o : Nat) : Bool :=
  let r := s.yard y
  let st := s.stored y o
  let c := channelOf st
  s.yardLive y && (Tab.get [] r.fifo v.key).isEmpty &&
    !(r.waiting.any fun w => w.key == v.key && (w.req.isSome || w.who != v.who)) &&
    (s.cached y o || (!r.bankBlocked st && decide ((Tab.get [] r.chq (4 * c + v.cls)).length < 32) &&
      (List.range (v.cls + 1)).all fun k => (r.firstReady c k).isNone))

/-- The first access of a command that must wait is noted. -/
def State.holdAt (s : State) (v : Via) (y : Nat) (page : Option Nat) : State :=
  if s.yardHold.isSome then s else { s with yardHold := some ⟨y, v.key, v.who, page⟩ }

/-- What a write to a page must do first (R413): nothing; redirect the page; or, with the shed full, wait. -/
def State.cowReady (s : State) (v : Via) (y pg : Nat) : State :=
  match Tab.get Page.home (s.yard y).pages pg with
  | .held p =>
    match s.freeShed p y with
    | some sh => s.redirect p y pg sh false
    | none => s.holdAt v y (some pg)
  | _ => s

/-- A command whose access a yard does not take yet waits for it: that it waits for a page is noted (R413, R439). -/
def State.noteHold (s : State) (w : YardHold) : State :=
  match w.page with
  | none => s
  | some pg =>
    let r := s.yard w.yard
    if r.waiting.any (fun x => x.req.isNone && x.key == w.key && x.who == w.who && x.page == pg) then s
    else (s.setYard w.yard { r with waiting := r.waiting ++ [⟨w.key, w.who, pg, none⟩] }).showWaiting w.yard

/-- A command that reaches stacks is one step: where a yard does not take one of its accesses yet, all of it waits, and nothing but the wait
shows (R259, R414; log entry 108). -/
def State.yardStep (s : State) (f : State → Host.Outcome State Fault Refusal) : Host.Outcome State Fault Refusal :=
  match f { s with yardHold := none } with
  | .next t =>
    match t.yardHold with
    | some w => .next ({ s with yardHold := none }.noteHold w)
    | none => .next t
  | o => o

/-- What a fault or a freeze writes is written whatever the yards take (log entry 108). -/
def State.notHeld (s t : State) : State := { t with yardHold := s.yardHold }

/-! ## Reads and writes of a range -/

/-- The stack offsets of the lines of [o, o + n). -/
def linesOf (o n : Nat) : List Nat :=
  if n = 0 then [] else (List.range ((o + n - 1) / 256 - o / 256 + 1)).map fun i => (o / 256 + i) * 256

/-- The codewords of line `l` that [o, o + n) touches, as stack offsets. -/
def codewordsOf (o n l : Nat) : List Nat :=
  (List.range 16).filterMap fun i =>
    let w := l + 16 * i
    if decide (w < o + n) && decide (o < w + 16) then some w else none

/-- Codewords that a write of [o, o + n) does not replace: their old contents are read for the merge, or for the line (R269, R270). -/
def notWhole (o n : Nat) (ws : List Nat) : List Nat := ws.filter fun w => !(decide (o ≤ w) && decide (w + 16 ≤ o + n))

/-- A codeword of a line in the cache is delivered: a poisoned one is counted (R269, R291). -/
def State.deliverHit (s : State) (y w : Nat) : State :=
  if s.mem.bad (stackBase y + s.stored y w) then s.inc (YRD_ECC.poison_rd y) 1 else s

/-- What an access does: read, write, or read and write as one (R294). -/
inductive AccKind where
  | read
  | write
  | update
  deriving DecidableEq

/-- The part of [o, o + n) in line `l` is accessed, in class v.cls: through the cache, and on a miss on the channel, where each 64-byte unit takes a
slot. A read decodes the codewords it touches, a write those it only merges into, a miss that allocates those of the whole line (R269, R302). -/
def State.lineAccess (s : State) (v : Via) (y o n l : Nat) (alloc : Bool) (acc : AccKind) : State :=
  let s0 := if s.takes v y l then s else s.holdAt v y none
  let r := s0.cacheTouch y l v.pen alloc (acc != .read) true
  let lo := max o l
  let mine := codewordsOf o n l
  let all := codewordsOf l 256 l
  match r.2 with
  | .hit => if acc = .write then r.1 else mine.foldl (fun t w => t.deliverHit y w) r.1
  | .filled =>
    let need := if acc = .write then notWhole o n all else all
    if need.isEmpty then r.1 else (r.1.takeSlots y l 256 v.cls).decode y need
  | .missed => (r.1.takeSlots y lo (min (o + n) (l + 256) - lo) v.cls).decode y (if acc = .write then notWhole o n mine else mine)

/-- A range of stack y is read (R269, R289, R291). The data are what `State.read` gives, the poison what `State.readBad` gives. -/
def State.yardRead (s : State) (v : Via) (y o n : Nat) (alloc : Bool) : State :=
  (linesOf o n).foldl (fun t l => t.lineAccess v y o n l alloc .read) s

/-- Pieces that follow each other from stack offset o on, in one line, replace what was there (R270); the write is visible from here on
(R260). -/
def State.yardPut (s : State) (y o : Nat) (l : List (List Byte × Bool)) : State :=
  let a := stackBase y + s.stored y o
  let n := (l.map (·.1.length)).sum
  { s with mem := s.mem.writePieces a l }.dropWbacks a n

/-- Pieces of one line are written or updated (R270, R291), on the page that the map names (R413): through the cache, and stored on the channel
where the cache does not take them (R305). -/
def State.yardStore (s : State) (v : Via) (y o : Nat) (l : List (List Byte × Bool)) (alloc : Bool) (acc : AccKind) : State :=
  let n := (l.map (·.1.length)).sum
  let s1 := ((s.cowReady v y (o / 65536)).lineAccess v y o n (o / 256 * 256) alloc acc).yardPut y o l
  if s1.cached y o then s1 else s1.unitStored y (s1.stored y o) n false

/-- A piece of output: local address, bytes, poisoned or not. -/
abbrev Piece := Nat × List Byte × Bool

/-- Pieces cut at line ends. -/
def cutPieces (l : List Piece) : List Piece :=
  l.flatMap fun x => (linePieces (x.2.1.length + 1) x.1 x.2.1).map fun y => (y.1, y.2, x.2.2)

/-- Pieces that follow each other in one line, gathered (R244: planes are written in 256-byte units). -/
def unitRuns : List Piece → List (Nat × List (List Byte × Bool))
  | [] => []
  | x :: t =>
    match unitRuns t with
    | [] => [(x.1, [x.2])]
    | r :: u => if x.1 + x.2.1.length = r.1 ∧ r.1 % 256 ≠ 0 then (x.1, x.2 :: r.2) :: u else (x.1, [x.2]) :: r :: u

/-- A unit of output is written at its local address: to a stack through its yard, to other memory as it lies. -/
def State.putRun (s : State) (v : Via) (alloc : Bool) (acc : AccKind) (r : Nat × List (List Byte × Bool)) : State :=
  if r.1 < dramTop then s.yardStore v (r.1 / 0x2000000000) (r.1 % 0x2000000000) r.2 alloc acc
  else { s with mem := s.mem.writePieces r.1 r.2 }

/-- Pieces of output are written, unit by unit. -/
def State.putPieces (s : State) (v : Via) (alloc : Bool) (acc : AccKind) (l : List Piece) : State :=
  (unitRuns (cutPieces l)).foldl (fun t r => t.putRun v alloc acc r) s

/-- Pieces that follow each other from local address a on. -/
def pieceRun (a : Nat) : List (List Byte × Bool) → List Piece
  | [] => []
  | q :: t => (a, q) :: pieceRun (a + q.1.length) t

/-- A read of a local address range counted as its place requires: a stack through its yard, other memory as it lies. -/
def State.countRead (s : State) (v : Via) (a n : Nat) : State :=
  if a < dramTop then s.yardRead v (a / 0x2000000000) (a % 0x2000000000) n false else s

/-- A write of bytes to a local address. -/
def State.localWrite (s : State) (v : Via) (a : Nat) (bs : List Byte) (poison : Bool) : State := s.putPieces v false .write [(a, bs, poison)]

/-! ## Addresses -/

/-- Does global address g lie on this package? -/
def State.ownPackage (s : State) (g : Nat) : Bool := g / 2 ^ 48 % 65536 == s.package

/-- The local address of a global address. -/
abbrev localOf (g : Nat) : Nat := g % 2 ^ 48

/-- Is the offset in a shed page: a program access there faults (R411)? -/
def State.inShed (s : State) (y o : Nat) : Bool :=
  s.lay.sheds.any fun x => x.stack == y && decide (x.start ≤ o) && decide (o < x.start + 65536 * x.pages)

/-- Does [o, o + n) of stack y meet a shed page? -/
def State.meetsShed (s : State) (y o n : Nat) : Bool :=
  s.lay.sheds.any fun x => x.stack == y && decide (x.start < o + n) && decide (o < x.start + 65536 * x.pages)

/-- May a unit that works for pen p reach [a, a + n) of local memory: mapped, in no range of another pen, in no shed page (R13, R411, R442)? -/
def State.penReach (s : State) (p : Option Nat) (a n : Nat) : Bool :=
  let y := a / 0x2000000000
  let o := a % 0x2000000000
  decide (a + n ≤ dramTop) && s.rangeMapped a n && !s.meetsShed y o n && !s.lay.ranges.any fun r =>
    r.stack == y && r.pen.isSome && r.pen != p && decide (r.start < o + n) && decide (o < r.start + r.len)

/-- Does [g, g + n) lie in stack y of this package, below its mapped size (XC_STACK, R240), where pen p may reach it (R411, R442; log entry
110)? -/
def State.inStack (s : State) (p : Option Nat) (y g n : Nat) : Bool :=
  s.ownPackage g && decide (stackBase y ≤ localOf g) && decide (localOf g - stackBase y + n ≤ s.stackSize y) &&
    (n == 0 || s.penReach p (localOf g) n)

end Sys2Proof.Machine
end

