-- ==== Sys2Proof/Machine/Route.lean ====
section
/-!
DEFINITION. Route.lean: packets leaving the package: the pens' routing tables (R357, R358), the ports' queues (R361), rings of global
bells (R377, R378), free values.
-/

namespace Sys2Proof.Machine

/-- A port carries new packets for pen p: owned by it, ON and its link UP (R340, R358). -/
def State.portUsable (s : State) (p n : Nat) : Bool :=
  s.get (PRT_CTL.owner n) == p && s.get (PRT_CTL.state n) == 2 && s.get (PRT_LINK.link n) == 2

/-- The routing entry of destination package `dst` for pen p (R357). -/
def State.routeEntry (s : State) (p dst : Nat) : Nat := Tab.get 0 s.routes (65536 * p + dst)

/-- The parity of the low 16 bits. -/
def parity16 (n : Nat) : Nat := ((List.range 16).filter fun i => bitOf n i).length % 2

/-- The port the switch chooses (R358): primary or alternate by the parity of source XOR group, the other one where that is not
usable; none where neither is, or the entry is invalid. -/
def State.choosePort (s : State) (p : Nat) (k : Packet) : Option Nat :=
  let e := s.routeEntry p k.dst.toNat
  let pri := bitsOf e 0 6
  let alt := bitsOf e 6 6
  let sel := parity16 (k.src.toNat ^^^ k.group.toNat)
  let a := if sel = 0 then pri else alt
  let b := if sel = 0 then alt else pri
  if !bitOf e 12 then none
  else if s.portUsable p a then some a
  else if s.portUsable p b then some b
  else none

/-- The fabric die a destination's entry names: the die map's bit (R357). -/
def State.dieMap (s : State) (p dst : Nat) : Nat := bitsOf (s.routeEntry p dst) 0 6 / 32

/-- Does the type travel in the response lane (R347)? -/
def respLane : PType → Bool
  | .rdRsp | .wrDone | .atomRsp | .errRsp => true
  | _ => false

/-- The lane of a packet in a link-control entry's order (R350). -/
def packetLane (k : Packet) : Nat := 2 * (!k.exped).toNat + (respLane k.ptype).toNat

/-- Put a packet at the end of a port's queue, from input `inp` (64: the local endpoint), with `more` bytes of it still to arrive (R356). -/
def State.enqueue (s : State) (n inp : Nat) (k : Packet) (more : Nat) : State :=
  let q := s.port n
  let key := 65 * packetLane k + inp
  s.setPort n { q with queues := Tab.set [] q.queues key (Tab.get [] q.queues key ++ [⟨k, more⟩]) }

/-- Is it a request-lane packet that is answered when refused (R358)? -/
def PType.answered : PType → Bool
  | .rdReq | .wr | .atom => true
  | _ => false

/-- The ERR_RSP that answers a refused request (R347, R355): it echoes the tag and the address. -/
def errRsp (k : Packet) (me reason : Nat) : Packet :=
  { ptype := .errRsp, exped := k.exped, hops := 0, dst := k.src, src := BitVec.ofNat 16 me, group := k.group, mask := 0,
    tag := k.tag, wordA := k.wordA, wordB := BitVec.ofNat 64 reason, payload := [] }

/-- A packet of pen p leaves by its table (R357, R358), with `more` bytes of it still to arrive. The result says by which port; none means
that it was refused: discarded and counted on the die it arrived on, or for this package's own packet on the die the die map names. -/
def State.route (s : State) (p : Option Nat) (inp : Nat) (k : Packet) (more : Nat) : State × Option Nat :=
  match p with
  | none => (s, none)
  | some p =>
    match s.choosePort p k with
    | some n => (s.enqueue n inp k more, some n)
    | none => (s.inc (FAB_CNT.unroute (if inp < 64 then inp / 32 else s.dieMap p k.dst.toNat)) 1, none)

/-- A packet of this package's own endpoint leaves; a refusal is only counted (R358). -/
def State.emit (s : State) (p : Option Nat) (k : Packet) : State := (s.route p 64 k 0).1

/-- A ring of a bell of this package by its name (R377, R378). A name with a reserved die code names no die: which die's BEL_CNT counts
it the spec leaves open (log entry 15). -/
def State.ringHere (s : State) (p : Option Nat) (name n : Nat) (err : Bool) : State :=
  let b := bellDie name
  if 6 ≤ b then
    let r := s.draw
    r.2.inc (BEL_CNT.refused (r.1.toNat % 6)) 1
  else if bellReserved name then s.inc (BEL_CNT.refused b) 1
  else s.ringOwn p b (bellIndex name) n err

/-- A ring by a unit working for pen p: on this package, or as a BELL packet (R378). A ring of count 0 without err changes nothing
(R146). -/
def State.ringName (s : State) (p : Option Nat) (name n : Nat) (err : Bool) : State :=
  if n = 0 ∧ err = false then s
  else if bellPackage name = s.package then s.ringHere p name n err
  else s.emit p (bellPacket s name n err)

end Sys2Proof.Machine
end

