-- ==== Sys2Proof/Machine/Windows.lean ====
section
/-!
DEFINITION. Windows.lean: the command windows of a yard's exchange converter and engine block: who may write, staging, posting,
queueing, taking the next command, its checks (R240, R285), completion records and bells (R236 to R245, R279).
Throughout, `eng` is false for the exchange converter and true for the engine block.
-/

namespace Sys2Proof.Machine

/-! ## The registers of either block -/

abbrev xStateF (y : Nat) (eng : Bool) : Fld := if eng then YRD_ENG_CTL.state y else YRD_XCH_CTL.state y
abbrev xOwnerF (y : Nat) (eng : Bool) (w : Nat) : Fld := if eng then YRD_ENG_CTL.owner y w else YRD_XCH_CTL.owner y w
abbrev xBusyF (y : Nat) (eng : Bool) : Fld := if eng then YRD_ENG_STAT.busy y else YRD_XCH_STAT.busy y
abbrev xWindowF (y : Nat) (eng : Bool) : Fld := if eng then YRD_ENG_STAT.window y else YRD_XCH_STAT.window y
abbrev xDepthF (y : Nat) (eng : Bool) (w : Nat) : Fld := if eng then YRD_ENG_STAT.depth y w else YRD_XCH_STAT.depth y w
abbrev xFullF (y : Nat) (eng : Bool) (w : Nat) : Fld := if eng then YRD_ENG_STAT.full y w else YRD_XCH_STAT.full y w
abbrev xCmdsF (y : Nat) (eng : Bool) : Fld := if eng then YRD_ENG_CNT.cmds y else YRD_XCH_CNT.cmds y
abbrev xErrsF (y : Nat) (eng : Bool) : Fld := if eng then YRD_ENG_CNT.errs y else YRD_XCH_CNT.errs y
abbrev xSatF (y : Nat) (eng : Bool) : Fld := if eng then YRD_ENG_CNT.sat y else YRD_XCH_CNT.sat y
abbrev xUnfF (y : Nat) (eng : Bool) : Fld := if eng then YRD_ENG_CNT.unf y else YRD_XCH_CNT.unf y

/-- The window a writer may write (R236): 2d + h for context h of die d through die DMA, 8 for the control die. -/
def windowOf : Source → Option Nat
  | .controlDie => some 8
  | .dma d h => some (2 * d.val + h.val)
  | .port _ | .service | .jtag => none

/-- The pen that owns a window, if any (R247, R308). -/
def State.windowPen (s : State) (y : Nat) (eng : Bool) (w : Nat) : Option Nat :=
  let o := s.get (xOwnerF y eng w)
  if o < 8 then some o else none

/-- May this writer write window w: its own window, and the function ON (R236, R456)? -/
def State.windowOk (s : State) (src : Source) (y : Nat) (eng : Bool) (w : Nat) : Bool :=
  windowOf src == some w && s.get (xStateF y eng) == 2

/-- Bytes `off` and on of a 128-byte record replaced. -/
def overlay (l : List Byte) (size off : Nat) (bs : List Byte) : List Byte :=
  (List.range size).map fun i => if off ≤ i ∧ i < off + bs.length then bs.getD (i - off) 0 else l.getD i 0

/-- Bytes written into a window are staged (R237). -/
def Engine.stage (e : Engine) (w off : Nat) (bs : List Byte) : Engine :=
  { e with staged := Tab.set [] e.staged w (overlay (Tab.get [] e.staged w) 128 off bs) }

/-- The queue of a window. -/
def Engine.queueOf (e : Engine) (w : Nat) : List (List Byte) := Tab.get [] e.queue w

/-- The queue depth of window w as the status register shows it (R248). -/
def State.showDepth (s : State) (y : Nat) (eng : Bool) (w : Nat) : State :=
  let n := ((s.engine y eng).queueOf w).length
  (s.set (xDepthF y eng w) (min n 7)).setB (xFullF y eng w) (decide (8 ≤ n))

/-- Put a command at the end of a window's queue. -/
def State.queueCmd (s : State) (y : Nat) (eng : Bool) (w : Nat) (cmd : List Byte) : State :=
  let e := s.engine y eng
  (s.setEngine y eng { e with queue := Tab.set [] e.queue w (e.queueOf w ++ [cmd]) }).showDepth y eng w

/-- A window write (R236, R237): refused to any writer but the window's, and while the function is not ON; else staged, and a write of
byte 127 posts the staged 128 bytes, or is not accepted while the queue holds 8. -/
def State.windowWrite (s : State) (src : Source) (y : Nat) (eng : Bool) (w off : Nat) (bs : List Byte) : State :=
  if !s.windowOk src y eng w then s.answer (match src with | .controlDie => .accessFault | _ => .refused)
  else
    let e := (s.engine y eng).stage w off bs
    if off + bs.length < 128 then (s.setEngine y eng e).answer .accepted
    else
      let cmd := Tab.get [] e.staged w
      if (e.queueOf w).length < 8 then ((s.setEngine y eng e).queueCmd y eng w cmd).answer .accepted
      else (s.setEngine y eng { e with held := Tab.set [] e.held w cmd }).answer .held

/-- The posting write that waited for room is accepted (R237). -/
def State.windowRoom (s : State) (y : Nat) (eng : Bool) (w : Nat) : State :=
  let e := s.engine y eng
  ((s.setEngine y eng { e with held := Tab.set [] e.held w [] }).queueCmd y eng w (Tab.get [] e.held w)).answer .accepted

/-- The pen's half-dies are frozen, or the package is (R498). -/
def State.penFrozen (s : State) (p : Nat) : Bool :=
  s.pkgFrozen || (List.range 8).any fun i => bitOf (s.get FRZ_STAT.halves) i && bitOf (s.get (PEN_INFO.halves p)) i

/-- The next window served, round-robin after the last one (R239), among those with a command whose pen is not frozen. -/
def State.nextWindow (s : State) (y : Nat) (eng : Bool) : Option Nat :=
  let e := s.engine y eng
  ((List.range 9).map fun i => (e.last + 1 + i) % 9).find? fun w =>
    !(e.queueOf w).isEmpty && !(match s.windowPen y eng w with | some p => s.penFrozen p | none => s.pkgFrozen)

/-! ## Command fields (R238, R280) -/

abbrev cmdOp (c : List Byte) : Nat := fieldNat c 0 1
abbrev cmdFlags (c : List Byte) : Nat := fieldNat c 1 1
abbrev cmdEb (c : List Byte) : Nat := fieldNat c 2 1
abbrev cmdEc (c : List Byte) : Nat := fieldNat c 3 1
abbrev cmdXn (c : List Byte) : Int := sext 16 (fieldNat c 4 2)
abbrev cmdXw (c : List Byte) : Int := sext 16 (fieldNat c 6 2)
abbrev cmdKind (c : List Byte) : Nat := fieldNat c 6 2
abbrev cmdD0 (c : List Byte) : Nat := fieldNat c 8 8
abbrev cmdD1 (c : List Byte) : Nat := fieldNat c 16 8
abbrev cmdD2 (c : List Byte) : Nat := fieldNat c 24 8
abbrev cmdTabN (c : List Byte) : Nat := fieldNat c 32 8
abbrev cmdTabW (c : List Byte) : Nat := fieldNat c 40 8
abbrev cmdAux0 (c : List Byte) : Nat := fieldNat c 40 8
abbrev cmdChnN (c : List Byte) : Nat := fieldNat c 48 2 + 1
abbrev cmdChnW (c : List Byte) : Nat := fieldNat c 50 2 + 1
abbrev cmdNsrc (c : List Byte) : Nat := fieldNat c 50 2 + 1
abbrev cmdRow0 (c : List Byte) : Nat := fieldNat c 52 4
abbrev cmdRows (c : List Byte) : Nat := fieldNat c 56 4 + 1
abbrev cmdNcols (c : List Byte) : Nat := fieldNat c 60 4 + 1
abbrev cmdLo (c : List Byte) : Int := sext 64 (fieldNat c 64 8)
abbrev cmdHi (c : List Byte) : Int := sext 64 (fieldNat c 72 8)
abbrev cmdDone (c : List Byte) : Nat := fieldNat c 80 8
abbrev cmdErr (c : List Byte) : Nat := fieldNat c 88 8
abbrev cmdRec (c : List Byte) : Nat := fieldNat c 96 8
abbrev cmdTag (c : List Byte) : Nat := fieldNat c 104 8
abbrev cmdAux1 (c : List Byte) : Nat := fieldNat c 112 8

/-- The IEEE type an exchange command names (R238). -/
def cmdIeee (c : List Byte) : Ieee :=
  match bitsOf (cmdFlags c) 4 2 with
  | 0 => binary16
  | 1 => binary32
  | _ => binary64

/-- The descriptor at a global address. -/
def State.descAt (s : State) (g : Nat) : Desc := descOf (s.read (localOf g) 64)

/-! ## Checks -/

/-- The ranges of a tensor's planes, as global address and length. -/
def Desc.planes (d : Desc) : List (Nat × Nat) :=
  if d.format.block then [(d.elem, d.elemBytes), (d.shift, d.shiftBytes)] else [(d.elem, d.elemBytes)]

/-- Do two ranges share a byte? -/
def overlap (a b : Nat × Nat) : Bool := decide (a.1 < b.1 + b.2) && decide (b.1 < a.1 + a.2)

/-- The descriptors an exchange command names (R230). -/
def xchDescs (c : List Byte) : List Nat :=
  match cmdOp c with
  | 1 => [cmdD0 c, cmdD1 c]
  | 2 => [cmdD0 c, cmdD2 c]
  | _ => [cmdD0 c]

/-- The length of the IEEE buffer (R238). -/
def State.ieeeBytes (s : State) (c : List Byte) : Nat :=
  cmdRows c * (s.descAt (cmdD0 c)).cols * ((cmdIeee c).bits / 8)

/-- The ranges an exchange command reads or writes besides descriptors and planes. -/
def State.xchRanges (s : State) (c : List Byte) : List (Nat × Nat) :=
  match cmdOp c with
  | 1 => [(cmdTabN c, 16 * cmdChnN c), (cmdRec c, 32)]
  | 2 => [(cmdTabW c, 16 * cmdChnW c), (cmdRec c, 32)]
  | _ => [(cmdD2 c, s.ieeeBytes c), (cmdRec c, 32)]

/-- XC_OP for an exchange command: reserved op, a reserved bit or field nonzero (R240). -/
def xchBadOp (c : List Byte) : Bool :=
  let op := cmdOp c
  !(op == 1 || op == 2 || op == 4 || op == 5) || bitsOf (cmdFlags c) 6 2 != 0 || decide (128 ≤ cmdEb c) ||
    decide (128 ≤ cmdEc c) || fieldNat c 60 4 != 0 || fieldNat c 112 16 != 0 ||
    ((op == 4 || op == 5) && bitsOf (cmdFlags c) 4 2 == 3)

/-- The first nonzero descriptor code (R30). -/
def State.firstDescFault (s : State) (l : List Nat) : Nat :=
  (l.findSome? fun g => let f := s.descFault (s.descAt g); if f = 0 then none else some f).getD 0

/-- A descriptor format plays its role in R230. -/
def isShortCode (f : Nat) : Bool := f == 1 || f == 2

/-- Same shape and indexing (R231). -/
def Desc.sameShape (a b : Desc) : Bool := a.rows == b.rows && a.cols == b.cols && a.gcols == b.gcols && a.gidx == b.gidx

/-- The status and detail of the checks of an exchange command of pen p (R240), in the table's order; a descriptor that does not lie in the
yard's own stack cannot be read by it and is taken as XC_STACK (log entry 16). -/
def State.xchCheck (s : State) (p : Option Nat) (y : Nat) (c : List Byte) : Nat × Nat :=
  let op := cmdOp c
  let ds := xchDescs c
  let d0 := s.descAt (cmdD0 c)
  let dn := s.descAt (if op = 1 then cmdD1 c else cmdD2 c)
  let two := op == 1 || op == 2
  let planes := if two then d0.planes ++ dn.planes else d0.planes
  if xchBadOp c then (1, 0)
  else if ds.any (fun g => !s.inStack p y g 64) then (5, 0)
  else if s.firstDescFault ds ≠ 0 then (2, s.firstDescFault ds)
  else if two && !(d0.fmt == 4 && isShortCode dn.fmt) then (3, 0)
  else if (two && !d0.sameShape dn) || decide (d0.rows < cmdRow0 c + cmdRows c) then (4, 0)
  else if (planes ++ s.xchRanges c).any (fun r => !s.inStack p y r.1 r.2) then (5, 0)
  else if (op == 1 && decide (190 < d0.exp - cmdXn c)) || (op == 2 && decide (190 < dn.exp - cmdXw c)) then (6, 0)
  else if (if two then dn.planes else [(cmdD2 c, s.ieeeBytes c)]).any (fun r => d0.planes.any (overlap r)) then (7, 0)
  else if ds.any (fun g => s.readUe (localOf g) 64) ||
      (op == 1 && s.readUe (localOf (cmdTabN c)) (16 * cmdChnN c)) ||
      (op == 2 && s.readUe (localOf (cmdTabW c)) (16 * cmdChnW c)) then (9, 0)
  else (0, 0)

/-- The kind codes of R292. -/
def atomKind (k : Nat) : Bool := decide (k ≤ 5) || (decide (8 ≤ k) && decide (k ≤ 12))

/-- XC_OP for an engine command: reserved op, bit or field, or atomic kind (R280, R285, R292). -/
def engBadOp (c : List Byte) : Bool :=
  let op := cmdOp c
  !(decide (0x10 ≤ op) && decide (op ≤ 0x19)) || bitOf (cmdFlags c) 2 || bitsOf (cmdFlags c) 4 4 != 0 ||
    decide (128 ≤ cmdEb c) || decide (128 ≤ cmdEc c) || fieldNat c 120 8 != 0 || (op == 0x19 && !atomKind (cmdKind c))

/-! ## The running command -/

/-- A command is taken up, its checks' outcome in hand (R239, R240): a failed one has ended already. -/
def State.beginRun (s : State) (y : Nat) (eng : Bool) (w : Nat) (cmd : List Byte) (chk : Nat × Nat) : State :=
  let e := s.engine y eng
  let r : Run := { w := w, cmd := cmd, status := chk.1, detail := chk.2, finished := chk.1 != 0, rows := 0, sat := 0, unf := 0,
                   nan := none, poisoned := false, errRow := 0 }
  let s1 := (s.setEngine y eng { e with queue := Tab.set [] e.queue w ((e.queueOf w).drop 1), last := w, run := some r }).showDepth y eng w
  (s1.set (xBusyF y eng) 1).set (xWindowF y eng) w

/-- Behind the accesses of a window's command: the window's pen, the block's port, the command's class (R238, R257, R280). -/
def State.windowVia (s : State) (y : Nat) (eng : Bool) (w : Nat) (cmd : List Byte) : Via :=
  { pen := s.windowPen y eng w, port := if eng then .engines else .exchange, cls := 1 + (bitOf (cmdFlags cmd) 3).toNat, who := 0 }

/-- Behind the accesses of a running command. -/
def State.runVia (s : State) (y : Nat) (eng : Bool) (r : Run) : Via := s.windowVia y eng r.w r.cmd

/-- The running command, changed. -/
def State.setRun (s : State) (y : Nat) (eng : Bool) (r : Run) : State :=
  s.setEngine y eng { s.engine y eng with run := some r }

/-- The completion record (R242). -/
def Run.record (r : Run) : List Byte :=
  leBytes 1 r.status ++ leBytes 1 (if r.status = 0 then r.poisoned.toNat else r.detail) ++ leBytes 2 0 ++ leBytes 4 r.rows ++
    leBytes 4 r.sat ++ leBytes 4 r.unf ++ leBytes 8 (r.nan.getD (2 ^ 64 - 1)) ++ leBytes 8 (cmdTag r.cmd)

/-- The first failure of the step is recorded (R250, R311). -/
def State.xchError (s : State) (y : Nat) (eng : Bool) (r : Run) : State :=
  if r.status = 0 then s
  else if eng then
    if s.flag (YRD_ENG_ERR.valid y) then s
    else (((s.set (YRD_ENG_ERR.status y) r.status).set (YRD_ENG_ERR.window y) r.w).set (YRD_ENG_ERR.row y) r.errRow).set
      (YRD_ENG_ERR.valid y) 1
  else if s.flag (YRD_XCH_ERR.valid y) then s
  else
    let t := ((s.set (YRD_XCH_ERR.status y) r.status).set (YRD_XCH_ERR.window y) r.w).set (YRD_XCH_ERR.valid y) 1
    match r.nan with
    | some g => t.set (YRD_XCH_NAN.gidx y) g
    | none => t

/-- The counts of a block as its registers show them (R249, R310): those of all pens, stopping at all ones. -/
def State.showCounts (s : State) (y : Nat) (eng : Bool) : State :=
  let l := (s.engine y eng).counts.map (·.2)
  let top := fun (f : EngCount → Nat) => min (l.map f).sum 65535
  (((s.set (xCmdsF y eng) (top (·.cmds))).set (xErrsF y eng) (top (·.errs))).set (xSatF y eng) (top (·.sat))).set (xUnfF y eng) (top (·.unf))

/-- What a block has counted in the step for pen p; 15 stands for no pen. -/
def State.engCount (s : State) (y : Nat) (eng : Bool) (p : Nat) : EngCount := Tab.get EngCount.zero (s.engine y eng).counts p

/-- The counts of a block for pen p become c. -/
def State.setEngCount (s : State) (y : Nat) (eng : Bool) (p : Nat) (c : EngCount) : State :=
  (s.setEngine y eng { s.engine y eng with counts := Tab.set EngCount.zero (s.engine y eng).counts p c }).showCounts y eng

/-- A command of pen p has completed in a block. -/
def State.countCommand (s : State) (y : Nat) (eng : Bool) (p : Nat) (r : Run) : State :=
  let c := s.engCount y eng p
  s.setEngCount y eng p { cmds := c.cmds + (r.status == 0).toNat, errs := c.errs + (r.status != 0).toNat, sat := c.sat + r.sat,
                          unf := c.unf + r.unf }

/-- The running command completes (R242, R249, R310): its record is written, then the done bell rings on status 0 and the error bell
otherwise; counts and the first error of the step are kept. A record address outside the yard's own stack takes no record. -/
def State.completeRun (s : State) (y : Nat) (eng : Bool) (r : Run) : State :=
  let p := s.windowPen y eng r.w
  let s1 := if s.inStack p y (cmdRec r.cmd) 32 then s.localWrite (s.runVia y eng r) (localOf (cmdRec r.cmd)) r.record false else s
  let s2 := ((s1.setEngine y eng { s1.engine y eng with run := none }).set (xBusyF y eng) 0).set (xWindowF y eng) 0
  ((s2.countCommand y eng (p.getD 15) r).xchError y eng r).ringName p (if r.status = 0 then cmdDone r.cmd else cmdErr r.cmd) 1 false

/-- A command of window w of die context 2d + h is queued or running in a yard (R243). -/
def Engine.holds (e : Engine) (w : Nat) : Bool :=
  !(e.queueOf w).isEmpty || !(Tab.get [] e.held w).isEmpty || (match e.run with | some r => r.w == w | none => false)

/-- Commands that context h of die d posted are not all complete (R243). -/
def State.ctxCommands (s : State) (d h : Nat) : Bool :=
  (List.range 8).any fun y => (s.engine y false).holds (2 * d + h) || (s.engine y true).holds (2 * d + h)

/-- A yard command of the pen is queued or running (R456, R500). -/
def State.penCommands (s : State) (p : Nat) : Bool :=
  (List.range 8).any fun y => [false, true].any fun eng =>
    (List.range 9).any fun w => s.windowPen y eng w == some p && (s.engine y eng).holds w

/-! ## Blocks in memory -/

/-- Where block q of row i of a tensor starts, as an element number of its plane (R25). -/
def Desc.blockElem (d : Desc) (i q : Nat) : Nat := i * d.cols + q * d.format.len

/-- The local address of the element bytes of block (i, q), and how many there are. -/
def Desc.blockAddr (d : Desc) (i q : Nat) : Nat := localOf d.elem + d.format.offset (d.blockElem i q)
def Desc.blockBytes (d : Desc) : Nat := d.format.len * d.format.bits / 8

/-- The local address of the shift byte of block (i, q). -/
def Desc.shiftAddr (d : Desc) (i q : Nat) : Nat := localOf d.shift + i * (d.cols / d.format.len) + q

/-- Is block (i, q) delivered poisoned: from its element plane, or because its shift byte cannot be read (R534, R269)? -/
def State.blockBad (s : State) (d : Desc) (i q : Nat) : Bool :=
  s.readBad (d.blockAddr i q) d.blockBytes || (d.format.block && s.readBad (d.shiftAddr i q) 1)

/-- The stored integer of element (i, j), and the exponent of its scale (R20, R26). A container is read at its extended width. -/
def State.elemAt (s : State) (d : Desc) (i j : Nat) : Int × Int :=
  let f := d.format
  if f.block then
    let q := j / f.len
    let b := (s.mem.byte (s.loc (d.shiftAddr i q))).toNat
    (codeAt f.bits (s.read (d.blockAddr i q) d.blockBytes) (j % f.len), d.exp - b - (f.bits - 1))
  else
    (sext (f.accW + 8) (s.readNat (localOf d.elem + (i * d.cols + j) * (f.bits / 8)) (f.bits / 8)), d.exp)

/-- The pieces of an element plane that hold a block (R24, R534): poisoned where the block is. -/
def Desc.blockPiece (d : Desc) (i q : Nat) (codes : List Int) (poison : Bool) : Piece := (d.blockAddr i q, packCodes d.format.bits codes, poison)

/-- The shift byte of a block: clean, 0xFF for a poisoned block (R534). -/
def Desc.shiftPiece (d : Desc) (i q shift : Nat) (poison : Bool) : Piece :=
  (d.shiftAddr i q, [BitVec.ofNat 8 (if poison then 255 else shift)], false)

/-- A stored container (R26). -/
def Desc.accPiece (d : Desc) (i j : Nat) (v : Int) (poison : Bool) : Piece :=
  let n := d.format.bits / 8
  (localOf d.elem + (i * d.cols + j) * n, leBytes n (uns d.format.bits v), poison)

/-- The folded elements of a stored block: global index, shift, words (R315). -/
def Desc.foldBlock (d : Desc) (i q : Nat) (codes : List Int) (shift : Nat) : List (Nat × Nat × List U64) :=
  codes.zipIdx.map fun x => (d.global i (q * d.format.len + x.2), shift, codeWords x.1)

/-- The global column of element (i, j) (R28, R49). -/
def Desc.gcol (d : Desc) (i j : Nat) : Nat := d.global i j % d.gcols

/-- A channel-table entry (R49). -/
def channelEntry (b : List Byte) : Channel :=
  ⟨sext 16 (fieldNat b 0 2), bitsOf (fieldNat b 2 1) 0 6, sext 64 (fieldNat b 8 8), false⟩

/-- The channel of element (i, j) by the table at a global address with n entries (R49). -/
def State.channelAt (s : State) (tab n : Nat) (d : Desc) (i j : Nat) : Channel :=
  channelEntry (s.read (localOf tab + 16 * (d.gcol i j % n)) 16)

/-- A stage-3 value at the channel's scale 2^(X − s), brought to the scale 2^(X − 63) that all channels share: exact. -/
def Channel.toCommon (ch : Channel) (v : Int) : Int := v * 2 ^ (63 - ch.s)

/-- What a running command has done: the digests in the state, its counts, and what it writes, element plane and shift plane apart: each plane
is written in 256-byte units of ascending addresses when the elements are done (R244). -/
structure YardWork where
  st : State
  run : Run
  plane : List Piece
  shifts : List Piece

/-- A command that has written nothing yet. -/
def YardWork.start (s : State) (r : Run) : YardWork := ⟨s, r, [], []⟩

/-- A stored block joins the output, and those of its elements that the command writes the step's digest (R315). -/
def YardWork.blockPart (a : YardWork) (x : Option (Nat × Nat)) (d : Desc) (i q : Nat) (codes : List Int) (shift : Nat) (poison : Bool)
    (mine : Nat → Bool) : YardWork :=
  let items := (d.foldBlock i q codes shift).zipIdx.filterMap fun e => if mine (q * d.format.len + e.2) then some e.1 else none
  { st := a.st.foldFor x d (if poison then [] else items) poison,
    run := { a.run with poisoned := a.run.poisoned || poison },
    plane := a.plane ++ [d.blockPiece i q codes poison],
    shifts := a.shifts ++ [d.shiftPiece i q shift poison] }

/-- A stored block all of whose elements the command writes. -/
def YardWork.block (a : YardWork) (x : Option (Nat × Nat)) (d : Desc) (i q : Nat) (codes : List Int) (shift : Nat) (poison : Bool) : YardWork :=
  a.blockPart x d i q codes shift poison fun _ => true

/-- A stored container joins the output. -/
def YardWork.container (a : YardWork) (x : Option (Nat × Nat)) (d : Desc) (i j : Nat) (v : Int) (poison : Bool) : YardWork :=
  { a with
    st := a.st.foldFor x d (if poison then [] else [(d.global i j, 0, containerWords d.format.bits v)]) poison,
    run := { a.run with poisoned := a.run.poisoned || poison },
    plane := a.plane ++ [d.accPiece i j v poison] }

/-- Codes saturated and rounded to zero are counted. -/
def YardWork.count (a : YardWork) (sat unf : Nat) : YardWork := { a with run := { a.run with sat := a.run.sat + sat, unf := a.run.unf + unf } }

/-- A block through stages 4 and 5 into a tensor: `vals` are stage-3 values at 2^σ (R50, R54, R55, R235). -/
def YardWork.finishBlock (a : YardWork) (x : Option (Nat × Nat)) (d : Desc) (i q : Nat) (σ : Int) (vals : List Int) (poison : Bool) : YardWork :=
  let o := roundBlock d.format.bits d.exp σ (fun _ => roundNe) vals
  (a.block x d i q o.codes o.shift poison).count o.sat o.unf

/-- A value into an A-format element of a tensor: the extended clamp, counted (R56, R235). -/
def YardWork.finishAcc (a : YardWork) (x : Option (Nat × Nat)) (d : Desc) (i j : Nat) (v : Int) (poison : Bool) : YardWork :=
  let c := extended d.format.accW v
  (a.container x d i j c poison).count (if c = v then 0 else 1) 0

/-- Run a function over the blocks q below n of rows row0 to row0 + rows − 1, in ascending order. -/
def overBlocks (row0 rows n : Nat) (f : YardWork → Nat → Nat → YardWork) (a : YardWork) : YardWork :=
  (List.range rows).foldl (fun b i =>
    let c := (List.range n).foldl (fun b q => f b (row0 + i) q) b
    { c with run := { c.run with rows := c.run.rows + 1 } }) a

/-- Elements of the rows row0 to row0 + rows − 1 of a tensor are read by the yard (R269): element plane and shift plane. -/
def State.readRows (s : State) (v : Via) (y : Nat) (d : Desc) (row0 rows : Nat) (alloc : Bool) : State :=
  let f := d.format
  let s1 := s.yardRead v y (localOf d.elem + f.offset (row0 * d.cols) - stackBase y) (f.offset (rows * d.cols)) alloc
  if f.block then s1.yardRead v y (localOf d.shift + row0 * (d.cols / f.len) - stackBase y) (rows * (d.cols / f.len)) alloc else s1

/-- The output is written, and the running command is at the end of its elements. -/
def YardWork.done (a : YardWork) (v : Via) (y : Nat) (eng alloc : Bool) (acc : AccKind) : State :=
  ((a.st.putPieces v alloc acc a.plane).putPieces v alloc acc a.shifts).setRun y eng { a.run with finished := true }

/-- The first n 256-byte units of the output are written, as a command leaves them that stops at a unit boundary (R245). -/
def YardWork.units (a : YardWork) (v : Via) (n : Nat) : State :=
  ((unitRuns (cutPieces a.plane) ++ unitRuns (cutPieces a.shifts)).take n).foldl (fun t r => t.putRun v false .write r) a.st

end Sys2Proof.Machine
end

