-- ==== Sys2Proof/Machine/Matrix.lean ====
section
/-!
DEFINITION. Matrix.lean: the matrix engine (R67 to R71), the accumulator file's operations (R73 to R76), the accesses an operation takes
cycle by cycle (R65, R73, R100, R536), poison through a chunk (R102).
An operation that is a step of its own has its whole effect there; one that a beat starts goes on cycle by cycle (Jobs.lean, log entry 9).
The accesses of both stay in `Core.use`.
-/

namespace Sys2Proof.Machine

/-! ## Accesses in flight -/

/-- The bank accesses of stall bytes [a, a + n) in cycle t: one per 8-byte word (R64, R65). -/
def bankAccs (t a n : Nat) : List Access :=
  if n = 0 then [] else (List.range ((a + n - 1) / 8 - a / 8 + 1)).map fun i => ⟨t, .bank ((a / 8 + i) % 64)⟩

/-- The loft bank groups of a 64-byte access at byte address a in cycle t (R99, R100). -/
def groupAccs (t a n : Nat) : List Access :=
  if n = 0 then [] else (List.range ((a + n - 1) / 64 - a / 64 + 1)).map fun i => ⟨t, .group ((a / 64 + i) % 16)⟩

/-- Accesses of n bytes at a, `w` bytes per cycle from cycle t. -/
def streamAccs (acc : Nat → Nat → Nat → List Access) (t a n w : Nat) : List Access :=
  (List.range (ceilDiv n w)).flatMap fun i => acc (t + i) (a + w * i) (min w (n - w * i))

/-- Accesses join the core's list. -/
def State.book (s : State) (d c k : Nat) (l : List Access) : State :=
  s.setCore d c k { s.core d c k with use := (s.core d c k).use ++ l }

/-- The cadence cycle of the context that drives cluster c (R154). -/
def State.cycOf (s : State) (d c : Nat) : Nat := s.get (SEQ_CYC.cycles d (s.ctxOfCluster d c))

/-- The cadence cycle the core's context is in. -/
abbrev State.hOf (s : State) (d c : Nat) : Nat := s.ctxOfCluster d c

/-! ## Chunks -/

/-- Cycles per chunk (R68). -/
def Fmt.chunkCycles : Fmt → Nat
  | .w64 => 128
  | _ => 32

/-- Pipeline depth (R68). -/
def Fmt.depth : Fmt → Nat
  | .i16 => 14 | .w32 => 16 | .w64 => 18 | _ => 12

/-- The format of a matrix operand's code (R131): 0x0 to 0x4. -/
def matFmt (code : Nat) : Fmt := (Fmt.ofCode code).getD .i8

/-- The wider operand format of a rudiment (R69). -/
def wideOf (r : MatRud) : Fmt := (matFmt r.fmta).wider (matFmt r.fmtb)


/-- Where element (i, k) of an A tile lies: byte offset after the header and nibble (R67, R69). -/
def aOffset (f : Fmt) (rows i k : Nat) : Nat × Nat :=
  if f.bits = 4 then (k / 2 * rows + i, k % 2) else ((k * rows + i) * (f.bits / 8), 0)

/-- Where element (k, j) of a B tile lies (R67, R69). -/
def bOffset (f : Fmt) (cols k j : Nat) : Nat × Nat :=
  if f.bits = 4 then ((k * cols + j) / 2, (k * cols + j) % 2) else ((k * cols + j) * (f.bits / 8), 0)

/-- The code at a tile offset. -/
def State.tileCode (s : State) (base : Nat) (f : Fmt) (o : Nat × Nat) : Int :=
  if f.bits = 4 then sext 4 ((s.mem.byte (base + 128 + o.1)).toNat / 2 ^ (4 * o.2))
  else sext f.bits (s.readNat (base + 128 + o.1) (f.bits / 8))

/-- The shift byte that covers an element, as a header offset: rows by ceil(K / L) for A, k-rows by ceil(cols / L) for B (R67, R69). -/
def tileHeader (f : Fmt) (row col width : Nat) : Nat := row * ceilDiv width f.len + col / f.len

/-- Byte `hdr` of a tile's header, and whether its word is bad. -/
def State.hdrByte (s : State) (base hdr : Nat) : Byte × Bool := (s.mem.byte (base + hdr), s.readBad (base + hdr) 1)

/-- An operand element: code, shift, poisoned (R102). `base` is the tile's address, `h` its header byte. -/
def State.operandBy (s : State) (base : Nat) (f : Fmt) (o : Nat × Nat) (h : Byte × Bool) : Int × Nat × Bool :=
  (s.tileCode base f o, h.1.toNat, s.readBad (base + 128 + o.1) (max 1 (f.bits / 8)) || h.2)
def State.operand (s : State) (base : Nat) (f : Fmt) (o : Nat × Nat) (hdr : Nat) : Int × Nat × Bool :=
  s.operandBy base f o (s.hdrByte base hdr)

/-- The A operand (i, k) and the B operand (k, j) of a chunk. -/
def State.opA (s : State) (base : Nat) (f : Fmt) (rows kk i k : Nat) : Int × Nat × Bool :=
  s.operand base f (aOffset f rows i k) (tileHeader f i k kk)
def State.opB (s : State) (base : Nat) (f : Fmt) (cols k j : Nat) : Int × Nat × Bool :=
  s.operand base f (bOffset f cols k j) (tileHeader f k j cols)

/-- A term of R36. -/
def chunkTerm (g : Nat) (a b : Int × Nat × Bool) : Int := scale2 (a.1 * b.1) ((g : Int) - a.2.1 - b.2.1)

/-- The accumulator elements of a tile of a slot: the key of element (i, j) (R74, R75). -/
def accKey (f : Fmt) (half i j : Nat) : Nat := half * 1024 + i * f.accEdge + j

def Slot.at (sl : Slot) (key : Nat) : AccElem := Tab.get AccElem.zero sl.elems key
def Slot.put (sl : Slot) (key : Nat) (e : AccElem) : Slot := { sl with elems := Tab.set AccElem.zero sl.elems key e }

/-- What an accumulator of width n holds for an exact sum (R39): the sum itself; beyond the extended width n + 8, which R40 rules out, an open
value (log entry 53). -/
def heldAcc (n : Nat) (v : Int) : Int := if -2 ^ (n + 7) ≤ v ∧ v < 2 ^ (n + 7) then v else sext (n + 8) (Config.accBeyond n v)

/-- Every (i, j) of a tile of e by e elements. -/
def tileIx (e : Nat) : List (Nat × Nat) := (List.range e).flatMap fun i => (List.range e).map fun j => (i, j)

/-- The tile after a chunk (R68, R71, R102): terms added, or stored with the flags cleared; a poisoned A element poisons its row, a
poisoned B element its column. -/
def State.chunkSlot (s : State) (sl : Slot) (fa fb : Fmt) (baseA baseB half : Nat) (clear : Bool) : Slot :=
  let wide := fa.wider fb
  let e := wide.tile.1
  let kk := wide.tile.2
  let acc := wide.acc
  let rowBad := (List.range e).filter fun i => (List.range kk).any fun k => (s.opA baseA fa e kk i k).2.2
  let colBad := (List.range e).filter fun j => (List.range kk).any fun k => (s.opB baseB fb e k j).2.2
  (tileIx e).foldl (fun t x =>
    let sum := (List.range kk).foldl (fun n k => n + chunkTerm wide.guard (s.opA baseA fa e kk x.1 k) (s.opB baseB fb e k x.2)) 0
    let bad := rowBad.contains x.1 || colBad.contains x.2
    let key := accKey acc half x.1 x.2
    let old := t.at key
    t.put key (if clear then ⟨heldAcc acc.accW sum, false, bad, false⟩
      else ⟨heldAcc acc.accW (old.val + sum), old.sat, old.poison || bad, old.parity⟩)) { sl with tag := some acc }

/-- Does the core continue a run with a chunk issued in cycle t (R70, R139)? -/
def Core.continues (r : Core) (t : Nat) : Bool := r.mChunk && r.mBusy == t

/-- Cycles a step of a chunk takes: a step is one k, or two for I4 (R68, R70). -/
def Fmt.stepCycles (wide : Fmt) : Nat := if wide.bits = 4 then 1 else wide.chunkCycles / wide.tile.2

/-- The k's of step q. -/
def Fmt.stepKs (wide : Fmt) (q : Nat) : List Nat := if wide.bits = 4 then [2 * q, 2 * q + 1] else [q]

/-- The element bytes that step q reads of an A tile at stall byte a and of a B tile at b: address and length (R67, R69). -/
def stepA (fa fb : Fmt) (a q : Nat) : Nat × Nat :=
  let wide := fa.wider fb
  let n := if fa.bits = 4 then wide.tile.1 else wide.tile.1 * fa.bits / 8
  (a + 128 + (if fa.bits = 4 ∧ wide.bits ≠ 4 then q / 2 else q) * n, n)
def stepB (fa fb : Fmt) (b q : Nat) : Nat × Nat :=
  let wide := fa.wider fb
  let n := wide.tile.1 * fb.bits / 8 * (if wide.bits = 4 then 2 else 1)
  (b + 128 + q * n, n)

/-- The stall and slot accesses of a chunk whose first k issues in cycle t0 (R70, R73, R536); a continuing chunk's header is read ahead while its
predecessor runs, and booked then (State.readAhead in Jobs.lean). -/
def chunkAccs (fa fb : Fmt) (a b slot t0 : Nat) (cont : Bool) : List Access :=
  let wide := fa.wider fb
  let per := wide.stepCycles
  let hdr := if cont then [] else (List.range 16).flatMap fun i => bankAccs (t0 - 16 + i) (a + 8 * i) 8 ++ bankAccs (t0 - 16 + i) (b + 8 * i) 8
  let rows := (List.range (wide.chunkCycles / per)).flatMap fun q =>
    let t := t0 + q * per
    streamAccs bankAccs t (stepA fa fb a q).1 (stepA fa fb a q).2 64 ++ streamAccs bankAccs t (stepB fa fb b q).1 (stepB fa fb b q).2 64 ++
      [⟨t + per - 1 + wide.depth - 1, .accPort slot⟩]
  hdr ++ rows

/-- A slot used with format f under half `half` raises ACC_FORMAT (R75). -/
def Slot.formatBad (sl : Slot) (f : Fmt) (half : Nat) : Bool :=
  (match sl.tag with | some g => g != f | none => false) || (half == 1 && (f == .a48 || f == .a192))

/-- A slot read through a slot code raises ACC_FORMAT (R75): cleared, or half 1 of a format that fills the slot. -/
def Slot.readBad (sl : Slot) (half : Nat) : Bool :=
  match sl.tag with
  | none => true
  | some f => half == 1 && (f == .a48 || f == .a192)

/-- The slot a code names, and its half (R126). -/
abbrev slotOf (code : Nat) : Nat := code / 2
abbrev halfOf (code : Nat) : Nat := code % 2

def State.slotAt (s : State) (d c k code : Nat) : Slot := Tab.get Slot.clear (s.core d c k).slots (slotOf code)
def State.setSlot (s : State) (d c k code : Nat) (sl : Slot) : State :=
  s.setCore d c k { s.core d c k with slots := Tab.set Slot.clear (s.core d c k).slots (slotOf code) sl }

/-- Elements lo to lo + n − 1 of a slot are read: one whose parity is wrong is poisoned and counted (R102, R107). -/
def State.accParity (s : State) (d c k code lo n : Nat) : State :=
  let sl := s.slotAt d c k code
  let hit := fun e : Nat × AccElem => e.2.parity && decide (lo ≤ e.1) && decide (e.1 < lo + n)
  let l := sl.elems.filter hit
  if l.isEmpty then s
  else (s.setSlot d c k code { sl with elems := sl.elems.map fun e => if hit e then (e.1, { e.2 with poison := true, parity := false }) else e }).inc
    (CORE_ECC.acc_parity d c k) l.length

/-- Every element of the tile that a slot code names is read. -/
def State.accTileParity (s : State) (d c k code : Nat) (f : Fmt) : State := s.accParity d c k code (halfOf code * 1024) (f.accEdge * f.accEdge)

/-- The format codes that a matrix operation uses are operand formats (R131): a chunk uses both, an ACCADD into a cleared slot both, the other
operations none. -/
def State.matDefined (s : State) (d c k mop slot : Nat) (r : MatRud) : Bool :=
  (decide (r.fmta ≤ 4) && decide (r.fmtb ≤ 4)) || mop == 3 || decide (5 ≤ mop) || (mop == 4 && (s.slotAt d c k slot).tag.isSome)

/-- The core fault a matrix operation raises at issue, or 0 (R75, R139): `mop` as in R126. -/
def State.matFault (s : State) (d c k mop slot : Nat) (r : MatRud) : Nat :=
  let core := s.core d c k
  let sl := s.slotAt d c k slot
  let t := s.cycOf d c
  if t < core.mBusy then 0x25
  else match mop with
    | 1 => if sl.formatBad (wideOf r).acc (halfOf slot) then 0x23 else 0
    | 2 => if sl.formatBad (wideOf r).acc (halfOf slot) then 0x23 else 0
    | 3 => if sl.readBad (halfOf slot) then 0x23 else 0
    | 4 => if (if sl.tag.isSome then sl.readBad (halfOf slot) else sl.formatBad (wideOf r).acc (halfOf slot)) then 0x23 else 0
    | _ => if sl.tag.isSome && sl.readBad (halfOf slot) then 0x23 else 0

/-- CHUNK and CHUNKC (R68, R71). -/
def State.chunkOp (s : State) (d c k slot : Nat) (r : MatRud) (clear : Bool) : State :=
  let h := s.hOf d c
  let t := s.cycOf d c
  let fa := matFmt r.fmta
  let fb := matFmt r.fmtb
  let a := s.stallAddr d h k r.agA
  let b := s.stallAddr d h k r.agB
  let base := stallBase d c k
  let e := (wideOf r).tile.1
  let kk := (wideOf r).tile.2
  let core := s.core d c k
  let cont := core.continues t
  let t0 := if cont then t else t + 16
  let s0 := if clear then s else s.accTileParity d c k slot (wideOf r).acc
  let sl := s.chunkSlot (s0.slotAt d c k slot) fa fb (base + a) (base + b) (halfOf slot) clear
  let s1 := (((s0.stallRead d c k a 128).stallRead d c k b 128).stallRead d c k (a + 128) (e * kk * fa.bits / 8)).stallRead d c k (b + 128)
    (e * kk * fb.bits / 8)
  let s2 := s1.setSlot d c k slot sl
  (s2.setCore d c k { s2.core d c k with mBusy := t0 + (wideOf r).chunkCycles, mChunk := true }).book d c k
    (chunkAccs fa fb a b (slotOf slot) t0 cont)

/-! ## Accumulator moves (R75, R76) -/

/-- The bytes of a container tile. -/
def Fmt.tileBytes (f : Fmt) : Nat := f.accEdge * f.accEdge * (f.bits / 8)

/-- Container x of a slot's tile goes to its place in the stall from byte a on (R76); a poisoned element is seen (R105). -/
def State.accOut (s : State) (d c k slot a : Nat) (f : Fmt) (x : Nat) : State :=
  let key := accKey f (halfOf slot) (x / f.accEdge) (x % f.accEdge)
  let s1 := s.accParity d c k slot key 1
  let e := (s1.slotAt d c k slot).at key
  let n := f.bits / 8
  (s1.poisonSeen d c k e.poison).stallWrite d c k (a + x * n) (leBytes n (uns f.bits e.val)) e.poison

/-- ACCST (R76): the tile's containers go to the stall in row-major order, poison kept. -/
def State.accStore (s : State) (d c k slot : Nat) (r : MatRud) : State :=
  let t := s.cycOf d c
  let a := s.stallAddr d (s.hOf d c) k r.agA
  let f := (s.slotAt d c k slot).tag.getD .a48
  let s1 := (List.range (f.accEdge * f.accEdge)).foldl (fun u x => u.accOut d c k slot a f x) s
  (s1.setCore d c k { s1.core d c k with mBusy := t + f.tileBytes / 64, mChunk := false }).book d c k
    (streamAccs bankAccs t a f.tileBytes 64)

/-- Container x from stall byte a on, as a slot element's key, value and poison. -/
def State.accIn (s : State) (d c k slot a : Nat) (f : Fmt) (x : Nat) : Nat × Int × Bool :=
  let n := f.bits / 8
  let g := stallBase d c k + a + x * n
  (accKey f (halfOf slot) (x / f.accEdge) (x % f.accEdge), sext (f.accW + 8) (s.readNat g n), s.readBad g n)

/-- A value is added exactly to an element, poison kept (R76). -/
def Slot.addIn (sl : Slot) (x : Nat × Int × Bool) : Slot :=
  let e := sl.at x.1
  sl.put x.1 ⟨heldAcc (sl.tag.getD .a48).accW (e.val + x.2.1), e.sat, e.poison || x.2.2, e.parity⟩

/-- ACCADD (R76): containers are added exactly, poison kept; a cleared slot takes the rudiment's format (R131). -/
def State.accAdd (s : State) (d c k slot : Nat) (r : MatRud) : State :=
  let t := s.cycOf d c
  let a := s.stallAddr d (s.hOf d c) k r.agA
  let f := (s.slotAt d c k slot).tag.getD (wideOf r).acc
  let s0 := s.accTileParity d c k slot f
  let sl := s0.slotAt d c k slot
  let sl' := ((List.range (f.accEdge * f.accEdge)).map (s.accIn d c k slot a f)).foldl Slot.addIn { sl with tag := some f }
  let s1 := (s0.stallRead d c k a f.tileBytes).setSlot d c k slot sl'
  (s1.setCore d c k { s1.core d c k with mBusy := t + ceilDiv f.tileBytes 256, mChunk := false }).book d c k
    (streamAccs bankAccs t a f.tileBytes 256 ++ (List.range (ceilDiv f.tileBytes 256)).map fun i => ⟨t + i, .accPort (slotOf slot)⟩)

/-- ACCCLR (R75): the whole physical slot. -/
def State.accClear (s : State) (d c k slot : Nat) : State :=
  let s1 := s.setSlot d c k slot Slot.clear
  s1.setCore d c k { s1.core d c k with mBusy := s.cycOf d c + 1, mChunk := false }

/-- The effect of a matrix operation (R126). -/
def State.matRun (s : State) (d c k mop slot : Nat) (r : MatRud) : State :=
  match mop with
  | 1 => s.chunkOp d c k slot r false
  | 2 => s.chunkOp d c k slot r true
  | 3 => s.accStore d c k slot r
  | 4 => s.accAdd d c k slot r
  | _ => s.accClear d c k slot

end Sys2Proof.Machine
end

