-- ==== Sys2Proof/Machine/FuncUnit.lean ====
section
/-!
DEFINITION. FuncUnit.lean: the function unit of a core in integer arithmetic (R89 to R95, R538).
-/

namespace Sys2Proof.Machine

/-- A result of the function unit: its first part, its second part if the function returns two (R538), an input out of the domain
(R95), a saturation on the way (R94). -/
structure FuOut where
  fst : Int
  snd : Option Int
  dom : Bool
  sat : Bool
  deriving DecidableEq, Repr

/-- The saturation of R83: ±(2^63 − 1). -/
def sat63 (v : Int) : Int := clampInt (-(2 ^ 63 - 1)) (2 ^ 63 - 1) v

/-- floor of the square root, found bit by bit from bit `n` down. -/
def sqrtFrom (v : Nat) : Nat → Nat → Nat
  | 0, r => if (r + 1) * (r + 1) ≤ v then r + 1 else r
  | n + 1, r =>
    let t := r + 2 ^ (n + 1)
    sqrtFrom v n (if t * t ≤ v then t else r)

/-- floor(√v) for v < 2^64. -/
def isqrt (v : Nat) : Nat := sqrtFrom v 31 0

/-! ## EXP2 (R90) -/

/-- T[i] = rne(2^30 × 2^(i/64)). -/
def exp2T : List Nat := [
  1073741824, 1085434106, 1097253708, 1109202018, 1121280436, 1133490379, 1145833280, 1158310587,
  1170923762, 1183674286, 1196563654, 1209593378, 1222764986, 1236080024, 1249540052, 1263146652,
  1276901417, 1290805962, 1304861917, 1319070932, 1333434672, 1347954824, 1362633090, 1377471191,
  1392470869, 1407633882, 1422962010, 1438457051, 1454120821, 1469955159, 1485961921, 1502142985] ++ [
  1518500250, 1535035634, 1551751076, 1568648537, 1585730000, 1602997467, 1620452965, 1638098541,
  1655936265, 1673968228, 1692196547, 1710623359, 1729250827, 1748081133, 1767116489, 1786359126,
  1805811301, 1825475297, 1845353420, 1865448001, 1885761398, 1906295993, 1927054196, 1948038440,
  1969251188, 1990694927, 2012372174, 2034285470, 2056437387, 2078830522, 2101467502, 2124350982]

/-- C_k = rne(2^30 × (ln 2)^k / k!), k = 1 to 3. -/
def exp2C : List Nat := [744261118, 257941248, 59597083]

/-- EXP2: mantissa f and exponent n. -/
def fuExp2 (x : Int) : Nat × Int :=
  let n := x / 2 ^ 16
  let r := (x - n * 2 ^ 16).toNat
  let i := r / 2 ^ 10
  let z := r % 2 ^ 10
  let p := 2 ^ 30 + (exp2C.zipIdx.map fun c => c.1 * z ^ (c.2 + 1) / 2 ^ (16 * (c.2 + 1))).sum
  (min (exp2T.getD i 0 * p / 2 ^ 30) (2 ^ 31 - 1), n)

/-- floor(f / 2^(−n)) for −n ≤ `lim`, and 0 beyond (R94, R96). -/
def expShift (lim : Nat) (e : Nat × Int) : Int := if -e.2 ≤ lim then scale2 e.1 e.2 else 0

/-! ## LOG2 (R91) -/

/-- L[i] = rne(2^32 × log2(1 + i/64)). -/
def log2L : List Nat := [
  0, 96069025, 190671291, 283850912, 375650043, 466108993, 555266330, 643158981,
  729822324, 815290272, 899595355, 982768792, 1064840562, 1145839467, 1225793196, 1304728379,
  1382670639, 1459644648, 1535674166, 1610782092, 1684990500, 1758320682, 1830793181, 1902427829,
  1973243777, 2043259528, 2112492963, 2180961373, 2248681479, 2315669461, 2381940981, 2447511201] ++ [
  2512394810, 2576606038, 2640158677, 2703066101, 2765341278, 2826996792, 2888044853, 2948497313,
  3008365682, 3067661140, 3126394546, 3184576458, 3242217134, 3299326552, 3355914416, 3411990165,
  3467562987, 3522641820, 3577235372, 3631352118, 3685000315, 3738188006, 3790923031, 3843213029,
  3895065449, 3946487554, 3997486426, 4048068976, 4098241947, 4148011918, 4197385310, 4246368396]

/-- D_k = rne(2^32 × (−1)^(k+1) / (k × ln 2)), k = 1 to 4. -/
def log2D : List Int := [6196328019, -3098164009, 2065442673, -1549082005]

/-- LOG2 of v with F fraction bits. -/
def fuLog2 (v : Int) (f : Nat) : FuOut :=
  if v ≤ 0 then ⟨-2 ^ 63, none, true, false⟩
  else
    let e : Nat := log2Abs v
    let x : Int := scale2 v (31 - e)
    let i : Nat := (x / 2 ^ 25 - 64).toNat
    let r : Nat := (2 ^ 38 + 64 + i) / (2 * (64 + i))
    let u := x * (r : Int) / 2 ^ 31 - 2 ^ 31
    let p := (log2D.zipIdx.map fun d => d.1 * u ^ (d.2 + 1) / 2 ^ (31 * (d.2 + 1))).sum
    ⟨((e : Int) - f) * 2 ^ 32 + (log2L.getD i 0 : Nat) + p, none, false, false⟩

/-! ## RECIP and RSQRT (R92, R93, R95) -/

/-- RECIP: q and j with 2^30 ≤ |q| < 2^31. -/
def fuRecip (a : Int) : FuOut :=
  if a = 0 then ⟨2 ^ 31 - 1, some 0, true, false⟩
  else
    let m := a.natAbs
    let l := Nat.log2 m
    let j : Int := if m = 2 ^ l then (l : Int) - 1 else l
    let q : Int := (2 ^ (31 + j).toNat / m : Nat)
    ⟨if a < 0 then -q else q, some j, false, false⟩

/-- RSQRT: q and j with 2^30 ≤ q < 2^31. -/
def fuRsqrt (a : Int) : FuOut :=
  if a = 0 then ⟨2 ^ 31 - 1, some 0, true, false⟩
  else if a < 0 then ⟨0, some 0, true, false⟩
  else
    let m := a.natAbs
    let l := Nat.log2 m
    let j : Int := if m = 2 ^ l ∧ l % 2 = 0 then (l / 2 : Nat) - 1 else (l / 2 : Nat)
    ⟨(isqrt (2 ^ (62 + 2 * j).toNat / m) : Nat), some j, false, false⟩

/-! ## SIGM and TANH (R94) -/

/-- SIGM for |x|: s. -/
def fuSigmAbs (a : Int) : Int :=
  let t := -(a * 1549082005 / 2 ^ 30)
  2 ^ 60 / (2 ^ 30 + expShift 30 (fuExp2 t))

/-- SIGM. -/
def fuSigm (x : Int) : Int := if 0 ≤ x then fuSigmAbs x else 2 ^ 30 - fuSigmAbs (-x)

/-- TANH: the doubling saturates under R83. -/
def fuTanh (x : Int) : FuOut :=
  let d := 2 * (x.natAbs : Int)
  let y := 2 * fuSigm (sat63 d) - 2 ^ 30
  ⟨if x < 0 then -y else y, none, false, sat63 d != d⟩

end Sys2Proof.Machine
end

