-- ==== Sys2Proof/Machine/Conv.lean ====
section
/-!
DEFINITION. Conv.lean: the output converter of a core (R48 to R56, R77, R135, R136, R536, R540, R541): CONV and CHLD.
-/

namespace Sys2Proof.Machine

/-! ## The context's region of the cadence store -/

/-- The local address of the region of context h of die d (R119, R161). -/
def State.regionAt (s : State) (d h : Nat) : Nat := storeBase d + s.get (SEQ_CTL.region_base d h) * 65536

/-- The region's bytes (R161). -/
def State.regionSize (s : State) (d h : Nat) : Nat := s.get (SEQ_CTL.region_size d h) * 65536

/-- A field of the cadence header (R155). -/
def State.hdr (s : State) (d h off n : Nat) : Nat := s.readNat (s.regionAt d h + off) n

/-- The address of descriptor x of a context (R155). -/
def State.descPlace (s : State) (d h x : Nat) : Nat := s.regionAt d h + 16 * s.hdr d h 24 4 + 64 * x

/-- The output descriptor x of a context. -/
def State.ctxDesc (s : State) (d h x : Nat) : Desc := descOf (s.read (s.descPlace d h x) 64)

/-! ## The conversion -/

/-- The clip of a rudiment (R135). -/
def convClip (r : ConvRud) : Option (Int × Int × Nat) := if r.clip then some (r.lo, r.hi, r.ec) else none

/-- The channel-cache entry of tile column j (R136). -/
def State.chan (s : State) (d c k j : Nat) : Channel := Tab.get Channel.identity (s.core d c k).chans j

def State.convJob (s : State) (d c k : Nat) (r : ConvRud) : ConvJob :=
  let h := s.hOf d c
  { d := d, c := c, k := k, h := h, r := r, desc := s.ctxDesc d h r.desc, row0 := s.idx d h k r.row, col0 := s.idx d h k r.col,
    dest := s.stallAddr d h k r.agD }

/-- The global index of tile element (i, j) (R28, R135). -/
def ConvJob.gidx (m : ConvJob) (i j : Nat) : Nat :=
  (((m.desc.gidx : Int) + (m.row0 + i) * m.desc.gcols + (m.col0 + j)) % 2 ^ 64).toNat

/-- Where block q of tile row i lies in the stall, and how many bytes it has (R541). -/
def ConvJob.place (m : ConvJob) (i q : Nat) : Nat :=
  let f := m.desc.format
  if f.block then m.dest + headerBytes f m.r.rows m.r.cols + i * rowBytes f m.r.cols + q * (f.len * f.bits / 8)
  else m.dest + (i * m.r.cols + q) * (f.bits / 8)
def ConvJob.blockBytes (m : ConvJob) : Nat := m.desc.format.len * m.desc.format.bits / 8

/-- The 16 random bits of an element under stochastic rounding (R52, R177). -/
def State.convRandom (s : State) (m : ConvJob) (g : Nat) : Nat :=
  let step := match s.penOfHalf m.d m.h with | some p => s.get (LDG_STEP.step p) | none => 0
  (cg64 (BitVec.ofNat 64 (s.get (SEQ_SEED_LO.k0 m.d m.h))) (BitVec.ofNat 64 (s.get (SEQ_SEED_HI.k1 m.d m.h))) (BitVec.ofNat 64 step)
    (BitVec.ofNat 64 m.desc.tid) (BitVec.ofNat 64 g)).toNat % 65536

/-- One whole output block (R48 to R55, R102, R534): its elements brought to the scale 2^(x − 63) that all channels of it share. -/
def State.convBlock (s : State) (m : ConvJob) (i q : Nat) (es : List ConvElem) : State :=
  let f := m.desc.format
  let x := (es.foldl (fun a e => min a e.x) ((es.head?.map (·.x)).getD 0))
  let vals := es.map fun e => e.ch.toCommon (stage123 e.ch m.r.eb (convClip m.r) e.v) * 2 ^ (e.x - x).toNat
  let bad := es.any fun e => e.poison || e.ch.poison
  let gs := es.map fun e => m.gidx e.i e.j
  let rnd := fun n v sh => if m.r.rmode then roundSr (s.convRandom m (gs.getD n 0)) v sh else roundNe v sh
  let o := roundBlock f.bits m.desc.exp (x - 63) rnd vals
  let s1 := (s.stallWrite m.d m.c m.k (m.place i q) (packCodes f.bits o.codes) bad).stallWrite m.d m.c m.k
    (m.dest + headerByte f m.r.cols i q) [BitVec.ofNat 8 (if bad then 255 else o.shift)] false
  let s2 := (s1.countPen (s1.ctxPen m.d m.h) ⟨o.sat, o.unf, 0, 0, 0⟩).govBlock m.d m.h m.r.desc o bad
  s2.foldWrite m.d m.h m.desc (if bad then [] else (gs.zip o.codes).map fun y => (y.1, o.shift, codeWords y.2)) bad

/-- One container of an A-format output (R56): stages 4 and 5 are skipped. -/
def State.convAcc (s : State) (m : ConvJob) (e : ConvElem) : State :=
  let f := m.desc.format
  let v := stage123 e.ch m.r.eb (convClip m.r) e.v
  let w := extended f.accW v
  let bad := e.poison || e.ch.poison
  let s1 := s.stallWrite m.d m.c m.k (m.place e.i e.j) (leBytes (f.bits / 8) (uns f.bits w)) bad
  let s2 := s1.countPen (s1.ctxPen m.d m.h) ⟨if w = v then 0 else 1, 0, 0, 0, 0⟩
  s2.foldWrite m.d m.h m.desc (if bad then [] else [(m.gidx e.i e.j, 0, containerWords f.bits w)]) bad

/-- The blocks of the tile that the elements fill: row, block, elements by column. A block of which an element is never accepted is not
written. -/
def ConvJob.blocks (m : ConvJob) (es : List ConvElem) : List (Nat × Nat × List ConvElem) :=
  let l := m.desc.format.len
  (List.range m.r.rows).flatMap fun i =>
    let row := es.filter fun e => e.i == i
    (List.range (ceilDiv m.r.cols l)).filterMap fun q =>
      let b := row.filter fun e => e.j / l == q && decide (e.j < m.r.cols)
      if b.length = min l (m.r.cols - q * l) then some (i, q, b) else none

/-- The stall words written for a block: its bytes, and for a block format its header word (R536), 14 cycles after its last element was
accepted (R77). -/
def ConvJob.blockAccs (m : ConvJob) (b : Nat × Nat × List ConvElem) : List Access × Nat × Nat :=
  let t := (b.2.2.foldl (fun a e => max a e.cyc) 0) + 14
  (bankAccs t (m.place b.1 b.2.1) m.blockBytes, t, (m.dest + headerByte m.desc.format m.r.cols b.1 b.2.1) / 8)

/-- Those of all blocks; shift bytes of one header word written in one cycle are one access. -/
def ConvJob.accs (m : ConvJob) (bs : List (Nat × Nat × List ConvElem)) : List Access :=
  (bs.foldl (fun (a : List Access × Nat × Nat) b =>
    let n := m.blockAccs b
    let hd : List Access := if m.desc.format.block && a.2 != (n.2.1, n.2.2 + 1) then [⟨n.2.1, .bank (n.2.2 % 64)⟩] else []
    (a.1 ++ n.1 ++ hd, n.2.1, n.2.2 + 1)) ([], 0, 0)).1

/-- The elements go through the converter; it accepts the last of them in cycle `last`. -/
def State.convertElems (s : State) (m : ConvJob) (es : List ConvElem) (last : Nat) : State :=
  let bs := m.blocks es
  let s1 := s.poisonSeen m.d m.c m.k (es.any (·.poison))
  let s2 := bs.foldl (fun t b =>
    if m.desc.format.block then t.convBlock m b.1 b.2.1 b.2.2 else b.2.2.foldl (fun t e => t.convAcc m e) t) s1
  (s2.setCore m.d m.c m.k { s2.core m.d m.c m.k with cBusy := last + 1 }).book m.d m.c m.k (m.accs bs)

/-- Elements the converter accepts per cycle (R77). -/
def Fmt.inRate : Fmt → Nat
  | .a48 => 64 | .a192 => 16 | _ => 32
def convRate (src out : Fmt) : Nat := min src.inRate (512 / out.bits)

/-- The descriptor of a conversion lies in an uncorrectable store word (R119). -/
def State.descBad (s : State) (d h x : Nat) : Bool := s.readBad (s.descPlace d h x) 64

/-- The fault a CONV raises at issue, or 0 (R75, R119, R139): `lanes` says that a vector operation of the same core hands it its values. -/
def State.convFault (s : State) (d c k : Nat) (r : ConvRud) (lanes : Bool) : Nat :=
  let sl := s.slotAt d c k r.src
  let e := (sl.tag.getD .a48).accEdge
  if (r.src == 15 && !lanes) || (decide (12 ≤ r.src) && r.src != 15) then 0x30
  else if s.descBad d (s.hOf d c) r.desc then 0x32
  else if s.cycOf d c < (s.core d c k).cBusy then 0x25
  else if r.src < 12 && (sl.readBad (halfOf r.src) || decide (e < r.rows) || decide (e < r.cols)) then 0x23
  else 0

/-- The converter accepts element (i, j) of its slot in a cycle (R41, R42): the visible value; one past the width sets the element's saturation
flag and is counted. -/
def State.convTake (s : State) (m : ConvJob) (i j cyc : Nat) : State × ConvElem :=
  let f := (s.slotAt m.d m.c m.k m.r.src).tag.getD .a48
  let key := accKey f (halfOf m.r.src) i j
  let s0 := s.accParity m.d m.c m.k m.r.src key 1
  let sl := s0.slotAt m.d m.c m.k m.r.src
  let a := sl.at key
  let v := visible f.accW a.val
  let s1 := if v = a.val then s0
    else (s0.setSlot m.d m.c m.k m.r.src (sl.put key { a with sat := true })).countPen (s0.ctxPen m.d m.h) ⟨1, 0, 0, 0, 0⟩
  (s1, ⟨i, j, v, m.r.x, a.poison, s.chan m.d m.c m.k j, cyc⟩)

/-- The elements of the tile numbered lo to hi − 1 in row order are accepted, `rate` per cycle from cycle t on. -/
def State.convTakes (s : State) (m : ConvJob) (t rate lo hi : Nat) : State × List ConvElem :=
  let o := (List.range (hi - lo)).foldl (fun (a : State × List ConvElem) n =>
    let x := lo + n
    let r := a.1.convTake m (x / m.r.cols) (x % m.r.cols) (t + x / rate)
    (r.1, r.2 :: a.2)) (s, [])
  (o.1, o.2.reverse)

/-- Elements a conversion from a slot accepts per cycle. -/
def State.convSlotRate (s : State) (m : ConvJob) : Nat := convRate ((s.slotAt m.d m.c m.k m.r.src).tag.getD .a48) m.desc.format

/-- A CONV whose source is an accumulator slot (R41, R42, R77): the visible value of every element, in row order. -/
def State.convSlot (s : State) (d c k : Nat) (r : ConvRud) : State :=
  let m := s.convJob d c k r
  let t := s.cycOf d c
  let rate := s.convSlotRate m
  let o := s.convTakes m t rate 0 (r.rows * r.cols)
  o.1.convertElems m o.2 (t + ceilDiv (r.rows * r.cols) rate - 1)

/-- Where CHLD reads the entry of cache entry j: entry (col0 + j) mod (chn + 1) of the table (R136). R49 speaks of the global column index modulo the
entries: for a column shard whose gidx_base is no multiple of gcols the two differ, and the load follows R136 (DESIGN CHOICE, log entry 99). -/
def chldAt (r : ConvRud) (tab : Nat) (col0 : Int) (j : Nat) : Nat := (tab + 16 * ((col0 + j) % (r.chn : Int)).toNat) % 0x200000

/-- Cache entry j is filled from stall byte a. -/
def State.chldTake (s : State) (d c k a j : Nat) : State :=
  let g := stallBase d c k + a
  let v := s.stallRead d c k a 16
  let ch := { channelEntry (s.read g 16) with poison := s.readBad g 16 }
  v.setCore d c k { v.core d c k with chans := Tab.set Channel.identity (v.core d c k).chans j ch }

/-- Its accesses: four entries per cycle; an entry of the table that fills several of the four is read once in the cycle (log entry 91). -/
def chldAccs (r : ConvRud) (tab : Nat) (col0 : Int) (t : Nat) : List Access :=
  (((List.range r.cols).map fun j => (t + j / 4, chldAt r tab col0 j)).eraseDups).flatMap fun x => bankAccs x.1 x.2 16

/-- CHLD (R136). -/
def State.chld (s : State) (d c k : Nat) (r : ConvRud) : State :=
  let h := s.hOf d c
  let t := s.cycOf d c
  let tab := s.stallAddr d h k r.agC
  let col0 := s.idx d h k r.col
  let s1 := (List.range r.cols).foldl (fun u j => u.chldTake d c k (chldAt r tab col0 j) j) s
  (s1.setCore d c k { s1.core d c k with cBusy := t + ceilDiv r.cols 4 }).book d c k (chldAccs r tab col0 t)

/-- The fault a CHLD raises at issue, or 0. -/
def State.chldFault (s : State) (d c k : Nat) : Nat := if s.cycOf d c < (s.core d c k).cBusy then 0x25 else 0

/-- The output format of a conversion is one of R27. -/
def State.convDefined (s : State) (d c : Nat) (r : ConvRud) : Bool := (Fmt.ofCode (s.ctxDesc d (s.hOf d c) r.desc).fmt).isSome

/-- The output descriptor is read from the cadence store (R119). -/
def State.descRead (s : State) (d c : Nat) (r : ConvRud) : State :=
  s.storeRead d (s.hOf d c) (s.descPlace d (s.hOf d c) r.desc - storeBase d) 64

end Sys2Proof.Machine
end

