-- ==== Sys2Proof/Machine/Vector.lean ====
section
/-!
DEFINITION. Vector.lean: the vector lanes (R78 to R88, R132 to R134), the function-unit calls and the softmax and normalisation passes
(R96, R97), their sources, results, summaries and timing.
An operation that is a step of its own reads all of its sources as they stand at its issue; one that a beat starts reads and writes cycle by
cycle (Jobs.lean, log entry 9). Its opcode is the code of R133.
-/

namespace Sys2Proof.Machine

/-! ## What each opcode is -/

/-- Does the operation read source B (R82, R134)? -/
def vecBinary (op : Nat) : Bool :=
  [0x00, 0x01, 0x02, 0x03, 0x06, 0x07, 0x08, 0x09, 0x0A, 0x0B, 0x10, 0x11, 0x12, 0x13, 0x14, 0x18, 0x19, 0x1A, 0x1B, 0x20, 0x21,
   0x22, 0x39, 0x3A].contains op
/-- Row reductions and SMX1 (R85, R96), column reductions. -/
def vecRowRed (op : Nat) : Bool := [0x28, 0x29, 0x2A, 0x38].contains op
def vecColRed (op : Nat) : Bool := [0x2B, 0x2C, 0x2D].contains op
/-- SMX3 and NRM2, which read source B in their prologue (R134). -/
def vecPro (op : Nat) : Bool := op == 0x3A || op == 0x3D
/-- The function-unit calls. -/
def vecFu (op : Nat) : Bool := decide (0x30 ≤ op) && decide (op ≤ 0x35)
/-- Operations into which an L128 source enters whole (R81). -/
def vecWhole (op : Nat) : Bool := [0x32, 0x33, 0x38, 0x39, 0x3A, 0x3C, 0x3D, 0x3F].contains op

/-- The group interval (R82, R134) and the latency (R82, R85, R89, R134); `wide` for an L128 source A. R85 gives row reductions 4 cycles: column
reductions take the same, and all of their results are produced after the last group (DESIGN CHOICE, log entry 105). -/
def vecTime (op : Nat) (wide : Bool) : Nat × Nat :=
  match op with
  | 0x14 => (1, 2) | 0x20 => (1, 3) | 0x21 => (4, 6) | 0x22 => (4, 6)
  | 0x30 => (4, 10) | 0x31 => (4, 14)
  | 0x32 => if wide then (32, 66) else (8, 34)
  | 0x33 => if wide then (32, 68) else (8, 36)
  | 0x34 => (8, 48) | 0x35 => (8, 50)
  | 0x38 => (1, 4) | 0x39 => (4, 20) | 0x3A => (4, 6) | 0x3C => (1, 6) | 0x3D => (4, 6)
  | 0x28 | 0x29 | 0x2A | 0x2B | 0x2C | 0x2D => (1, 4)
  | _ => (1, 1)

/-- The prologue of a sequence pass over M rows (R134). -/
def vecPrologue (op m : Nat) : Nat := if op = 0x3A then ceilDiv m 4 + 34 else if op = 0x3D then m + 68 else 0

/-! ## Lane operations -/

/-- A value modulo 2^64, as signed. -/
def wrap64 (v : Int) : Int := sext 64 (uns 64 v)

/-- One elementwise operation (R82 to R84): the result, and whether it saturated. `c` is the SEL condition, `lo` and `hi` the CLAMP
bounds. -/
def laneOp (op : Nat) (a b c lo hi : Int) : Int × Bool :=
  let n := uns 7 b
  let sat := fun v : Int => (sat63 v, sat63 v != v)
  match op with
  | 0x00 => (wrap64 (a + b), false)
  | 0x01 => (wrap64 (a - b), false)
  | 0x02 => sat (a + b)
  | 0x03 => sat (a - b)
  | 0x04 => sat (-a)
  | 0x05 => sat a.natAbs
  | 0x06 => (min a b, false)
  | 0x07 => (max a b, false)
  | 0x08 => ((BitVec.ofInt 64 a &&& BitVec.ofInt 64 b).toInt, false)
  | 0x09 => ((BitVec.ofInt 64 a ||| BitVec.ofInt 64 b).toInt, false)
  | 0x0A => ((BitVec.ofInt 64 a ^^^ BitVec.ofInt 64 b).toInt, false)
  | 0x0B => ((BitVec.ofInt 64 a &&& ~~~BitVec.ofInt 64 b).toInt, false)
  | 0x0C => ((~~~BitVec.ofInt 64 a).toInt, false)
  | 0x10 => (wrap64 (a * 2 ^ n), false)
  | 0x11 => sat (a * 2 ^ n)
  | 0x12 => (a / 2 ^ n, false)
  | 0x13 => (wrap64 (uns 64 a / 2 ^ n : Nat), false)
  | 0x14 => (if 64 ≤ n then 0 else roundNe a n, false)
  | 0x15 => (if uns 64 a = 0 then 64 else 63 - Nat.log2 (uns 64 a), false)
  | 0x16 => (((List.range 64).filter fun i => bitOf (uns 64 a) i).length, false)
  | 0x18 => (if a = b then 1 else 0, false)
  | 0x19 => (if a < b then 1 else 0, false)
  | 0x1A => (if a ≤ b then 1 else 0, false)
  | 0x1B => (if c = 0 then a else b, false)
  | 0x1C => (min (max a lo) hi, false)
  | 0x20 => (sext 32 (uns 32 a) * sext 32 (uns 32 b), false)
  | 0x21 => (a * b, false)
  | 0x22 => (a * b / 2 ^ 64, false)
  | _ => (a, false)

/-- A function-unit call (R89): LOG2 takes F from the immediate (R538). -/
def fuOp (op : Nat) (a : Int) (imm : Nat) : FuOut :=
  match op with
  | 0x30 => ⟨(fuExp2 a).1, some (fuExp2 a).2, false, false⟩
  | 0x31 => fuLog2 a (imm % 128)
  | 0x32 => fuRecip a
  | 0x33 => fuRsqrt a
  | 0x34 => ⟨fuSigm a, none, false, false⟩
  | _ => fuTanh a

/-- Where the two parts go for a destination (R538): the value, and whether the second part was clamped. -/
def fuPlace (dest : Nat) (o : FuOut) : Int × Bool :=
  match o.snd with
  | none => (o.fst, false)
  | some j =>
    if dest = 1 then (sext 128 (uns 64 o.fst + 2 ^ 64 * uns 64 j), false)
    else if dest = 3 then (o.fst, false)
    else
      let e := clampInt (-(2 ^ 31 - 1)) (2 ^ 31 - 1) j
      (sext 64 (uns 32 o.fst + 2 ^ 32 * uns 32 e), e != j)

/-! ## Sources -/

/-- A source of an M × N operation. -/
def vecSrc (form fmt g : Nat) (base addr : Nat) (imm : U16) (m n : Nat) (whole : Bool) : VSrc :=
  { form := form, fmt := fmt, g := g, base := base, addr := addr, imm := imm.toInt, rows := if form = 0 ∨ form = 2 then m else 1,
    cols := if form ≤ 1 then n else 1, whole := whole }

/-- Does the source lie in the stall? -/
def VSrc.inStall (x : VSrc) : Bool := decide (x.form ≤ 2) && x.fmt != fmtSlot
/-- Is it read from an accumulator slot? -/
def VSrc.inSlot (x : VSrc) : Bool := decide (x.form ≤ 2) && x.fmt == fmtSlot

/-- The block or A format of a code. -/
def VSrc.f (x : VSrc) : Fmt := (Fmt.ofCode x.fmt).getD .a48
/-- Is it a block-format source? -/
def VSrc.block (x : VSrc) : Bool := decide (x.fmt ≤ 4)
/-- Bits of one element in the stall. -/
def VSrc.bits (x : VSrc) : Nat := if x.fmt = fmtL64 then 64 else if x.fmt = fmtL128 then 128 else x.f.bits

/-- The source row and column of array element (i, j). -/
def VSrc.row (x : VSrc) (i : Nat) : Nat := if x.form = 1 then 0 else i
def VSrc.col (x : VSrc) (j : Nat) : Nat := if x.form = 2 then 0 else j

/-- The stall address of source element (r, c), and the nibble for I4 (R24, R541). -/
def VSrc.elemAddr (x : VSrc) (r c : Nat) : Nat :=
  if x.block then x.addr + headerBytes x.f x.rows x.cols + r * rowBytes x.f x.cols + c * x.bits / 8
  else x.addr + (r * x.cols + c) * (x.bits / 8)

/-- The element bytes a group of n elements from (i, j) reads: address and length. -/
def VSrc.span (x : VSrc) (i j n : Nat) : Nat × Nat :=
  let a := x.elemAddr (x.row i) (x.col j)
  let last := if x.cols = 1 then x.col j else x.col j + n - 1
  (a, x.elemAddr (x.row i) last + (x.bits + 7) / 8 - a)

/-- The header bytes a group reads (R536, R541). -/
def VSrc.hdrSpan (x : VSrc) (i j n : Nat) : Nat × Nat :=
  if x.inStall && x.block then
    let b0 := headerByte x.f x.cols (x.row i) (x.col j / x.f.len)
    let last := if x.cols = 1 then x.col j else x.col j + n - 1
    (x.addr + b0, headerByte x.f x.cols (x.row i) (last / x.f.len) - b0 + 1)
  else (x.addr, 0)

/-- The clamp of R81. -/
def vecClamp (v : Int) (poison : Bool) : VVal := ⟨sat63 v, poison, sat63 v != v⟩

/-- Element (i, j) of a source of core k (R79, R81). -/
def State.vecElem (s : State) (d c k : Nat) (x : VSrc) (i j : Nat) : VVal :=
  if x.form = 4 then ⟨x.imm, false, false⟩
  else if x.form = 3 then
    let l := Tab.get LaneReg.zero (s.core d c k).lanes (x.base % 16)
    ⟨l.val.toInt, l.poison, false⟩
  else
    let r := x.row i
    let q := x.col j
    let st := stallBase d c k
    if x.fmt = fmtSlot then
      let sl := s.slotAt d c k x.base
      let e := sl.at (accKey (sl.tag.getD .a48) (halfOf x.base) r q)
      vecClamp e.val (e.poison || e.parity)
    else
      let a := st + x.elemAddr r q
      let n := max 1 (x.bits / 8)
      let raw := s.readNat a n
      let bad := s.readBad a n
      if x.block then
        let h := st + x.addr + headerByte x.f x.cols r (q / x.f.len)
        let m := if x.bits = 4 then sext 4 (raw / 2 ^ (4 * (q % 2))) else sext x.bits raw
        vecClamp (scale2 m ((x.g : Int) - (s.mem.byte h).toNat)) (bad || s.readBad h 1)
      else if x.fmt = fmtL64 then ⟨sext 64 raw, bad, false⟩
      else if x.fmt = fmtL128 then (if x.whole then ⟨sext 128 raw, bad, false⟩ else vecClamp (sext 128 raw) bad)
      else vecClamp (sext (x.f.accW + 8) raw) bad

/-! ## An operation -/

/-- The operation as it stands at issue. NRM2 reads (S1, V) of each row as two L128 words from source B (R134, R536). -/
def State.vecJob (s : State) (d c k op : Nat) (r : VecRud) (cv : Option ConvRud) : VJob :=
  let h := s.hOf d c
  let w := vecWhole op
  let adr := fun g : AG => s.stallAddr d h k g
  { d := d, c := c, k := k, h := h, op := op, r := r,
    a := vecSrc r.forma r.fmta r.ga r.agA.base (adr r.agA) r.imm r.m r.n w,
    b := if op = 0x3D then vecSrc 0 fmtL128 0 r.agB.base (adr r.agB) r.imm r.m 2 true
         else vecSrc r.formb r.fmtb r.gb r.agB.base (adr r.agB) r.imm r.m r.n w,
    cond := if op = 0x1B ∧ r.var = true then some (vecSrc 2 fmtL64 0 0 (adr r.agD) r.imm r.m r.n false) else none,
    dst := adr r.agD, t := s.cycOf d c,
    rate := match cv with
      | some q => if r.dest = 3 then min 32 (512 / (s.ctxDesc d h q.desc).format.bits) else 0
      | none => 0 }

/-- Source A in 128 bits (R89). -/
def VJob.wide (m : VJob) : Bool := m.a.form ≤ 2 && m.a.fmt == fmtL128

/-- The sources a group reads in its own cycles. -/
def VJob.srcs (m : VJob) : List VSrc :=
  m.a :: ((if vecBinary m.op && !vecPro m.op then [m.b] else []) ++ m.cond.toList)

/-- The words of bytes [a, a + n), as stall word numbers. -/
def wordsOf (a n : Nat) : List Nat := if n = 0 then [] else (List.range ((a + n - 1) / 8 - a / 8 + 1)).map (· + a / 8)

/-- Words taken from cycle t on, 64 per cycle (R536). -/
def wordAccs (t : Nat) (ws : List Nat) : List Access := ws.zipIdx.map fun w => ⟨t + w.2 / 64, .bank (w.1 % 64)⟩

/-- Source bytes of 32 elements (R80). -/
def VSrc.traffic (x : VSrc) : Nat := if x.inStall then ((if x.form ≤ 1 then 32 else 1) * x.bits + 7) / 8 else 0

/-- Does every group write its own elements to the stall? -/
def VJob.writesElems (m : VJob) : Bool := decide (m.r.dest ≤ 1) && !vecRowRed m.op && !vecColRed m.op && m.op != 0x3C

/-- The interval of the group of n elements from (i, j) (R80, R134). -/
def VJob.interval (m : VJob) (i j n : Nat) : Nat :=
  let hdr := (m.srcs.map fun x => 8 * (wordsOf (x.hdrSpan i j n).1 (x.hdrSpan i j n).2).length).sum
  let src := (m.srcs.map VSrc.traffic).sum
  let dst := if m.writesElems then 32 * (if m.r.dest = 1 then 16 else 8) else 0
  let own := max (vecTime m.op m.wide).1 (ceilDiv (hdr + src + dst) 512)
  if m.r.dest = 3 ∧ m.rate ≠ 0 then max own (ceilDiv 32 m.rate) else own

/-- The groups in order, and the first cycle after the last interval. -/
def VJob.groups (m : VJob) : List VGroup × Nat :=
  ((List.range m.r.m).flatMap fun i => (List.range (ceilDiv m.r.n 32)).map fun q => (i, 32 * q)).foldl
    (fun (a : List VGroup × Nat) x =>
      let n := min 32 (m.r.n - x.2)
      let iv := m.interval x.1 x.2 n
      (a.1 ++ [⟨x.1, x.2, n, a.2, a.2 + iv - 1 + (vecTime m.op m.wide).2⟩], a.2 + iv)) ([], m.t + vecPrologue m.op m.r.m)

/-- Bytes of a destination word (R86). -/
def VJob.size (m : VJob) : Nat := if m.r.dest = 1 then 16 else 8

/-- A sum is written as an L128 word (R85). -/
def VJob.redSize (m : VJob) : Nat := if (m.op = 0x28 ∨ m.op = 0x2B) ∧ m.r.dest ≤ 1 then 16 else m.size

/-- Is the group the last of its row, of the array? -/
def VJob.rowEnd (m : VJob) (g : VGroup) : Bool := g.j + g.n == m.r.n
def VJob.arrayEnd (m : VJob) (g : VGroup) : Bool := m.rowEnd g && g.i + 1 == m.r.m

/-- Where the results go that a group produces, in the order of their words (R85, R86, R134, R536): stall address, bytes, row, column. -/
def VJob.spots (m : VJob) (g : VGroup) : List (Nat × Nat × Nat × Nat) :=
  let cols := (List.range g.n).map (· + g.j)
  let elems := cols.map fun j => (m.dst + m.size * (g.i * m.r.n + j), m.size, g.i, j)
  if vecRowRed m.op then (if m.rowEnd g then [(m.dst + m.redSize * g.i, m.redSize, g.i, 0)] else [])
  else if vecColRed m.op then
    (if m.arrayEnd g then (List.range m.r.n).map fun j => (m.dst + m.redSize * j, m.redSize, 0, j) else [])
  else if m.op = 0x39 then
    elems ++ (if m.rowEnd g then [(m.dst + m.size * (m.r.m * m.r.n) + 16 * g.i, 16, g.i, 0)] else [])
  else if m.op = 0x3C then
    (if m.rowEnd g then [(m.dst + 32 * g.i, 16, g.i, 0), (m.dst + 32 * g.i + 16, 16, g.i, 1)] else [])
  else if vecPro m.op ∧ m.r.dest = 3 then cols.map fun j => (0, 16, g.i, j)
  else elems

/-- A result's value, poison, and the exponent handed to the converter where the operation fixes it; whether it saturated, whether an input
was out of the domain. -/
structure VOne where
  v      : Int
  poison : Bool
  x      : Option Int
  sat    : Bool
  dom    : Bool
  deriving DecidableEq, Repr

/-- Results of a group, with the flags it raises (R83, R95). -/
structure VOut where
  res : List VRes
  sat : Bool
  dom : Bool
  deriving DecidableEq, Repr

/-! ## Reading -/

/-- Element (i, j) of a source of the operation. -/
def VJob.at (m : VJob) (s : State) (x : VSrc) (i j : Nat) : VVal := s.vecElem m.d m.c m.k x i j

/-- Lane register number `n` of lane 0. -/
def State.laneReg (s : State) (m : VJob) (n : Nat) : LaneReg := Tab.get LaneReg.zero (s.core m.d m.c m.k).lanes n

/-- The elements of a group for which `pick` holds, of a source. -/
def VJob.elemsOf (m : VJob) (s : State) (x : VSrc) (g : VGroup) (pick : Nat → Bool) : List VVal :=
  (((List.range g.n).map (· + g.j)).filter pick).map (m.at s x g.i)

/-- Elements that a group reads join its record: those of source A, of source B, of the SEL condition that the three tests pick. -/
def VRec.read (r : VRec) (m : VJob) (s : State) (pa pb pc : Nat → Bool) : VRec :=
  { r with
    a := r.a ++ m.elemsOf s m.a r.g pa,
    b := r.b ++ (if vecBinary m.op && !vecPro m.op then m.elemsOf s m.b r.g pb else []),
    c := r.c ++ (match m.cond with | some x => m.elemsOf s x r.g pc | none => []) }

/-- The record of a group that has read its lane registers only. -/
def State.vecBegin (s : State) (m : VJob) (g : VGroup) : VRec := ⟨g, [], [], [], s.laneReg m m.r.rlo, s.laneReg m m.r.rhi⟩

/-- All a group reads, from one state. -/
def State.vecGroup (s : State) (m : VJob) (g : VGroup) : VRec :=
  (s.vecBegin m g).read m s (fun _ => true) (fun _ => true) (fun _ => true)

/-- The values of row i that the prologue reads from source B (R134): one for SMX3, two for NRM2. -/
def State.vecProRow (s : State) (m : VJob) (i : Nat) : List VVal := if m.op = 0x3D then [m.at s m.b i 0, m.at s m.b i 1] else [m.at s m.b i 0]
def State.vecProRows (s : State) (m : VJob) : List (List VVal) := if vecPro m.op then (List.range m.r.m).map (s.vecProRow m) else []

/-! ## Results -/

/-- A value that no source gives. -/
def VVal.zero : VVal := ⟨0, false, false⟩

/-- An elementwise result (R82, R89) from elements a, b and the SEL condition c. -/
def VJob.elem (m : VJob) (r : VRec) (a b c : VVal) : VOne :=
  let u := fuOp m.op a.v m.r.imm.toNat
  let v := if vecFu m.op then ((fuPlace m.r.dest u).1, (fuPlace m.r.dest u).2 || u.sat)
    else laneOp m.op a.v b.v c.v r.lo.val.toInt r.hi.val.toInt
  ⟨v.1, a.poison || b.poison || (m.op == 0x1B && c.poison) || (m.op == 0x1C && (r.lo.poison || r.hi.poison)), none, v.2 || a.sat || b.sat,
   vecFu m.op && u.dom⟩

/-- Those of a group. -/
def VJob.elems (m : VJob) (r : VRec) : List VOne :=
  r.a.zipIdx.map fun x =>
    let c := match m.cond with | some _ => r.c.getD x.2 VVal.zero | none => ⟨r.lo.val.toInt, r.lo.poison, false⟩
    m.elem r x.1 (if vecBinary m.op then r.b.getD x.2 VVal.zero else VVal.zero) c

/-- One reduced value (R85). -/
def reduceVals (op : Nat) (l : List VVal) : Int :=
  let vs := l.map (·.v)
  let h := vs.headD 0
  match op with
  | 0x28 | 0x2B => vs.sum
  | 0x2A | 0x2D => vs.foldl min h
  | _ => vs.foldl max h

/-- The reduction of the values l as a result. -/
def VJob.reduce (m : VJob) (l : List VVal) : VOne := ⟨reduceVals m.op l, l.any (·.poison), none, l.any (·.sat), false⟩

/-- e of SMX2 (R96 steps 2 to 4). -/
def smxExp (a b : VVal) : VOne :=
  ⟨expShift 63 (fuExp2 ((a.v - b.v) * 1549082005 / 2 ^ 30)), a.poison || b.poison, none, a.sat || b.sat, false⟩

/-- The row sum of SMX2 (R96 step 5). -/
def smxSum (es : List VOne) : VOne := ⟨(es.map (·.v)).sum, es.any (·.poison), none, false, false⟩

/-- SMX3 (R96 steps 6 and 7): element a of a row whose sum is b. -/
def smxNorm (a b : VVal) : VOne :=
  let q := fuRecip b.v
  ⟨a.v * q.fst, a.poison || b.poison, some (-31 - q.snd.getD 0), a.sat || b.sat, q.dom⟩

/-- NRM1 on a row (R97 steps 1 and 2): S1 and V + ε_v. -/
def VJob.nrm1 (m : VJob) (eps : LaneReg) (l : List VVal) : List VOne :=
  let s1 := (l.map (·.v)).sum
  let s2 := (l.map fun x => x.v * x.v).sum
  let bad := l.any (·.poison)
  [⟨s1, bad, none, l.any (·.sat), false⟩,
   ⟨m.r.n * s2 - (if m.r.var then 0 else s1 * s1) + eps.val.toNat, bad || eps.poison, none, false, false⟩]

/-- NRM2 (R97 steps 3 and 4): element a of a row with S1 and V. -/
def VJob.nrm2 (m : VJob) (a s1 v : VVal) : VOne :=
  let q := fuRsqrt v.v
  ⟨(m.r.n * a.v - (if m.r.var then 0 else s1.v)) * q.fst, a.poison || s1.poison || v.poison, some (-31 - q.snd.getD 0), a.sat, q.dom⟩

/-- Row i of source A, as the groups' records hold it; column j of it. -/
def rowOfRecs (recs : List VRec) (i : Nat) : List VVal := (recs.filter fun r => r.g.i == i).flatMap (·.a)
def colOfRecs (recs : List VRec) (j : Nat) : List VVal :=
  recs.filterMap fun r => if r.g.j ≤ j ∧ j < r.g.j + r.g.n then r.a[j - r.g.j]? else none

/-- The values a group produces, from what the groups up to it have read and the prologue's values. -/
def VJob.ones (m : VJob) (recs : List VRec) (pro : List (List VVal)) (r : VRec) : List VOne :=
  let i := r.g.i
  let p := pro.getD i []
  if vecRowRed m.op then (if m.rowEnd r.g then [m.reduce (rowOfRecs recs i)] else [])
  else if vecColRed m.op then (if m.arrayEnd r.g then (List.range m.r.n).map fun j => m.reduce (colOfRecs recs j) else [])
  else if m.op = 0x39 then
    let es := fun q : VRec => (q.a.zip q.b).map fun x => smxExp x.1 x.2
    es r ++ (if m.rowEnd r.g then [smxSum ((recs.filter fun q => q.g.i == i).flatMap es)] else [])
  else if m.op = 0x3A then r.a.map fun a => smxNorm a (p.getD 0 VVal.zero)
  else if m.op = 0x3C then (if m.rowEnd r.g then m.nrm1 r.lo (rowOfRecs recs i) else [])
  else if m.op = 0x3D then r.a.map fun a => m.nrm2 a (p.getD 0 VVal.zero) (p.getD 1 VVal.zero)
  else m.elems r

/-- The results a group produces, in its result cycle. -/
def VJob.outAt (m : VJob) (recs : List VRec) (pro : List (List VVal)) (r : VRec) : VOut :=
  let l := m.ones recs pro r
  ⟨((m.spots r.g).zip l).map fun x => ⟨x.1.1, x.1.2.1, x.1.2.2.1, x.1.2.2.2, x.2.v, x.2.poison, x.2.x, r.g.res⟩, l.any (·.sat), l.any (·.dom)⟩

/-- All results of an operation that reads one state, group by group. -/
def VJob.out (m : VJob) (s : State) (gs : List VGroup) : VOut :=
  let recs := gs.map (s.vecGroup m)
  let os := recs.map (m.outAt recs (s.vecProRows m))
  ⟨os.flatMap (·.res), os.any (·.sat), os.any (·.dom)⟩

/-! ## Reading, writing, summaries -/

/-- The elements of slot sources that a group reads, and those that the prologue reads of row i (R102, R107). -/
def State.slotReads (s : State) (m : VJob) (l : List VSrc) (i j n : Nat) : State :=
  (l.filter VSrc.inSlot).foldl (fun t x =>
    t.accParity m.d m.c m.k x.base (accKey ((t.slotAt m.d m.c m.k x.base).tag.getD .a48) (halfOf x.base) (x.row i) (x.col j))
      (if x.cols = 1 then 1 else n)) s
def State.slotProReads (s : State) (m : VJob) (i : Nat) : State := if m.op = 0x3A then s.slotReads m [m.b] i 0 1 else s

/-- Every stall word the operation reads is read once per group, and once in the prologue (R66, R536). -/
def State.vecReads (s : State) (m : VJob) (gs : List VGroup) : State :=
  let s1 := if m.op = 0x3A ∧ m.b.inStall = true then
      (List.range m.r.m).foldl (fun t i => t.stallRead m.d m.c m.k (m.b.span i 0 1).1 (m.b.span i 0 1).2) s
    else if m.op = 0x3D then (List.range m.r.m).foldl (fun t i => t.stallRead m.d m.c m.k (m.b.span i 0 2).1 (m.b.span i 0 2).2) s
    else s
  let s2 := if vecPro m.op then (List.range m.r.m).foldl (fun t i => t.slotProReads m i) s1 else s1
  gs.foldl (fun t g => (m.srcs.filter VSrc.inStall).foldl (fun t x =>
    (t.stallRead m.d m.c m.k (x.hdrSpan g.i g.j g.n).1 (x.hdrSpan g.i g.j g.n).2).stallRead m.d m.c m.k (x.span g.i g.j g.n).1
      (x.span g.i g.j g.n).2) (t.slotReads m m.srcs g.i g.j g.n)) s2

/-- The bank accesses of the sources and of the prologue (R536). -/
def VJob.readAccs (m : VJob) (gs : List VGroup) : List Access :=
  let pro := if m.op = 0x3A ∧ m.b.inStall = true then (List.range m.r.m).flatMap fun i => wordAccs (m.t + i / 4) (wordsOf (m.b.span i 0 1).1 (m.b.span i 0 1).2)
    else if m.op = 0x3D then (List.range m.r.m).flatMap fun i => wordAccs (m.t + i) (wordsOf (m.b.span i 0 2).1 (m.b.span i 0 2).2)
    else []
  let st := m.srcs.filter VSrc.inStall
  pro ++ gs.flatMap fun g =>
    wordAccs g.t (st.flatMap fun x => wordsOf (x.hdrSpan g.i g.j g.n).1 (x.hdrSpan g.i g.j g.n).2) ++
    wordAccs g.t (st.flatMap fun x => wordsOf (x.span g.i g.j g.n).1 (x.span g.i g.j g.n).2)

/-- The bank accesses of the results, from their cycle on, 64 words per cycle. -/
def VJob.writeAccs (m : VJob) (gs : List VGroup) : List Access :=
  if 2 ≤ m.r.dest then []
  else gs.flatMap fun g => wordAccs g.res ((m.spots g).flatMap fun x => wordsOf x.1 x.2.1)

/-- A destination value as the destination holds it (R86): an 8-byte word or a lane register takes the low 64 bits. -/
def VJob.held (m : VJob) (x : VRes) : Int := if m.r.dest = 3 ∨ x.size = 16 then x.v else wrap64 x.v

/-- The results an operation has in all. -/
def VJob.results (m : VJob) : Nat := if vecRowRed m.op then m.r.m else if vecColRed m.op then m.r.n else m.r.m * m.r.n

/-- A result goes to the stall, to the lane register. What a lane register holds after an operation of more than one result the spec leaves open
(R86): value and poison are drawn (log entry 29). -/
def State.vecStore (s : State) (m : VJob) (x : VRes) : State :=
  s.stallWrite m.d m.c m.k x.addr (leBytes x.size (uns (8 * x.size) x.v)) x.poison
def State.vecLane (s : State) (m : VJob) (x : VRes) : State :=
  let core := s.core m.d m.c m.k
  if m.results = 1 then
    s.setCore m.d m.c m.k { core with lanes := Tab.set LaneReg.zero core.lanes (m.r.agD.base % 16) ⟨BitVec.ofInt 64 x.v, x.poison⟩ }
  else
    s.draw.2.draw.2.setCore m.d m.c m.k { core with
      lanes := Tab.set LaneReg.zero core.lanes (m.r.agD.base % 16) ⟨s.draw.1, s.draw.2.draw.1.toNat % 2 == 1⟩ }

/-- The results go to the stall or to a lane register. -/
def State.vecWrite (s : State) (m : VJob) (l : List VRes) : State :=
  if m.r.dest ≤ 1 then l.foldl (fun t x => t.vecStore m x) s
  else if m.r.dest = 2 then l.foldl (fun t x => t.vecLane m x) s
  else s

/-- The flags that results raise (R83, R95, R105). -/
def State.vecFlags (s : State) (m : VJob) (o : VOut) : State :=
  ((s.laneSat m.d m.c m.k o.sat).fuDomain m.d m.c m.k o.dom).poisonSeen m.d m.c m.k (o.res.any (·.poison))

/-- An extreme that does not fit a summary register leaves its value open (log entry 31). -/
def State.extreme (s : State) (v : Int) : U64 × State :=
  if -2 ^ 63 ≤ v ∧ v < 2 ^ 63 then (BitVec.ofInt 64 v, s) else s.draw

/-- The summary of the destination values (R87, R111): its value, whether it saturated, and the state after an open value is drawn: that of a kind
R87 does not list is open (log entry 29). -/
def State.summary (s : State) (kind : Nat) (l : List Int) : U64 × Bool × State :=
  let h := l.headD 0
  match kind with
  | 0 => (BitVec.ofNat 64 (l.any (· != 0)).toNat, false, s)
  | 1 => (BitVec.ofNat 64 (l.all (· != 0)).toNat, false, s)
  | 2 => ((s.extreme (l.foldl max h)).1, false, (s.extreme (l.foldl max h)).2)
  | 3 => ((s.extreme (l.foldl min h)).1, false, (s.extreme (l.foldl min h)).2)
  | 4 => (BitVec.ofInt 64 (sat63 l.sum), sat63 l.sum != l.sum, s)
  | 5 => (BitVec.ofNat 64 (l.filter (· != 0)).length, false, s)
  | _ => (s.draw.1, false, s.draw.2)

/-- The operation latches its summary, readable 4 cycles after the last result (R87). -/
def State.vecLatch (s : State) (m : VJob) (outs : List (Int × Bool)) (last : Nat) : State :=
  if m.r.skind = 15 then s
  else
    let r := s.summary m.r.skind (outs.map (·.1))
    let core := r.2.2.core m.d m.c m.k
    r.2.2.setCore m.d m.c m.k { core with latches := core.latches ++ [⟨m.r.smk, m.r.skind, r.1, outs.any (·.2), r.2.1, last + 4⟩] }

/-- The cycle in which the converter accepts the value of column j of a group whose results are produced in cycle `res` (R77, R80): `rate` values
per cycle, in order. -/
def VJob.takenAt (m : VJob) (res j : Nat) : Nat := res + (if vecColRed m.op then j else j % 32) / max 1 m.rate

/-- The values handed to the converter (R86, R134). -/
def State.convElems (s : State) (m : VJob) (q : ConvRud) (l : List VRes) : List ConvElem :=
  (l.filter fun x => decide (x.i < q.rows) && decide (x.j < q.cols)).map fun x =>
    ⟨x.i, x.j, x.v, x.x.getD q.x, x.poison, s.chan m.d m.c m.k x.j, m.takenAt x.cyc x.j⟩

/-- The cycle in which the last of these is accepted, not before cycle t. -/
def lastTaken (t : Nat) (es : List ConvElem) : Nat := es.foldl (fun n e => max n e.cyc) t

/-- A vector operation, whole: the operation's own effect, and the conversion of its values when it feeds the converter. -/
def State.vecRun (s : State) (d c k op : Nat) (r : VecRud) (cv : Option ConvRud) : State :=
  let m := s.vecJob d c k op r cv
  let g := m.groups
  let o := m.out s g.1
  let last := (g.1.getLast?.map (·.res)).getD m.t
  let s1 := (s.vecReads m g.1).vecFlags m o
  let s2 := (s1.vecWrite m o.res).vecLatch m (o.res.map fun x => (m.held x, x.poison)) last
  let s3 := (s2.setCore d c k { s2.core d c k with vBusy := g.2 }).book d c k (m.readAccs g.1 ++ m.writeAccs g.1 ++ [⟨last, .fin⟩])
  match cv with
  | some q => if r.dest = 3 then (s3.descRead d c q).convertElems (s3.convJob d c k q) (s3.convElems m q o.res) (lastTaken last (s3.convElems m q o.res)) else s3
  | none => s3

/-! ## Faults at issue, reserved codes -/

/-- A slot source that raises ACC_FORMAT (R75): a cleared slot, half 1 of a whole-slot format, or more rows or columns than the tile
holds (log entry 30). -/
def State.slotSrcBad (s : State) (d c k : Nat) (x : VSrc) : Bool :=
  let sl := s.slotAt d c k x.base
  let e := (sl.tag.getD .a48).accEdge
  x.inSlot && (sl.readBad (halfOf x.base) || decide (e < x.rows) || decide (e < x.cols))

/-- The fault a vector operation raises at issue, or 0 (R75, R139, R169). -/
def State.vecFault (s : State) (d c k op : Nat) (r : VecRud) (cv : Option ConvRud) : Nat :=
  let m := s.vecJob d c k op r cv
  let xs := m.a :: (if vecBinary op || op == 0x3D then [m.b] else [])
  let feeds := match cv with | some q => q.src == 15 | none => false
  if (r.dest == 3) != feeds || xs.any (fun x => x.inSlot && decide (12 ≤ x.base)) then 0x30
  else if s.cycOf d c < (s.core d c k).vBusy then 0x25
  else if xs.any (s.slotSrcBad d c k) then 0x23
  else if feeds then (match cv with | some q => s.convFault d c k q true | none => 0)
  else 0

/-- The operand codes are ones the spec lists for this operation (R132, R134). -/
def State.vecDefined (s : State) (d c op : Nat) (r : VecRud) (cv : Option ConvRud) : Bool :=
  let form := fun f fm : Nat => decide (f ≤ 4) && (decide (2 < f) || decide (fm ≤ 0xB))
  form r.forma r.fmta && (!vecBinary op || form r.formb r.fmtb) && (!(op == 0x39 || op == 0x3C) || decide (r.dest ≤ 1)) &&
    (match cv with | some q => r.dest != 3 || s.convDefined d c q | none => true)

end Sys2Proof.Machine
end

