-- ==== Sys2Proof/Machine/Move.lean ====
section
/-!
DEFINITION. Move.lean: the moves between loft and stall (R137, R539): LD, ST, LDT, BCAST. Addresses are multiples of 8 (R130), so source
and destination words of LD, ST and BCAST pair off; poison goes word by word (R102).
-/

namespace Sys2Proof.Machine

/-- The words of n bytes at local address a. -/
def State.moveWords (s : State) (a n : Nat) : List MoveWord :=
  (List.range (ceilDiv n 8)).map fun w =>
    let l := min 8 (n - 8 * w)
    ⟨8 * w, s.read (a + 8 * w) l, s.readBad (a + 8 * w) l⟩

/-- Words go into the stall of a core, or into the loft of a cluster. -/
def State.wordsToStall (s : State) (d c k a : Nat) (l : List MoveWord) : State :=
  l.foldl (fun t w => t.stallWrite d c k (a + w.off) w.bytes w.poison) s
def State.wordsToLoft (s : State) (d c a : Nat) (l : List MoveWord) : State :=
  l.foldl (fun t w => t.loftWrite d c (a + w.off) w.bytes w.poison) s

/-- The move engine of a core is taken until cycle t (R139). -/
def State.moveUntil (s : State) (d c k t : Nat) : State := s.setCore d c k { s.core d c k with lBusy := t }

/-- A core receives n loft bytes from address la: LD, and each core of a BCAST. -/
def State.receive (s : State) (d c k la sa n : Nat) : State :=
  let ws := s.moveWords (loftBase d c + la) n
  let t := s.cycOf d c
  let s1 := (s.wordsToStall d c k sa ws).poisonSeen d c k (ws.any (·.poison))
  (s1.moveUntil d c k (t + ceilDiv n 64)).book d c k (streamAccs bankAccs (t + 1) sa n 64)

/-- LD: loft to stall. -/
def State.moveLd (s : State) (d c k : Nat) (r : MoveRud) : State :=
  let h := s.hOf d c
  let la := s.loftAddr d h k r.agL
  let s1 := (s.loftRead d c la r.len).receive d c k la (s.stallAddr d h k r.agS) r.len
  s1.book d c k (streamAccs groupAccs (s.cycOf d c) la r.len 64)

/-- ST: stall to loft. -/
def State.moveSt (s : State) (d c k : Nat) (r : MoveRud) : State :=
  let h := s.hOf d c
  let t := s.cycOf d c
  let la := s.loftAddr d h k r.agL
  let sa := s.stallAddr d h k r.agS
  let s1 := (s.stallRead d c k sa r.len).wordsToLoft d c la (s.moveWords (stallBase d c k + sa) r.len)
  (s1.moveUntil d c k (t + ceilDiv r.len 64)).book d c k (streamAccs bankAccs t sa r.len 64 ++ streamAccs groupAccs (t + 1) la r.len 64)

/-- Rows of a group of a transposing move (R539). -/
def ldtRows (f : Fmt) : Nat := f.tile.1

/-- Bytes [a, a + n) of local memory, each with whether its word is bad. -/
def State.bytesBad (s : State) (a n : Nat) : List (Byte × Bool) := (List.range n).map fun i => (s.mem.byte (s.loc (a + i)), s.readBad (a + i) 1)

/-- Element (i, k) of rows of `rb` bytes: its code's field, poisoned. -/
def ldtElem (f : Fmt) (raw : List (Byte × Bool)) (rb i k : Nat) : Nat × Bool :=
  let l := (raw.drop (i * rb + k * f.bits / 8)).take (max 1 (f.bits / 8))
  let n := leNat (l.map (·.1))
  (if f.bits = 4 then n / 2 ^ (4 * (k % 2)) % 16 else n, l.any (·.2))

/-- The rows of a group, transposed into the k-major layout of R67: bytes with poison. -/
def ldtBytes (f : Fmt) (raw : List (Byte × Bool)) (rb rows cols : Nat) : List (Byte × Bool) :=
  if f.bits = 4 then
    (List.range (cols / 2)).flatMap fun p => (List.range rows).map fun i =>
      let x := ldtElem f raw rb i (2 * p)
      let y := ldtElem f raw rb i (2 * p + 1)
      (BitVec.ofNat 8 (x.1 + 16 * y.1), x.2 || y.2)
  else
    (List.range cols).flatMap fun k => (List.range rows).flatMap fun i =>
      let x := ldtElem f raw rb i k
      (leBytes (f.bits / 8) x.1).map fun b => (b, x.2)

/-- Bytes with poison as words; a word with a poisoned byte is poisoned. -/
def packWords : Nat → Nat → List (Byte × Bool) → List MoveWord
  | 0, _, _ => []
  | n + 1, off, l =>
    if l.isEmpty then [] else ⟨off, (l.take 8).map (·.1), (l.take 8).any (·.2)⟩ :: packWords n (off + 8) (l.drop 8)

/-- The groups of an LDT of R rows: first row, rows, byte offset in the stall, first write cycle, writes, all relative to the issue. -/
def ldtPlan (g rb : Nat) : Nat → Nat → Nat → Nat → List (Nat × Nat × Nat × Nat × Nat)
  | 0, _, _, _ => []
  | n + 1, r0, left, free =>
    if left = 0 then []
    else
      let rows := min g left
      let first := max (ceilDiv ((r0 + rows) * rb) 64 - 1) (free - 1) + 1
      let writes := ceilDiv (rows * rb) 64
      (r0, rows, r0 * rb, first, writes) :: ldtPlan g rb n (r0 + rows) (left - rows) (first + writes)

/-- LDT (R539). -/
def State.moveLdt (s : State) (d c k : Nat) (r : MoveRud) : State :=
  match Fmt.ofCode r.efmt with
  | none => s.moveLd d c k r
  | some f =>
    let h := s.hOf d c
    let t := s.cycOf d c
    let la := s.loftAddr d h k r.agL
    let sa := s.stallAddr d h k r.agS
    let rb := r.rowlen * f.bits / 8
    let rows := r.len / rb
    let plan := ldtPlan (ldtRows f) rb rows 0 rows 0
    let gs := plan.map fun g => (g, ldtBytes f (s.bytesBad (loftBase d c + la + g.1 * rb) (g.2.1 * rb)) rb g.2.1 r.rowlen)
    let s1 := s.loftRead d c la (rows * rb)
    let s2 := gs.foldl (fun u g => (u.wordsToStall d c k (sa + g.1.2.2.1) (packWords (g.2.length + 1) 0 g.2)).poisonSeen d c k
      (g.2.any (·.2))) s1
    let fin := match plan.getLast? with | some g => g.2.2.2.1 + g.2.2.2.2 | none => 1
    (s2.moveUntil d c k (t + fin)).book d c k (streamAccs groupAccs t la (rows * rb) 64 ++
      plan.flatMap fun g => streamAccs bankAccs (t + g.2.2.2.1) (sa + g.2.2.1) (g.2.1 * rb) 64)

/-- The fault a move raises at issue, or 0 (R139, R539): `lop` as in R126. -/
def State.moveFault (s : State) (d c k lop : Nat) (r : MoveRud) : Nat :=
  if lop == 3 && r.efmt != 15 && (decide (4 < r.efmt) || (r.efmt == 0 && r.rowlen % 2 == 1)) then 0x30
  else if s.cycOf d c < (s.core d c k).lBusy then 0x25
  else 0

/-- LD, ST or LDT of one core. -/
def State.moveRun (s : State) (d c k lop : Nat) (r : MoveRud) : State :=
  match lop with
  | 1 => s.moveLd d c k r
  | 2 => s.moveSt d c k r
  | _ => if r.efmt = 15 then s.moveLd d c k r else s.moveLdt d c k r

/-- The cores of a broadcast set, lowest first (R137). -/
def bcastCores (r : MoveRud) : List Nat := (List.range 16).filter fun k => bitOf r.bset.toNat k

/-- BCAST (R137, R539): the lowest core of the set reads, every core of it receives. -/
def State.bcastRun (s : State) (d c : Nat) (r : MoveRud) : State :=
  match bcastCores r with
  | [] => s
  | k0 :: _ =>
    let h := s.hOf d c
    let la := s.loftAddr d h k0 r.agL
    let s1 := (bcastCores r).foldl (fun t k => t.receive d c k la (s.stallAddr d h k r.agS) r.len) (s.loftRead d c la r.len)
    s1.book d c k0 (streamAccs groupAccs (s.cycOf d c) la r.len 64)

/-- The core whose move engine is busy when a BCAST issues, if any (R139). -/
def State.bcastBusy (s : State) (d c : Nat) (r : MoveRud) : Option Nat :=
  (bcastCores r).find? fun k => decide (s.cycOf d c < (s.core d c k).lBusy)

end Sys2Proof.Machine
end

