-- ==== Sys2Proof/Machine/Pivot.lean ====
section
/-!
DEFINITION. Pivot.lean: the pivot engine of a cluster (R200 to R208, R211, R212): BEGIN, RUN with DIAG, INV and EQB, the deadline point
DPT (R213, R214), CNT.
The exponent of an entry's input tile, E_in of R201, stands in no field of the entry or the rudiment: for a tile that a DIAG left it is the
exponent it was rounded to (R203, R206), otherwise a free function of the entry and its tile (log entry 33).
-/

namespace Sys2Proof.Machine

/-! ## Loft patterns -/

/-- The agent that owns bank group g of cluster c in cadence cycle t (R138): entry (g − t) mod 16 of the cluster's pattern. An index at or
above the pattern count names no pattern, and no agent owns a group (log entry 32). -/
def State.groupOwner (s : State) (d c t g : Nat) : Nat :=
  let h := s.hOf d c
  let p := (s.cluster d c).pat
  let e := (((g : Int) - t) % 16).toNat
  if s.hdr d h 32 1 ≤ p then 31 else bitsOf (s.readNat (s.regionAt d h + 16 * s.hdr d h 28 4 + 16 * p) 16) (5 * e) 5

/-- The loft groups that bytes [a, a + n) lie in (R99). -/
def groupsOf (a n : Nat) : List Nat := ((groupAccs 0 a n).filterMap fun x => match x.res with | .group g => some g | _ => none).eraseDups

/-- Do accesses of the pivot engine to these groups in cycles t to t + n − 1 meet their slots (R200)? The spec does not give the cycle of
each: true or false where every cycle agrees, open otherwise (log entry 34). -/
def State.pivOwned (s : State) (d c t n : Nat) (gs : List Nat) : Option Bool :=
  let own := fun g i => s.groupOwner d c (t + i) g == 16
  if gs.any (fun g => !(List.range n).any (own g)) then some false
  else if gs.all (fun g => (List.range n).all (own g)) then some true
  else none

/-- The same, an open answer drawn. -/
def State.pivSlots (s : State) (d c t n : Nat) (gs : List Nat) : Bool × State :=
  match s.pivOwned d c t n gs with
  | some b => (b, s)
  | none => (s.draw.1.toNat % 2 == 1, s.draw.2)

/-! ## Arithmetic (R201, R202) -/

/-- A dyadic number m × 2^e. -/
structure Dy where
  m : Int
  e : Int
  deriving DecidableEq, Repr

/-- The order of dyadic numbers. -/
def Dy.lt (a b : Dy) : Bool :=
  let e := min a.e b.e
  decide (a.m * 2 ^ (a.e - e).toNat < b.m * 2 ^ (b.e - e).toNat)

/-- |a|. -/
def Dy.abs (a : Dy) : Dy := ⟨a.m.natAbs, a.e⟩
/-- a × b. -/
def Dy.mul (a b : Dy) : Dy := ⟨a.m * b.m, a.e + b.e⟩

/-- rcp of a nonzero number (R202). -/
def Dy.rcp (p : Dy) : Dy :=
  let n := p.m.natAbs
  let l := Nat.log2 n
  let k : Nat := if n = 2 ^ l then 62 + l else 63 + l
  let q : Int := (2 ^ k / n : Nat)
  ⟨if p.m < 0 then -q else q, -(k + p.e)⟩

/-- rsq of a positive number (R202). -/
def Dy.rsq (p : Dy) : Dy :=
  let n := p.m.natAbs
  let l : Int := Nat.log2 n + p.e
  let u : Int := if n = 2 ^ Nat.log2 n ∧ l % 2 = 0 then 62 + l / 2 else 63 + l / 2
  let v : Nat := 2 ^ (2 * u - p.e).toNat / n
  ⟨(sqrtFrom v 62 0 : Nat), -u⟩

/-- What an entry computes with: the grid exponent E_in − 126, and its counts. -/
structure Piv where
  pert : Nat
  neg  : Nat
  sat  : Nat
  col  : Option Nat
  deriving DecidableEq, Repr

/-- rne_w (R201): the number of grid steps, saturated, and the saturations counted. -/
def rneW (g : Int) (v : Dy) : Int × Nat :=
  let q := roundNe v.m (g - v.e)
  let c := clampInt (-(2 ^ 199 - 1)) (2 ^ 199 - 1) q
  (c, if c = q then 0 else 1)

/-- A square array of working values or of results. -/
abbrev Mat := List (List Dy)
def Mat.at (a : Mat) (i j : Nat) : Dy := (a.getD i []).getD j ⟨0, 0⟩
/-- An array from a function. -/
def Mat.ofFn (r c : Nat) (f : Nat → Nat → Dy) : Mat := (List.range r).map fun i => (List.range c).map fun j => f i j
def Mat.transpose (n : Nat) (a : Mat) : Mat := Mat.ofFn n n fun i j => a.at j i

/-- The pivot of column j after the test against τ (R203, R204). -/
def Piv.test (v : Piv) (chol : Bool) (tau p : Dy) (col : Nat) : Dy × Piv :=
  let hit := { v with pert := v.pert + 1, col := if v.col.isSome then v.col else some col }
  if chol then (if p.lt tau then (tau, { hit with neg := v.neg + (if p.m < 0 then 1 else 0) }) else (p, v))
  else if p.abs.lt tau then (if p.m < 0 then ⟨-tau.m, tau.e⟩ else tau, hit) else (p, v)

/-- The state of DIAG between columns: the array, L, U, D, the counts. -/
structure Fact where
  a : Mat
  l : List ((Nat × Nat) × Dy)
  u : List ((Nat × Nat) × Dy)
  v : Piv

/-- An entry of a result listed so far, zero where none is. -/
def cellAt (l : List ((Nat × Nat) × Dy)) (i j : Nat) : Dy := ((l.find? fun e => e.1 == (i, j)).map (·.2)).getD ⟨0, 0⟩

/-- Column j of DIAG (R203): kind 0 Cholesky, 1 LDLᵀ, 2 LU; g is the grid exponent. -/
def Fact.column (f : Fact) (kind nb : Nat) (g : Int) (tau : Dy) (gcol j : Nat) : Fact :=
  let r := f.v.test (kind == 0) tau (f.a.at j j) (gcol + j)
  let p := r.1
  let below := (List.range nb).filter fun i => decide (j < i)
  let s := if kind = 0 then p.rsq else p.rcp
  let lc := below.map fun i => (i, rneW g ((f.a.at i j).mul s))
  let lAt := fun i => ((lc.find? fun e => e.1 == i).map fun e => (⟨e.2.1, g⟩ : Dy)).getD ⟨0, 0⟩
  let diag := rneW g (p.mul s)
  let other := fun k => if kind = 0 then lAt k else if kind = 1 then f.a.at k j else f.a.at j k
  let prod := fun i k => rneW g ((lAt i).mul (other k))
  let hit := fun i k => decide (j < i) && decide (j < k) && (kind == 2 || decide (k ≤ i))
  let a' := Mat.ofFn nb nb fun i k => if hit i k then ⟨(f.a.at i k).m - (prod i k).1, g⟩ else f.a.at i k
  let sats := ((List.range nb).map fun i => ((List.range nb).map fun k => if hit i k then (prod i k).2 else 0).sum).sum +
    (lc.map fun e => e.2.2).sum + (if kind = 0 then diag.2 else 0)
  { a := a', l := f.l ++ ((j, j), if kind = 0 then ⟨diag.1, g⟩ else ⟨1, 0⟩) :: lc.map fun e => ((e.1, j), ⟨e.2.1, g⟩),
    u := f.u ++ (if kind = 1 then [((0, j), p)] else if kind = 2 then
      ((j, j), p) :: (below.map fun k => ((j, k), f.a.at j k)) else []),
    v := { r.2 with sat := r.2.sat + sats } }

/-- DIAG (R203): L, the second output (D as a row, or U), the counts. -/
def pivDiag (kind nb : Nat) (g : Int) (tau : Dy) (gcol : Nat) (a : Mat) : Mat × Mat × Piv :=
  let f := (List.range nb).foldl (fun (f : Fact) j => f.column kind nb g tau gcol j) (⟨a, [], [], ⟨0, 0, 0, none⟩⟩ : Fact)
  (Mat.ofFn nb nb (cellAt f.l), Mat.ofFn (if kind = 1 then 1 else nb) nb (cellAt f.u), f.v)

/-- The diagonal element INV divides by (R206): +τ for zero. -/
def invDiag (tau t : Dy) : Dy := if t.m = 0 then tau else t

/-- Column k of the inverse of a lower triangle: elements k to nb − 1, with saturations (R206). -/
def invColumn (nb : Nat) (g : Int) (tau : Dy) (unit : Bool) (t : Mat) (k : Nat) : List (Nat × Dy) × Nat :=
  (List.range nb).foldl (fun (acc : List (Nat × Dy) × Nat) i =>
    if i < k then acc
    else if i = k then
      let d := rneW g (invDiag tau (t.at k k)).rcp
      if unit then (acc.1 ++ [(k, ⟨1, 0⟩)], acc.2) else (acc.1 ++ [(k, ⟨d.1, g⟩)], acc.2 + d.2)
    else
      let ps := acc.1.map fun e => rneW g ((t.at i e.1).mul e.2)
      let s := (ps.map (·.1)).sum
      let y := if unit then (s, 0) else rneW g ((⟨s, g⟩ : Dy).mul (invDiag tau (t.at i i)).rcp)
      (acc.1 ++ [(i, ⟨-y.1, g⟩)], acc.2 + (ps.map (·.2)).sum + y.2)) ([], 0)

/-- INV of a triangle (R206); an upper one as the transpose of a lower one. -/
def pivInv (nb : Nat) (g : Int) (tau : Dy) (upper unit : Bool) (gcol : Nat) (t : Mat) : Mat × Piv :=
  let lo := if upper then t.transpose nb else t
  let cols := (List.range nb).map fun k => invColumn nb g tau unit lo k
  let y := Mat.ofFn nb nb fun i k => (((cols.getD k ([], 0)).1.find? fun e => e.1 == i).map (·.2)).getD ⟨0, 0⟩
  let zeros := if unit then [] else (List.range nb).filter fun k => (lo.at k k).m == 0
  (if upper then y.transpose nb else y, ⟨zeros.length, 0, (cols.map (·.2)).sum, zeros.head?.map (gcol + ·)⟩)

/-- −floor(log2 of the largest magnitude), 0 for all zeros (R198). -/
def eqExp (l : List Dy) : Int :=
  let e := l.foldl (fun a x => min a x.e) ((l.head?.map (·.e)).getD 0)
  let m := maxAbs (l.map fun x => x.m * 2 ^ (x.e - e).toNat)
  if m = 0 then 0 else -(Nat.log2 m + e)

/-- EQB (R199): row exponents, column exponents, the scaled block. -/
def pivEqb (nb : Nat) (a : Mat) : List Int × List Int × Mat :=
  let rho := (List.range nb).map fun i => eqExp ((List.range nb).map fun j => a.at i j)
  let b := Mat.ofFn nb nb fun i j => ⟨(a.at i j).m, (a.at i j).e + rho.getD i 0⟩
  let gam := (List.range nb).map fun j => eqExp ((List.range nb).map fun i => b.at i j)
  (rho, gam, Mat.ofFn nb nb fun i j => ⟨(b.at i j).m, (b.at i j).e + gam.getD j 0⟩)

/-! ## Tiles in the loft -/

/-- A loft address given in 512-byte units (R211). -/
def loftUnit (n : Nat) : Nat := n * 512 % 0x1000000

/-- Element (i, j) of an nb × nb W64 tile at loft byte a as a working value on the grid 2^g, g = E_in − 126 (R201), and its poison. -/
def State.pivElem (s : State) (d c a nb : Nat) (g : Int) (i j : Nat) : Dy × Bool :=
  let base := loftBase d c + a
  let ha := base + headerByte .w64 nb i (j / 8)
  let ea := base + 128 + 8 * (i * nb + j)
  (⟨scale2 (sext 64 (s.readNat ea 8)) (63 - (s.mem.byte ha).toNat), g⟩, s.readBad ha 1 || s.readBad ea 8)

/-- The input tile, and whether any of it is poisoned (R207). -/
def State.pivTile (s : State) (d c a nb : Nat) (g : Int) : Mat × Bool :=
  (Mat.ofFn nb nb fun i j => (s.pivElem d c a nb g i j).1,
   (List.range nb).any fun i => (List.range nb).any fun j => (s.pivElem d c a nb g i j).2)

/-- Bytes of a tile of r rows of nb elements with its header. -/
def tileLen (r nb : Nat) : Nat := 128 + 8 * r * nb

/-- Block q of row i of an output tile: rounded once to W64 at exponent e (R50, R51, R54). -/
def pivBlock (row : List Dy) (e : Int) (q : Nat) : BlockOut :=
  let l := (row.drop (8 * q)).take 8
  let x := l.foldl (fun a v => min a v.e) ((l.head?.map (·.e)).getD 0)
  roundBlock 64 e x (fun _ => roundNe) (l.map fun v => v.m * 2 ^ (v.e - x).toNat)

/-- An output tile at loft byte a as loft writes, poisoned as a whole or clean, with its saturations and underflows. -/
def pivTileWrites (a nb : Nat) (t : Mat) (e : Int) (poison : Bool) : List (Nat × List Byte × Bool) × Nat × Nat :=
  let os := t.zipIdx.flatMap fun r => (List.range (ceilDiv nb 8)).map fun q => (r.2, q, pivBlock r.1 e q)
  (os.flatMap fun x => [(a + 128 + 8 * (x.1 * nb + 8 * x.2.1), packCodes 64 x.2.2.codes, poison),
     (a + headerByte .w64 nb x.1 x.2.1, [BitVec.ofNat 8 x.2.2.shift], false)],
   (os.map fun x => x.2.2.sat).sum, (os.map fun x => x.2.2.unf).sum)

/-- Loft writes are done. -/
def State.loftWrites (s : State) (d c : Nat) (l : List (Nat × List Byte × Bool)) : State :=
  l.foldl (fun t x => t.loftWrite d c x.1 x.2.1 x.2.2) s

/-! ## Schedule entries -/

/-- The fields of a schedule entry (R211). -/
structure PivEntry where
  op   : Nat
  kind : Nat
  nb   : Nat
  unit : Bool
  gcol : Nat
  inp  : Nat
  out1 : Nat
  out2 : Nat
  e1   : Int
  e2   : Int
  deriving DecidableEq, Repr

def pivEntryOf (b : List Byte) : PivEntry :=
  let n := fieldNat b 0 4
  { op := bitsOf n 0 8, kind := bitsOf n 8 2, nb := bitsOf n 10 5 + 1, unit := bitOf n 15, gcol := fieldNat b 4 4,
    inp := loftUnit (fieldNat b 8 2), out1 := loftUnit (fieldNat b 10 2), out2 := loftUnit (fieldNat b 12 2),
    e1 := sext 16 (fieldNat b 16 2), e2 := sext 16 (fieldNat b 18 2) }

/-- Op and kind are ones R211 lists. -/
def PivEntry.ok (e : PivEntry) : Bool := (e.op == 1 && decide (e.kind ≤ 2)) || (e.op == 2 && decide (e.kind ≤ 1)) || e.op == 3

/-- Cycles of an entry (R208). -/
def PivEntry.cycles (e : PivEntry) : Nat :=
  let n := e.nb
  match e.op with
  | 1 => 40 * n + ceilDiv ((if e.kind = 2 then n * (n - 1) * (2 * n - 1) / 6 else n * (n * n - 1) / 6) + n * (n - 1) / 2) 8 + 20
  | 2 => (if e.unit then 0 else 40 * n) + ceilDiv (n * (n * n - 1) / 6) 8 + 20
  | _ => ceilDiv (4 * n * n) 8 + 2 * n + 20

/-- The loft groups an entry's tiles lie in. -/
def PivEntry.groups (e : PivEntry) (a : Nat) : List Nat :=
  groupsOf a 32 ++ groupsOf e.inp (tileLen e.nb e.nb) ++ groupsOf e.out1 (tileLen e.nb e.nb) ++
    (if e.op = 1 ∧ e.kind ≠ 0 then groupsOf e.out2 (tileLen (if e.kind = 1 then 1 else e.nb) e.nb)
     else if e.op = 3 then groupsOf e.out2 (4 * e.nb) else [])

/-- What an entry with input exponent E_in leaves at its end (R203 to R207), from the input tile as it stands. -/
def State.pivResult (s : State) (d c : Nat) (e : PivEntry) (ein : Int) : PivOut :=
  let g := ein - 126
  let tau : Dy := ⟨(s.cluster d c).tauM, (s.cluster d c).tauE⟩
  let t := s.pivTile d c e.inp e.nb g
  match e.op with
  | 1 =>
    let r := pivDiag e.kind e.nb g tau e.gcol t.1
    let a := pivTileWrites e.out1 e.nb r.1 e.e1 t.2
    let b := if e.kind = 0 then ([], 0, 0) else pivTileWrites e.out2 e.nb r.2.1 e.e2 t.2
    ⟨a.1 ++ b.1, r.2.2.pert, r.2.2.neg, r.2.2.sat + a.2.1 + b.2.1, r.2.2.col, a.2.2 + b.2.2,
     (e.out1 / 512, some e.e1) :: if e.kind = 0 then [] else [(e.out2 / 512, some e.e2)]⟩
  | 2 =>
    let r := pivInv e.nb g tau (e.kind == 1) e.unit e.gcol t.1
    let a := pivTileWrites e.out1 e.nb r.1 e.e1 t.2
    ⟨a.1, r.2.pert, r.2.neg, r.2.sat + a.2.1, r.2.col, a.2.2, [(e.out1 / 512, none)]⟩
  | _ =>
    let r := pivEqb e.nb t.1
    let a := pivTileWrites e.out1 e.nb r.2.2 e.e1 t.2
    ⟨a.1 ++ [(e.out2, (r.1 ++ r.2.1).flatMap fun x => leBytes 2 (uns 16 x), t.2)], 0, 0, a.2.1, none, a.2.2,
     [(e.out1 / 512, none)]⟩

/-- The exponents that output tiles were rounded to are noted for a later INV (R206). -/
def State.pivExps (s : State) (d c : Nat) (l : List (Nat × Option Int)) : State :=
  s.setCluster d c { s.cluster d c with exps := l.foldl (fun t x => Tab.set none t x.1 x.2) (s.cluster d c).exps }

/-- What an entry leaves goes to the loft and to the counts (R223 to R225). -/
def State.pivEnd (s : State) (d c : Nat) (o : PivOut) : State :=
  let s0 := (s.loftWrites d c o.writes).pivExps d c o.exps
  let s1 := ((((s0.inc (CORE_PIV_CNT.pert d c) o.pert).inc (CORE_PIV_CNT.neg d c) o.neg).inc (CORE_PIV_CNT.sat d c) o.sat).inc
    (CORE_PIV_STEP.pert d c) o.pert).inc (CORE_PIV_STEP.sat d c) o.sat
  let s2 := match o.col with
    | some n => if s1.flag (CORE_PIV_FIRST.valid d c) then s1 else (s1.set (CORE_PIV_FIRST.col d c) n).set (CORE_PIV_FIRST.valid d c) 1
    | none => s1
  if o.unf = 0 then s2 else s2.countPen (s2.ctxPen d (s2.hOf d c)) ⟨0, o.unf, 0, 0, 0⟩

/-- The entry at loft byte a is fetched: it becomes CORE_PIV_STATUS.entry. -/
def State.pivFetch (s : State) (d c a n : Nat) : State × PivEntry :=
  ((s.loftRead d c a 32).set (CORE_PIV_STATUS.entry d c) n, pivEntryOf (s.read (loftBase d c + a) 32))

/-- E_in of an entry (R201): for an INV the exponent its triangle was rounded to (R206), else a free function of the entry at loft byte a and its
input tile (log entry 33). -/
def State.pivIn (s : State) (d c a : Nat) (e : PivEntry) : Int :=
  let base := loftBase d c
  match if e.op = 2 then Tab.get none (s.cluster d c).exps (e.inp / 512) else none with
  | some x => x
  | none => (Config.pivotExponent (s.read (base + a) 32) (s.read (base + e.inp) (tileLen e.nb e.nb))).toInt

/-- The entry at loft byte a, which may run, reads its tile and computes. What the entries before it in its RUN left, `before`, it reads already,
though nothing else sees it yet (R212). -/
def State.pivStart (s : State) (d c a : Nat) (e : PivEntry) (before : List PivOut) : State × PivOut :=
  let v := before.foldl (fun t o => (t.loftWrites d c o.writes).pivExps d c o.exps) s
  let s1 := s.loftRead d c e.inp (tileLen e.nb e.nb)
  (if (v.pivTile d c e.inp e.nb 0).2 then s1.set (CORE_PIV_STATUS.poison d c) 1 else s1, v.pivResult d c e (v.pivIn d c a e))

/-! ## The operations that take a few cycles -/

/-- The pivot engine is taken for n cycles. -/
def State.pivBusyFor (s : State) (d c n : Nat) : State :=
  (s.setCluster d c { s.cluster d c with pBusy := s.cycOf d c + n }).set (CORE_PIV_STATUS.busy d c) 1

/-- The pivot engine is busy (R139). -/
def State.pivBusy (s : State) (d c : Nat) : Bool := decide (s.cycOf d c < (s.cluster d c).pBusy) || (s.cluster d c).piv.isSome

/-- What a BEGIN leaves (R205, R212, R222 to R224, R228). -/
def State.pivBegun (s : State) (d c : Nat) (b : PivBegin) : State :=
  let h := s.hOf d c
  let s1 := (s.setCluster d c { s.cluster d c with tauM := b.tauM, tauE := b.tauE, start := none }).clearFlds
    [CORE_PIV_STATUS.slot_fault d c, CORE_PIV_STATUS.bad_entry d c, CORE_PIV_STATUS.poison d c, CORE_PIV_STATUS.entry d c,
     CORE_PIV_CNT.pert d c, CORE_PIV_CNT.neg d c, CORE_PIV_CNT.sat d c, CORE_PIV_FIRST.col d c, CORE_PIV_FIRST.valid d c]
  if b.dl then s1.clearFlds [SEQ_DL_POINT.point d h, SEQ_DL_POINT.expired d h, SEQ_DL_POINT.by_budget d h,
    SEQ_DL_POINT.by_wall d h, SEQ_DL_POINT.deadlines d h] else s1

/-- BEGIN reads the solve block; t is CORE_PIV_CFG.t as it stands then (R205). What it leaves is visible 12 cycles after its issue (R212). None
if its access missed its slot. -/
def State.pivBegin (s : State) (d c : Nat) (r : PivRud) : State × Option PivBegin :=
  let h := s.hOf d c
  let a := s.loftAddr d h 0 r.ag
  let o := s.pivSlots d c (s.cycOf d c) 12 (groupsOf a 16)
  if !o.1 then (o.2, none)
  else
    let m := o.2.readNat (loftBase d c + a) 8
    let e := sext 16 (o.2.readNat (loftBase d c + a + 8) 2)
    ((o.2.loftRead d c a 16).pivBusyFor d c 12,
     some ⟨s.cycOf d c + 12, if m = 0 then 1 else m, e - o.2.get (CORE_PIV_CFG.t d c), r.dl⟩)

/-- DPT (R213, R214), with the word it writes. -/
def State.pivDpt (s : State) (d c : Nat) (r : PivRud) : State × Option (List (Nat × List Byte × Bool)) :=
  let h := s.hOf d c
  let a := s.loftAddr d h 0 r.ag
  let o := s.pivSlots d c (s.cycOf d c) 7 (groupsOf a 8)
  let s1 := o.2.inc (SEQ_DL_POINT.point d h) 1
  let n := s1.get (SEQ_DL_POINT.point d h)
  let mode := s1.get (SEQ_DL_CTL.mode d h)
  let bud := bitOf mode 0 && decide (s1.get (SEQ_DL_CTL.budget d h) ≤ n)
  let wall := bitOf mode 1 && decide (s1.get (SEQ_DL_TIME.time d h) ≤ s1.get CD_TIME.ns)
  let s2 := if bud then s1.set (SEQ_DL_POINT.by_budget d h) 1 else s1
  let s3 := if wall then s2.set (SEQ_DL_POINT.by_wall d h) 1 else s2
  let s4 := if bud || wall then (s3.set (SEQ_DL_POINT.expired d h) 1).inc (SEQ_DL_POINT.deadlines d h) 1 else s3
  if o.1 then
    (s4.pivBusyFor d c 1, some [(a, leBytes 8 ((bud || wall).toNat + 2 * bud.toNat + 4 * wall.toNat + 2 ^ 32 * n), false)])
  else (o.2, none)

/-- CNT (R212): CORE_PIV_CNT and CORE_PIV_FIRST, to be written. -/
def State.pivCnt (s : State) (d c : Nat) (r : PivRud) : State × Option (List (Nat × List Byte × Bool)) :=
  let a := s.loftAddr d (s.hOf d c) 0 r.ag
  let o := s.pivSlots d c (s.cycOf d c) 5 (groupsOf a 16)
  if o.1 then
    (o.2.pivBusyFor d c 2,
     some [(a, leBytes 8 (s.csrWord (CORE_PIV_CNT.pert d c).addr) ++ leBytes 8 (s.csrWord (CORE_PIV_FIRST.col d c).addr), false)])
  else (o.2, none)

/-- DPT or CNT, by code (R212). -/
def State.pivShort (s : State) (d c op : Nat) (r : PivRud) : State × Option (List (Nat × List Byte × Bool)) :=
  if op = 3 then s.pivDpt d c r else s.pivCnt d c r

end Sys2Proof.Machine
end

