-- ==== Sys2Proof/Machine/Jobs.lean ====
section
/-!
DEFINITION. Jobs.lean: the engine operations that beats start, cycle by cycle: what each reads in a cycle and what becomes visible at the
beginning of one (R70, R72, R73, R76, R77, R82, R86, R87, R102, R134, R137, R212, R536, R539). A cycle x goes: everything read in x, then
everything visible from x + 1 on.
-/

namespace Sys2Proof.Machine

/-! ## Starting -/

/-- The cycle by which accesses are over. -/
def accsEnd (t : Nat) (l : List Access) : Nat := l.foldl (fun n a => max n (a.cyc + 1)) (t + 1)

/-- An operation issued in cycle t joins those in flight; nothing of it is left in cycle `stop`. -/
def State.startJob (s : State) (d c k t stop : Nat) (w : Work) : State :=
  s.setCore d c k { s.core d c k with jobs := (s.core d c k).jobs ++ [⟨t, stop, w⟩] }

/-- One with these accesses. -/
def State.startWith (s : State) (d c k t : Nat) (l : List Access) (w : Work) : State :=
  (s.book d c k l).startJob d c k t (accsEnd t l) w

/-- The format tag of a slot changes as an operation issues (R75). -/
def State.tagSlot (s : State) (d c k code : Nat) (tag : Option Fmt) : State := s.setSlot d c k code { s.slotAt d c k code with tag := tag }

/-- The matrix engine is taken until cycle t. -/
def State.matUntil (s : State) (d c k t : Nat) (chunk : Bool) : State :=
  s.setCore d c k { s.core d c k with mBusy := t, mChunk := chunk }

/-- The header that was read ahead for the chunk of tiles a and b that issues in cycle t (R70); none if its reads began for no such chunk. -/
def Core.header (r : Core) (a b t : Nat) : List (Byte × Bool) × List (Byte × Bool) :=
  match r.ahead with
  | some x => if x.a = a ∧ x.b = b ∧ x.next = t then (x.hdrA, x.hdrB) else ([], [])
  | none => ([], [])

/-- The core begins, in cycle t0, to read the header of the chunk that will issue in cycle `next` (R70, R536). -/
def State.readAhead (s : State) (d c k a b t0 next : Nat) : State :=
  let s1 := s.book d c k ((List.range 16).flatMap fun i => bankAccs (t0 + i) (a + 8 * i) 8 ++ bankAccs (t0 + i) (b + 8 * i) 8)
  s1.setCore d c k { s1.core d c k with ahead := some ⟨a, b, t0, next, [], []⟩ }

/-- Header word x − t0 of both tiles is read ahead in cycle x. -/
def State.aheadCycle (s : State) (d c k x : Nat) : State :=
  match (s.core d c k).ahead with
  | none => s
  | some w =>
    if w.t0 ≤ x ∧ x < w.t0 + 16 then
      let i := 8 * (x - w.t0)
      let base := stallBase d c k
      let s1 := (s.stallRead d c k (w.a + i) 8).stallRead d c k (w.b + i) 8
      s1.setCore d c k { s1.core d c k with
        ahead := some { w with hdrA := w.hdrA ++ s.bytesBad (base + w.a + i) 8, hdrB := w.hdrB ++ s.bytesBad (base + w.b + i) 8 } }
    else s

/-- CHUNK and CHUNKC (R68, R71). -/
def State.chunkStart (s : State) (d c k code : Nat) (r : MatRud) (clear : Bool) : State :=
  let h := s.hOf d c
  let t := s.cycOf d c
  let fa := matFmt r.fmta
  let fb := matFmt r.fmtb
  let a := s.stallAddr d h k r.agA
  let b := s.stallAddr d h k r.agB
  let cont := (s.core d c k).continues t
  let t0 := if cont then t else t + 16
  let hd := (s.core d c k).header a b t
  let s1 := s.setCore d c k { s.core d c k with ahead := none }
  ((s1.tagSlot d c k code (some (wideOf r).acc)).matUntil d c k (t0 + (wideOf r).chunkCycles) true).startWith d c k t
    (chunkAccs fa fb a b (slotOf code) t0 cont) (.chunk ⟨fa, fb, a, b, code, clear, t0, cont, hd.1, hd.2, []⟩)

/-- A matrix operation (R126). -/
def State.matStart (s : State) (d c k mop code : Nat) (r : MatRud) : State :=
  let t := s.cycOf d c
  let a := s.stallAddr d (s.hOf d c) k r.agA
  match mop with
  | 1 => s.chunkStart d c k code r false
  | 2 => s.chunkStart d c k code r true
  | 3 =>
    let f := (s.slotAt d c k code).tag.getD .a48
    (s.matUntil d c k (t + f.tileBytes / 64) false).startWith d c k t (streamAccs bankAccs t a f.tileBytes 64) (.accst a code f)
  | 4 =>
    let f := (s.slotAt d c k code).tag.getD (wideOf r).acc
    ((s.tagSlot d c k code (some f)).matUntil d c k (t + ceilDiv f.tileBytes 256) false).startWith d c k t
      (streamAccs bankAccs t a f.tileBytes 256 ++ (List.range (ceilDiv f.tileBytes 256)).map fun i => ⟨t + i, .accPort (slotOf code)⟩)
      (.accadd a code f [])
  | _ => (s.matUntil d c k (t + 1) false).startJob d c k t (t + 1) (.accclr code)

/-- The converter is taken until cycle t. -/
def State.convUntil (s : State) (d c k t : Nat) : State := s.setCore d c k { s.core d c k with cBusy := t }

/-- An element of which only the place and the cycle are known yet. -/
def placeElem (i j cyc : Nat) : ConvElem := ⟨i, j, 0, 0, false, Channel.identity, cyc⟩

/-- A CONV whose source is a slot. -/
def State.convStart (s : State) (d c k : Nat) (r : ConvRud) : State :=
  let m := s.convJob d c k r
  let t := s.cycOf d c
  let rate := s.convSlotRate m
  let n := r.rows * r.cols
  let es := (List.range n).map fun x => placeElem (x / r.cols) (x % r.cols) (t + x / rate)
  ((s.descRead d c r).convUntil d c k (t + ceilDiv n rate)).startWith d c k t (m.accs (m.blocks es)) (.conv ⟨m, rate, []⟩)

/-- CHLD (R136). -/
def State.chldStart (s : State) (d c k : Nat) (r : ConvRud) : State :=
  let h := s.hOf d c
  let t := s.cycOf d c
  let tab := s.stallAddr d h k r.agC
  let col0 := s.idx d h k r.col
  (s.convUntil d c k (t + ceilDiv r.cols 4)).startWith d c k t (chldAccs r tab col0 t) (.chld r tab col0)

/-- A vector operation, with the conversion it feeds. -/
def State.vecStart (s : State) (d c k op : Nat) (r : VecRud) (cv : Option ConvRud) : State :=
  let m := s.vecJob d c k op r cv
  let g := m.groups
  let last := (g.1.getLast?.map (·.res)).getD m.t
  let l := m.readAccs g.1 ++ m.writeAccs g.1 ++ [⟨last, .fin⟩]
  let s1 := s.setCore d c k { s.core d c k with vBusy := g.2 }
  let w := fun x => Work.vec ⟨m, g.1, [], [], [], [], x⟩
  match if r.dest = 3 then cv else none with
  | some q =>
    let j := s1.convJob d c k q
    let es := g.1.flatMap fun y => ((m.spots y).filter fun x => decide (x.2.2.1 < q.rows) && decide (x.2.2.2 < q.cols)).map fun x =>
      placeElem x.2.2.1 x.2.2.2 (m.takenAt y.res x.2.2.2)
    ((s1.descRead d c q).convUntil d c k (lastTaken last es + 1)).startWith d c k m.t (l ++ j.accs (j.blocks es)) (w (some ⟨j, 0, []⟩))
  | none => s1.startWith d c k m.t l (w none)

/-- LD, ST or LDT of one core (R137, R539). -/
def State.moveStart (s : State) (d c k lop : Nat) (r : MoveRud) : State :=
  let h := s.hOf d c
  let t := s.cycOf d c
  let la := s.loftAddr d h k r.agL
  let sa := s.stallAddr d h k r.agS
  let s1 := s.moveUntil d c k (t + ceilDiv r.len 64)
  let ld := s1.startWith d c k t (streamAccs groupAccs t la r.len 64 ++ streamAccs bankAccs (t + 1) sa r.len 64)
    (.ld la r.len [(k, sa)] [])
  match lop with
  | 1 => ld
  | 2 => s1.startWith d c k t (streamAccs bankAccs t sa r.len 64 ++ streamAccs groupAccs (t + 1) la r.len 64) (.st la sa r.len [])
  | _ =>
    match if r.efmt = 15 then none else Fmt.ofCode r.efmt with
    | none => ld
    | some f =>
      let rb := r.rowlen * f.bits / 8
      let rows := r.len / rb
      let plan := ldtPlan (ldtRows f) rb rows 0 rows 0
      let fin := match plan.getLast? with | some g => g.2.2.2.1 + g.2.2.2.2 | none => 1
      (s.moveUntil d c k (t + fin)).startWith d c k t (streamAccs groupAccs t la (rows * rb) 64 ++
        plan.flatMap fun g => streamAccs bankAccs (t + g.2.2.2.1) (sa + g.2.2.1) (g.2.1 * rb) 64) (.ldt ⟨f, la, sa, rb, rows, r.rowlen, []⟩)

/-- BCAST (R137, R539): the lowest core of the set reads, every core of it receives. -/
def State.bcastStart (s : State) (d c : Nat) (r : MoveRud) : State :=
  match bcastCores r with
  | [] => s
  | k0 :: _ =>
    let h := s.hOf d c
    let t := s.cycOf d c
    let la := s.loftAddr d h k0 r.agL
    let dst := (bcastCores r).map fun k => (k, s.stallAddr d h k r.agS)
    let s1 := dst.foldl (fun u x => (u.moveUntil d c x.1 (t + ceilDiv r.len 64)).book d c x.1 (streamAccs bankAccs (t + 1) x.2 r.len 64)) s
    (s1.book d c k0 (streamAccs groupAccs t la r.len 64)).startJob d c k0 t (t + ceilDiv r.len 64 + 1) (.ld la r.len dst [])

/-! ## Chunks -/

/-- The 64 bytes at most that an operand port reads in cycle `p` of a step whose bytes are [x.1, x.1 + x.2). -/
def portPiece (x : Nat × Nat) (p : Nat) : Nat × Nat := (x.1 + 64 * p, min 64 (x.2 - 64 * p))

/-- Does stall byte o of a tile at a (counted after the header) lie in a piece? -/
def inPiece (a o : Nat) (x : Nat × Nat) : Bool := decide (x.1 ≤ a + 128 + o) && decide (a + 128 + o < x.1 + x.2)

/-- A byte of the header as it was read. -/
def hdrGot (l : List (Byte × Bool)) (i : Nat) : Byte × Bool := l.getD i (0, false)

/-- The header words a chunk reads in cycle x (R70, R536): word c in cycle c of the preload. A chunk that continues a run has its header from the
read-ahead; where that could not be foreseen it takes the header as it stands in its first cycle (log entry 9). -/
def ChunkWork.hdrWords (w : ChunkWork) (x : Nat) : List Nat :=
  if w.cont then (if x = w.t0 ∧ w.hdrA = [] then List.range 16 else [])
  else if w.t0 ≤ x + 16 ∧ x < w.t0 then [x + 16 - w.t0] else []

/-- A chunk reads in cycle x. -/
def State.chunkCycle (s : State) (d c k x : Nat) (w : ChunkWork) : State × ChunkWork :=
  let base := stallBase d c k
  let hw := w.hdrWords x
  let s1 := hw.foldl (fun u i => (u.stallRead d c k (w.a + 8 * i) 8).stallRead d c k (w.b + 8 * i) 8) s
  let w1 := { w with hdrA := w.hdrA ++ hw.flatMap fun i => s.bytesBad (base + w.a + 8 * i) 8,
                     hdrB := w.hdrB ++ hw.flatMap fun i => s.bytesBad (base + w.b + 8 * i) 8 }
  let wide := w.fa.wider w.fb
  let per := wide.stepCycles
  if x < w.t0 ∨ w.t0 + wide.chunkCycles ≤ x then (s1, w1)
  else
    let q := (x - w.t0) / per
    let p := (x - w.t0) % per
    let e := wide.tile.1
    let pa := portPiece (stepA w.fa w.fb w.a q) p
    let pb := portPiece (stepB w.fa w.fb w.b q) p
    let opsA := fun n => ((List.range e).filter fun i => inPiece w.a (aOffset w.fa e i n).1 pa).map fun i =>
      s.operandBy (base + w.a) w.fa (aOffset w.fa e i n) (hdrGot w1.hdrA (tileHeader w.fa i n wide.tile.2))
    let opsB := fun n => ((List.range e).filter fun j => inPiece w.b (bOffset w.fb e n j).1 pb).map fun j =>
      s.operandBy (base + w.b) w.fb (bOffset w.fb e n j) (hdrGot w1.hdrB (tileHeader w.fb n j e))
    let ks := if p = 0 then w1.ks ++ (wide.stepKs q).map fun n => ⟨n, w.t0 + q * per + per - 1 + wide.depth, opsA n, opsB n⟩
      else w1.ks.map fun t => if t.k = q then { t with a := t.a ++ opsA q, b := t.b ++ opsB q } else t
    ((s1.stallRead d c k pa.1 pa.2).stallRead d c k pb.1 pb.2, { w1 with ks := ks })

/-- The terms of one k: slot key, value, poison (R36, R68, R102). -/
def KTerm.terms (t : KTerm) (g : Nat) (key : Nat → Nat → Nat) : List (Nat × Int × Bool) :=
  t.a.zipIdx.flatMap fun x => t.b.zipIdx.map fun y => (key x.2 y.2, chunkTerm g x.1 y.1, x.1.2.2 || y.1.2.2)

/-- An element of accumulator width n that a term joins: added, or stored with the saturation flag cleared (R71). -/
def AccElem.take (e : AccElem) (n : Nat) (store : Bool) (v : Int) (bad : Bool) : AccElem :=
  if store then ⟨heldAcc n v, false, bad, false⟩ else ⟨heldAcc n (e.val + v), e.sat, e.poison || bad, e.parity⟩

/-- An element in front of a table that lists none equal to zero. -/
def accCons (k : Nat) (e : AccElem) (t : Tab AccElem) : Tab AccElem := if e = AccElem.zero then t else (k, e) :: t

/-- Terms in rising order of their keys join a slot's elements of accumulator width w; the first argument after it bounds the steps. -/
def addTerms (w : Nat) (store : Bool) : Nat → Tab AccElem → List (Nat × Int × Bool) → Tab AccElem
  | 0, t, _ => t
  | _ + 1, t, [] => t
  | n + 1, [], x :: l => accCons x.1 (AccElem.zero.take w store x.2.1 x.2.2) (addTerms w store n [] l)
  | n + 1, e :: t, x :: l =>
    if e.1 < x.1 then e :: addTerms w store n t (x :: l)
    else if e.1 = x.1 then accCons x.1 (e.2.take w store x.2.1 x.2.2) (addTerms w store n t l)
    else accCons x.1 (AccElem.zero.take w store x.2.1 x.2.2) (addTerms w store n (e :: t) l)

/-- The terms of the k's t join a slot; those of the first k of a chunk that clears are stored. -/
def Slot.land (sl : Slot) (w : ChunkWork) (t : KTerm) (store : Bool) : Slot :=
  let wide := w.fa.wider w.fb
  let l := t.terms wide.guard (accKey wide.acc (halfOf w.code))
  { sl with elems := addTerms wide.acc.accW store (l.length + sl.elems.length + 1) sl.elems l }

/-- The k's of a chunk that are visible from cycle y on join its slot (R70, R73). -/
def State.chunkLand (s : State) (d c k y : Nat) (w : ChunkWork) : State × ChunkWork :=
  let due := w.ks.filter fun t => t.vis == y
  if due.isEmpty then (s, w)
  else
    let s0 := if w.clear && due.any (fun t => t.k == 0) then s else s.accTileParity d c k w.code (w.fa.wider w.fb).acc
    let sl := due.foldl (fun u t => u.land w t (w.clear && t.k == 0)) (s0.slotAt d c k w.code)
    (s0.setSlot d c k w.code sl, { w with ks := w.ks.filter fun t => t.vis != y })

/-! ## Accumulator moves -/

/-- The containers that an accumulator move of `per` bytes per cycle takes in cycle x. -/
def accPart (f : Fmt) (t per x : Nat) : List Nat :=
  let n := per / (f.bits / 8)
  ((List.range n).map (· + n * (x - t))).filter fun i => decide (i < f.accEdge * f.accEdge)

/-- ACCST writes in cycle x. -/
def State.accstCycle (s : State) (d c k t x a code : Nat) (f : Fmt) : State :=
  (accPart f t 64 x).foldl (fun u i => u.accOut d c k code a f i) s

/-- ACCADD reads in cycle x: what it adds from the next cycle on. -/
def State.accaddCycle (s : State) (d c k t x a code : Nat) (f : Fmt) : State × List (Nat × Int × Bool) :=
  let l := accPart f t 256 x
  let n := f.bits / 8
  (match l.head? with | some i => s.stallRead d c k (a + i * n) (l.length * n) | none => s, l.map (s.accIn d c k code a f))

/-! ## Conversions -/

/-- Elements that the converter accepts join its work. -/
def State.convAccept (s : State) (w : ConvWork) (es : List ConvElem) : State × ConvWork :=
  (s.poisonSeen w.m.d w.m.c w.m.k (es.any (·.poison)), { w with got := w.got ++ es })

/-- A conversion accepts from its slot in cycle x. -/
def State.convCycle (s : State) (t x : Nat) (w : ConvWork) : State × ConvWork :=
  let n := w.m.r.rows * w.m.r.cols
  let r := s.convTakes w.m t w.rate (min n ((x - t) * w.rate)) (min n ((x - t + 1) * w.rate))
  r.1.convAccept w r.2

/-- The blocks whose last element was accepted 14 cycles before cycle y − 1 are written then (R77, R536): visible from y on. -/
def State.convLand (s : State) (y : Nat) (w : ConvWork) : State × ConvWork :=
  if w.got.all fun e => e.cyc + 15 != y then (s, w)
  else
    let due := (w.m.blocks w.got).filter fun b => (b.2.2.foldl (fun n e => max n e.cyc) 0) + 15 == y
    let s1 := due.foldl (fun t b =>
      if w.m.desc.format.block then t.convBlock w.m b.1 b.2.1 b.2.2 else b.2.2.foldl (fun t e => t.convAcc w.m e) t) s
    let l := w.m.desc.format.len
    (s1, { w with got := w.got.filter fun e => !(due.any fun b => b.1 == e.i && b.2.1 == e.j / l) })

/-- CHLD fills four cache entries in cycle x. -/
def State.chldCycle (s : State) (d c k t x : Nat) (r : ConvRud) (tab : Nat) (col0 : Int) : State :=
  (((List.range 4).map (· + 4 * (x - t))).filter fun j => decide (j < r.cols)).foldl (fun u j => u.chldTake d c k (chldAt r tab col0 j) j) s

/-! ## Vector operations -/

/-- The stall words a group reads, in their order (R536): header words first, each source in turn. -/
def VJob.hdrWords (m : VJob) (g : VGroup) : List Nat :=
  (m.srcs.filter VSrc.inStall).flatMap fun x => wordsOf (x.hdrSpan g.i g.j g.n).1 (x.hdrSpan g.i g.j g.n).2
def VSrc.elemWords (x : VSrc) (g : VGroup) : List Nat :=
  if x.inStall then wordsOf (x.span g.i g.j g.n).1 (x.span g.i g.j g.n).2 else []

/-- The last cycle of a group's interval. -/
def VJob.readEnd (m : VJob) (g : VGroup) : Nat := g.res - (vecTime m.op m.wide).2

/-- The cycle in which a group reads column j of a source whose words follow `before` others: 64 words per cycle (R536). -/
def VJob.readCycle (m : VJob) (g : VGroup) (x : VSrc) (before j : Nat) : Nat :=
  if x.inStall then
    let last := (x.elemAddr (x.row g.i) (x.col j) + (x.bits + 7) / 8 - 1) / 8
    min (m.readEnd g) (g.t + (before + (last - (x.span g.i g.j g.n).1 / 8)) / 64)
  else g.t

/-- A group reads in cycle x. -/
def State.vecRead (s : State) (x : Nat) (m : VJob) (r : VRec) : State × VRec :=
  let g := r.g
  let two := vecBinary m.op && !vecPro m.op
  let wa := m.a.elemWords g
  let wb := if two then m.b.elemWords g else []
  let wc := match m.cond with | some q => q.elemWords g | none => []
  let here := fun (l : List Nat) => (l.zipIdx.filter fun w => min (m.readEnd g) (g.t + w.2 / 64) == x).map (·.1)
  let ws := (if x = g.t then m.hdrWords g else []) ++ here (wa ++ wb ++ wc)
  let s1 := ws.foldl (fun u w => u.stallCount m.d m.c m.k (8 * w)) s
  (if x = g.t then s1.slotReads m m.srcs g.i g.j g.n else s1, r.read m s (fun j => m.readCycle g m.a 0 j == x) (fun j => m.readCycle g m.b wa.length j == x)
    (fun j => match m.cond with | some q => m.readCycle g q (wa.length + wb.length) j == x | none => false))

/-- The rows whose prologue words are read in cycle x (R134, R536). -/
def VJob.proRows (m : VJob) (x : Nat) : List Nat :=
  if m.op = 0x3A then ((List.range 4).map (· + 4 * (x - m.t))).filter fun i => decide (i < m.r.m)
  else if m.op = 0x3D ∧ x - m.t < m.r.m then [x - m.t] else []

/-- A vector operation reads in cycle x: its prologue, and the group whose interval the cycle lies in. -/
def State.vecCycle (s : State) (x : Nat) (w : VecWork) : State × VecWork :=
  let m := w.m
  let rows := m.proRows x
  let s1 := if m.b.inStall then rows.foldl (fun t i => t.stallRead m.d m.c m.k (m.b.span i 0 (if m.op = 0x3D then 2 else 1)).1
    (m.b.span i 0 (if m.op = 0x3D then 2 else 1)).2) s else rows.foldl (fun t i => t.slotProReads m i) s
  let w1 := { w with pro := w.pro ++ rows.map (s.vecProRow m) }
  match w.todo with
  | [] => (s1, w1)
  | g :: rest =>
    if x < g.t then (s1, w1)
    else
      let r0 := (w1.recs.find? fun r => r.g == g).getD (s.vecBegin m g)
      let o := s1.vecRead x m r0
      (o.1, { w1 with recs := (w1.recs.filter fun r => r.g != g) ++ [o.2], todo := if m.readEnd g ≤ x then rest else w1.todo })

/-- Does the operation still need what group r has read after the results of group g? -/
def VJob.keeps (m : VJob) (g : VGroup) (r : VRec) : Bool :=
  if vecColRed m.op then !m.arrayEnd g
  else if vecRowRed m.op || m.op == 0x39 || m.op == 0x3C then r.g.i != g.i || !m.rowEnd g
  else r.g != g

/-- The results of a group go where the destination says: to be written from the cycle they are produced in, 64 words per cycle, to the lane
register, or to the converter (R86, R536). -/
def State.vecDeliver (s : State) (y : Nat) (w : VecWork) (l : List VRes) : State × VecWork :=
  let m := w.m
  if m.r.dest ≤ 1 then
    let cyc := l.foldl (fun (a : List (Nat × VRes) × Nat) x =>
      let n := a.2 + (wordsOf x.addr x.size).length
      (a.1 ++ [(y + (n - 1) / 64, x)], n)) ([], 0)
    (s, { w with wr := w.wr ++ cyc.1 })
  else if m.r.dest = 2 then (l.foldl (fun t x => t.vecLane m x) s, w)
  else match w.conv with
    | some v =>
      let r := s.convAccept v (s.convElems m v.m.r l)
      (r.1, { w with conv := some r.2 })
    | none => (s, w)

/-- The results of group r, produced in cycle y (R82): delivered, with their flags; the last latch the summary (R87). -/
def State.vecResult (s : State) (y : Nat) (w : VecWork) (r : VRec) : State × VecWork :=
  let m := w.m
  let o := m.outAt w.recs w.pro r
  let x := (s.vecFlags m o).vecDeliver y w o.res
  let outs := if m.r.skind = 15 then [] else w.outs ++ o.res.map fun v => (m.held v, v.poison)
  (if m.arrayEnd r.g then x.1.vecLatch m outs y else x.1, { x.2 with outs := outs, recs := w.recs.filter (m.keeps r.g) })

/-- What of a vector operation is visible from cycle y on: stall words written in the cycle before, the results of the group whose result
cycle it is, converted blocks. -/
def State.vecLand (s : State) (y : Nat) (w : VecWork) : State × VecWork :=
  let due := w.wr.filter fun x => x.1 + 1 == y
  let s1 := due.foldl (fun t x => t.vecStore w.m x.2) s
  let w1 := { w with wr := w.wr.filter fun x => x.1 + 1 != y }
  let r1 := match w1.recs.find? fun r => r.g.res == y with
    | some r => s1.vecResult y w1 r
    | none => (s1, w1)
  match r1.2.conv with
  | some v =>
    let r2 := r1.1.convLand y v
    (r2.1, { r1.2 with conv := some r2.2 })
  | none => r1

/-! ## Moves -/

/-- The 64 bytes at most that a move of n bytes issued in cycle t reads in cycle x: offset and length. -/
def movePart (t n x : Nat) : Nat × Nat := (64 * (x - t), min 64 (n - 64 * (x - t)))

/-- The words of a part, their offsets counted from the move's first byte. -/
def State.partWords (s : State) (a : Nat) (p : Nat × Nat) : List MoveWord :=
  (s.moveWords (a + p.1) p.2).map fun w => { w with off := w.off + p.1 }

/-- A move reads in cycle x what it writes in the next. -/
def State.ldCycle (s : State) (d c t x la n : Nat) (got : List (Nat × List MoveWord)) : State × List (Nat × List MoveWord) :=
  let p := movePart t n x
  if p.2 = 0 then (s, got) else (s.loftRead d c (la + p.1) p.2, got ++ [(x + 1, s.partWords (loftBase d c + la) p)])
def State.stCycle (s : State) (d c k t x sa n : Nat) (got : List (Nat × List MoveWord)) : State × List (Nat × List MoveWord) :=
  let p := movePart t n x
  if p.2 = 0 then (s, got) else (s.stallRead d c k (sa + p.1) p.2, got ++ [(x + 1, s.partWords (stallBase d c k + sa) p)])

/-- Words written in cycle y − 1 are visible from y on. -/
def wordsDue (y : Nat) (got : List (Nat × List MoveWord)) : List MoveWord := (got.filter fun x => x.1 + 1 == y).flatMap (·.2)
def wordsLeft (y : Nat) (got : List (Nat × List MoveWord)) : List (Nat × List MoveWord) := got.filter fun x => x.1 + 1 != y

/-- They go to the stalls of the receiving cores. -/
def State.ldLand (s : State) (d c : Nat) (dst : List (Nat × Nat)) (l : List MoveWord) : State :=
  if l.isEmpty then s else dst.foldl (fun t x => (t.wordsToStall d c x.1 x.2 l).poisonSeen d c x.1 (l.any (·.poison))) s

/-- A transposing move reads in cycle x. -/
def State.ldtCycle (s : State) (d c t x : Nat) (w : LdtWork) : State × LdtWork :=
  let p := movePart t (w.rows * w.rb) x
  if p.2 = 0 then (s, w)
  else (s.loftRead d c (w.la + p.1) p.2, { w with raw := w.raw ++ s.bytesBad (loftBase d c + w.la + p.1) p.2 })

/-- The words of a transposed group that are written in cycle v of its writes (R539). -/
def LdtWork.words (w : LdtWork) (g : Nat × Nat × Nat × Nat × Nat) (v : Nat) : List MoveWord :=
  let l := ldtBytes w.f ((w.raw.drop (g.1 * w.rb)).take (g.2.1 * w.rb)) w.rb g.2.1 w.rowlen
  packWords 9 (64 * v) ((l.drop (64 * v)).take 64)

/-- A transposing move's words written in cycle y − 1 are visible from y on. -/
def State.ldtLand (s : State) (d c k t y : Nat) (w : LdtWork) : State :=
  (ldtPlan (ldtRows w.f) w.rb w.rows 0 w.rows 0).foldl (fun u g =>
    let first := t + g.2.2.2.1
    if first < y ∧ y ≤ first + g.2.2.2.2 then
      let l := w.words g (y - 1 - first)
      (u.wordsToStall d c k (w.sa + g.2.2.1) l).poisonSeen d c k (l.any (·.poison))
    else u) s

/-! ## A cycle -/

/-- What an operation issued in cycle t reads in cycle x. -/
def State.workCycle (s : State) (d c k t x : Nat) : Work → State × Work
  | .chunk w => let r := s.chunkCycle d c k x w; (r.1, .chunk r.2)
  | .accst a code f => (s.accstCycle d c k t x a code f, .accst a code f)
  | .accadd a code f _ => let r := s.accaddCycle d c k t x a code f; (r.1, .accadd a code f r.2)
  | .accclr code => (s, .accclr code)
  | .vec w => let r := s.vecCycle x w; (r.1, .vec r.2)
  | .conv w => let r := s.convCycle t x w; (r.1, .conv r.2)
  | .chld r tab col0 => (s.chldCycle d c k t x r tab col0, .chld r tab col0)
  | .ld la n dst got => let r := s.ldCycle d c t x la n got; (r.1, .ld la n dst r.2)
  | .st la sa n got => let r := s.stCycle d c k t x sa n got; (r.1, .st la sa n r.2)
  | .ldt w => let r := s.ldtCycle d c t x w; (r.1, .ldt r.2)

/-- What of it is visible from cycle y on. The spec gives an ACCADD's sum and an ACCCLR's clearing no latency: they are visible from the cycle after
the containers are read, and after the issue (DESIGN CHOICE, log entry 96). -/
def State.workLand (s : State) (d c k t y : Nat) : Work → State × Work
  | .chunk w => let r := s.chunkLand d c k y w; (r.1, .chunk r.2)
  | .accst a code f => (s, .accst a code f)
  | .accadd a code f got =>
    let s1 := if got.isEmpty then s else s.accTileParity d c k code f
    (s1.setSlot d c k code (got.foldl Slot.addIn (s1.slotAt d c k code)), .accadd a code f [])
  | .accclr code => (s.setSlot d c k code Slot.clear, .accclr code)
  | .vec w => let r := s.vecLand y w; (r.1, .vec r.2)
  | .conv w => let r := s.convLand y w; (r.1, .conv r.2)
  | .chld r tab col0 => (s, .chld r tab col0)
  | .ld la n dst got => (s.ldLand d c dst (wordsDue y got), .ld la n dst (wordsLeft y got))
  | .st la sa n got => (s.wordsToLoft d c la (wordsDue y got), .st la sa n (wordsLeft y got))
  | .ldt w => (s.ldtLand d c k t y w, .ldt w)

/-- Every operation of a core goes through `f`; those that are over leave. -/
def State.eachJob (s : State) (d c k : Nat) (f : State → Job → State × Work) (left : Job → Bool) : State :=
  let r := (s.core d c k).jobs.foldl (fun (a : State × List Job) j =>
    let o := f a.1 j
    (o.1, a.2 ++ [{ j with work := o.2 }])) (s, [])
  r.1.setCore d c k { r.1.core d c k with jobs := r.2.filter left }

def State.coreCycle (s : State) (d c k x : Nat) : State := (s.aheadCycle d c k x).eachJob d c k (fun u j => u.workCycle d c k j.t x j.work) fun _ => true
def State.coreLand (s : State) (d c k y : Nat) : State :=
  s.eachJob d c k (fun u j => u.workLand d c k j.t y j.work) fun j => decide (y < j.stop)

/-- What the entries of a RUN left becomes visible (R212). -/
def State.pivOuts (s : State) (d c : Nat) (l : List PivOut) : State := l.foldl (fun t o => t.pivEnd d c o) s

/-- The pivot engine in cycle x (R200, R211, R212): the next entry of its RUN begins. An entry that R211 does not list, or an access that
misses its slot, ends the RUN, whose entries before it stand, and is a fault of the cycle: its code. -/
def State.pivCycle (s : State) (d c x : Nat) : State × Option Nat :=
  match (s.cluster d c).piv with
  | none => (s, none)
  | some w =>
    if w.run.isSome || x != w.t then (s, none)
    else
      let at_ := (w.a + 32 * w.n) % 0x1000000
      let f := s.pivFetch d c at_ w.n
      let stop := fun (u : State) => (u.pivOuts d c w.outs).setCluster d c { u.cluster d c with piv := none }
      if !f.2.ok then (stop (f.1.set (CORE_PIV_STATUS.bad_entry d c) 1), some 0x30)
      else
        let o := f.1.pivSlots d c x f.2.cycles (f.2.groups at_)
        if !o.1 then (stop (o.2.set (CORE_PIV_STATUS.slot_fault d c) 1), some 0x21)
        else
          let r := o.2.pivStart d c at_ f.2 w.outs
          let e := x + f.2.cycles
          (r.1.setCluster d c { r.1.cluster d c with piv := some { w with n := w.n + 1, left := w.left - 1, t := e, run := some r.2 }, pBusy := e },
           none)

/-- The loft writes of the pivot engine that are visible from cycle y on, what a BEGIN leaves, and the end of the entry that runs: with the last of
a RUN all its entries left becomes visible (R212). -/
def State.pivLand (s : State) (d c y : Nat) : State :=
  let cl := s.cluster d c
  let s1 := if cl.lands.all fun x => x.1 != y then s
    else (s.loftWrites d c ((cl.lands.filter fun x => x.1 == y).map (·.2))).setCluster d c { cl with lands := cl.lands.filter fun x => x.1 != y }
  let s2 := match cl.start with
    | some b => if b.vis = y then s1.pivBegun d c b else s1
    | none => s1
  match cl.piv with
  | some w =>
    match w.run with
    | some o =>
      if w.t ≠ y then s2
      else if w.left = 0 then
        let s3 := s2.pivOuts d c (w.outs ++ [o])
        s3.setCluster d c { s3.cluster d c with piv := none }
      else s2.setCluster d c { s2.cluster d c with piv := some { w with run := none, outs := w.outs ++ [o] } }
    | none => s2
  | none => s2

/-- The cores of a context that have operations in flight, and its clusters whose pivot engine has. -/
def State.busyCores (s : State) (d h : Nat) : List (Nat × Nat) :=
  s.cores.filterMap fun e =>
    let c := e.1 / 16 % 8
    if e.1 / 128 == d && s.hOf d c == h && !e.2.jobs.isEmpty then some (c, e.1 % 16) else none
def State.busyPivs (s : State) (d h : Nat) : List Nat :=
  s.clusters.filterMap fun e =>
    let c := e.1 % 8
    if e.1 / 8 == d && s.hOf d c == h && (e.2.piv.isSome || e.2.start.isSome || !e.2.lands.isEmpty) then some c else none

/-- Cadence cycle x of a context's engines: the reads of x, then what is visible from x + 1 on; and the fault of a pivot engine, with its
cluster. -/
def State.enginesCycle (s : State) (d h x : Nat) : State × Option (Nat × Nat) :=
  let ps := s.busyPivs d h
  let r := ps.foldl (fun (a : State × Option (Nat × Nat)) c =>
    let o := a.1.pivCycle d c x
    (o.1, match a.2 with | some f => some f | none => o.2.map fun code => (code, c)))
    ((s.busyCores d h).foldl (fun u e => u.coreCycle d e.1 e.2 x) s, none)
  (ps.foldl (fun u c => u.pivLand d c (x + 1)) ((r.1.busyCores d h).foldl (fun u e => u.coreLand d e.1 e.2 (x + 1)) r.1), r.2)

/-- At most n cadence cycles from x on, as long as anything is in flight and no pivot engine faults: the state, the cycle reached, the fault. -/
def State.enginesRun (s : State) (d h : Nat) : Nat → Nat → State × Nat × Option (Nat × Nat)
  | 0, x => (s, x, none)
  | n + 1, x =>
    if (s.busyCores d h).isEmpty && (s.busyPivs d h).isEmpty then (s, x, none)
    else
      let r := s.enginesCycle d h x
      match r.2 with
      | some f => (r.1, x, some f)
      | none => r.1.enginesRun d h n (x + 1)

/-- More cycles than any operations in flight take. -/
def engineBound : Nat := 2 ^ 40

/-- Operations in flight complete (R140), whatever a pivot engine meets: the first argument bounds the faults. -/
def State.enginesFinish (s : State) (d h : Nat) : Nat → Nat → State
  | 0, _ => s
  | n + 1, x =>
    let r := s.enginesRun d h engineBound x
    match r.2.2 with
    | some _ => r.1.enginesFinish d h n (r.2.1 + 1)
    | none => r.1

end Sys2Proof.Machine
end

