-- ==== Sys2Proof/Machine/Exchange.lean ====
section
/-!
DEFINITION. Exchange.lean: the exchange converter's operations (R229 to R235, R241): NARROW, WIDEN, IMPORT, EXPORT, run as one step
on the command that YARD_CMD_START took up and found good.
-/

namespace Sys2Proof.Machine

/-- The exchange converter of yard y runs a command with this op whose elements are still to be done. -/
def State.xchRun (s : State) (y op : Nat) : Option Run :=
  match (s.engine y false).run with
  | some r => if cmdOp r.cmd = op ∧ r.finished = false then some r else none
  | none => none

/-- The clip of a command, if its flag is set (R234). -/
def cmdClip (c : List Byte) (bit : Nat) : Option (Int × Int × Nat) :=
  if bitOf (cmdFlags c) bit then some (cmdLo c, cmdHi c, cmdEc c) else none

/-- One destination block of NARROW or WIDEN: sources at alignment x (R232), the channel's stages, the old field value where it is added
(R233), stages 4 and 5. -/
def YardWork.exchangeBlock (a : YardWork) (x : Option (Nat × Nat)) (src dst : Desc) (xx : Int) (tab n : Nat)
    (clip : Option (Int × Int × Nat)) (add : Bool) (i q : Nat) : YardWork :=
  let s := a.st
  let len := dst.format.len
  let js := (List.range len).map (· + q * len)
  let vals := js.map fun j =>
    let m := s.elemAt src i j
    let ch := s.channelAt tab n dst i j
    let v := stage123 ch (cmdEb a.run.cmd) clip (scale2 m.1 (m.2 - xx))
    let f := s.elemAt dst i j
    ch.toCommon (if add then v + scale2 f.1 (f.2 - (xx - ch.s)) else v)
  let bad := js.any (fun j => s.blockBad src i (j / src.format.len)) || (add && s.blockBad dst i q)
  a.finishBlock x dst i q (xx - 63) vals bad

/-- NARROW: D0 to D1 through stages 1 to 5 with channel table N (R230). -/
def State.narrow (s : State) (y : Nat) (r : Run) : YardWork :=
  let c := r.cmd
  let d0 := s.descAt (cmdD0 c)
  let d1 := s.descAt (cmdD1 c)
  let v := s.runVia y false r
  let s1 := s.readRows v y d0 (cmdRow0 c) (cmdRows c) false
  overBlocks (cmdRow0 c) (cmdRows c) (d1.cols / d1.format.len) (fun a i q =>
    a.exchangeBlock (s.digestCtx r.w v.pen) d0 d1 (cmdXn c) (cmdTabN c) (cmdChnN c) (cmdClip c 1) false i q) (YardWork.start s1 r)

/-- WIDEN: D2 to D0 with channel table W, added to the old field value unless subst is set (R230, R233). -/
def State.widen (s : State) (y : Nat) (r : Run) : YardWork :=
  let c := r.cmd
  let d0 := s.descAt (cmdD0 c)
  let d2 := s.descAt (cmdD2 c)
  let add := !bitOf (cmdFlags c) 0
  let v := s.runVia y false r
  let s0 := s.readRows v y d2 (cmdRow0 c) (cmdRows c) false
  let s1 := if add then s0.readRows v y d0 (cmdRow0 c) (cmdRows c) false else s0
  overBlocks (cmdRow0 c) (cmdRows c) (d0.cols / d0.format.len) (fun a i q =>
    a.exchangeBlock (s.digestCtx r.w v.pen) d2 d0 (cmdXw c) (cmdTabW c) (cmdChnW c) (cmdClip c 2) add i q) (YardWork.start s1 r)

/-- The IEEE element (i, j) of a buffer at a local address: its bits, and whether it was read poisoned (R238, R537). -/
def State.ieeeAt (s : State) (buf row0 : Nat) (f : Ieee) (d : Desc) (i j : Nat) : Nat × Bool :=
  let n := f.bits / 8
  let a := buf + ((i - row0) * d.cols + j) * n
  (s.readNat a n, s.readBad a n)

/-- Stands for the running command where a unit outside the yards converts (R469). -/
def Run.outside : Run :=
  { w := 8, cmd := [], status := 0, detail := 0, finished := false, rows := 0, sat := 0, unf := 0, nan := none, poisoned := false, errRow := 0 }

/-- What an import knows while it runs: its output, codes saturated and so on, and the first NaN that stopped it. The rows in `out` count the
rows begun. -/
structure Import where
  out : YardWork
  cnt : Counts
  nan : Option Nat

/-- One destination block (for an A format, one container) of an import (R57, R58, R59, R537). -/
def Import.block (m : Import) (buf row0 : Nat) (f : Ieee) (d : Desc) (x : Option (Nat × Nat)) (i q : Nat) : Import :=
  if m.nan.isSome then m
  else
    let s := m.out.st
    let len := d.format.len
    let js := (List.range len).map (· + q * len)
    let raw := js.map fun j => s.ieeeAt buf row0 f d i j
    let bad := raw.any (·.2)
    let src := raw.map fun e => if e.2 then Src.fin 0 else f.value e.1
    match (if d.nanFault then (src.zip js).find? (fun e => e.1 == .nan) else none) with
    | some e => { m with nan := some (d.global i e.2) }
    | none =>
      if d.format.block then
        let o := importBlock d.format.bits d.exp f.lsb src
        { m with out := m.out.block x d i q o.2.1 o.1 bad, cnt := m.cnt.add o.2.2 }
      else
        let o := importA d.format.accW d.exp f.lsb (src.getD 0 (.fin 0))
        { m with out := m.out.container x d i q o.1 bad, cnt := m.cnt.add o.2 }

/-- Import rows row0 to row0 + rows − 1 from a buffer (R57 to R59), for a running command. -/
def State.importRows (s : State) (r : Run) (buf row0 rows : Nat) (f : Ieee) (d : Desc) (x : Option (Nat × Nat)) : Import :=
  (List.range rows).foldl (fun m i =>
    let m1 := (List.range (d.cols / d.format.len)).foldl (fun m q => m.block buf row0 f d x (row0 + i) q) m
    if m1.nan.isSome then m1 else { m1 with out := { m1.out with run := { m1.out.run with rows := m1.out.run.rows + 1 } } })
    ⟨YardWork.start s r, Counts.zero, none⟩

/-- IMPORT (R230, R241). -/
def State.importCmd (s : State) (y : Nat) (r : Run) : YardWork :=
  let c := r.cmd
  let d := s.descAt (cmdD0 c)
  let v := s.runVia y false r
  let buf := localOf (cmdD2 c)
  let s1 := s.yardRead v y (buf - stackBase y) (s.ieeeBytes c) false
  let m := s1.importRows r buf (cmdRow0 c) (cmdRows c) (cmdIeee c) d (s.digestCtx r.w v.pen)
  { m.out with
    st := m.out.st.countPen v.pen { m.cnt with sat := 0, unf := 0 },
    run := { m.out.run with sat := m.cnt.sat, unf := m.cnt.unf, nan := m.nan, status := if m.nan.isSome then 8 else 0 } }

/-- The exported encoding of element (i, j), and what is counted (R60, R61). -/
def State.exportElem (s : State) (f : Ieee) (d : Desc) (i j : Nat) : Nat × Counts :=
  if s.blockBad d i (j / d.format.len) then (f.poison, Counts.zero)
  else
    let m := s.elemAt d i j
    let v := if d.format.block then m.1 else visible d.format.accW m.1
    let e := f.encode v m.2
    (e.1, ⟨if v = m.1 then 0 else 1, 0, 0, 0, e.2.toNat⟩)

/-- Row i exported into a buffer (R60). -/
def State.exportRow (s : State) (buf row0 : Nat) (f : Ieee) (d : Desc) (i : Nat) : Piece × Counts :=
  let es := (List.range d.cols).map fun j => s.exportElem f d i j
  let n := f.bits / 8
  ((buf + (i - row0) * d.cols * n, es.flatMap fun e => leBytes n e.1, false), es.foldl (fun a e => a.add e.2) Counts.zero)

/-- Rows row0 to row0 + rows − 1 exported into a buffer. -/
def State.exportRows (s : State) (buf row0 rows : Nat) (f : Ieee) (d : Desc) : List Piece × Counts :=
  let l := (List.range rows).map fun i => s.exportRow buf row0 f d (row0 + i)
  (l.map (·.1), l.foldl (fun a e => a.add e.2) Counts.zero)

/-- EXPORT (R230). -/
def State.exportCmd (s : State) (y : Nat) (r : Run) : YardWork :=
  let c := r.cmd
  let d := s.descAt (cmdD0 c)
  let v := s.runVia y false r
  let s1 := s.readRows v y d (cmdRow0 c) (cmdRows c) false
  let e := s1.exportRows (localOf (cmdD2 c)) (cmdRow0 c) (cmdRows c) (cmdIeee c) d
  { YardWork.start (s1.countPen v.pen { e.2 with sat := 0, unf := 0 }) { r with sat := e.2.sat, rows := cmdRows c } with plane := e.1 }

/-- What the running exchange command does (R230). -/
def State.xchWork (s : State) (y : Nat) (r : Run) : YardWork :=
  match cmdOp r.cmd with
  | 1 => s.narrow y r
  | 2 => s.widen y r
  | 4 => s.importCmd y r
  | _ => s.exportCmd y r

/-! ## The rows -/

/-- A row that does the work of the running exchange command, if there is one with its op. -/
def State.xchStep (s : State) (y op : Nat) (f : State → Run → YardWork) : Host.Outcome State Fault Refusal :=
  s.yardStep fun t =>
    match t.xchRun y op with
    | some r => .next ((f t r).done (t.runVia y false r) y false false .write)
    | none => t.notDue

/-- NARROW (R230 to R235). -/
def execNarrow (y : Fin 8) (s : State) : Host.Outcome State Fault Refusal := s.xchStep y.val 1 fun t r => t.narrow y.val r

/-- WIDEN (R230 to R235). -/
def execWiden (y : Fin 8) (s : State) : Host.Outcome State Fault Refusal := s.xchStep y.val 2 fun t r => t.widen y.val r

/-- IMPORT (R57 to R59, R230, R241). -/
def execImp (y : Fin 8) (s : State) : Host.Outcome State Fault Refusal := s.xchStep y.val 4 fun t r => t.importCmd y.val r

/-- EXPORT (R60, R61, R230). -/
def execExp (y : Fin 8) (s : State) : Host.Outcome State Fault Refusal := s.xchStep y.val 5 fun t r => t.exportCmd y.val r

end Sys2Proof.Machine
end

