-- ==== Sys2Proof/Machine/YardEngines.lean ====
section
/-!
DEFINITION. YardEngines.lean: the engine block's operations (R279 to R287, R198, R199), its checks (R285), and the yard atomics
(R292 to R295). Arrays that a command names by address (row pointers, indices, exponents) are indexed from the command's first row;
tensors by their own rows and columns (log entry 17).
-/

namespace Sys2Proof.Machine

/-! ## Atomics (R292) -/

/-- The new word of an atomic. -/
def atomNew (kind : Nat) (old v cmp : U64) : U64 :=
  match kind with
  | 0 => old + v
  | 1 => if v.slt old then v else old
  | 2 => if old.slt v then v else old
  | 3 => old &&& v
  | 4 => old ||| v
  | 5 => old ^^^ v
  | 8 => old + v
  | 9 => v
  | 10 => if old = cmp then v else old
  | 11 => if v.slt old then v else old
  | 12 => if old.slt v then v else old
  | _ => old

/-- Does the kind return the old word? -/
def atomReturns (kind : Nat) : Bool := decide (8 ≤ kind)

/-- An atomic on the aligned 64-bit word at offset o of stack y, one access at the yard cache (R289, R294, R295): the old word and its
poison. A poisoned word stays poisoned. -/
def State.atomic (s : State) (u : Via) (y o kind : Nat) (v cmp : U64) : State × U64 × Bool :=
  let a := stackBase y + o
  let old := BitVec.ofNat 64 (s.readNat a 8)
  let bad := s.readBad a 8
  let s2 := s.yardStore u y o [(leBytes 8 (atomNew kind old v cmp).toNat, false)] true .update
  let n := (s2.yard y).atomics + 1
  let s3 := (s2.setYard y { s2.yard y with atomics := n }).set (YRD_CACHE_CNT.atomics y) (min (n / 1024) 65535)
  (s3, old, bad)

/-- Is [o, o + 8) an aligned word inside the stack, in no shed page (R411)? -/
def State.atomOk (s : State) (y o : Nat) : Bool := o % 8 == 0 && decide (o + 8 ≤ s.stackSize y) && !s.inShed y o

/-- Behind an atomic that names no source: the control die's port (log entry 109). -/
def atomVia : Via := { pen := none, port := .control, cls := 2, who := 0 }

/-- An atomic command: the reply is the old word for a returning kind. -/
def State.atomCmd (s : State) (y : Fin 8) (off : BitVec 37) (kind : Nat) (v cmp : U64) : Host.Outcome State Fault Refusal :=
  s.yardStep fun t =>
    if t.atomOk y.val off.toNat then
      let r := t.atomic atomVia y.val off.toNat kind v cmp
      .next (r.1.answer (if atomReturns kind then .data (leBytes 8 r.2.1.toNat) (if r.2.2 then [0] else []) else .accepted))
    else .next (t.answer .accessFault)

def execAtomAdd (y : Fin 8) (off : BitVec 37) (v : U64) (s : State) : Host.Outcome State Fault Refusal :=
  s.atomCmd y off 0 v 0
def execAtomMin (y : Fin 8) (off : BitVec 37) (v : U64) (s : State) : Host.Outcome State Fault Refusal :=
  s.atomCmd y off 1 v 0
def execAtomMax (y : Fin 8) (off : BitVec 37) (v : U64) (s : State) : Host.Outcome State Fault Refusal :=
  s.atomCmd y off 2 v 0
def execAtomAnd (y : Fin 8) (off : BitVec 37) (v : U64) (s : State) : Host.Outcome State Fault Refusal :=
  s.atomCmd y off 3 v 0
def execAtomOr (y : Fin 8) (off : BitVec 37) (v : U64) (s : State) : Host.Outcome State Fault Refusal :=
  s.atomCmd y off 4 v 0
def execAtomXor (y : Fin 8) (off : BitVec 37) (v : U64) (s : State) : Host.Outcome State Fault Refusal :=
  s.atomCmd y off 5 v 0
def execFadd (y : Fin 8) (off : BitVec 37) (v : U64) (s : State) : Host.Outcome State Fault Refusal :=
  s.atomCmd y off 8 v 0
def execSwap (y : Fin 8) (off : BitVec 37) (v : U64) (s : State) : Host.Outcome State Fault Refusal :=
  s.atomCmd y off 9 v 0
def execCas (y : Fin 8) (off : BitVec 37) (v : U64) (cmp : U64) (s : State) : Host.Outcome State Fault Refusal :=
  s.atomCmd y off 10 v cmp
def execFmin (y : Fin 8) (off : BitVec 37) (v : U64) (s : State) : Host.Outcome State Fault Refusal :=
  s.atomCmd y off 11 v 0
def execFmax (y : Fin 8) (off : BitVec 37) (v : U64) (s : State) : Host.Outcome State Fault Refusal :=
  s.atomCmd y off 12 v 0

/-! ## Checks of an engine command (R285) -/

/-- The addresses of a REDUCE command's source descriptors. -/
def State.reduceSrcs (s : State) (c : List Byte) : List Nat :=
  (List.range (cmdNsrc c)).map fun i => s.readNat (localOf (cmdAux1 c) + 8 * i) 8

/-- The descriptors an engine command names (R280, R281). -/
def State.engDescs (s : State) (c : List Byte) : List Nat :=
  let op := cmdOp c
  if op = 0x10 ∨ op = 0x11 then [cmdD0 c, cmdD1 c, cmdD2 c]
  else if op = 0x12 ∨ op = 0x14 then [cmdD0 c, cmdD1 c]
  else if op = 0x13 then cmdD0 c :: s.reduceSrcs c
  else if op = 0x19 then []
  else [cmdD1 c]

/-- The ranges of the arrays an engine command names (R281, R293), and its completion record. -/
def State.engRanges (s : State) (c : List Byte) : List (Nat × Nat) :=
  let op := cmdOp c
  let rows := cmdRows c
  let sparse := [(cmdAux0 c, 8 * (rows + 1)), (cmdAux1 c, 4 * (s.descAt (cmdD1 c)).cols)]
  let chan := [(cmdTabN c, 16 * cmdChnN c)]
  (if op = 0x10 ∨ op = 0x11 then chan ++ sparse
   else if op = 0x12 then [(cmdAux0 c, 4 * rows)]
   else if op = 0x13 then [(cmdAux1 c, 8 * cmdNsrc c)]
   else if op = 0x14 then chan
   else if op = 0x15 then sparse ++ [(cmdD2 c, 2 * rows)]
   else if op = 0x16 ∨ op = 0x17 then sparse ++ [(cmdD2 c, 2 * cmdNcols c)]
   else if op = 0x18 then [(cmdAux1 c, 16)]
   else (cmdAux0 c, 16 * rows) :: (if atomReturns (cmdKind c) then [(cmdAux1 c, 8 * rows)] else [])) ++ [(cmdRec c, 32)]

/-- XC_FMT for an engine command: a format that does not fit its role in R281 to R284. -/
def State.engBadFmt (s : State) (c : List Byte) : Bool :=
  let op := cmdOp c
  let d0 := s.descAt (cmdD0 c)
  let d1 := s.descAt (cmdD1 c)
  if op = 0x10 ∨ op = 0x11 then d1.fmt != 4 || (s.descAt (cmdD2 c)).fmt != 4
  else if op = 0x12 then d0.fmt != d1.fmt
  else if op = 0x13 then d0.format.block
  else if op = 0x15 ∨ op = 0x16 ∨ op = 0x17 then d1.fmt != 4
  else false

/-- XC_SHAPE for an engine command: shapes that differ where they must agree, or a row range that passes the shard. The results of SPMV
and RESID are a 1 × n tensor, one element a matrix row (log entry 18). -/
def State.engBadShape (s : State) (c : List Byte) : Bool :=
  let op := cmdOp c
  let d0 := s.descAt (cmdD0 c)
  let d1 := s.descAt (cmdD1 c)
  let d2 := s.descAt (cmdD2 c)
  let last := cmdRow0 c + cmdRows c
  if op = 0x10 ∨ op = 0x11 then
    d1.rows != 1 || d2.rows != 1 || d2.cols != cmdNcols c || d0.rows != 1 || decide (d0.cols < last)
  else if op = 0x12 then d0.cols != d1.cols || decide (d0.rows < last)
  else if op = 0x13 then (s.reduceSrcs c).any (fun g => !d0.sameShape (s.descAt g)) || decide (d0.rows < last)
  else if op = 0x14 then !d0.sameShape d1 || decide (d0.rows < last)
  else if op = 0x18 then decide (d1.rows < last)
  else if op = 0x19 then false
  else d1.rows != 1

/-- The alignment X of an SPMV or RESID row sum: P − 32 (R283, R34). -/
def State.spmvX (s : State) (c : List Byte) : Int :=
  (s.descAt (cmdD1 c)).exp - 63 + ((s.descAt (cmdD2 c)).exp - 63) - 32

/-- XC_ALIGN for an engine command: R232's bound for each block-format source that enters at an alignment. -/
def State.engBadAlign (s : State) (c : List Byte) : Bool :=
  let op := cmdOp c
  let far := fun (d : Desc) (x : Int) => d.format.block && decide (190 < d.exp - x)
  if op = 0x11 then far (s.descAt (cmdD0 c)) (s.spmvX c)
  else if op = 0x13 then (s.reduceSrcs c).any fun g => far (s.descAt g) (s.descAt (cmdD0 c)).exp
  else if op = 0x14 then far (s.descAt (cmdD1 c)) (cmdXn c)
  else false

/-- The status and detail of the checks of an engine command of pen p (R240, R285). -/
def State.engCheck (s : State) (p : Option Nat) (y : Nat) (c : List Byte) : Nat × Nat :=
  let op := cmdOp c
  if engBadOp c then (1, 0)
  else if op = 0x13 ∧ s.inStack p y (cmdAux1 c) (8 * cmdNsrc c) = false then (5, 0)
  else
    let ds := s.engDescs c
    let d0 := s.descAt (cmdD0 c)
    let others := (ds.drop 1).map s.descAt
    if ds.any (fun g => !s.inStack p y g 64) then (5, 0)
    else if s.firstDescFault ds ≠ 0 then (2, s.firstDescFault ds)
    else if s.engBadFmt c then (3, 0)
    else if s.engBadShape c then (4, 0)
    else if (ds.flatMap (fun g => (s.descAt g).planes) ++ s.engRanges c).any (fun r => !s.inStack p y r.1 r.2) then (5, 0)
    else if s.engBadAlign c then (6, 0)
    else if others.any (fun d => d.planes.any fun r => d0.planes.any (overlap r)) then (7, 0)
    else if ds.any (fun g => s.readUe (localOf g) 64) ||
        ((op == 0x10 || op == 0x11 || op == 0x14) && s.readUe (localOf (cmdTabN c)) (16 * cmdChnN c)) then (9, 0)
    else (0, 0)

/-! ## Sparse matrices -/

/-- The j-th row pointer of the command. -/
def State.rowPtr (s : State) (c : List Byte) (j : Nat) : Nat := s.readNat (localOf (cmdAux0 c) + 8 * j) 8

/-- Row pointers j and j + 1 keep R282's rule. -/
def State.rowPtrOk (s : State) (c : List Byte) (j : Nat) : Bool :=
  let a := s.rowPtr c j
  let b := s.rowPtr c (j + 1)
  a % 8 == 0 && b % 8 == 0 && decide (a ≤ b) && decide (b ≤ (s.descAt (cmdD1 c)).cols)

/-- The column index of value n. -/
def State.colIdx (s : State) (c : List Byte) (n : Nat) : Nat := s.readNat (localOf (cmdAux1 c) + 4 * n) 4

/-- The value numbers of the command's row j. -/
def State.rowVals (s : State) (c : List Byte) (j : Nat) : List Nat :=
  (List.range (s.rowPtr c (j + 1) - s.rowPtr c j)).map (· + s.rowPtr c j)

/-- What stops the command at row j: YE_ROWPTR, YE_INDEX, or nothing (0) (R285). -/
def State.rowFault (s : State) (c : List Byte) (j : Nat) : Nat :=
  if !s.rowPtrOk c j then 0x0B
  else if (s.rowVals c j).any (fun n => decide (cmdNcols c ≤ s.colIdx c n)) then 0x0A
  else 0

/-- The same for an operation that reads no column index (EQROW). -/
def State.ptrFault (s : State) (c : List Byte) (j : Nat) : Nat := if s.rowPtrOk c j then 0 else 0x0B

/-- The first row of the command that stops it, with the status. -/
def firstStop (rows : Nat) (f : Nat → Nat) : Option (Nat × Nat) :=
  (List.range rows).findSome? fun j => if f j = 0 then none else some (j, f j)

/-- The command's status, error row and number of rows to do, after looking for the row that stops it. -/
def Run.stopAt (r : Run) (stop : Option (Nat × Nat)) : Run × Nat :=
  match stop with
  | none => (r, cmdRows r.cmd)
  | some (j, st) => ({ r with status := st, errRow := cmdRow0 r.cmd + j }, j)

/-- The yard reads the row pointers and the column indices of the command (R269). -/
def State.readSparse (s : State) (v : Via) (y : Nat) (c : List Byte) : State :=
  (s.yardRead v y (localOf (cmdAux0 c) - stackBase y) (8 * (cmdRows c + 1)) false).yardRead v y (localOf (cmdAux1 c) - stackBase y)
    (4 * (s.descAt (cmdD1 c)).cols) false

/-- The exact row sum of row j in A192 and its poison (R283, R286): the terms of R36 with g = 32. -/
def State.rowSum (s : State) (c : List Byte) (j : Nat) : Int × Bool :=
  let d1 := s.descAt (cmdD1 c)
  let d2 := s.descAt (cmdD2 c)
  let x := s.spmvX c
  (s.rowVals c j).foldl (fun a n =>
    let k := s.colIdx c n
    let u := s.elemAt d1 0 n
    let v := s.elemAt d2 0 k
    (a.1 + scale2 (u.1 * v.1) (u.2 + v.2 - x), a.2 || s.blockBad d1 0 (n / 8) || s.blockBad d2 0 (k / 8))) (0, false)

/-- The stage-3 value of matrix row row0 + j for SPMV or RESID, its channel, its poison. -/
def State.rowValue (s : State) (c : List Byte) (resid : Bool) (j : Nat) : Int × Channel × Bool :=
  let d0 := s.descAt (cmdD0 c)
  let x := s.spmvX c
  let i := cmdRow0 c + j
  let r := s.rowSum c j
  let b := s.elemAt d0 0 i
  let a := if resid then scale2 b.1 (b.2 - x) - r.1 else r.1
  let ch := s.channelAt (cmdTabN c) (cmdChnN c) d0 0 i
  (stage123 ch (cmdEb c) (cmdClip c 1) a, ch, r.2 || (resid && s.blockBad d0 0 (i / d0.format.len)))

/-- Does element i of the destination row lie in the rows the command writes: the first n of its rows? -/
def spmvMine (c : List Byte) (n i : Nat) : Bool := decide (cmdRow0 c ≤ i) && decide (i < cmdRow0 c + n)

/-- Block q of the destination of SPMV or RESID, of whose rows the first n are done: an element outside them keeps its old value, entering the
block exactly (log entry 111). -/
def State.spmvBlock (s : State) (x : Option (Nat × Nat)) (resid : Bool) (n : Nat) (a : YardWork) (q : Nat) : YardWork :=
  let c := a.run.cmd
  let d0 := s.descAt (cmdD0 c)
  let js := (List.range d0.format.len).map (· + q * d0.format.len)
  let vs := js.map fun i =>
    if spmvMine c n i then
      let v := s.rowValue c resid (i - cmdRow0 c)
      (v.2.1.toCommon v.1, s.spmvX c - 63, v.2.2)
    else
      let e := s.elemAt d0 0 i
      (e.1, e.2, s.blockBad d0 0 q)
  let low := vs.foldl (fun z v => min z v.2.1) (s.spmvX c - 63)
  let o := roundBlock d0.format.bits d0.exp low (fun _ => roundNe) (vs.map fun v => v.1 * 2 ^ (v.2.1 - low).toNat)
  (a.blockPart x d0 0 q o.codes o.shift (vs.any (·.2.2)) (spmvMine c n)).count o.sat o.unf

/-- SPMV and RESID (R281, R283): the rows before the one that stops the command. The yard reads what the result keeps of the destination, and x
through the cache (R289). -/
def State.spmvCmd (s : State) (y : Nat) (r : Run) (resid : Bool) : YardWork :=
  let c := r.cmd
  let v := s.runVia y true r
  let x := s.digestCtx r.w v.pen
  let d0 := s.descAt (cmdD0 c)
  let d1 := s.descAt (cmdD1 c)
  let d2 := s.descAt (cmdD2 c)
  let st := r.stopAt (firstStop (cmdRows c) (s.rowFault c))
  let n := st.2
  let len := d0.format.len
  let first := cmdRow0 c / len
  let qs := if n = 0 then [] else (List.range ((cmdRow0 c + n - 1) / len - first + 1)).map (· + first)
  let s1 := ((s.readSparse v y c).readRows v y d1 0 1 false).readRows v y d2 0 1 true
  let kept := qs.filter fun q => resid || (List.range len).any fun e => !spmvMine c n (q * len + e)
  let s2 := kept.foldl (fun (t : State) q =>
    let u := t.yardRead v y (d0.blockAddr 0 q - stackBase y) d0.blockBytes false
    if d0.format.block then u.yardRead v y (d0.shiftAddr 0 q - stackBase y) 1 false else u) s1
  let out := qs.foldl (fun (a : YardWork) q =>
    if d0.format.block then s.spmvBlock x resid n a q
    else
      let w := s.rowValue c resid (q - cmdRow0 c)
      a.finishAcc x d0 0 q w.1 w.2.2) (YardWork.start s2 st.1)
  { out with run := { out.run with rows := n } }

/-- GATHER (R281): rows copied by index, codes and shifts. -/
def State.gatherCmd (s : State) (y : Nat) (r : Run) : YardWork :=
  let c := r.cmd
  let v := s.runVia y true r
  let x := s.digestCtx r.w v.pen
  let d0 := s.descAt (cmdD0 c)
  let d1 := s.descAt (cmdD1 c)
  let idx := fun j => s.readNat (localOf (cmdAux0 c) + 4 * j) 4
  let st := r.stopAt (firstStop (cmdRows c) fun j => if d1.rows ≤ idx j then 0x0A else 0)
  let s1 := s.yardRead v y (localOf (cmdAux0 c) - stackBase y) (4 * cmdRows c) false
  let out := (List.range st.2).foldl (fun (a : YardWork) j =>
    let i := cmdRow0 c + j
    let src := idx j
    (List.range (d0.cols / d0.format.len)).foldl (fun (a : YardWork) q =>
      let bad := s.blockBad d1 src q
      if d0.format.block then
        a.block x d0 i q ((List.range d0.format.len).map fun e => (s.elemAt d1 src (q * d0.format.len + e)).1)
          (s.mem.byte (s.loc (d1.shiftAddr src q))).toNat bad
      else
        a.container x d0 i q (sext d0.format.bits (s.readNat (localOf d1.elem + (src * d1.cols + q) * (d1.format.bits / 8)) (d1.format.bits / 8)))
          bad) { a with st := a.st.readRows v y d1 src 1 false }) (YardWork.start s1 st.1)
  { out with run := { out.run with rows := st.2 } }

/-- A source element entering a sum at scale 2^x (R284). -/
def State.enter (s : State) (d : Desc) (i j : Nat) (x : Int) : Int :=
  let m := s.elemAt d i j
  scale2 m.1 (m.2 - x)

/-- REDUCE (R284). -/
def State.reduceCmd (s : State) (y : Nat) (r : Run) : YardWork :=
  let c := r.cmd
  let v := s.runVia y true r
  let x := s.digestCtx r.w v.pen
  let d0 := s.descAt (cmdD0 c)
  let ds := (s.reduceSrcs c).map s.descAt
  let acc := bitOf (cmdFlags c) 0
  let s1 := ds.foldl (fun t d => t.readRows v y d (cmdRow0 c) (cmdRows c) false) s
  overBlocks (cmdRow0 c) (cmdRows c) d0.cols (fun a i j =>
    let sum := ds.foldl (fun z d => z + s.enter d i j d0.exp) 0
    let bad := ds.any (fun d => s.blockBad d i (j / d.format.len)) || (acc && s.blockBad d0 i j)
    a.finishAcc x d0 i j (if acc then (s.elemAt d0 i j).1 + sum else sum) bad) (YardWork.start s1 r)

/-- CONVERT (R281): D1 into D0 through stages 1 to 5; an A-format source is read out under R41, an A-format destination takes R56. -/
def State.convertCmd (s : State) (y : Nat) (r : Run) : YardWork :=
  let c := r.cmd
  let v := s.runVia y true r
  let x := s.digestCtx r.w v.pen
  let d0 := s.descAt (cmdD0 c)
  let d1 := s.descAt (cmdD1 c)
  let len := d0.format.len
  let al := cmdXn c
  let s1 := s.readRows v y d1 (cmdRow0 c) (cmdRows c) false
  overBlocks (cmdRow0 c) (cmdRows c) (d0.cols / len) (fun a i q =>
    let js := (List.range len).map (· + q * len)
    let vs := js.map fun j =>
      let m := s.elemAt d1 i j
      let v := if d1.format.block then m.1 else visible d1.format.accW m.1
      let ch := s.channelAt (cmdTabN c) (cmdChnN c) d0 i j
      (stage123 ch (cmdEb c) (cmdClip c 1) (scale2 v (m.2 - al)), ch, (if v = m.1 then 0 else 1 : Nat))
    let bad := js.any fun j => s.blockBad d1 i (j / d1.format.len)
    let a1 := a.count (vs.map (·.2.2)).sum 0
    if d0.format.block then a1.finishBlock x d0 i q (al - 63) (vs.map fun v => v.2.1.toCommon v.1) bad
    else a1.finishAcc x d0 i q ((vs.map (·.1)).getD 0 0) bad) (YardWork.start s1 r)

/-! ## Equilibration (R198, R199) -/

/-- floor(log2 |m × 2^e|) of a nonzero value. -/
def floorLog2 (m e : Int) : Int := log2Abs m + e

/-- The largest floor(log2 |v|) of the nonzero values among a list of value numbers. -/
def State.maxLog (s : State) (d : Desc) (ns : List Nat) : Option Int :=
  ns.foldl (fun a n =>
    let m := s.elemAt d 0 n
    if m.1 = 0 then a else match a with
      | none => some (floorLog2 m.1 m.2)
      | some t => some (max t (floorLog2 m.1 m.2))) none

/-- A W64 block rescaled by 2^ρ: its shift moves; where the new shift leaves 0 to 255 it stays at the end of the range and the codes are
rounded (R51) or saturated (R54), counted (log entry 19). -/
def rescaleBlock (w : Nat) (b : Nat) (codes : List Int) (rho : Int) : Nat × List Int × Nat × Nat :=
  let b' := (b : Int) - rho
  if b' < 0 then
    let r := saturate w (codes.map fun m => m * 2 ^ (-b').toNat)
    (0, r.1, r.2, 0)
  else if 255 < b' then
    let out := codes.map fun m => roundNe m (b' - 255)
    (255, out, 0, ((codes.zip out).filter fun z => z.1 != 0 && z.2 == 0).length)
  else (b'.toNat, codes, 0, 0)

/-- EQROW (R198, R281): the row's shifts adjusted, and ρ of each row written at D2. -/
def State.eqrowCmd (s : State) (y : Nat) (r : Run) : YardWork :=
  let c := r.cmd
  let v := s.runVia y true r
  let x := s.digestCtx r.w v.pen
  let d := s.descAt (cmdD1 c)
  let st := r.stopAt (firstStop (cmdRows c) (s.ptrFault c))
  let s1 := (s.readSparse v y c).readRows v y d 0 1 false
  let rho := fun j => match s.maxLog d (s.rowVals c j) with | none => (0 : Int) | some t => -t
  let out := (List.range st.2).foldl (fun (a : YardWork) j =>
    (List.range ((s.rowVals c j).length / 8)).foldl (fun (a : YardWork) t =>
      let q := s.rowPtr c j / 8 + t
      let o := rescaleBlock 64 (s.mem.byte (s.loc (d.shiftAddr 0 q))).toNat ((List.range 8).map fun e => (s.elemAt d 0 (q * 8 + e)).1) (rho j)
      (a.block x d 0 q o.2.1 o.1 (s.blockBad d 0 q)).count o.2.2.1 o.2.2.2) a) (YardWork.start s1 st.1)
  let rhos := (List.range st.2).map fun j =>
    ((localOf (cmdD2 c) + 2 * j, leBytes 2 (uns 16 (rho j)), (s.rowVals c j).any fun n => s.blockBad d 0 (n / 8)) : Piece)
  { out with run := { out.run with rows := st.2 }, plane := out.plane ++ rhos }

/-- EQCOL (R281): the column exponents over the rows before one that stops the command, −32,768 for an empty column. -/
def State.eqcolCmd (s : State) (y : Nat) (r : Run) : YardWork :=
  let c := r.cmd
  let v := s.runVia y true r
  let d := s.descAt (cmdD1 c)
  let st := r.stopAt (firstStop (cmdRows c) (s.rowFault c))
  let s1 := (s.readSparse v y c).readRows v y d 0 1 false
  let ns := (List.range st.2).flatMap (s.rowVals c)
  let out := (List.range (cmdNcols c)).map fun k =>
    let mine := ns.filter fun n => s.colIdx c n == k
    ((localOf (cmdD2 c) + 2 * k, leBytes 2 (uns 16 ((s.maxLog d mine).getD (-32768))), mine.any fun n => s.blockBad d 0 (n / 8)) : Piece)
  { YardWork.start s1 { st.1 with rows := st.2 } with plane := if st.2 = 0 then [] else out }

/-- EQAPPLY (R199, R281): each value scaled by its column's power of two, each block formed anew. -/
def State.eqapplyCmd (s : State) (y : Nat) (r : Run) : YardWork :=
  let c := r.cmd
  let v := s.runVia y true r
  let x := s.digestCtx r.w v.pen
  let d := s.descAt (cmdD1 c)
  let st := r.stopAt (firstStop (cmdRows c) (s.rowFault c))
  let s1 := ((s.readSparse v y c).readRows v y d 0 1 false).yardRead v y (localOf (cmdD2 c) - stackBase y) (2 * cmdNcols c) false
  let gam := fun k : Nat =>
    let g := sext 16 (s.readNat (localOf (cmdD2 c) + 2 * k) 2)
    if g = -32768 then 0 else -g
  let out := (List.range st.2).foldl (fun (a : YardWork) j =>
    (List.range ((s.rowVals c j).length / 8)).foldl (fun (a : YardWork) t =>
      let q := s.rowPtr c j / 8 + t
      let es := (List.range 8).map fun e =>
        let m := s.elemAt d 0 (q * 8 + e)
        (m.1, m.2 + gam (s.colIdx c (q * 8 + e)))
      let low := es.foldl (fun z e => min z e.2) (es.headD (0, 0)).2
      let bad := s.blockBad d 0 q || (List.range 8).any fun e => s.readBad (localOf (cmdD2 c) + 2 * s.colIdx c (q * 8 + e)) 2
      a.finishBlock x d 0 q low (es.map fun e => e.1 * 2 ^ (e.2 - low).toNat) bad) a) (YardWork.start s1 st.1)
  { out with run := { out.run with rows := st.2 } }

/-- DIGEST (R281, R286): the fold digest of D1's row range, over stored data, added into the 16 bytes at aux1, which stay poisoned where they
were. -/
def State.digestCmd (s : State) (y : Nat) (r : Run) : YardWork :=
  let c := r.cmd
  let d := s.descAt (cmdD1 c)
  let f := d.format
  let s1 := s.readRows (s.runVia y true r) y d (cmdRow0 c) (cmdRows c) false
  let blocks := (List.range (cmdRows c)).flatMap fun i => (List.range (d.cols / f.len)).map fun q => (cmdRow0 c + i, q)
  let good := blocks.filter fun b => !s.blockBad d b.1 b.2
  let items := good.flatMap fun b =>
    if f.block then
      d.foldBlock b.1 b.2 ((List.range f.len).map fun e => (s.elemAt d b.1 (b.2 * f.len + e)).1)
        (s.mem.byte (s.loc (d.shiftAddr b.1 b.2))).toNat
    else [(d.global b.1 b.2, 0, containerWords f.bits
      (sext f.bits (s.readNat (localOf d.elem + (b.1 * d.cols + b.2) * (f.bits / 8)) (f.bits / 8))))]
  let a := localOf (cmdAux1 c)
  let sum := (s.readNat a 16 + (d.hashes items).1.toNat) % 2 ^ 128
  { YardWork.start s1 { r with rows := cmdRows c, poisoned := r.poisoned || decide (good.length < blocks.length) } with
    plane := [(a, leBytes 16 sum, s.readBad a 16)] }

/-- One entry of an atomic list (R293): YE_ATOM where its address is unaligned, outside the stack or out of the pen's reach. -/
def State.atomEntry (s : State) (v : Via) (y : Nat) (r : Run) (i : Nat) : State × Run :=
  if r.status ≠ 0 then (s, r)
  else
    let c := r.cmd
    let a := localOf (cmdAux0 c) + 16 * i
    let o := s.readNat a 8
    if !(s.atomOk y o && s.penReach v.pen (stackBase y + o) 8) then (s, { r with status := 0x0C, errRow := i })
    else
      let k := cmdKind c
      let back := localOf (cmdAux1 c) + 8 * i
      let cmp := if k = 10 then BitVec.ofNat 64 (s.readNat back 8) else 0
      let t := s.atomic v y o k (BitVec.ofNat 64 (s.readNat (a + 8) 8)) cmp
      (if atomReturns k then t.1.putPieces v false (if k = 10 then .update else .write) [(back, leBytes 8 t.2.1.toNat, t.2.2)] else t.1,
       { r with rows := r.rows + 1 })

/-- The first n entries of an ATOM command (R293): their effects are at once. -/
def State.atomListCmd (s : State) (y : Nat) (r : Run) (n : Nat) : YardWork :=
  let v := s.runVia y true r
  let t := (List.range n).foldl (fun a i => a.1.atomEntry v y a.2 i)
    (s.yardRead v y (localOf (cmdAux0 r.cmd) - stackBase y) (16 * n) false, r)
  YardWork.start t.1 t.2

/-- What the running engine command does (R281). -/
def State.engWork (s : State) (y : Nat) (r : Run) : YardWork :=
  match cmdOp r.cmd with
  | 0x10 => s.spmvCmd y r false
  | 0x11 => s.spmvCmd y r true
  | 0x12 => s.gatherCmd y r
  | 0x13 => s.reduceCmd y r
  | 0x14 => s.convertCmd y r
  | 0x15 => s.eqrowCmd y r
  | 0x16 => s.eqcolCmd y r
  | 0x17 => s.eqapplyCmd y r
  | 0x18 => s.digestCmd y r
  | _ => s.atomListCmd y r (cmdRows r.cmd)

/-! ## A command that stops (R245) -/

/-- A running command stops at a 256-byte unit boundary: a free number of the units, or atomics, it had still to do has been done (log entry
112). -/
def State.stopInside (s : State) (y : Nat) (eng : Bool) (r : Run) : State :=
  let d := s.draw
  let v := s.runVia y eng r
  let u := if eng && cmdOp r.cmd == 0x19 then (d.2.atomListCmd y r (d.1.toNat % (cmdRows r.cmd + 1))).st
    else
      let w := if eng then d.2.engWork y r else d.2.xchWork y r
      w.units v (d.1.toNat % ((unitRuns (cutPieces w.plane) ++ unitRuns (cutPieces w.shifts)).length + 1))
  { d.2 with mem := u.mem, yards := u.yards, regs := u.regs, fresh := u.fresh }

/-- The running command of some windows stops without record or bell, and their queued commands are discarded (R245, R495). -/
def State.stopWindows (s : State) (ws : List Nat) (y : Nat) (eng : Bool) : State :=
  let s1 := match (s.engine y eng).run with
    | some r =>
      if ws.contains r.w then
        let t := if r.finished then s else s.stopInside y eng r
        ((t.setEngine y eng { t.engine y eng with run := none }).set (xBusyF y eng) 0).set (xWindowF y eng) 0
      else s
    | none => s
  ws.foldl (fun t w =>
    let e := t.engine y eng
    (t.setEngine y eng { e with queue := Tab.set [] e.queue w [], held := Tab.set [] e.held w [] }).showDepth y eng w) s1

/-- A pen's commands in one block stop. -/
def State.stopEngine (s : State) (p y : Nat) (eng : Bool) : State :=
  s.stopWindows ((List.range 9).filter fun w => s.windowPen y eng w == some p) y eng

/-- A pen's yard commands stop (R495). -/
def State.stopYards (s : State) (p : Nat) : State :=
  (List.range 8).foldl (fun t y => (t.stopEngine p y false).stopEngine p y true) s

/-- Every yard command stops, as a package freeze leaves them (R245, R498). -/
def State.stopAllYards (s : State) : State :=
  (List.range 8).foldl (fun t y => (t.stopWindows (List.range 9) y false).stopWindows (List.range 9) y true) s

/-! ## The rows -/

/-- The engine block of yard y runs a command with this op whose elements are still to be done. -/
def State.engRun (s : State) (y op : Nat) : Option Run :=
  match (s.engine y true).run with
  | some r => if cmdOp r.cmd = op ∧ r.finished = false then some r else none
  | none => none

/-- A row that does the work of the running engine command, if there is one with its op. -/
def State.engStep (s : State) (y op : Nat) (alloc : Bool) (acc : Run → AccKind) (f : State → Run → YardWork) :
    Host.Outcome State Fault Refusal :=
  s.yardStep fun t =>
    match t.engRun y op with
    | some r => .next ((f t r).done (t.runVia y true r) y true alloc (acc r))
    | none => t.notDue

def execSpmv (y : Fin 8) (s : State) : Host.Outcome State Fault Refusal :=
  s.engStep y.val 0x10 false (fun _ => .write) fun t r => t.spmvCmd y.val r false
def execResid (y : Fin 8) (s : State) : Host.Outcome State Fault Refusal :=
  s.engStep y.val 0x11 false (fun _ => .write) fun t r => t.spmvCmd y.val r true
def execGather (y : Fin 8) (s : State) : Host.Outcome State Fault Refusal :=
  s.engStep y.val 0x12 false (fun _ => .write) fun t r => t.gatherCmd y.val r
/-- REDUCE: its destination is allocated in the cache (R289), and, with acc = 1, read and written as one (R284). -/
def execReduce (y : Fin 8) (s : State) : Host.Outcome State Fault Refusal :=
  s.engStep y.val 0x13 true (fun r => if bitOf (cmdFlags r.cmd) 0 then .update else .write) fun t r => t.reduceCmd y.val r
def execConvert (y : Fin 8) (s : State) : Host.Outcome State Fault Refusal :=
  s.engStep y.val 0x14 false (fun _ => .write) fun t r => t.convertCmd y.val r
def execEqrow (y : Fin 8) (s : State) : Host.Outcome State Fault Refusal :=
  s.engStep y.val 0x15 false (fun _ => .write) fun t r => t.eqrowCmd y.val r
def execEqcol (y : Fin 8) (s : State) : Host.Outcome State Fault Refusal :=
  s.engStep y.val 0x16 false (fun _ => .write) fun t r => t.eqcolCmd y.val r
def execEqapply (y : Fin 8) (s : State) : Host.Outcome State Fault Refusal :=
  s.engStep y.val 0x17 false (fun _ => .write) fun t r => t.eqapplyCmd y.val r
def execDigest (y : Fin 8) (s : State) : Host.Outcome State Fault Refusal :=
  s.engStep y.val 0x18 false (fun _ => .update) fun t r => t.digestCmd y.val r
def execAtomList (y : Fin 8) (s : State) : Host.Outcome State Fault Refusal :=
  s.engStep y.val 0x19 false (fun _ => .write) fun t r => t.atomListCmd y.val r (cmdRows r.cmd)

/-- The yard reads the descriptors, the list of a REDUCE's sources and the channel table of a command it takes up (R240, R269). -/
def State.readDescs (s : State) (v : Via) (y : Nat) (eng : Bool) (c : List Byte) : State :=
  let op := cmdOp c
  let ds := if eng then s.engDescs c else xchDescs c
  let tabs : List (Nat × Nat) :=
    if eng then
      if op = 0x10 ∨ op = 0x11 ∨ op = 0x14 then [(cmdTabN c, 16 * cmdChnN c)] else if op = 0x13 then [(cmdAux1 c, 8 * cmdNsrc c)] else []
    else if op = 1 then [(cmdTabN c, 16 * cmdChnN c)] else if op = 2 then [(cmdTabW c, 16 * cmdChnW c)] else []
  (tabs ++ ds.map fun g => (g, 64)).foldl (fun (t : State) (r : Nat × Nat) =>
    if s.inStack v.pen y r.1 r.2 then t.yardRead v y (localOf r.1 - stackBase y) r.2 false else t) s

/-- YARD_CMD_START (R239, R240, R285): the next command round-robin is taken up and checked. -/
def execYardCmdStart (y : Fin 8) (eng : Bool) (s : State) : Host.Outcome State Fault Refusal :=
  s.yardStep fun t =>
    match (t.engine y.val eng).run, t.nextWindow y.val eng with
    | none, some w =>
      let cmd := ((t.engine y.val eng).queueOf w).headD []
      let v := t.windowVia y.val eng w cmd
      .next ((t.readDescs v y.val eng cmd).beginRun y.val eng w cmd
        (if eng then t.engCheck v.pen y.val cmd else t.xchCheck v.pen y.val cmd))
    | _, _ => t.notDue

/-- YARD_CMD_COMPLETE (R242). -/
def execYardCmdComplete (y : Fin 8) (eng : Bool) (s : State) : Host.Outcome State Fault Refusal :=
  s.yardStep fun t =>
    match (t.engine y.val eng).run with
    | some r => if r.finished && t.yardLive y.val then .next (t.completeRun y.val eng r) else t.notDue
    | none => t.notDue

/-- XCMD_POST (R236, R237): the last word of a command, which posts it. -/
def execXcmdPost (src : Source) (y : Fin 8) (eng : Bool) (w : Fin 9) (last : U64) (s : State) : Host.Outcome State Fault Refusal :=
  .next (s.windowWrite src y.val eng w.val 120 (leBytes 8 last.toNat))

/-- WINDOW_ROOM (R237): the queue has room again and takes the posting that waited. -/
def execWindowRoom (y : Fin 8) (eng : Bool) (w : Fin 9) (s : State) : Host.Outcome State Fault Refusal :=
  let e := s.engine y.val eng
  if (Tab.get [] e.held w.val).isEmpty = false ∧ (e.queueOf w.val).length < 8 then .next (s.windowRoom y.val eng w.val)
  else s.notDue

end Sys2Proof.Machine
end

