-- ==== Sys2Proof/Machine/Channels.lean ====
section
/-!
DEFINITION. Channels.lean: requests at a yard (R256 to R261), the channel schedulers (R258), refresh (R264, R265), scrub (R271), writes
that wait for a shed page (R413, R414), armed injections (R305).
-/

namespace Sys2Proof.Machine

/-- Behind a request. -/
def reqVia (q : YReq) : Via := { pen := q.pen.map (·.val), port := q.port, cls := q.cls.val, who := 0 }

/-- The words of a read that are delivered poisoned, by 8-byte word number. -/
def State.poisonWords (s : State) (a n : Nat) : List Nat :=
  (List.range ((n + 7) / 8)).filter fun i => s.readBad (a + 8 * i) 1

/-- The data of a read as an answer. -/
def State.dataReply (s : State) (a n : Nat) : Reply := .data (s.read a n) (s.poisonWords a n)

/-- The channel that serves a request (R253, R273). -/
def State.reqChannel (s : State) (y : Nat) (q : YReq) : Nat := channelOf (s.stored y q.off.toNat)

/-- Is the channel's queue of class k full (R259)? -/
def Yard.queueFull (r : Yard) (c k : Nat) : Bool := decide (32 ≤ (Tab.get [] r.chq (4 * c + k)).length)

/-- Does a write to this page have to wait: the page is held and the pen's shed is full (R413)? The pen that holds it. -/
def State.cowWaits (s : State) (y : Nat) (q : YReq) : Option Nat :=
  if q.write.isNone then none
  else match Tab.get Page.home (s.yard y).pages (q.off.toNat / 65536) with
    | .held p => if (s.freeShed p y).isNone then some p else none
    | _ => none

/-- The dirty line whose write-back a request that is to be allocated sets off, if any (R288). -/
def State.reqVictim (s : State) (y : Nat) (q : YReq) : Option CacheLine :=
  let o := q.off.toNat
  let p := s.linePen y o (q.pen.map (·.val))
  if s.cacheable y o && decide (0 < s.ways y p) then (s.victim y (o / 256 % 16384) p).filter (·.dirty) else none

/-- Does the request have to stay at the head of its FIFO: the cache does not serve it, and its channel's queue, or the one that a line it evicts
goes to, is full (R259)? -/
def State.stuck (s : State) (y : Nat) (q : YReq) : Bool :=
  !s.cached y q.off.toNat && ((s.yard y).queueFull (s.reqChannel y q) q.cls.val ||
    (s.reqVictim y q).any fun v => (s.yard y).queueFull (channelOf (s.stored y (v.line * 256))) 2)

/-- A write of the port and class waits under R413: it holds the FIFO as a full queue does (R414). -/
def State.heldByCow (s : State) (y : Nat) (q : YReq) : Bool := (s.yard y).waiting.any fun w => w.key == fifoKey q

/-- Put a write that must wait for its page aside (R413). -/
def State.park (s : State) (y : Nat) (q : YReq) : State :=
  ((s.setYard y { s.yard y with waiting := (s.yard y).waiting ++ [⟨fifoKey q, 0, q.off.toNat / 65536, some q⟩] }).showWaiting y).answer .held

/-- A request that nothing holds enters the yard (R260, R289): it takes effect here, in order of arrival: a write is visible from here on, a read
has the data and outcomes of its whole range as they stand (R261). What the cache does not serve joins its channel's queue, a miss that
allocates with its whole line. -/
def State.admitReq (s : State) (y : Nat) (q : YReq) : State :=
  let o := q.off.toNat
  let l := o / 256 * 256
  let k := q.cls.val
  let s0 := if q.write.isSome then s.notHeld (s.cowReady (reqVia q) y (o / 65536)) else s
  let r := s0.cacheTouch y o (q.pen.map (·.val)) false q.write.isSome false
  let mine := codewordsOf o q.len l
  let all := codewordsOf l 256 l
  let reply := s0.dataReply (stackBase y + o) q.len
  let read := ChanKind.read (s0.read (stackBase y + o) q.len) (s0.poisonWords (stackBase y + o) q.len)
  match q.write with
  | some bs =>
    let t := match r.2 with
      | .hit => r.1
      | .filled => if (notWhole o q.len all).isEmpty then r.1 else (r.1.decode y (notWhole o q.len all)).pushChannel y l 256 k .fill
      | .missed => (r.1.decode y (notWhole o q.len mine)).pushChannel y o q.len k .write
    (t.yardPut y o [(bs, false)]).answer .accepted
  | none =>
    match r.2 with
    | .hit => (mine.foldl (fun t w => t.deliverHit y w) r.1).answer reply
    | .filled => ((r.1.decode y all).pushChannel y l 256 k read).answer .accepted
    | .missed => ((r.1.decode y mine).pushChannel y o q.len k read).answer .accepted

/-- The FIFO heads of a key move as far as nothing holds them (R259, R278). -/
def State.drainFifo (s : State) (y key : Nat) : Nat → State
  | 0 => s
  | n + 1 =>
    match Tab.get [] (s.yard y).fifo key with
    | [] => s
    | q :: rest =>
      if s.heldByCow y q || s.stuck y q then s
      else
        let s1 := s.setYard y { s.yard y with fifo := Tab.set [] (s.yard y).fifo key rest }
        let s2 := if (s1.cowWaits y q).isSome then s1.park y q else s1.admitReq y q
        s2.drainFifo y key n

/-- Every FIFO of a yard moves as far as it can. -/
def State.drainFifos (s : State) (y : Nat) : State :=
  (List.range 40).foldl (fun t k => t.drainFifo y k (Tab.get [] (t.yard y).fifo k).length) s

/-- YARD_REQUEST (R13, R256, R259, R260, R411, R442): a request of one line is presented. An unmapped address, a shed page, and memory of another
pen than the request's fault. -/
def State.request (s : State) (y : Nat) (q : YReq) : State :=
  let o := q.off.toNat
  if decide (s.stackSize y < o + q.len) || s.inShed y o || (q.pen.any fun p => !s.penReach (some p.val) (stackBase y + o) q.len) then
    s.answer .accessFault
  else if !(Tab.get [] (s.yard y).fifo (fifoKey q)).isEmpty || s.heldByCow y q || s.stuck y q then
    (s.setYard y { s.yard y with
      fifo := Tab.set [] (s.yard y).fifo (fifoKey q) (Tab.get [] (s.yard y).fifo (fifoKey q) ++ [q]) }).answer .held
  else if (s.cowWaits y q).isSome then s.park y q
  else s.admitReq y q

/-! ## Slots (R258) -/

/-- The first write-back queued on a channel (R269) whose bank no refresh blocks. -/
def Yard.firstWback (r : Yard) (c : Nat) : Option (Nat × Bool × Nat) :=
  r.wback.find? fun e => channelOf e.1 == c && !r.bankBlocked e.1

/-- Does class k have a request ready on the channel? -/
def Yard.classReady (r : Yard) (c k : Nat) : Bool :=
  (r.firstReady c k).isSome || (k == 3 && (r.firstWback c).isSome)

/-- The class that takes the next slot of a channel (R258), given the classes of the window's slots so far: the floors of P2 and P3 are
met no later than the window's last slots (log entry 20). -/
def State.slotClass (s : State) (y c : Nat) : Option Nat :=
  let w := Tab.get [] (s.yard y).window c
  let got := fun k => (w.filter (· == k)).length
  let rdy := (s.yard y).classReady c
  let others := rdy 1 || rdy 2 || rdy 3
  let p0 := rdy 0 && !(others && decide (s.get (YRD_ARB.p0_cap y) ≤ got 0))
  let need2 := if rdy 2 then s.get (YRD_ARB.p2_floor y) - got 2 else 0
  let need3 := if rdy 3 then s.get (YRD_ARB.p3_floor y) - got 3 else 0
  if decide (64 - w.length ≤ need2 + need3) && decide (0 < need2) then some 2
  else if decide (64 - w.length ≤ need2 + need3) && decide (0 < need3) then some 3
  else if p0 then some 0
  else if rdy 1 then some 1
  else if rdy 2 then some 2
  else if rdy 3 then some 3
  else none

/-- A request's next 64-byte unit takes a slot (R251): what it stores is stored (R305); a read answers with its data when its last unit is
done; a request with no unit left leaves its queue. -/
def State.serve (s : State) (y c k i : Nat) (q : ChanReq) : State :=
  let n := min q.len (64 - q.pos % 64)
  let s1 := s.activate y c (channelLine q.pos)
  let s2 := match q.kind with
    | .write => s1.unitStored y q.pos n false
    | .line => s1.unitStored y q.pos n true
    | _ => s1
  let l := Tab.get [] (s2.yard y).chq (4 * c + k)
  let l' := if n = q.len then l.eraseIdx i else l.set i { q with pos := q.pos + n, len := q.len - n }
  (s2.setYard y { s2.yard y with chq := Tab.set [] (s2.yard y).chq (4 * c + k) l' }).answer
    (match q.kind with | .read d b => if n = q.len then .data d b else .none | _ => .none)

/-- A queued write-back is written (R269, R272): the corrected codeword, or the poisoned one. -/
def State.writeBack (s : State) (y c : Nat) (e : Nat × Bool × Nat) : State :=
  let a := stackBase y + e.1
  let s1 := s.activate y c (channelLine e.1)
  let s2 := s1.setYard y { s1.yard y with wback := (s1.yard y).wback.filter fun x => x.1 != e.1 }
  let m := s2.mem.mark a
  ({ s2 with mem := s2.mem.setMark a (if e.2.1 then ⟨true, false, false⟩ else ⟨m.poison, false, m.ue⟩) }.injectYard y e.1).answer .none

/-- The channel grants its next slot, the oldest first in its class (R258); none where no request is ready. -/
def State.grant (s : State) (y c : Nat) : Option State :=
  let r := s.yard y
  match s.slotClass y c with
  | none => none
  | some k =>
    let serve := fun (x : Nat × ChanReq) => ((s.serve y c k x.1 x.2).countSlot y c k).drainFifos y
    match r.firstReady c k, (if k = 3 then r.firstWback c else none) with
    | some x, some e => some (if e.2.2 < x.2.seq then (s.writeBack y c e).countSlot y c k else serve x)
    | some x, none => some (serve x)
    | none, some e => some ((s.writeBack y c e).countSlot y c k)
    | none, none => none

/-! ## The rows -/

/-- YARD_REQUEST (R260). -/
def execYardRequest (y : Fin 8) (q : YReq) (s : State) : Host.Outcome State Fault Refusal :=
  if s.yardLive y.val then .next (s.request y.val q) else s.notDue

/-- SLOT_GRANT (R258). -/
def execSlotGrant (y : Fin 8) (c : Fin 64) (s : State) : Host.Outcome State Fault Refusal :=
  match s.yardLive y.val, s.grant y.val c.val with
  | true, some t => .next t
  | _, _ => s.notDue

/-- The first waiting request that need wait no longer (R413). -/
def State.cowReadyWrite (s : State) (y : Nat) : Option (CowWait × YReq) :=
  (s.yard y).waiting.findSome? fun w => match w.req with
    | some q => if (s.cowWaits y q).isNone && !s.stuck y q then some (w, q) else none
    | none => none

/-- COW_WRITE_RESUME (R413 to R415): a waiting write is applied. -/
def execCowWriteResume (y : Fin 8) (s : State) : Host.Outcome State Fault Refusal :=
  match s.yardLive y.val, s.cowReadyWrite y.val with
  | true, some x =>
    let r := s.yard y.val
    .next ((((s.setYard y.val { r with waiting := r.waiting.erase x.1 }).showWaiting y.val).admitReq y.val x.2).drainFifos y.val)
  | _, _ => s.notDue

/-- The key of a bank named by channel, rank and bank. -/
def bankIx (c rank bank : Nat) : Nat := 48 * c + 16 * rank + bank

/-- REFRESH (R264): the bank is blocked while it refreshes; its rows' activations count anew. -/
def execRefresh (y : Fin 8) (c : Fin 64) (rank : Fin 3) (bank : Fin 16) (s : State) : Host.Outcome State Fault Refusal :=
  let b := bankIx c.val rank.val bank.val
  let r := s.yard y.val
  if r.blocked.contains b then s.notDue
  else .next (s.setYard y.val { r with blocked := b :: r.blocked, acts := r.acts.filter (fun e => e.1 / 8192 != b),
                                       openRow := Tab.set 0 r.openRow b 0 })

/-- REFRESH_DONE (R264): the bank serves requests again; what they waited is added to YRD_REFSTALL. -/
def execRefreshDone (y : Fin 8) (c : Fin 64) (rank : Fin 3) (bank : Fin 16) (ns : Nat) (s : State) : Host.Outcome State Fault Refusal :=
  let b := bankIx c.val rank.val bank.val
  let r := s.yard y.val
  if r.blocked.contains b then
    .next ((s.setYard y.val { r with blocked := r.blocked.erase b }).inc (YRD_REFSTALL.ns y.val) ns)
  else s.notDue

/-- TARGETED_REFRESH (R265): a row has reached the threshold; its neighbours are refreshed. No data changes. -/
def execTargetedRefresh (y : Fin 8) (c : Fin 64) (rank : Fin 3) (bank : Fin 16) (row : BitVec 13) (s : State) : Host.Outcome State Fault Refusal :=
  let b := bankIx c.val rank.val bank.val
  let r := s.yard y.val
  let key := b * 8192 + row.toNat
  let th := s.get (YRD_CTL.trr_thresh y.val)
  if decide (0 < th) && decide (th ≤ Tab.get 0 r.acts key) && !r.blocked.contains b then
    .next (((s.setYard y.val { r with blocked := b :: r.blocked, acts := Tab.set 0 r.acts key 0 }).inc (MCH_ECC.trr y.val c.val) 1).inc
      (YRD_STEP.trr y.val) 1)
  else s.notDue

/-- SCRUB_READ (R271): the scrubber reads its next codeword: it enters its channel's P3 queue (R259), which must have room; the stack's mapped
codewords are read in ascending order, over and over. -/
def execScrubRead (y : Fin 8) (s : State) : Host.Outcome State Fault Refusal :=
  let o := (s.yard y.val).scrub
  let st := s.fold y.val o
  if s.yardLive y.val && s.flag (YRD_CTL.scrub_en y.val) && !(s.yard y.val).queueFull (channelOf st) 3 then
    let s1 := s.codewordRead y.val st o true
    let r := s1.yard y.val
    let key := 4 * channelOf st + 3
    .next (s1.setYard y.val { r with chq := Tab.set [] r.chq key (Tab.get [] r.chq key ++ [⟨st, 16, .fill, r.seq⟩]), seq := r.seq + 1,
                                     scrub := (o + 16) % s.stackSize y.val })
  else s.notDue

/-- An injection is armed for a channel (R305). -/
def execYrdInjCe (y : Fin 8) (ch : BitVec 6) (s : State) : Host.Outcome State Fault Refusal :=
  .next ((s.set (YRD_INJ.ch y.val) ch.toNat).set (YRD_INJ.ce y.val) 1)
def execYrdInjUe (y : Fin 8) (ch : BitVec 6) (s : State) : Host.Outcome State Fault Refusal :=
  .next ((s.set (YRD_INJ.ch y.val) ch.toNat).set (YRD_INJ.ue y.val) 1)
def execYrdInjPoison (y : Fin 8) (ch : BitVec 6) (s : State) : Host.Outcome State Fault Refusal :=
  .next ((s.set (YRD_INJ.ch y.val) ch.toNat).set (YRD_INJ.poison y.val) 1)

/-- CORE_INJ and CORE_LOFT_INJ are armed (R109, R114). -/
def execCoreInjStallCe (d : Fin 4) (c : Fin 8) (k : Fin 16) (s : State) : Host.Outcome State Fault Refusal :=
  .next (s.set (CORE_INJ.stall_ce d.val c.val k.val) 1)
def execCoreInjStallUe (d : Fin 4) (c : Fin 8) (k : Fin 16) (s : State) : Host.Outcome State Fault Refusal :=
  .next (s.set (CORE_INJ.stall_ue d.val c.val k.val) 1)
def execLoftInjCe (d : Fin 4) (c : Fin 8) (s : State) : Host.Outcome State Fault Refusal :=
  .next (s.set (CORE_LOFT_INJ.ce d.val c.val) 1)
def execLoftInjUe (d : Fin 4) (c : Fin 8) (s : State) : Host.Outcome State Fault Refusal :=
  .next (s.set (CORE_LOFT_INJ.ue d.val c.val) 1)

end Sys2Proof.Machine
end

