-- ==== Sys2Proof/Machine/Groups.lean ====
section
/-!
DEFINITION. Groups.lean: group tables (R380 to R383), the group block's command windows and queues (R384, R385), and the end of a
collective at a member: completion record, bells, ERROR to its neighbours (R396 to R398).
-/

namespace Sys2Proof.Machine

/-! ## Descriptors -/

/-- A group descriptor (R380). Trees are parent, left child, right child by rank. -/
structure GDesc where
  valid : Bool
  pen   : Nat
  home  : Nat
  chunk : Nat
  n     : Nat
  rank  : Nat
  tmo   : Nat
  list  : Nat
  tree0 : List Nat
  tree1 : List Nat
  ring  : Nat
  ringLog : Nat
  arrival : Nat
  rsv   : Bool
  deriving DecidableEq, Repr

/-- The descriptor in 64 bytes (R380). -/
def gdescOf (b : List Byte) : GDesc :=
  let b0 := fieldNat b 0 1
  { valid := bitOf b0 0, pen := bitsOf b0 1 3, home := bitsOf b0 4 1, chunk := fieldNat b 1 1, n := fieldNat b 2 2 + 1,
    rank := fieldNat b 4 2, tmo := fieldNat b 6 2, list := fieldNat b 8 8,
    tree0 := [fieldNat b 16 2, fieldNat b 18 2, fieldNat b 20 2], tree1 := [fieldNat b 24 2, fieldNat b 26 2, fieldNat b 28 2],
    ring := fieldNat b 32 8, ringLog := fieldNat b 40 1, arrival := fieldNat b 48 8,
    rsv := bitsOf b0 5 3 != 0 || fieldNat b 22 2 != 0 || fieldNat b 30 2 != 0 || fieldNat b 41 7 != 0 || fieldNat b 56 8 != 0 }

/-- Descriptor g in the active table of fabric die f, and in its shadow table (R380, R404). -/
def State.gdescActive (s : State) (f g : Nat) : GDesc :=
  gdescOf (s.read (localOf (s.get (GRP_TBL.base f) * 64) + 64 * g) 64)
def State.gdescShadow (s : State) (f g : Nat) : GDesc :=
  gdescOf (s.read (localOf (s.get (GRP_TBL_S.base f) * 64) + 64 * g) 64)

/-- Descriptor g as fabric die f sees it (R380, R383): of a pen that has taken its share of an armed shadow table the shadow's, else the
active one. -/
def State.gdescOn (s : State) (f g : Nat) : GDesc :=
  let a := s.gdescActive f g
  let t := Tab.get 0 s.lay.grpTaken f
  if t = 0 then a
  else
    let b := s.gdescShadow f g
    if b.valid && bitOf t b.pen then b
    else if a.valid && bitOf t a.pen then { a with valid := false }
    else a

/-- The home die of group g (R380): the die whose own table names it as the home; FB0 where both tables do. -/
def State.homeOf (s : State) (g : Nat) : Nat :=
  let a := s.gdescOn 0 g
  let b := s.gdescOn 1 g
  if b.valid && b.home == 1 && !(a.valid && a.home == 0) then 1 else 0

/-- The active descriptor of group g, from its home die's table; not valid where no die's table names its own die as the home. -/
def State.gdesc (s : State) (g : Nat) : GDesc :=
  let d := s.gdescOn (s.homeOf g) g
  { d with valid := d.valid && d.home == s.homeOf g }

/-- The tree of a descriptor that carries a chunk (R382). -/
def GDesc.tree (d : GDesc) (t : Nat) : List Nat := if t = 0 then d.tree0 else d.tree1
abbrev noRank : Nat := 0xFFFF
def GDesc.parent (d : GDesc) (t : Nat) : Nat := (d.tree t).getD 0 noRank
def GDesc.left (d : GDesc) (t : Nat) : Nat := (d.tree t).getD 1 noRank
def GDesc.right (d : GDesc) (t : Nat) : Nat := (d.tree t).getD 2 noRank

/-- The children of this member in a tree, with their contributor numbers. -/
def GDesc.children (d : GDesc) (t : Nat) : List (Nat × Nat) :=
  [(1, d.left t), (2, d.right t)].filter fun c => c.2 != noRank

/-- Is this member the root of a tree? -/
def GDesc.root (d : GDesc) (t : Nat) : Bool := d.parent t == noRank

/-- The root rank of a tree by R382's default rule: where the builder's own trees are in use (log entry 27). -/
def GDesc.rootRank (d : GDesc) (t : Nat) : Nat :=
  let r0 := 2 ^ Nat.log2 d.n - 1
  if t = 0 then r0 else if d.n % 2 = 0 then d.n - 1 - r0 else (r0 + 1) % d.n

/-- The package of a rank (R380). -/
def State.memberAt (s : State) (d : GDesc) (rank : Nat) : Nat := s.readNat (localOf d.list + 2 * rank) 2

/-- Is the descriptor usable for a pen (R381)? -/
def State.groupUsable (s : State) (d : GDesc) (p : Option Nat) : Bool :=
  d.valid && (p == some d.pen) && !d.rsv && decide (d.rank < d.n) && s.memberAt d d.rank == s.package &&
    (d.tree0 ++ d.tree1).all fun r => r == noRank || decide (r < d.n)

/-! ## Commands (R385) -/

abbrev gcOp (c : List Byte) : Nat := fieldNat c 0 1
abbrev gcFlags (c : List Byte) : Nat := fieldNat c 1 1
abbrev gcEager (c : List Byte) : Bool := bitOf (gcFlags c) 0
abbrev gcResume (c : List Byte) : Bool := bitOf (gcFlags c) 1
abbrev gcChunkBell (c : List Byte) : Bool := bitOf (gcFlags c) 2
abbrev gcCombine (c : List Byte) : Nat := bitsOf (gcFlags c) 3 2
abbrev gcEtype (c : List Byte) : Nat := fieldNat c 2 1
abbrev gcGroup (c : List Byte) : Nat := bitsOf (fieldNat c 4 2) 0 12
abbrev gcRank (c : List Byte) : Nat := fieldNat c 6 2
abbrev gcSrc (c : List Byte) : Nat := fieldNat c 8 8
abbrev gcDst (c : List Byte) : Nat := fieldNat c 16 8
abbrev gcLen (c : List Byte) : Nat := fieldNat c 24 8 + 1
abbrev gcX (c : List Byte) : Nat := fieldNat c 32 2
abbrev gcGate (c : List Byte) : Option Nat :=
  if bitOf (fieldNat c 34 2) 15 then some (bitsOf (fieldNat c 34 2) 0 12) else none
abbrev gcMap (c : List Byte) : Nat := fieldNat c 40 8
abbrev gcDone (c : List Byte) : Nat := fieldNat c 48 8
abbrev gcErr (c : List Byte) : Nat := fieldNat c 56 8
abbrev gcRec (c : List Byte) : Nat := fieldNat c 64 8
abbrev gcTag (c : List Byte) : Nat := fieldNat c 72 8

/-- The bytes of an element of a type (R385); BCAST moves 8-byte words. -/
def elemSize (etype : Nat) : Nat :=
  match etype with
  | 5 => 8 | 6 => 16 | 7 => 16 | 8 => 32 | 9 => 8 | 10 => 16 | 11 => 32 | _ => 8

/-- Does the operation move elements? -/
def gcMoves (op : Nat) : Bool := op == 2 || op == 3 || op == 4

/-- The element type a command's chunks are made of. -/
def gcElem (c : List Byte) : Nat := if gcOp c = 2 then 9 else gcEtype c

/-- GC_CMD (R385, R386, R390, R398): reserved op, etype or field; a length that breaks R385; a combination R390 does not give. -/
def gcBad (c : List Byte) : Bool :=
  let op := gcOp c
  let e := gcEtype c
  let k := gcCombine c
  !(decide (1 ≤ op) && decide (op ≤ 5)) || bitsOf (gcFlags c) 5 3 != 0 || k == 3 || fieldNat c 3 1 != 0 ||
    bitsOf (fieldNat c 4 2) 12 4 != 0 || bitsOf (fieldNat c 34 2) 12 3 != 0 || fieldNat c 36 4 != 0 ||
    (op != 5 && fieldNat c 80 48 != 0) ||
    (if op == 1 || op == 5 then e != 0 else if op == 2 then e != 9 else !(decide (5 ≤ e) && decide (e ≤ 11))) ||
    (gcMoves op && (gcLen c % 16 != 0 || gcLen c % elemSize e != 0)) ||
    ((op == 3 || op == 4) && (e == 10 || e == 11) && k != 0)

/-! ## Packets (R400) -/

/-- The tag of the packets of groups, by which an answer to one is known for group 0 too (log entry 35). -/
def groupTag : Nat := 2 ^ 31 + 2 ^ 30 + 2 ^ 29

/-- A COLL packet to a rank of the group. -/
def State.collPacket (s : State) (d : GDesc) (g rank chunk tree phase off number etype x : Nat) (payload : List Byte) (mask : Nat) :
    Packet :=
  { ptype := .coll, exped := false, hops := 0, dst := BitVec.ofNat 16 (s.memberAt d rank), src := BitVec.ofNat 16 s.package,
    group := BitVec.ofNat 12 g, mask := BitVec.ofNat 16 mask, tag := BitVec.ofNat 32 groupTag,
    wordA := BitVec.ofNat 64 (chunk % 2 ^ 32 + tree * 2 ^ 32 + phase * 2 ^ 33 + off * 2 ^ 40),
    wordB := BitVec.ofNat 64 (number % 2 ^ 32 + etype * 2 ^ 32 + x * 2 ^ 40), payload := payload }

/-! ## Windows and queues (R384) -/

/-- The pen a group window belongs to: windows 0 to 7 the pen of the half-die, window 8 the pen the PACKAGE section names. -/
def State.gwinPen (s : State) (w : Nat) : Option Nat :=
  if w < 8 then s.penOfHalf (w / 2) (w % 2) else if s.lay.grpWin8 < 8 then some s.lay.grpWin8 else none

/-- GRP_QCTL.depth follows the group's queue. -/
def State.showGroup (s : State) (g : Nat) : State :=
  s.set (GRP_QCTL.depth (s.homeOf g) g) (s.group g).queue.length

/-- A window hands its first command to its group's queue while there is room, and takes the posting that waited (R384). -/
def State.releaseWindow (s : State) (f w : Nat) : Nat → State
  | 0 => s
  | n + 1 =>
    let e := s.gwin f
    match Tab.get [] e.queue w with
    | [] => s
    | c :: rest =>
      let g := gcGroup c
      if 16 ≤ (s.group g).queue.length then s
      else
        let h := Tab.get [] e.held w
        let q := if h.isEmpty then rest else rest ++ [h]
        let s1 := s.setGwin f { e with queue := Tab.set [] e.queue w q, held := Tab.set [] e.held w [] }
        let s2 := s1.setGroup g { s1.group g with queue := (s1.group g).queue ++ [(16 * f + w, c)] }
        (s2.showGroup g).releaseWindow f w n

/-- Every window of both fabric dies hands over what it can. -/
def State.releaseWindows (s : State) : State :=
  (List.range 18).foldl (fun t i => t.releaseWindow (i / 9) (i % 9) 9) s

/-- A write into a group window (R236, R384): as for a yard window; a posting for a queue that is not ON is refused (R456). -/
def State.gwinWrite (s : State) (src : Source) (f w off : Nat) (bs : List Byte) : State :=
  let refused := s.answer (match src with | .controlDie => .accessFault | _ => .refused)
  if windowOf src ≠ some w ∨ (s.gwinPen w).isNone then refused
  else
    let e := s.gwin f
    let l := overlay (Tab.get [] e.staged w) 128 off bs
    let e1 := { e with staged := Tab.set [] e.staged w l }
    if off + bs.length < 128 then (s.setGwin f e1).answer .accepted
    else if s.get (GRP_QCTL.state (s.homeOf (gcGroup l)) (gcGroup l)) ≠ 2 then refused
    else if (Tab.get [] e.queue w).length < 8 then
      ((s.setGwin f { e1 with queue := Tab.set [] e.queue w (Tab.get [] e.queue w ++ [l]) }).releaseWindows).answer .accepted
    else (s.setGwin f { e1 with held := Tab.set [] e.held w l }).answer .held

/-! ## The end of a collective -/

/-- The first failing chunk of a collective: the lowest chunk with a rejection or a mismatch. -/
def Coll.firstBad (c : Coll) : Nat :=
  match c.chunks.find? fun e => decide (0 < e.2.rejects) || e.2.mismatch with
  | some e => e.1
  | none => 0xFFFFFFFF

/-- The completion record (R397). -/
def collRecord (cmd : List Byte) (status detail rank released bad sats poisons : Nat) : List Byte :=
  leBytes 1 status ++ leBytes 1 detail ++ leBytes 2 rank ++ leBytes 4 released ++ leBytes 4 bad ++ leBytes 4 sats ++
    leBytes 4 poisons ++ leBytes 4 0 ++ leBytes 8 (gcTag cmd)

/-- Chunks released so far. -/
def Coll.released (c : Coll) : Nat := (c.chunks.filter fun e => e.2.counted).length

/-- No chunk. -/
abbrev noChunk : Nat := 0xFFFFFFFF

/-- The completion record of a running collective; `bad` is the first failing chunk a received ERROR names (R397), noChunk where none. -/
def Coll.record (c : Coll) (status detail rank bad : Nat) : List Byte :=
  collRecord c.cmd status detail rank c.released (if status = 0 then noChunk else if bad = noChunk then c.firstBad else bad) c.sats c.poisons

/-- The members a failing member sends ERROR to: parent and children in both trees and both tree roots (R396), each once, not itself. -/
def GDesc.neighbours (d : GDesc) : List Nat :=
  let l := d.tree0 ++ d.tree1 ++ [d.rootRank 0, d.rootRank 1]
  (l.filter fun r => r != noRank && r != d.rank && decide (r < d.n)).eraseDups

/-- ERROR of collective `number` of group g with a record goes out (R396, R400). -/
def State.sendError (s : State) (g number : Nat) (record : List Byte) : State :=
  let d := s.gdesc g
  d.neighbours.foldl (fun t r => t.emit (some d.pen) (t.collPacket d g r 0 0 5 0 number 0 0 record 0)) s

/-- Behind the accesses of the group unit of fabric die f for pen p: ordinary requests of that die (R257; log entry 109). -/
def grpVia (f : Nat) (p : Option Nat) : Via := { pen := p, port := .fabric (Fin.ofNat 2 f), cls := 2, who := 64 }

/-- The record of a collective command is written and its bells ring (R396, R397). -/
def State.finishColl (s : State) (w : Nat) (cmd record : List Byte) (status : Nat) : State :=
  let p := s.gwinPen (w % 16)
  let a := gcRec cmd
  let s1 := if s.ownPackage a && s.penReach p (localOf a) 32 then s.localWrite (grpVia (w / 16) p) (localOf a) record false else s
  if status = 0 then s1
  else (s1.ringName p (gcDone cmd) 1 true).ringName p (gcErr cmd) 1 false

/-- The first failed collective is recorded (R406), and counted for its pen (R407). -/
def State.countColl (s : State) (g status rank : Nat) : State :=
  let f := s.homeOf g
  let p := (s.gdesc g).pen
  if status = 0 then s.inc (GRP_CNT.done f p) 1
  else
    let t := s.inc (GRP_CNT.errs f p) 1
    if t.flag (GRP_ERR.valid f) then t
    else ((((t.set (GRP_ERR.status f) status).set (GRP_ERR.group f) g).set (GRP_ERR.pen f) p).set (GRP_ERR.rank f) rank).set
      (GRP_ERR.valid f) 1

/-- The group's collective number moves on (R388); no failed collective has the new one. -/
def State.nextNumber (s : State) (g : Nat) : State :=
  let f := s.homeOf g
  let n := (s.get (GRP_QCTL.number f g) + 1) % 2 ^ 32
  (s.setGroup g { s.group g with failed := (s.group g).failed.filter (· != n) }).set (GRP_QCTL.number f g) n

/-- The chunk map byte of a chunk (R401), where the command has a map. -/
def State.mapChunk (s : State) (cmd : List Byte) (w k v : Nat) : State :=
  let a := localOf (gcMap cmd) + k
  if gcOp cmd = 2 ∧ gcMap cmd ≠ 0 ∧ s.ownPackage (gcMap cmd) = true ∧ s.penReach (s.gwinPen (w % 16)) a 1 = true then
    s.localWrite (grpVia (w / 16) (s.gwinPen (w % 16))) a [BitVec.ofNat 8 v] false
  else s

/-- Does a chunk land at this member: a REDUCE only at its root; a resumed BCAST only where the map does not say valid (R401)? -/
def State.lands (s : State) (d : GDesc) (c : Coll) (k : Nat) : Bool :=
  let a := localOf (gcMap c.cmd) + k
  (gcOp c.cmd != 3 || gcRank c.cmd == d.rank) &&
    !(gcOp c.cmd == 2 && gcResume c.cmd && gcMap c.cmd != 0 && (s.mem.byte (s.loc a)).toNat == 1)

/-- Chunks that were to land here and are cut short are marked failed (R401). -/
def State.markCut (s : State) (d : GDesc) (c : Coll) : State :=
  c.chunks.foldl (fun t e => if e.2.begun && !e.2.landed && t.lands d c e.1 then t.mapChunk c.cmd c.w e.1 2 else t) s

/-- The running collective of group g ends at this member (R396): record, bells on a failure, ERROR to its neighbours, counts. The
pen's collective fault is raised by the caller. -/
def State.endColl (s : State) (g status detail rank bad : Nat) : State :=
  match (s.group g).coll with
  | none => s
  | some c =>
    let number := s.get (GRP_QCTL.number (s.homeOf g) g)
    let record := c.record status detail rank bad
    let s1 := if status = 0 then s else (s.markCut (s.gdesc g) c).sendError g number record
    let s2 := s1.setGroup g { s1.group g with
      coll := none, gated := false, failed := if status = 0 then (s1.group g).failed else (s1.group g).failed ++ [number % 2 ^ 32],
      early := (s1.group g).early.filter (fun k => bitsOf k.2.wordB.toNat 0 32 != number % 2 ^ 32) }
    ((s2.finishColl c.w c.cmd record status).countColl g status rank).nextNumber g

/-- A command that ends before it runs (a failed check, or a queued command of a void step). -/
def State.endQueued (s : State) (g w : Nat) (cmd : List Byte) (status rank : Nat) (tell : Bool) : State :=
  let record := collRecord cmd status 0 rank 0 0xFFFFFFFF 0 0
  let number := s.get (GRP_QCTL.number (s.homeOf g) g)
  let s1 := if tell && gcOp cmd != 5 then s.sendError g number record else s
  let s2 := (s1.finishColl w cmd record status).countColl g status rank
  if gcOp cmd = 5 then s2 else (s2.setGroup g { s2.group g with failed := (s2.group g).failed ++ [number % 2 ^ 32] }).nextNumber g

/-- A pen's collectives, running and queued, end as though ERROR had been received (R495, R496): GC_PEER. -/
def State.endPenColls (s : State) (p : Nat) : State :=
  (s.groups.map (·.1)).foldl (fun t g =>
    let d := t.gdesc g
    if d.pen ≠ p then t
    else
      let t1 := t.endColl g 9 0 d.rank noChunk
      let q := (t1.group g).queue
      let t2 := (t1.setGroup g { t1.group g with queue := [], gated := false }).showGroup g
      q.foldl (fun u e => u.endQueued g e.1 e.2 9 d.rank true) t2) s

/-- A collective of the group is queued or running (R405). -/
def Group.busy (g : Group) : Bool := !g.queue.isEmpty || g.coll.isSome

/-- Collectives posted through a context's window that have not written their record (R395, R152). -/
def State.ctxColls (s : State) (w : Nat) : Bool :=
  (s.groups.any fun e => e.2.queue.any (fun q => q.1 % 16 == w) || (match e.2.coll with | some c => c.w % 16 == w | none => false)) ||
    (s.gwins.any fun e => !(Tab.get [] e.2.queue w).isEmpty || !(Tab.get [] e.2.held w).isEmpty)

/-- A posting of context h of die d is not accepted yet: its DMA entry stays in flight (R237, R384). -/
def State.postHeld (s : State) (d h : Nat) : Bool :=
  let w := 2 * d + h
  ((List.range 8).any fun y => [false, true].any fun eng => !(Tab.get [] (s.engine y eng).held w).isEmpty) ||
    s.gwins.any fun e => !(Tab.get [] e.2.held w).isEmpty

/-- A collective of the pen is queued or running (R456, R500). -/
def State.penColls (s : State) (p : Nat) : Bool :=
  (s.groups.any fun e => e.2.busy && (s.gdesc e.1).pen == p) ||
    (List.range 9).any fun w => s.gwinPen w == some p && s.gwins.any fun e => !(Tab.get [] e.2.queue w).isEmpty

end Sys2Proof.Machine
end

