-- ==== Sys2Proof/Machine/Ledger.lean ====
section
/-!
DEFINITION. Ledger.lean: what a checkpoint unit leaves when it abandons (R417, R421), the counts and digest tables a step gathers and
clears (R104, R322, R323), the ledger record (R324) and ring (R325), team values and frames (R327, R328).
-/

namespace Sys2Proof.Machine

/-! ## Management packets (R483) and abandoning a checkpoint (R421) -/

/-- The tag of a management packet of pen p's checkpoint unit (log entry 35). -/
def mgmtTag (p : Nat) : Nat := 2 ^ 31 + 2 ^ 30 + p

/-- A MGMT packet of pen p: op, CSR address, value. -/
def State.mgmtPacket (s : State) (p dst op addr v : Nat) : Packet :=
  { ptype := .mgmt, exped := true, hops := 0, dst := BitVec.ofNat 16 dst, src := BitVec.ofNat 16 s.package, group := 0, mask := 0,
    tag := BitVec.ofNat 32 (mgmtTag p), wordA := BitVec.ofNat 64 (op + addr * 2 ^ 16), wordB := BitVec.ofNat 64 v, payload := [] }

/-- A management write to every other member of pen p's checkpoint group (R419). -/
def State.tellMembers (s : State) (p addr v : Nat) : State :=
  let d := s.gdesc (s.get (CKP_CTL.group p))
  (List.range d.n).foldl (fun t r =>
    if r = d.rank then t else t.emit (some p) (t.mgmtPacket p (t.memberAt d r) 1 addr v)) s

/-- A member reports its unit's state to the coordinator (R419, R483). -/
def State.ckpReport (s : State) (p : Nat) : State :=
  let d := s.gdesc (s.get (CKP_CTL.group p))
  s.emit (some p) (s.mgmtPacket p (s.memberAt d 0) 4 (ckpBlk p + 0x28) (s.get (CKP_STAT.state p)))

/-- A checkpoint error is recorded unless one is (R438). -/
def State.ckpError (s : State) (p code step : Nat) : State :=
  if s.flag (CKP_ERR.valid p) then s
  else ((s.set (CKP_ERR.reason p) code).set (CKP_ERR.step p) step).set (CKP_ERR.valid p) 1

/-- A page of the pen returns home: HELD becomes HOME, a redirected page is copied back and its shed page freed (R413, R417). -/
def State.pageHome (s : State) (p y pg : Nat) : State :=
  match Tab.get Page.home (s.yard y).pages pg with
  | .home => s
  | .held q => if q = p then s.setPage y pg .home else s
  | .redirected q shed =>
    if q = p then
      let t := (s.copyPage y shed (pg * 65536)).setPage y pg .home
      t.set (CKP_SHED.in_use p y) (t.get (CKP_SHED.in_use p y) - 1)
    else s

/-- Every page of the pen returns home. -/
def State.pagesHome (s : State) (p : Nat) : State :=
  (List.range 8).foldl (fun t y => (((t.yard y).pages.map (·.1)).foldl (fun u pg => u.pageHome p y pg) t).showWaiting y) s

/-- The slot a new root goes to (R427): an empty one, else that of the oldest published root. -/
def rootSlot (n : Nat) (roots : List (Nat × Nat)) : Nat :=
  match (List.range n).find? fun i => !roots.any (fun r => r.1 == i) with
  | some i => i
  | none => (roots.foldl (fun a r => if r.2 < a.2 then r else a) (roots.headD (0, 0))).1

/-- The checkpoint unit is IDLE with nothing of a checkpoint left but its log of extents and roots. -/
def State.ckpIdle (s : State) (p : Nat) : State :=
  (s.setCkp p (s.ckp p).kept).set (CKP_STAT.state p) 0

/-- A checkpoint of pen p ends unpublished: pages home, recorded, the unit IDLE; the coordinator tells the members, a member the
coordinator (log entry 26). -/
def State.dropCkp (s : State) (p code : Nat) : State :=
  let s1 := ((s.pagesHome p).ckpError p code (s.ckp p).step.toNat).ckpIdle p
  if s.flag (CKP_STAT.coordinator p) then s1.tellMembers p (ckpBlk p + 0x40) code else s1.ckpReport p

/-- The running checkpoint of pen p is abandoned (R420, R421). -/
def State.abandonCkp (s : State) (p code : Nat) : State :=
  if s.get (CKP_STAT.state p) = 1 ∨ s.get (CKP_STAT.state p) = 2 then s.dropCkp p code else s

/-! ## What a step gathers -/

/-- The clusters of a pen's contexts. -/
def State.penClusters (s : State) (p : Nat) : List (Nat × Nat) :=
  (s.penCtxs p).flatMap fun x => (s.ctxClusters x.1 x.2).map fun c => (x.1, c)

/-- The cores of a pen's contexts. -/
def State.penCores (s : State) (p : Nat) : List (Nat × Nat × Nat) :=
  (s.penClusters p).flatMap fun x => (List.range 16).map fun k => (x.1, x.2, k)

/-- The stacks whose ledger pen is p (R322). -/
def State.penStacks (s : State) (p : Nat) : List Nat := (List.range 8).filter fun y => Tab.get 15 s.lay.ledgerPen y == p

/-- The ports a pen owns. -/
def State.penPorts (s : State) (p : Nat) : List Nat := (List.range 64).filter fun n => s.get (PRT_CTL.owner n) == p

/-- The sum of a field over a list of units. -/
def State.total {α : Type} (s : State) (l : List α) (f : α → Fld) : Nat := (l.map fun x => s.get (f x)).sum

/-- The sum of a 1-bit or counting field over cores. -/
def State.overCores (s : State) (p : Nat) (f : Nat → Nat → Nat → Fld) : Nat := s.total (s.penCores p) fun x => f x.1 x.2.1 x.2.2
def State.overClusters (s : State) (p : Nat) (f : Nat → Nat → Fld) : Nat := s.total (s.penClusters p) fun x => f x.1 x.2
def State.overCtxs (s : State) (p : Nat) (f : Nat → Nat → Fld) : Nat := s.total (s.penCtxs p) fun x => f x.1 x.2
def State.overStacks (s : State) (p : Nat) (f : Nat → Fld) : Nat := s.total (s.penStacks p) f
/-- A count of the exchange converters and engine blocks for the pen's commands (R249, R310, R322). -/
def State.overBlocks (s : State) (p : Nat) (f : EngCount → Nat) : Nat :=
  ((List.range 8).map fun y => f (s.engCount y false p) + f (s.engCount y true p)).sum
def State.overPorts (s : State) (p : Nat) (f : Nat → Fld) : Nat := s.total (s.penPorts p) f

/-- Two digest entries combined (R318); of two tensor identifiers the lower stays and conflict is set (R390). -/
def Dig.combine (a b : Dig) : Dig :=
  if !a.used then b else if !b.used then a
  else { sum := a.sum + b.sum, tid := if a.tid ≤ b.tid then a.tid else b.tid, used := true, poison := a.poison || b.poison,
         conflict := a.conflict || b.conflict || a.tid != b.tid, count := min (a.count + b.count) (2 ^ 64 - 1) }

/-- The digest tables of a pen's contexts summed entry by entry (R322). -/
def State.penDigests (s : State) (p : Nat) : Tab Dig :=
  (s.penCtxs p).foldl (fun t x => (s.ctx x.1 x.2).dig.foldl (fun u e =>
    Tab.set Dig.zero u e.1 ((Tab.get Dig.zero u e.1).combine e.2)) t) []

/-- A digest entry in 32 bytes (R319). -/
def Dig.bytes (e : Dig) : List Byte :=
  leBytes 16 e.sum.toNat ++ leBytes 4 e.tid.toNat ++ leBytes 4 (e.used.toNat + 2 * e.poison.toNat + 4 * e.conflict.toNat) ++
    leBytes 8 e.count

/-- A count in n bytes, stopping at all ones. -/
def cnt (n v : Nat) : List Byte := leBytes n (min v (2 ^ (8 * n) - 1))

/-- The stack with the highest hot ratio among the pen's ledger stacks, the lowest of those that tie (R324). -/
def State.hotStack (s : State) (p : Nat) : Nat :=
  let l := s.penStacks p
  l.foldl (fun b y => if s.get (YRD_STEP.hot_ratio b) < s.get (YRD_STEP.hot_ratio y) then y else b) (l.headD 0)

/-- What the team unit puts into a record: T and its count (R327). -/
def TeamVal.none : TeamVal := ⟨0, false, 0, 0, 0, false, false, false⟩

/-- Is the pen in team operation with a partner (R333, R337)? -/
def State.teamOn (s : State) (p : Nat) : Bool := s.flag (LDG_TEAM.enable p) && !s.flag (LDG_TEAM_STAT.solo_active p)

/-- The team input table, where the pen may read it (R13, R411, R442). -/
def State.teamTable (s : State) (p : Nat) : Option Nat :=
  let g := s.get (LDG_TEAM_IN.base p) * 64
  if s.ownPackage g && s.penReach (some p) (localOf g) 64 then some (localOf g) else none

/-- The team value of step n (R327): of the record's digest entries, or of the team input table. A table that cannot be read, or that is
delivered poisoned, makes the value poisoned, since the pen cannot vouch for it (R331; log entry 113). -/
def State.teamValue (s : State) (p n : Nat) (digs : List Dig) (void : Bool) : TeamVal :=
  let tag := s.get (LDG_JOB.tag p)
  if s.flag (LDG_TEAM.scope p) then
    match s.teamTable p with
    | none => { step := BitVec.ofNat 64 n, scope := true, tag := BitVec.ofNat 64 tag, t := 0, count := 0, void := void, poison := true, stale := false }
    | some a =>
      { step := BitVec.ofNat 64 n, scope := true, tag := BitVec.ofNat 64 tag, t := BitVec.ofNat 128 (s.readNat (a + 8) 16),
        count := BitVec.ofNat 64 (s.readNat (a + 24) 8), void := void, poison := s.readBad a 64 || bitOf (s.readNat (a + 32) 4) 0,
        stale := s.readNat a 8 != n }
  else
    { step := BitVec.ofNat 64 n, scope := false, tag := BitVec.ofNat 64 tag, t := (digs.map (·.sum)).sum,
      count := BitVec.ofNat 64 (digs.map (·.count)).sum, void := void, poison := digs.any (·.poison), stale := false }

/-- The flags of a record known when it is written (R324). -/
def State.recordFlags (s : State) (p : Nat) (digs : List Dig) (void : Bool) : Nat :=
  let r := s.pen p
  (void.toNat + 2 * (decide (0 < s.overCtxs p SEQ_GOV_STAT.stale)).toNat + 4 * (digs.any (·.conflict)).toNat +
    8 * (digs.any (·.poison)).toNat + 16 * r.shrink.toNat + 128 * (s.flag (LDG_TEAM_STAT.solo_active p)).toNat +
    256 * (decide (0 < r.lost)).toNat) ||| r.flags

/-- The largest SEQ_CYC increase of the pen's contexts in the step, and the sum of their held cycles (R324). -/
def State.stepCycles (s : State) (p : Nat) : Nat × Nat :=
  (s.penCtxs p).foldl (fun a x =>
    let c := s.ctx x.1 x.2
    (max a.1 (s.get (SEQ_CYC.cycles x.1 x.2) - c.cycMark), a.2 + (s.get (SEQ_HELD.cycles x.1 x.2) - c.heldMark))) (0, 0)

/-- Cores of the pen with a one-bit flag. -/
def State.coresWith (s : State) (p : Nat) (f : Nat → Nat → Nat → Fld) : Nat := s.overCores p f

/-- The units in a nanosecond in which stretch time is kept: the least common multiple of 17 to 24, so that a microsecond at every level is
a whole number of them (R515). -/
abbrev stretchUnit : Nat := 205931880

/-- The ledger record of step n of pen p (R324), with a team value. -/
def State.recordBytes (s : State) (p n : Nat) (digs : List Dig) (tv : TeamVal) (void : Bool) : List Byte :=
  let r := s.pen p
  let cyc := s.stepCycles p
  let hot := s.hotStack p
  let head := leBytes 4 0x53444C47 ++ leBytes 2 1 ++ cnt 2 (8 + digs.length) ++ leBytes 8 n ++ leBytes 2 s.package ++ leBytes 1 p ++
    leBytes 1 (s.penCtxs p).length ++ cnt 4 digs.length ++ leBytes 8 (s.get (LDG_JOB.tag p)) ++ cnt 8 cyc.1 ++ cnt 8 cyc.2 ++
    leBytes 8 (s.get CD_TIME.ns) ++ leBytes 4 (s.recordFlags p digs void) ++ leBytes 4 r.reason
  let numerics := cnt 4 r.sat ++ cnt 4 r.unf ++ cnt 4 r.nan ++ cnt 4 r.inf ++ cnt 4 r.ovf ++
    cnt 2 (s.coresWith p CORE_STATUS.lane_sat) ++ cnt 2 (s.coresWith p CORE_STATUS.fu_domain) ++
    cnt 2 (s.coresWith p CORE_STATUS.poison_seen) ++ cnt 2 (s.overCtxs p SEQ_DL_POINT.deadlines) ++
    cnt 4 (s.overClusters p CORE_PIV_STEP.pert) ++ cnt 4 (s.overClusters p CORE_PIV_STEP.sat) ++
    cnt 2 (s.overCtxs p SEQ_GOV_STAT.changed) ++ leBytes 2 0 ++ cnt 4 (s.overCtxs p SEQ_GOV_STAT.rb_sat) ++
    cnt 4 (s.overCtxs p SEQ_GOV_STAT.rb_unf)
  let yards := cnt 4 (s.overBlocks p (·.cmds)) ++ cnt 4 (s.overBlocks p (·.errs)) ++ cnt 4 (s.overBlocks p (·.sat)) ++
    cnt 4 (s.overBlocks p (·.unf))
  let health := cnt 4 (s.overCores p CORE_ECC.stall_ce) ++ cnt 4 (s.overCores p CORE_ECC.stall_ue) ++
    cnt 4 (s.overClusters p CORE_LOFT_ECC.ce) ++ cnt 4 (s.overClusters p CORE_LOFT_ECC.ue) ++
    cnt 4 (s.overCores p CORE_ECC.acc_parity) ++ cnt 3 (s.overCtxs p SEQ_STORE_ECC.ce) ++ cnt 1 (s.overCtxs p SEQ_STORE_ECC.ue) ++
    cnt 4 (s.overStacks p YRD_ECC.ce) ++ cnt 4 (s.overStacks p YRD_ECC.ue) ++ cnt 4 (s.overStacks p YRD_ECC.poison_rd)
  let timing := cnt 4 (s.overStacks p YRD_STEP.trr) ++ cnt 8 (s.overStacks p YRD_REFSTALL.ns) ++ leBytes 1 hot ++
    leBytes 1 (s.get (YRD_STEP.hot_ch hot)) ++ cnt 2 (s.get (YRD_STEP.hot_ratio hot)) ++ cnt 4 (s.overPorts p PRT_CNT.retries) ++
    cnt 4 (s.overPorts p PRT_CNT.fec_ce / 1024) ++ cnt 4 r.strEv ++ cnt 8 (r.strNs / stretchUnit) ++ cnt 8 r.shedNs ++
    cnt 4 (((List.range 8).map fun y => s.get (CKP_SHED.peak p y)).sum) ++ cnt 4 r.lost
  let team := leBytes 16 tv.t.toNat ++ leBytes 8 tv.count.toNat ++ leBytes 16 0
  head ++ numerics ++ yards ++ health ++ timing ++ team ++ digs.flatMap Dig.bytes

/-- The per-step registers of a stack (R302, R304, R306, R307); the address record of R303 stays until software clears it. -/
def yardStepFlds (y : Nat) : List Fld :=
  [YRD_ECC.ce y, YRD_ECC.ue y, YRD_ECC.poison_rd y,
   YRD_STEP.hot_ch y, YRD_STEP.hot_ratio y, YRD_STEP.trr y, YRD_REFSTALL.ns y, YRD_CACHE_CNT.hits y, YRD_CACHE_CNT.misses y,
   YRD_CACHE_CNT.atomics y] ++
  (List.range 64).flatMap fun c => [MCH_ECC.ce y c, MCH_ECC.ue y c, MCH_ECC.trr y c] ++ (List.range 4).map fun k => MCH_SLOTS.cls y c k

/-- The per-step registers of a core (R104 to R108). -/
def coreStepFlds (d c k : Nat) : List Fld :=
  [CORE_STATUS.poison_seen d c k, CORE_STATUS.lane_sat d c k, CORE_STATUS.fu_domain d c k, CORE_ECC.stall_ce d c k,
   CORE_ECC.stall_ue d c k, CORE_ECC.acc_parity d c k, CORE_ECC_ADDR.word d c k, CORE_ECC_ADDR.valid d c k]

/-- The per-step registers of a cluster (R104, R112, R113, R225). -/
def clusterStepFlds (d c : Nat) : List Fld :=
  [CORE_LOFT_ECC.ce d c, CORE_LOFT_ECC.ue d c, CORE_LOFT_UEADDR.word d c, CORE_LOFT_UEADDR.valid d c, CORE_PIV_STEP.pert d c,
   CORE_PIV_STEP.sat d c]

/-- The per-step registers of a context (R166, R192, R228). -/
def ctxStepFlds (d h : Nat) : List Fld :=
  [SEQ_STORE_ECC.ce d h, SEQ_STORE_ECC.ue d h, SEQ_STORE_ECC.ue_unit d h, SEQ_STORE_ECC.valid d h, SEQ_GOV_STAT.changed d h,
   SEQ_GOV_STAT.stale d h, SEQ_GOV_STAT.rb_sat d h, SEQ_GOV_STAT.rb_unf d h, SEQ_DL_POINT.deadlines d h]

/-- The per-step registers of a port (R375). -/
def portStepFlds (n : Nat) : List Fld := [PRT_CNT.retries n, PRT_CNT.fec_ce n, PRT_CNT.crc_fail n, PRT_CNT.down n]

/-- The per-step registers of a fabric die (R370), restarted at the boundary of a pen that owns a port of it (log entry 21). -/
def fabStepFlds (f : Nat) : List Fld := [FAB_CNT.unroute f, FAB_CNT.hops f, FAB_CNT.lost f, FAB_CNT.addr f]

/-- A context's tables and marks restart for the next step (R179, R319, R322). -/
def State.ctxNewStep (s : State) (d h : Nat) : State :=
  s.setCtx d h { s.ctx d h with gov := [], dig := [], cycMark := s.get (SEQ_CYC.cycles d h),
                                heldMark := s.get (SEQ_HELD.cycles d h) }

/-- A stack's internal per-step counts restart. -/
def State.yardNewStep (s : State) (y : Nat) : State := s.setYard y { s.yard y with slots := [], atomics := 0 }

/-- The step that closes is the first on a new membership: its number goes into the newest membership record (R314, R437). -/
def State.datesShrink (s : State) (p : Nat) : State :=
  if (s.pen p).shrink then
    let k := s.ckp p
    match k.members.reverse with
    | m :: l => s.setCkp p { k with members := l.reverse ++ [(s.get (LDG_STEP.step p), m.2)] }
    | [] => s
  else s

/-- The shed pages of stack y that the pen's redirected pages are in. -/
def State.shedUsed (s : State) (p y : Nat) : Nat :=
  ((s.yard y).pages.filter fun e => match e.2 with | .redirected q _ => q == p | _ => false).length

/-- The pen's counts of the step restart; CKP_SHED.in_use and CKP_SHED.peak start from the pages that are in use (R439; log entry 119). -/
def State.penNewStep (s0 : State) (p : Nat) : State :=
  let s := s0.datesShrink p
  let r := s.pen p
  let s1 := s.setPen p { r with sat := 0, unf := 0, nan := 0, inf := 0, ovf := 0, shedNs := 0, strEv := 0, strNs := 0,
                                shrink := false, flags := 0, reason := 0 }
  (List.range 8).foldl (fun t y => (t.set (CKP_SHED.in_use p y) (t.shedUsed p y)).set (CKP_SHED.peak p y) (t.shedUsed p y)) s1

/-- The counts of the pen's commands restart in every block (R249, R310); those of commands of no pen restart with the stack's ledger pen (log
entry 92). -/
def State.blocksNewStep (s : State) (p : Nat) : State :=
  (List.range 8).foldl (fun t y =>
    let own := if (s.penStacks p).contains y then [p, 15] else [p]
    own.foldl (fun u q => (u.setEngCount y false q EngCount.zero).setEngCount y true q EngCount.zero) t) s

/-- Everything R322 gathered is cleared. -/
def State.clearStep (s : State) (p : Nat) : State :=
  let fabs := ((s.penPorts p).map (· / 32)).eraseDups
  let flds := (s.penCores p).flatMap (fun x => coreStepFlds x.1 x.2.1 x.2.2) ++ (s.penClusters p).flatMap (fun x => clusterStepFlds x.1 x.2) ++
    (s.penCtxs p).flatMap (fun x => ctxStepFlds x.1 x.2) ++ (s.penStacks p).flatMap yardStepFlds ++
    (s.penPorts p).flatMap portStepFlds ++ fabs.flatMap fabStepFlds
  let s1 := s.clearFlds flds
  let s2 := (s.penCtxs p).foldl (fun t x => t.ctxNewStep x.1 x.2) s1
  (((s.penStacks p).foldl State.yardNewStep s2).blocksNewStep p).penNewStep p

/-! ## The ring (R325) -/

/-- Where a record of L bytes goes in a ring of S bytes with head h and tail t: its offset, the new head, and whether it restarts at
offset 0. The head never catches the tail from behind (log entry 22). -/
def ringPlace (h t S L : Nat) : Option (Nat × Nat × Bool) :=
  if t ≤ h then
    if L < S - h ∨ (L = S - h ∧ t ≠ 0) then some (h, (h + L) % S, false)
    else if L < t then some (0, L, true)
    else none
  else if h + L < t then some (h, h + L, false)
  else none

/-- The tail after the oldest record of pen p's ring is dropped, with how many records that was: a zero word marks the wrap point. -/
def State.dropOldest (s : State) (p t : Nat) : Nat × Nat :=
  let a := localOf (s.get (LDG_BASE.base p) * 4096)
  if s.readNat (a + t) 4 = 0 then (0, 0)
  else ((t + 32 * s.readNat (a + t + 6) 2) % max 1 (s.get (LDG_SIZE.size p) * 4096), 1)

/-- Oldest records are dropped until a record of L bytes fits (R325): the tail and how many were dropped. -/
def State.makeRoom (s : State) (p L : Nat) : Nat → Nat → Nat → Nat × Nat
  | 0, t, n => (t, n)
  | fuel + 1, t, n =>
    let h := s.get (LDG_HEAD.offset p)
    if (ringPlace h t (s.get (LDG_SIZE.size p) * 4096) L).isSome || h == t then (t, n)
    else
      let r := s.dropOldest p t
      s.makeRoom p L fuel r.1 (n + r.2)

/-- Behind the accesses of a unit of the control die for pen p, in class P2 where the spec names no class (log entry 109). -/
def ctlVia (who : Nat) (p : Option Nat) : Via := { pen := p, port := .control, cls := 2, who := who }

/-- In GLOBAL scope the ledger unit reads the team input table (R327). -/
def State.readTeamIn (s : State) (p : Nat) : State :=
  match s.flag (LDG_TEAM.scope p), s.teamTable p with
  | true, some a => s.countRead (ctlVia 1 (some p)) a 64
  | _, _ => s

/-- Records are lost (R325, R336). -/
def State.loseRecords (s : State) (p n : Nat) : State :=
  (s.inc (LDG_STAT.lost p) n).setPen p { (s.inc (LDG_STAT.lost p) n).pen p with lost := (s.pen p).lost + n }

/-- Does the ring hold a record of L bytes now? -/
def State.ringFits (s : State) (p L : Nat) : Bool :=
  (ringPlace (s.get (LDG_HEAD.offset p)) (s.get (LDG_TAIL.offset p)) (s.get (LDG_SIZE.size p) * 4096) L).isSome

/-- A record is written at the head without being published (R325): the pen remembers where it lies and the head after it. -/
def State.placeRecord (s : State) (p : Nat) (bs : List Byte) : State :=
  let a := localOf (s.get (LDG_BASE.base p) * 4096)
  let h := s.get (LDG_HEAD.offset p)
  match ringPlace h (s.get (LDG_TAIL.offset p)) (s.get (LDG_SIZE.size p) * 4096) bs.length with
  | none => s.loseRecords p 1
  | some (o, h', wrap) =>
    let s1 := if wrap then s.localWrite (ctlVia 1 (some p)) (a + h) (leBytes 4 0) false else s
    let s2 := s1.localWrite (ctlVia 1 (some p)) (a + o) bs false
    s2.setPen p { s2.pen p with pubLen := h' + 1, pubHead := o, lost := 0, flags := 0, reason := 0 }

/-- A record is written (R325): discarded and counted while the ledger is off; in overwrite mode the oldest make room, and the record, made
from the state then, counts them; without room it is lost. The caller holds the pen where hold mode asks for it. -/
def State.writeRecord (s : State) (p : Nat) (bs : State → List Byte) : State :=
  if !s.flag (LDG_CTL.enable p) then s.loseRecords p 1
  else if s.ringFits p (bs s).length || !s.flag (LDG_CTL.full_mode p) then s.placeRecord p (bs s)
  else
    let r := s.makeRoom p (bs s).length (s.get (LDG_SIZE.size p) * 128 + 1) (s.get (LDG_TAIL.offset p)) 0
    let s1 := (s.set (LDG_TAIL.offset p) r.1).loseRecords p r.2
    s1.placeRecord p (bs s1)

/-- The written record is published: LDG_HEAD moves past it (R325, R332). -/
def State.publish (s : State) (p : Nat) : State :=
  let r := s.pen p
  if r.pubLen = 0 then s
  else (s.set (LDG_HEAD.offset p) (r.pubLen - 1)).setPen p { r with pubLen := 0 }

/-- The record written last, as the ring holds it; nothing while the ledger is off. -/
def State.lastRecord (s : State) (p : Nat) : List Byte :=
  let a := localOf (s.get (LDG_BASE.base p) * 4096) + (s.pen p).pubHead
  if s.flag (LDG_CTL.enable p) then s.read a (32 * s.readNat (a + 6) 2) else []

/-- Flags and reason added to the record that is written and not yet published (R332). -/
def State.patchRecord (s : State) (p flags reason : Nat) : State :=
  let r := s.pen p
  if r.pubLen = 0 then s
  else
    let a := localOf (s.get (LDG_BASE.base p) * 4096) + r.pubHead + 56
    let f := s.readNat a 4 ||| flags
    s.localWrite (ctlVia 1 (some p)) a (leBytes 4 f ++ leBytes 4 (if reason = 0 then s.readNat (a + 4) 4 else reason)) false

/-! ## Team frames (R328) -/

/-- The 64-byte team frame of a value. -/
def TeamVal.frame (v : TeamVal) (p : Nat) : List Byte :=
  leBytes 4 0x4D414554 ++ leBytes 1 p ++ leBytes 1 v.scope.toNat ++ leBytes 2 (v.void.toNat + 2 * v.poison.toNat) ++
    leBytes 8 v.step.toNat ++ leBytes 8 v.tag.toNat ++ leBytes 16 v.t.toNat ++ leBytes 8 v.count.toNat ++ leBytes 16 0

/-- The value a frame carries. -/
def teamOf (b : List Byte) : TeamVal :=
  { step := BitVec.ofNat 64 (fieldNat b 8 8), scope := bitOf (fieldNat b 5 1) 0, tag := BitVec.ofNat 64 (fieldNat b 16 8),
    t := BitVec.ofNat 128 (fieldNat b 24 16), count := BitVec.ofNat 64 (fieldNat b 40 8), void := bitOf (fieldNat b 6 2) 0,
    poison := bitOf (fieldNat b 6 2) 1, stale := false }

/-- The frame leaves on the port LDG_TEAM.port in the expedited class (R328). A port that takes no new packets (R358, R363) takes no frame
either: it is discarded and counted as R358 says of a packet without a usable port (log entry 115). -/
def State.sendFrame (s : State) (p : Nat) (v : TeamVal) : State :=
  let n := s.get (LDG_TEAM.port p)
  if !s.portUsable p n then s.inc (FAB_CNT.unroute (n / 32)) 1
  else s.enqueue n 64
    { ptype := .team, exped := true, hops := 0, dst := BitVec.ofNat 16 (s.get (LDG_TEAM.partner p)), src := BitVec.ofNat 16 s.package,
      group := 0, mask := 0, tag := 0, wordA := 0, wordB := 0, payload := v.frame p } 0

/-- The own value is kept for the comparison, at most as many as the mode looks back (R329, R330), and its frame is sent. -/
def State.teamSend (s : State) (p : Nat) (v : TeamVal) : State :=
  if !s.teamOn p then s
  else
    let r := s.pen p
    (s.setPen p { r with own := r.own ++ [v] }).sendFrame p v

/-- The VOID record and VOID frame of a void step (R495, R334). -/
def State.voidRecord (s : State) (p : Nat) : State :=
  let n := s.get (LDG_STEP.step p)
  let digs := ((s.penDigests p).map (·.2)).filter (·.used)
  let v := s.teamValue p n digs true
  ((((s.readTeamIn p).notHeld ((s.readTeamIn p).writeRecord p fun t => t.recordBytes p n digs TeamVal.none true)).publish p).teamSend p v)

end Sys2Proof.Machine
end

