-- ==== Sys2Proof/Machine/Share.lean ====
section
/-!
DEFINITION. Share.lean: a pen takes its share of an armed shadow layout: routing table, groups, TEAM entry (R383, R453), and what that makes
of checkpoint groups (R419, R435, R437).
-/

namespace Sys2Proof.Machine

/-! ## Sections (R445, R447) -/

/-- Directory entry i: type, offset, length, and whether its reserved fields are zero. -/
def dirEntry (m : List Byte) (i : Nat) : Nat × Nat × Nat × Bool :=
  let b := fieldBytes m (128 + 16 * i) 16
  (fieldNat b 0 2, fieldNat b 4 4, fieldNat b 8 4, fieldNat b 2 2 == 0 && fieldNat b 12 4 == 0)

/-- The number of sections. -/
def secCount (m : List Byte) : Nat := fieldNat m 12 2

/-- The directory. -/
def directory (m : List Byte) : List (Nat × Nat × Nat × Bool) := (List.range (secCount m)).map (dirEntry m)

/-- The bytes of the section of a type; none where it is absent. -/
def secBytes (m : List Byte) (t : Nat) : List Byte :=
  match (directory m).find? fun e => e.1 == t with
  | some e => fieldBytes m e.2.1 e.2.2.1
  | none => []

/-- Is a section present? -/
def hasSec (m : List Byte) (t : Nat) : Bool := (directory m).any fun e => e.1 == t

/-- TEAM entry p. -/
def teamEnt (m : List Byte) (p : Nat) : List Byte := fieldBytes (secBytes m 10) (8 * p) 8

/-! ## Group tables (R383) -/

/-- Fields are written one after the other. -/
def State.setAll (s : State) (l : List (Fld × Nat)) : State := l.foldl (fun t x => t.set x.1 x.2) s

/-- This unit is the coordinator: the package has rank 0 in the checkpoint group's active descriptor (R419). -/
def State.showCoord (s : State) (p : Nat) : State :=
  let d := s.gdesc (s.get (CKP_CTL.group p))
  s.setB (CKP_STAT.coordinator p) (s.flag (CKP_CTL.enable p) && d.valid && d.pen == p && d.rank == 0)

/-- The pens of the active layout. -/
def State.penList (s : State) : List Nat := (List.range 8).filter fun p => s.flag (PEN_INFO.used p)

/-- The mask of a list of pens. -/
def maskOf (l : List Nat) : Nat := (l.map (2 ^ ·)).sum

/-- Every pen has taken its groups from the shadow table of die f: it is the active table now, and the table it replaces the next shadow
(log entry 40). -/
def State.tableSwapped (s : State) (f : Nat) : State :=
  if Tab.get 0 s.lay.grpTaken f = maskOf s.penList then
    let a := s.get (GRP_TBL.base f)
    let s1 := ((s.set (GRP_TBL.base f) (s.get (GRP_TBL_S.base f))).set (GRP_TBL_S.base f) a).set (GRP_SWAP.armed f) 0
    s1.setLay { s1.lay with grpTaken := Tab.set 0 s1.lay.grpTaken f 0 }
  else s

/-- The swap from `old` made the pen's checkpoint group smaller (R314, R435): the next record carries SHRINK, and a membership record begins,
its step to be filled in (R437). Log entry 42. -/
def State.noteShrink (s old : State) (p : Nat) : State :=
  let a := old.gdesc (s.get (CKP_CTL.group p))
  let b := s.gdesc (s.get (CKP_CTL.group p))
  if s.flag (CKP_CTL.enable p) && a.valid && b.valid && a.pen == p && b.pen == p && decide (b.n < a.n) then
    let was := (List.range a.n).map (old.memberAt a)
    let now := (List.range b.n).map (s.memberAt b)
    let s1 := s.setPen p { s.pen p with shrink := true }
    s1.setCkp p { s1.ckp p with members := (s1.ckp p).members ++ [(0, a.n, b.n, was.filter fun x => !now.contains x)] }
  else s

/-- Pen p takes its groups from an armed shadow table of die f; `bound` says that it does so at a step boundary, which GRP_SWAP.swapped shows
(R404). -/
def State.takeTable (s : State) (p f : Nat) (bound : Bool) : State :=
  if s.flag (GRP_SWAP.armed f) then
    let t := Tab.get 0 s.lay.grpTaken f
    let s0 := if bound then s.set (GRP_SWAP.swapped f) 1 else s
    let s1 := (s0.setLay { s0.lay with grpTaken := Tab.set 0 s0.lay.grpTaken f (t ||| 2 ^ p) }).tableSwapped f
    (s1.noteShrink s p).showCoord p
  else s

/-! ## Shares (R453) -/

/-- TEAM entry p (R447). -/
def teamVals (m : List Byte) (p : Nat) : List (Fld × Nat) :=
  let b := teamEnt m p
  let f := fieldNat b 0 1
  [(LDG_TEAM.enable p, bitsOf f 0 1), (LDG_TEAM.scope p, bitsOf f 1 1), (LDG_TEAM.lagged p, bitsOf f 2 1), (LDG_TEAM.lag p, fieldNat b 1 1),
   (LDG_TEAM.port p, fieldNat b 2 1), (LDG_TEAM.partner p, fieldNat b 4 2)]

/-- With no pen pending an ARMED shadow is the active image (R453). -/
def State.shareDone (s : State) : State :=
  if s.get LAY_STATUS.shadow = 2 ∧ s.get LAY_STATUS.pending = 0 then
    ((s.set LAY_STATUS.shadow 0).set LAY_ID.id (fieldNat s.lay.shadow 16 8)).setLay { s.lay with image := s.lay.shadow, shadow := [] }
  else s

/-- Pen p takes its share of an ARMED shadow (R453): routing table, groups, TEAM entry. -/
def State.takeShare (s : State) (p : Nat) (bound : Bool) : State :=
  if s.get LAY_STATUS.shadow = 2 ∧ bitOf (s.get LAY_STATUS.pending) p = true then
    let m := s.lay.shadow
    let mine := fun (e : Nat × Nat) => e.1 / 65536 == p
    let rs := s.routes.filter (fun e => decide (e.1 / 65536 < p)) ++ s.shadowRoutes.filter mine ++
      s.routes.filter (fun e => decide (p < e.1 / 65536))
    let s1 := ({ s with routes := rs } : State).setAll (teamVals m p)
    let s2 := (s1.takeTable p 0 bound).takeTable p 1 bound
    (s2.set LAY_STATUS.pending (s2.get LAY_STATUS.pending - 2 ^ p)).shareDone
  else (s.takeTable p 0 bound).takeTable p 1 bound

/-- A pen with no context in RUN or HELD takes its share at once (R383, R453). -/
def State.shareIfIdle (s : State) (p : Nat) : State := if s.penRunning p then s else s.takeShare p false

/-- The share a boundary takes: a pen whose action 5 began before the arm checks were complete waits for its next boundary (R453). -/
def State.shareAtBound (s : State) (p : Nat) : State :=
  let s1 := [0, 1].foldl (fun t f => t.set (GRP_SWAP.swapped f) 0) s
  if s1.get LAY_STATUS.shadow = 2 ∧ bitOf (s1.get LAY_STATUS.pending) p = true ∧ (s1.pen p).share = false then s1 else s1.takeShare p true

end Sys2Proof.Machine
end

