-- ==== Sys2Proof/Machine/Faults.lean ====
section
/-!
DEFINITION. Faults.lean: rings of beats becoming visible (R146), held cycles (R150), step void (R495), freezes (R497 to R502), context, pen, die and package faults (R140, R169, R489 to R494),
ERR_RSP at the source (R354, R371).
-/

namespace Sys2Proof.Machine

/-! ## Rings not yet visible, held cycles -/

/-- The rings of a context's beats whose new counts are visible by cadence cycle t (R146). -/
def State.landRings (s : State) (d h t : Nat) : State :=
  let due := (s.ctx d h).rings.filter fun x => decide (x.1 ≤ t)
  if due.isEmpty then s
  else due.foldl (fun u x => u.ringOwn (u.ctxPen d h) d x.2.1 x.2.2 false)
    (s.setCtx d h { s.ctx d h with rings := (s.ctx d h).rings.filter fun x => !decide (x.1 ≤ t) })

/-- All of them: the package's clock goes on where cadence cycles stand still. -/
def State.landAllRings (s : State) (d h : Nat) : State := s.landRings d h (((s.ctx d h).rings.map (·.1)).foldl max 0)

/-- The cycles a context has been held are a free value of at least one (log entry 23): they are no function of the state. -/
def State.countHeld (s : State) (d h : Nat) : State :=
  let r := s.draw
  r.2.inc (SEQ_HELD.cycles d h) (1 + r.1.toNat % 2 ^ 32)

/-! ## A void step -/

/-- The step in progress of pen p is void on this package (R495). -/
def State.stepVoid (s : State) (p : Nat) : State :=
  ((((s.endPenColls p).stopYards p).voidRecord p).abandonCkp p 7)

/-! ## Freezes -/

/-- Does the pen have a die DMA entry, a yard command or a collective in flight (R500)? -/
def State.penInFlight (s : State) (p : Nat) : Bool :=
  ((s.penCtxs p).any fun x => !(s.ctx x.1 x.2).dmaq.isEmpty) || s.penCommands p || s.penColls p

/-- Half-dies are frozen (R497, R498). A further trigger sets more and adds its half-dies; the freeze is resumable only if every trigger
left it so (R502). -/
def State.freezeHalves (s : State) (halves cause : Nat) (resumable : Bool) (step : Nat) : State :=
  if s.pkgFrozen then s.set FRZ_STAT.more 1
  else if s.get FRZ_STAT.state = 1 then
    ((s.set FRZ_STAT.halves (s.get FRZ_STAT.halves ||| halves)).set FRZ_STAT.more 1).setB FRZ_STAT.resumable
      (s.flag FRZ_STAT.resumable && resumable)
  else
    ((((((s.set FRZ_STAT.state 1).set FRZ_STAT.halves halves).set FRZ_STAT.cause cause).setB FRZ_STAT.resumable resumable).set
      FRZ_STAT.more 0).set FRZ_STEP.step step).alert

/-- A pen is frozen (R497, R500): at a boundary the freeze is resumable; otherwise it is when no work was in flight, and a freeze that
stops work voids the step. A yard command of the pen that runs then stops (R245). A pen frozen already only notes the further trigger (R502). -/
def State.penFreeze (s : State) (p cause : Nat) (boundary : Bool) : State :=
  let clean := boundary || !s.penInFlight p
  let s1 := if clean then s.stopYards p else s.stepVoid p
  if s.penFrozen p then s.set FRZ_STAT.more 1
  else s1.freezeHalves (s1.get (PEN_INFO.halves p)) cause clean (s1.get (LDG_STEP.step p))

/-- A package freeze (R497 to R499): every clock domain stops, yard commands with it (R245), the channels enter self-refresh (R266), unpublished
checkpoints are abandoned (R421), a running layout load is abandoned (R502). -/
def State.packageFreeze (s : State) (cause : Nat) : State :=
  if s.pkgFrozen then s.set FRZ_STAT.more 1
  else
    let more := s.get FRZ_STAT.state = 1
    let s1 := (List.range 8).foldl (fun t p => t.abandonCkp p 7) s.stopAllYards
    let s2 := (List.range 8).foldl (fun t y => t.set (YRD_STATUS.self_refresh y) 1) s1
    let s3 := if s2.get LAY_STATUS.state = 1 then (s2.set LAY_STATUS.state 0).setLay { s2.lay with checking := [] } else s2
    ((((((s3.set FRZ_STAT.state 2).set FRZ_STAT.halves 255).set FRZ_STAT.cause cause).set FRZ_STAT.resumable 0).setB FRZ_STAT.more
      more)).alert

/-! ## Pen faults -/

/-- A context enters FAULT (R140, R162): its operations in flight complete, its status is recorded, SEQ_PC stays at the faulting beat, no
boundary or hold goes on; the cycles of a hold that ends so are counted (R150, R164). -/
def State.enterFault (s : State) (d h code cluster core : Nat) : State :=
  let held := if s.cstate d h = 4 then s.countHeld d h else s
  let s0 := (held.enginesFinish d h 9 (s.get (SEQ_CYC.cycles d h))).landAllRings d h
  let s1 := ((((s0.set (SEQ_STATUS.state d h) 6).set (SEQ_STATUS.held_reason d h) 0).set (SEQ_STATUS.fault_code d h) code).set
    (SEQ_STATUS.fault_cluster d h) cluster).set (SEQ_STATUS.fault_core d h) core
  s1.setCtx d h { s1.ctx d h with phase := .none, hold := 0 }

/-- The other contexts of the pen stop with a code (R490, R491). -/
def State.stopPen (s : State) (p : Nat) (code : Nat × Nat → Nat) : State :=
  (s.penCtxs p).foldl (fun t x => if t.running x.1 x.2 then t.enterFault x.1 x.2 (code x) 0 0 else t) s

/-- What a pen fault does beside the cause (R490, R495): the contexts still running stop with PEN_ABORT, the step is void, and the pen
freezes when its trigger is set (R497, R508). With no context running it takes its share of an armed shadow (R453). -/
def State.penFault (s : State) (p : Nat) : State :=
  let s1 := (s.stopPen p fun _ => 0x37).stepVoid p
  let s2 := (s1.setPen p { s1.pen p with boundary := .none }).takeShare p false
  if s2.flag (FRZ_TRIG.on_fault p) then
    s2.freezeHalves (s2.get (PEN_INFO.halves p)) 5 false (s2.get (LDG_STEP.step p))
  else s2

/-- A pen takes a fault that no context raised: with no context in RUN or HELD there is no step in progress to void (R396). -/
def State.penFaultIfRunning (s : State) (p : Nat) : State := if s.penRunning p then s.penFault p else s

/-- A fault stops context h of die d (R140): then the pen's (R490). -/
def State.contextFault (s : State) (d h code cluster core : Nat) : State :=
  let s1 := s.enterFault d h code cluster core
  match s1.penOfHalf d h with
  | some p => s1.penFault p
  | none => s1

/-- A core fault (R105, R106, R115): the core keeps its code, and the beats issued before the faulting one. -/
def State.coreFault (s : State) (d h code c k : Nat) : State :=
  let s1 := ((s.set (CORE_STATUS.fault d c k) 1).set (CORE_STATUS.fault_code d c k) code).set (CORE_FAULT_BEAT.beat d c k)
    (s.ctx d h).beats
  s1.contextFault d h code c k

/-! ## Collective and fabric faults -/

/-- The running collective of a group ends with a nonzero status, and the pen takes the collective fault (R396, R490). -/
def State.failColl (s : State) (g status detail rank : Nat) (bad : Nat := noChunk) : State :=
  let p := (s.gdesc g).pen
  (s.endColl g status detail rank bad).penFaultIfRunning p

/-- A command of a group ends at its checks (R388, R396): status, record, bells, fault. -/
def State.failQueued (s : State) (g w : Nat) (cmd : List Byte) (status : Nat) : State :=
  let d := s.gdesc g
  let s1 := s.endQueued g w cmd status d.rank (s.groupUsable d (s.gwinPen (w % 16)))
  match s.gwinPen (w % 16) with
  | some p => s1.penFaultIfRunning p
  | none => s1

/-- FAB_ERR records the first ERR_RSP of the die's endpoint (R371). -/
def State.fabError (s : State) (f reason pen package : Nat) : State :=
  if s.flag (FAB_ERR.valid f) then s
  else (((s.set (FAB_ERR.reason f) reason).set (FAB_ERR.pen f) pen).set (FAB_ERR.package f) package).set (FAB_ERR.valid f) 1

/-- An ERR_RSP reaches its source (R354): recorded, and the issuing pen's fabric fault. -/
def State.fabricFault (s : State) (f reason pen package : Nat) : State :=
  (s.fabError f reason pen package).penFaultIfRunning pen

/-! ## Die and package faults -/

/-- The first die or package fault is recorded (R509). -/
def State.pkgFault (s : State) (code die : Nat) : State :=
  if s.flag PKG_FAULT.valid then s else (((s.set PKG_FAULT.code code).set PKG_FAULT.die die).set PKG_FAULT.valid 1).alert

/-- The pens that hold a half of die d. -/
def State.diePens (s : State) (d : Nat) : List Nat := ([0, 1].filterMap fun h => s.penOfHalf d h).eraseDups

/-- A die fault (R490, R493): the die's contexts stop with DIE_ABORT, those of its pens elsewhere with PEN_ABORT, their steps are void,
both halves freeze and cannot resume, PKG_FAULT records it. The pens whose trigger is set freeze whole, a further trigger (R497, R502). -/
def State.dieFault (s : State) (d code : Nat) : State :=
  let s0 := s.pkgFault code d
  let faulted := (s.diePens d).filter s0.penRunning
  let s1 := (s.diePens d).foldl (fun t p =>
    if t.penRunning p then
      let u := (t.stopPen p fun x => if x.1 = d then 0x38 else 0x37).stepVoid p
      (u.setPen p { u.pen p with boundary := .none }).takeShare p false
    else t) s0
  let s2 := { s1 with deadDies := s1.deadDies ||| 2 ^ d }.freezeHalves (3 * 4 ^ d) 6 false
    ((s.diePens d).head?.elim 0 fun p => s.get (LDG_STEP.step p))
  faulted.foldl (fun t p =>
    if t.flag (FRZ_TRIG.on_fault p) then t.freezeHalves (t.get (PEN_INFO.halves p)) 5 false (t.get (LDG_STEP.step p)) else t) s2

/-- A package fault (R494): recorded, and the package freezes. -/
def State.packageFault (s : State) (code die : Nat) : State := (s.pkgFault code die).packageFreeze 7

def dieCode : DieFaultCode → Nat
  | .clock => 0x70 | .volt => 0x71 | .therm => 0x72 | .seq => 0x73 | .bell => 0x74 | .dma => 0x75
def pkgCode : PkgFaultCode → Nat
  | .bridge => 0x78 | .reference => 0x79 | .power => 0x7A | .therm => 0x7B | .fabric => 0x7C | .cd => 0x7D

/-! ## The rows -/

/-- DIE_FAULT (R493). -/
def execDieFault (d : Fin 4) (code : DieFaultCode) (s : State) : Host.Outcome State Fault Refusal :=
  if s.pkgFrozen then s.notDue else .next (s.dieFault d.val (dieCode code))

/-- PACKAGE_FAULT (R494). -/
def execPackageFault (code : PkgFaultCode) (die : Fin 8) (s : State) : Host.Outcome State Fault Refusal :=
  .next (s.packageFault (pkgCode code) die.val)

/-- FREEZE_PIN (R497): FREEZE_N held low for 20 ns; ignored before READY (R522). -/
def execFreezePin (s : State) : Host.Outcome State Fault Refusal := .next (if s.pins.ready then s.packageFreeze 1 else s)

/-- FRZ_CTL.req written with a scope (R497, R507). -/
def State.freezeRequest (s : State) (pkg : Bool) (p : Nat) (bound : Bool) : State :=
  let s1 := ((s.setB FRZ_CTL.pkg pkg).set FRZ_CTL.pen p).setB FRZ_CTL.at_boundary bound
  if pkg then s1.packageFreeze 2
  else if bound && s1.penRunning p then (s1.set FRZ_CTL.req 1).setPen p { s1.pen p with atBound := true }
  else s1.penFreeze p 2 false

/-- FREEZE_REQUEST. -/
def execFreezeRequest (pkg : Bool) (p : Fin 8) (atBoundary : Bool) (s : State) : Host.Outcome State Fault Refusal :=
  .next (s.freezeRequest pkg p.val atBoundary)

end Sys2Proof.Machine
end

