-- ==== Sys2Proof/Machine/Team.lean ====
section
/-!
DEFINITION. Team.lean: team comparison (R329 to R335) and STEP action 4 of a pen (R322, R323, R325, R497, R508).
-/

namespace Sys2Proof.Machine

/-- The comparison of an own value with the partner's (R331): none when a VOID on either side skips it, else 0 or the code of the first
condition that holds. -/
def teamCheck (o f : TeamVal) : Option Nat :=
  if o.void || f.void then none
  else some (if o.tag ≠ f.tag then 1 else if o.stale then 3 else if o.poison || f.poison then 4
    else if o.count ≠ f.count then 5 else if o.t ≠ f.t then 6 else 0)

/-- Flags and a reason go into the record not yet published, else into the next one. -/
def State.recordTeam (s : State) (p flags reason : Nat) : State :=
  let r := s.pen p
  if r.pubLen = 0 then s.setPen p { r with flags := r.flags ||| flags, reason := if reason = 0 then r.reason else reason }
  else s.patchRecord p flags reason

/-- A failed comparison takes effect (R332): recorded, the record published with TEAM_MISMATCH and the reason, a pending checkpoint of
the failed step, whose checkpoint step is the next, abandoned (R421), the pen frozen at its boundary. -/
def State.teamMismatch (s : State) (p code : Nat) (o f : TeamVal) : State :=
  let s1 := if s.flag (LDG_TEAM_STAT.valid p) then s
    else (((((((s.set (LDG_TEAM_MM.step p) o.step.toNat).set (LDG_TEAM_STAT.reason p) code).set (LDG_TEAM_STAT.valid p) 1).set
      (LDG_TEAM_LOC0.t p) (bitsOf o.t.toNat 0 64)).set (LDG_TEAM_LOC1.t p) (bitsOf o.t.toNat 64 64)).set
      (LDG_TEAM_PAR0.t p) (bitsOf f.t.toNat 0 64)).set (LDG_TEAM_PAR1.t p) (bitsOf f.t.toNat 64 64))
  let s2 := (s1.recordTeam p 64 code).publish p
  let s3 := s2.setPen p { s2.pen p with failed := none }
  (if o.step + 1 = (s3.ckp p).step then s3.abandonCkp p 6 else s3).penFreeze p 3 true

/-- Strict mode, at a boundary whose action 4 is done, with an own value still to compare: the pen holds (R329). -/
def State.teamPending (s : State) (p : Nat) : Bool :=
  s.teamOn p && !s.flag (LDG_TEAM.lagged p) && (s.pen p).boundary == .latched && (s.pen p).own.any fun v => !v.void

/-- A failed comparison: in strict mode at the boundary at once, otherwise at the pen's next boundary (R330). -/
def State.teamFail (s : State) (p code : Nat) (o f : TeamVal) (now : Bool) : State :=
  if now then s.teamMismatch p code o f
  else if (s.pen p).failed.isSome then s
  else s.setPen p { s.pen p with failed := some (code, o, f) }

/-- An own value is compared with the partner's frame of its step and leaves the list (R329 to R331). -/
def State.teamSettle (s : State) (p : Nat) (o f : TeamVal) : State :=
  let strict := s.teamPending p
  let s1 := s.setPen p { s.pen p with own := (s.pen p).own.filter fun v => v.step != o.step,
                                      partner := (s.pen p).partner.filter fun v => v.step != o.step }
  match teamCheck o f with
  | none => if strict then (s1.recordTeam p 32 0).publish p else s1.recordTeam p 32 0
  | some 0 => if strict then s1.publish p else s1
  | some c => s1.teamFail p c o f strict

/-- Every own value whose frame has arrived is compared. -/
def State.teamSettleAll (s : State) (p : Nat) : State :=
  (s.pen p).own.foldl (fun t o =>
    match (t.pen p).partner.find? fun f => f.step == o.step with
    | some f => t.teamSettle p o f
    | none => t) s

/-- The lag of the mode: steps a frame may be away from the step in progress (R330). -/
def State.teamLag (s : State) (p : Nat) : Nat := if s.flag (LDG_TEAM.lagged p) then s.get (LDG_TEAM.lag p) else 0

/-- A frame is kept until its own step closes, one per step up to lag + 1 (R335). -/
def State.keepFrame (s : State) (p : Nat) (f : TeamVal) : State :=
  let r := s.pen p
  if r.partner.any (fun v => v.step == f.step) || decide (s.teamLag p + 1 ≤ r.partner.length) then s
  else s.setPen p { r with partner := r.partner ++ [f] }

/-- A partner's frame arrives (R331, R333, R335): kept in a freeze, discarded in solo operation, compared when its own step has closed,
kept when it is the expected one, else skipped on a VOID, TM_JOB or TM_STEP. -/
def State.teamFrame (s : State) (p : Nat) (f : TeamVal) : State :=
  if !s.flag (LDG_TEAM.enable p) then s
  else if s.flag (LDG_TEAM_STAT.solo_active p) then s.inc (LDG_TEAM_STAT.late p) 1
  else if s.penFrozen p then s.keepFrame p f
  else
    match (s.pen p).own.find? fun o => o.step == f.step with
    | some o => s.teamSettle p o f
    | none =>
      let cur := s.get (LDG_STEP.step p)
      if !s.teamPending p && decide (cur ≤ f.step.toNat) && decide (f.step.toNat ≤ cur + s.teamLag p) then s.keepFrame p f
      else if f.void then s.recordTeam p 32 0
      else s.teamFail p (if f.tag.toNat ≠ s.get (LDG_JOB.tag p) then 1 else 2)
        ((s.pen p).own.headD { TeamVal.none with step := BitVec.ofNat 64 cur }) f (s.teamPending p)

/-- No frame of the oldest own step arrived in time (R331, R333): solo operation where it is set, else TM_LOST. -/
def State.teamLost (s : State) (p : Nat) (o : TeamVal) : State :=
  if s.flag (LDG_TEAM.solo p) then
    let s1 := (s.recordTeam p 128 7).set (LDG_TEAM_STAT.solo_active p) 1
    let s2 := if s1.flag (LDG_TEAM_STAT.valid p) then s1 else s1.set (LDG_TEAM_STAT.reason p) 7
    (s2.setPen p { s2.pen p with own := [], partner := [] }).publish p
  else
    let strict := s.teamPending p
    let s1 := s.setPen p { s.pen p with own := (s.pen p).own.filter fun v => v.step != o.step }
    s1.teamFail p 7 o TeamVal.none strict

/-- What follows the latch of a step (R328 to R332): a failure kept for this boundary takes effect, also in solo operation; without team
operation the record is published; in strict mode the comparison decides; in lagged mode every frame that has arrived is compared first. -/
def State.teamDecide (s : State) (p : Nat) : State :=
  let s1 := if s.teamOn p && (s.flag (LDG_TEAM.lagged p) || (s.pen p).failed.isNone) then s.teamSettleAll p else s
  match (s1.pen p).failed with
  | some (c, o, f) => s1.teamMismatch p c o f
  | none => if s1.teamPending p then s1 else s1.publish p

/-! ## Action 4 -/

/-- A ledger condition of FRZ_TRIGp holds for the step's counts (R508). -/
def State.ledgerTrigger (s : State) (p : Nat) : Bool :=
  let on := fun (f : Nat → Fld) (n : Nat) => s.flag (f p) && decide (0 < n)
  on FRZ_TRIG.poison (s.coresWith p CORE_STATUS.poison_seen + s.overStacks p YRD_ECC.poison_rd) ||
    on FRZ_TRIG.sat ((s.pen p).sat + s.overBlocks p (·.sat)) ||
    on FRZ_TRIG.pert (s.overClusters p CORE_PIV_STEP.pert) || on FRZ_TRIG.deadline (s.overCtxs p SEQ_DL_POINT.deadlines) ||
    on FRZ_TRIG.nan (s.pen p).nan || on FRZ_TRIG.gov_stale (s.overCtxs p SEQ_GOV_STAT.stale) ||
    on FRZ_TRIG.ue (s.overCores p CORE_ECC.stall_ue + s.overClusters p CORE_LOFT_ECC.ue + s.overStacks p YRD_ECC.ue)

/-- Every context of the pen has arrived at the step barrier (R152). -/
def State.allArrived (s : State) (p : Nat) : Bool :=
  !(s.penCtxs p).isEmpty && (s.penCtxs p).all fun x => (s.ctx x.1 x.2).phase == .arrived

/-- Lagged mode: the partner's frame of a step lag or more back has not arrived, so the pen may not close this step (R330). -/
def State.lagHolds (s : State) (p : Nat) : Bool :=
  s.teamOn p && s.flag (LDG_TEAM.lagged p) &&
    (s.pen p).own.any fun v => !v.void && decide (v.step.toNat + s.get (LDG_TEAM.lag p) ≤ s.get (LDG_STEP.step p))

/-- The step's digest entries. -/
def State.usedDigs (s : State) (p : Nat) : List Dig := ((s.penDigests p).map (·.2)).filter (·.used)

/-- Hold mode, and the ring has no room for this step's record (R325). -/
def State.ringHolds (s : State) (p : Nat) : Bool :=
  s.flag (LDG_CTL.enable p) && !s.flag (LDG_CTL.full_mode p) && !s.ringFits p (256 + 32 * (s.usedDigs p).length)

/-- STEP action 4 (R322): the record of step n is written, the gathered counts clear, LDG_STEP becomes n + 1, the team decides, and the
freezes that wait for a boundary take effect (R497). -/
def State.latch (s : State) (p : Nat) : State :=
  let n := s.get (LDG_STEP.step p)
  let s0 := (s.penCtxs p).foldl (fun t x => t.countHeld x.1 x.2) s
  let digs := s0.usedDigs p
  let tv := s0.teamValue p n digs false
  let trig := s0.ledgerTrigger p
  let s1 := (s0.readTeamIn p).writeRecord p fun t => t.recordBytes p n digs (if s0.teamOn p then tv else TeamVal.none) false
  let s2 := ((s1.clearStep p).set (LDG_STEP.step p) (n + 1)).set (LDG_STAT.full_hold p) 0
  let s3 := (s2.penCtxs p).foldl (fun t x => t.setCtx x.1 x.2 { t.ctx x.1 x.2 with phase := .latched }) s2
  let s4 := ((s3.setPen p { s3.pen p with boundary := .latched }).teamSend p tv).teamDecide p
  let s5 := if (s4.pen p).atBound then
      ((s4.set FRZ_CTL.req 0).setPen p { s4.pen p with atBound := false }).penFreeze p 2 true
    else s4
  if trig then s5.penFreeze p 4 true else s5

/-- Action 4 or the hold on a full ring (R322, R325). -/
def State.barrierPass (s : State) (p : Nat) : State :=
  if s.ringHolds p then s.set (LDG_STAT.full_hold p) 1 else s.latch p

/-- May the pen's barrier pass now? -/
def State.barrierReady (s : State) (p : Nat) : Bool :=
  s.allArrived p && (s.pen p).boundary == .none && !s.penFrozen p && !s.lagHolds p

/-- STEP_BARRIER_PASS (R322). -/
def execStepBarrierPass (p : Fin 8) (s : State) : Host.Outcome State Fault Refusal :=
  s.yardStep fun s =>
    if s.barrierReady p.val then .next (s.barrierPass p.val) else s.notDue

/-- TM_LOST (R331, R333): tmo_us have passed since the oldest own frame without the partner's. -/
def execTmLost (p : Fin 8) (s : State) : Host.Outcome State Fault Refusal :=
  s.yardStep fun s =>
    match (if s.teamOn p.val && !s.penFrozen p.val then (s.pen p.val).own.find? (fun v => !v.void) else none) with
    | some o => .next (s.teamLost p.val o)
    | none => s.notDue

/-- LDG_TAIL is written (R325): the tail moves, and a pen that held on a full ring closes its step if there is room now. -/
def State.tailWrite (s : State) (p v : Nat) : State :=
  let s1 := s.set (LDG_TAIL.offset p) v
  if s1.flag (LDG_STAT.full_hold p) && s1.barrierReady p then s1.barrierPass p else s1

/-- LDG_TAIL_WRITE (R325). -/
def execLdgTailWrite (p : Fin 8) (v : BitVec 44) (s : State) : Host.Outcome State Fault Refusal :=
  s.yardStep fun s => .next (s.tailWrite p.val v.toNat)

/-- The kept frames of pen p are judged as if they arrived now (R335). -/
def State.keptFrames (s : State) (p : Nat) : State :=
  (s.pen p).partner.foldl (fun t f => t.teamFrame p f) (s.setPen p { s.pen p with partner := [] })

/-- FRZ_CTL.resume is written (R501): a resumable die-level freeze ends; frames kept meanwhile are compared (R335). -/
def State.freezeResume (s : State) : State :=
  if s.get FRZ_STAT.state = 1 ∧ s.flag FRZ_STAT.resumable = true then
    let s1 := (((s.set FRZ_STAT.state 0).set FRZ_STAT.halves 0).set FRZ_STAT.more 0).set FRZ_STAT.resumable 0
    (List.range 8).foldl (fun t p => t.keptFrames p) s1
  else s

/-- FREEZE_RESUME (R501). -/
def execFreezeResume (s : State) : Host.Outcome State Fault Refusal :=
  s.yardStep fun s => .next s.freezeResume

end Sys2Proof.Machine
end

