-- ==== Sys2Proof/Machine/Engines.lean ====
section
/-!
DEFINITION. Engines.lean: the operations of the engines as steps of their own: each has its whole effect in its step; and the pivot
engine's operations with the faults they raise.
-/

namespace Sys2Proof.Machine

/-- A fault found when an operation issues: a core fault of a core, or a fault of its context (R115, R169). -/
def State.raise (s : State) (d h code c k : Nat) : State :=
  if code < 0x30 then s.coreFault d h code c k else s.contextFault d h code 0 0

/-! ## The matrix engine (R68, R75, R76) -/

/-- A matrix operation as a step of its own: a reserved slot code (R126), the core fault it raises, or its effect. -/
def State.matStep (s : State) (d c k mop slot : Nat) (r : MatRud) : Host.Outcome State Fault Refusal :=
  let f := s.matFault d c k mop slot r
  if !s.matDefined d c k mop slot r then reservedCode
  else if 12 ≤ slot then .next (s.contextFault d (s.hOf d c) 0x30 0 0)
  else if f = 0 then .next (s.matRun d c k mop slot r)
  else .next (s.coreFault d (s.hOf d c) f c k)

/-- A rudiment for ACCCLR, which names none. -/
def blankMat : MatRud := ⟨1, 1, ⟨0, 0, []⟩, ⟨0, 0, []⟩⟩

def execChunk (d : Fin 4) (c : Fin 8) (k : Fin 16) (slot : BitVec 4) (r : MatRud) (s : State) : Host.Outcome State Fault Refusal :=
  s.matStep d.val c.val k.val 1 slot.toNat r
def execChunkc (d : Fin 4) (c : Fin 8) (k : Fin 16) (slot : BitVec 4) (r : MatRud) (s : State) : Host.Outcome State Fault Refusal :=
  s.matStep d.val c.val k.val 2 slot.toNat r
def execAccst (d : Fin 4) (c : Fin 8) (k : Fin 16) (slot : BitVec 4) (r : MatRud) (s : State) : Host.Outcome State Fault Refusal :=
  s.matStep d.val c.val k.val 3 slot.toNat r
def execAccadd (d : Fin 4) (c : Fin 8) (k : Fin 16) (slot : BitVec 4) (r : MatRud) (s : State) : Host.Outcome State Fault Refusal :=
  s.matStep d.val c.val k.val 4 slot.toNat r
def execAccclr (d : Fin 4) (c : Fin 8) (k : Fin 16) (slot : BitVec 4) (s : State) : Host.Outcome State Fault Refusal :=
  s.matStep d.val c.val k.val 5 slot.toNat blankMat

/-! ## The converter (R48, R136) -/

/-- CONV (R48): with src = 0xF it is issued without its vector operation here (R139). -/
def execConv (d : Fin 4) (c : Fin 8) (k : Fin 16) (r : ConvRud) (s : State) : Host.Outcome State Fault Refusal :=
  let f := s.convFault d.val c.val k.val r false
  let s1 := s.descRead d.val c.val r
  if f ≠ 0 then .next (s1.raise d.val (s.hOf d.val c.val) f c.val k.val)
  else if s.convDefined d.val c.val r then .next (s1.convSlot d.val c.val k.val r)
  else reservedCode

/-- CHLD (R136). -/
def execChld (d : Fin 4) (c : Fin 8) (k : Fin 16) (r : ConvRud) (s : State) : Host.Outcome State Fault Refusal :=
  let f := s.chldFault d.val c.val k.val
  .next (if f = 0 then s.chld d.val c.val k.val r else s.raise d.val (s.hOf d.val c.val) f c.val k.val)

/-! ## The vector lanes (R82 to R97) -/

/-- A vector operation as a step of its own. -/
def State.vecStep (s : State) (d c k op : Nat) (r : VecRud) (cv : Option ConvRud) : Host.Outcome State Fault Refusal :=
  let f := s.vecFault d c k op r cv
  if !s.vecDefined d c op r cv then reservedCode
  else if f = 0 then .next (s.vecRun d c k op r cv)
  else .next (s.raise d (s.hOf d c) f c k)

def execVecAdd (d : Fin 4) (c : Fin 8) (k : Fin 16) (r : VecRud) (cv : Option ConvRud) (s : State) : Host.Outcome State Fault Refusal :=
  s.vecStep d.val c.val k.val 0x00 r cv
def execVecSub (d : Fin 4) (c : Fin 8) (k : Fin 16) (r : VecRud) (cv : Option ConvRud) (s : State) : Host.Outcome State Fault Refusal :=
  s.vecStep d.val c.val k.val 0x01 r cv
def execVecAdds (d : Fin 4) (c : Fin 8) (k : Fin 16) (r : VecRud) (cv : Option ConvRud) (s : State) : Host.Outcome State Fault Refusal :=
  s.vecStep d.val c.val k.val 0x02 r cv
def execVecSubs (d : Fin 4) (c : Fin 8) (k : Fin 16) (r : VecRud) (cv : Option ConvRud) (s : State) : Host.Outcome State Fault Refusal :=
  s.vecStep d.val c.val k.val 0x03 r cv
def execVecNegs (d : Fin 4) (c : Fin 8) (k : Fin 16) (r : VecRud) (cv : Option ConvRud) (s : State) : Host.Outcome State Fault Refusal :=
  s.vecStep d.val c.val k.val 0x04 r cv
def execVecAbss (d : Fin 4) (c : Fin 8) (k : Fin 16) (r : VecRud) (cv : Option ConvRud) (s : State) : Host.Outcome State Fault Refusal :=
  s.vecStep d.val c.val k.val 0x05 r cv
def execVecMin (d : Fin 4) (c : Fin 8) (k : Fin 16) (r : VecRud) (cv : Option ConvRud) (s : State) : Host.Outcome State Fault Refusal :=
  s.vecStep d.val c.val k.val 0x06 r cv
def execVecMax (d : Fin 4) (c : Fin 8) (k : Fin 16) (r : VecRud) (cv : Option ConvRud) (s : State) : Host.Outcome State Fault Refusal :=
  s.vecStep d.val c.val k.val 0x07 r cv
def execVecAnd (d : Fin 4) (c : Fin 8) (k : Fin 16) (r : VecRud) (cv : Option ConvRud) (s : State) : Host.Outcome State Fault Refusal :=
  s.vecStep d.val c.val k.val 0x08 r cv
def execVecOr (d : Fin 4) (c : Fin 8) (k : Fin 16) (r : VecRud) (cv : Option ConvRud) (s : State) : Host.Outcome State Fault Refusal :=
  s.vecStep d.val c.val k.val 0x09 r cv
def execVecXor (d : Fin 4) (c : Fin 8) (k : Fin 16) (r : VecRud) (cv : Option ConvRud) (s : State) : Host.Outcome State Fault Refusal :=
  s.vecStep d.val c.val k.val 0x0A r cv
def execVecAndn (d : Fin 4) (c : Fin 8) (k : Fin 16) (r : VecRud) (cv : Option ConvRud) (s : State) : Host.Outcome State Fault Refusal :=
  s.vecStep d.val c.val k.val 0x0B r cv
def execVecNot (d : Fin 4) (c : Fin 8) (k : Fin 16) (r : VecRud) (cv : Option ConvRud) (s : State) : Host.Outcome State Fault Refusal :=
  s.vecStep d.val c.val k.val 0x0C r cv
def execVecShl (d : Fin 4) (c : Fin 8) (k : Fin 16) (r : VecRud) (cv : Option ConvRud) (s : State) : Host.Outcome State Fault Refusal :=
  s.vecStep d.val c.val k.val 0x10 r cv
def execVecShls (d : Fin 4) (c : Fin 8) (k : Fin 16) (r : VecRud) (cv : Option ConvRud) (s : State) : Host.Outcome State Fault Refusal :=
  s.vecStep d.val c.val k.val 0x11 r cv
def execVecShra (d : Fin 4) (c : Fin 8) (k : Fin 16) (r : VecRud) (cv : Option ConvRud) (s : State) : Host.Outcome State Fault Refusal :=
  s.vecStep d.val c.val k.val 0x12 r cv
def execVecShrl (d : Fin 4) (c : Fin 8) (k : Fin 16) (r : VecRud) (cv : Option ConvRud) (s : State) : Host.Outcome State Fault Refusal :=
  s.vecStep d.val c.val k.val 0x13 r cv
def execVecShrn (d : Fin 4) (c : Fin 8) (k : Fin 16) (r : VecRud) (cv : Option ConvRud) (s : State) : Host.Outcome State Fault Refusal :=
  s.vecStep d.val c.val k.val 0x14 r cv
def execVecClz (d : Fin 4) (c : Fin 8) (k : Fin 16) (r : VecRud) (cv : Option ConvRud) (s : State) : Host.Outcome State Fault Refusal :=
  s.vecStep d.val c.val k.val 0x15 r cv
def execVecPopc (d : Fin 4) (c : Fin 8) (k : Fin 16) (r : VecRud) (cv : Option ConvRud) (s : State) : Host.Outcome State Fault Refusal :=
  s.vecStep d.val c.val k.val 0x16 r cv
def execVecCmpeq (d : Fin 4) (c : Fin 8) (k : Fin 16) (r : VecRud) (cv : Option ConvRud) (s : State) : Host.Outcome State Fault Refusal :=
  s.vecStep d.val c.val k.val 0x18 r cv
def execVecCmplt (d : Fin 4) (c : Fin 8) (k : Fin 16) (r : VecRud) (cv : Option ConvRud) (s : State) : Host.Outcome State Fault Refusal :=
  s.vecStep d.val c.val k.val 0x19 r cv
def execVecCmple (d : Fin 4) (c : Fin 8) (k : Fin 16) (r : VecRud) (cv : Option ConvRud) (s : State) : Host.Outcome State Fault Refusal :=
  s.vecStep d.val c.val k.val 0x1A r cv
def execVecSel (d : Fin 4) (c : Fin 8) (k : Fin 16) (r : VecRud) (cv : Option ConvRud) (s : State) : Host.Outcome State Fault Refusal :=
  s.vecStep d.val c.val k.val 0x1B r cv
def execVecClamp (d : Fin 4) (c : Fin 8) (k : Fin 16) (r : VecRud) (cv : Option ConvRud) (s : State) : Host.Outcome State Fault Refusal :=
  s.vecStep d.val c.val k.val 0x1C r cv
def execVecMul (d : Fin 4) (c : Fin 8) (k : Fin 16) (r : VecRud) (cv : Option ConvRud) (s : State) : Host.Outcome State Fault Refusal :=
  s.vecStep d.val c.val k.val 0x20 r cv
def execVecMulw (d : Fin 4) (c : Fin 8) (k : Fin 16) (r : VecRud) (cv : Option ConvRud) (s : State) : Host.Outcome State Fault Refusal :=
  s.vecStep d.val c.val k.val 0x21 r cv
def execVecMulhs (d : Fin 4) (c : Fin 8) (k : Fin 16) (r : VecRud) (cv : Option ConvRud) (s : State) : Host.Outcome State Fault Refusal :=
  s.vecStep d.val c.val k.val 0x22 r cv
def execVecRsum (d : Fin 4) (c : Fin 8) (k : Fin 16) (r : VecRud) (cv : Option ConvRud) (s : State) : Host.Outcome State Fault Refusal :=
  s.vecStep d.val c.val k.val 0x28 r cv
def execVecRmax (d : Fin 4) (c : Fin 8) (k : Fin 16) (r : VecRud) (cv : Option ConvRud) (s : State) : Host.Outcome State Fault Refusal :=
  s.vecStep d.val c.val k.val 0x29 r cv
def execVecRmin (d : Fin 4) (c : Fin 8) (k : Fin 16) (r : VecRud) (cv : Option ConvRud) (s : State) : Host.Outcome State Fault Refusal :=
  s.vecStep d.val c.val k.val 0x2A r cv
def execVecCsum (d : Fin 4) (c : Fin 8) (k : Fin 16) (r : VecRud) (cv : Option ConvRud) (s : State) : Host.Outcome State Fault Refusal :=
  s.vecStep d.val c.val k.val 0x2B r cv
def execVecCmax (d : Fin 4) (c : Fin 8) (k : Fin 16) (r : VecRud) (cv : Option ConvRud) (s : State) : Host.Outcome State Fault Refusal :=
  s.vecStep d.val c.val k.val 0x2C r cv
def execVecCmin (d : Fin 4) (c : Fin 8) (k : Fin 16) (r : VecRud) (cv : Option ConvRud) (s : State) : Host.Outcome State Fault Refusal :=
  s.vecStep d.val c.val k.val 0x2D r cv
def execVecExp2 (d : Fin 4) (c : Fin 8) (k : Fin 16) (r : VecRud) (cv : Option ConvRud) (s : State) : Host.Outcome State Fault Refusal :=
  s.vecStep d.val c.val k.val 0x30 r cv
def execVecLog2 (d : Fin 4) (c : Fin 8) (k : Fin 16) (r : VecRud) (cv : Option ConvRud) (s : State) : Host.Outcome State Fault Refusal :=
  s.vecStep d.val c.val k.val 0x31 r cv
def execVecRecip (d : Fin 4) (c : Fin 8) (k : Fin 16) (r : VecRud) (cv : Option ConvRud) (s : State) : Host.Outcome State Fault Refusal :=
  s.vecStep d.val c.val k.val 0x32 r cv
def execVecRsqrt (d : Fin 4) (c : Fin 8) (k : Fin 16) (r : VecRud) (cv : Option ConvRud) (s : State) : Host.Outcome State Fault Refusal :=
  s.vecStep d.val c.val k.val 0x33 r cv
def execVecSigm (d : Fin 4) (c : Fin 8) (k : Fin 16) (r : VecRud) (cv : Option ConvRud) (s : State) : Host.Outcome State Fault Refusal :=
  s.vecStep d.val c.val k.val 0x34 r cv
def execVecTanh (d : Fin 4) (c : Fin 8) (k : Fin 16) (r : VecRud) (cv : Option ConvRud) (s : State) : Host.Outcome State Fault Refusal :=
  s.vecStep d.val c.val k.val 0x35 r cv
def execSmx1 (d : Fin 4) (c : Fin 8) (k : Fin 16) (r : VecRud) (cv : Option ConvRud) (s : State) : Host.Outcome State Fault Refusal :=
  s.vecStep d.val c.val k.val 0x38 r cv
def execSmx2 (d : Fin 4) (c : Fin 8) (k : Fin 16) (r : VecRud) (cv : Option ConvRud) (s : State) : Host.Outcome State Fault Refusal :=
  s.vecStep d.val c.val k.val 0x39 r cv
def execSmx3 (d : Fin 4) (c : Fin 8) (k : Fin 16) (r : VecRud) (cv : Option ConvRud) (s : State) : Host.Outcome State Fault Refusal :=
  s.vecStep d.val c.val k.val 0x3A r cv
def execNrm1 (d : Fin 4) (c : Fin 8) (k : Fin 16) (r : VecRud) (cv : Option ConvRud) (s : State) : Host.Outcome State Fault Refusal :=
  s.vecStep d.val c.val k.val 0x3C r cv
def execNrm2 (d : Fin 4) (c : Fin 8) (k : Fin 16) (r : VecRud) (cv : Option ConvRud) (s : State) : Host.Outcome State Fault Refusal :=
  s.vecStep d.val c.val k.val 0x3D r cv
def execVecMov (d : Fin 4) (c : Fin 8) (k : Fin 16) (r : VecRud) (cv : Option ConvRud) (s : State) : Host.Outcome State Fault Refusal :=
  s.vecStep d.val c.val k.val 0x3F r cv

/-! ## The moves (R137) -/

/-- A move as a step of its own. -/
def State.moveStep (s : State) (d c k lop : Nat) (r : MoveRud) : Host.Outcome State Fault Refusal :=
  let f := s.moveFault d c k lop r
  .next (if f = 0 then s.moveRun d c k lop r else s.raise d (s.hOf d c) f c k)

def execLd (d : Fin 4) (c : Fin 8) (k : Fin 16) (r : MoveRud) (s : State) : Host.Outcome State Fault Refusal :=
  s.moveStep d.val c.val k.val 1 r
def execSt (d : Fin 4) (c : Fin 8) (k : Fin 16) (r : MoveRud) (s : State) : Host.Outcome State Fault Refusal :=
  s.moveStep d.val c.val k.val 2 r
def execLdt (d : Fin 4) (c : Fin 8) (k : Fin 16) (r : MoveRud) (s : State) : Host.Outcome State Fault Refusal :=
  s.moveStep d.val c.val k.val 3 r
def execBcast (d : Fin 4) (c : Fin 8) (r : MoveRud) (s : State) : Host.Outcome State Fault Refusal :=
  .next (match s.bcastBusy d.val c.val r with
    | some k => s.raise d.val (s.hOf d.val c.val) 0x25 c.val k
    | none => s.bcastRun d.val c.val r)

/-! ## The pivot engine (R212) -/

/-- A pivot-engine access missed its slot (R200). -/
def State.pivSlotFault (s : State) (d c : Nat) : State := (s.set (CORE_PIV_STATUS.slot_fault d c) 1).coreFault d (s.hOf d c) 0x21 c 0

/-- A schedule entry whose op or kind R211 does not list (R211). -/
def State.pivBadEntry (s : State) (d c : Nat) : State := (s.set (CORE_PIV_STATUS.bad_entry d c) 1).contextFault d (s.hOf d c) 0x30 0 0

/-- Entries n to n + left − 1 of a RUN, the first of them beginning in cycle t: the engine is free from the cycle after the last. -/
def State.pivEntries (s : State) (d c a : Nat) : Nat → Nat → Nat → State
  | 0, _, t => (s.setCluster d c { s.cluster d c with pBusy := t }).set (CORE_PIV_STATUS.busy d c) 1
  | left + 1, n, t =>
    let at_ := (a + 32 * n) % 0x1000000
    let f := s.pivFetch d c at_ n
    if !f.2.ok then f.1.pivBadEntry d c
    else
      let o := f.1.pivSlots d c t f.2.cycles (f.2.groups at_)
      if o.1 then
        let x := o.2.pivStart d c at_ f.2 []
        (x.1.pivEnd d c x.2).pivEntries d c a left (n + 1) (t + f.2.cycles)
      else o.2.pivSlotFault d c

/-- RUN (R212): the entries in order, after 8 cycles. -/
def State.pivRun (s : State) (d c : Nat) (r : PivRud) : State :=
  s.pivEntries d c (s.loftAddr d (s.hOf d c) 0 r.ag) r.count 0 (s.cycOf d c + 8)

/-- DPT or CNT: its loft write at once, or the missed slot. -/
def pivNow (d c : Nat) (o : State × Option (List (Nat × List Byte × Bool))) : State :=
  match o.2 with
  | some l => o.1.loftWrites d c l
  | none => o.1.pivSlotFault d c

/-- The operation a pivot rudiment names (R212), by code. -/
def State.pivOp (s : State) (d c op : Nat) (r : PivRud) : State :=
  match op with
  | 1 => match s.pivBegin d c r with
    | (t, some b) => t.pivBegun d c b
    | (t, none) => t.pivSlotFault d c
  | 2 => s.pivRun d c r
  | _ => pivNow d c (s.pivShort d c op r)

/-- A pivot operation as a step of its own. -/
def State.pivStep (s : State) (d c op : Nat) (r : PivRud) : Host.Outcome State Fault Refusal :=
  .next (if s.pivBusy d c then s.raise d (s.hOf d c) 0x25 c 0 else s.pivOp d c op r)

def execBegin (d : Fin 4) (c : Fin 8) (r : PivRud) (s : State) : Host.Outcome State Fault Refusal := s.pivStep d.val c.val 1 r
def execRun (d : Fin 4) (c : Fin 8) (r : PivRud) (s : State) : Host.Outcome State Fault Refusal := s.pivStep d.val c.val 2 r
def execDpt (d : Fin 4) (c : Fin 8) (r : PivRud) (s : State) : Host.Outcome State Fault Refusal := s.pivStep d.val c.val 3 r
def execCnt (d : Fin 4) (c : Fin 8) (r : PivRud) (s : State) : Host.Outcome State Fault Refusal := s.pivStep d.val c.val 4 r

end Sys2Proof.Machine
end

