-- ==== Sys2Proof/Machine/Beat.lean ====
section
/-!
DEFINITION. Beat.lean: a beat record and what it names (R122, R123, R126, R128), the faults found at issue (R139, R140, R169), the
accesses of operations in flight that clash (R65, R73, R100), the passing of cadence cycles.
-/

namespace Sys2Proof.Machine

/-! ## The die word (R123) -/

abbrev dwSeq (n : Nat) : Nat := bitsOf n 0 4
abbrev dwRest (n : Nat) : Nat := bitsOf n 4 12
abbrev dwMask (n : Nat) : Nat := bitsOf n 16 8
abbrev dwLc (n : Nat) : Nat := bitsOf n 24 4
abbrev dwSset (n : Nat) : Nat := bitsOf n 28 4
abbrev dwSm (n : Nat) : Nat := bitsOf n 32 2
abbrev dwCond (n : Nat) : Nat := bitsOf n 34 2
abbrev dwImm (n : Nat) : Nat := bitsOf n 36 24
abbrev dwBop (n : Nat) : Nat := bitsOf n 60 2
abbrev dwDop (n : Nat) : Nat := bitsOf n 62 2
abbrev dwBell (n : Nat) : Nat := bitsOf n 64 12
abbrev dwCount (n : Nat) : Nat := bitsOf n 76 16
abbrev dwCls (n : Nat) : Nat := bitsOf n 92 2
abbrev dwDrud (n : Nat) : Nat := bitsOf n 94 16
abbrev dwLend (n : Nat) : Nat := bitsOf n 112 16

/-- The clusters a record has words for, in order. -/
def dwClusters (n : Nat) : List Nat := (List.range 8).filter fun c => bitOf (dwMask n) c

/-- A record's length in 16-byte units (R122). -/
def dwUnits (n : Nat) : Nat := 1 + 2 * (dwClusters n).length

/-! ## The cluster word (R126) -/

abbrev cwKmask (n : Nat) : Nat := bitsOf n 0 16
abbrev cwLpat (n : Nat) : Nat := bitsOf n 16 6
abbrev cwMop (n : Nat) : Nat := bitsOf n 22 3
abbrev cwSlot (n : Nat) : Nat := bitsOf n 25 4
abbrev cwMrud (n : Nat) : Nat := bitsOf n 29 16
abbrev cwVop (n : Nat) : Nat := bitsOf n 45 2
abbrev cwVrud (n : Nat) : Nat := bitsOf n 47 16
abbrev cwCop (n : Nat) : Nat := bitsOf n 63 2
abbrev cwCrud (n : Nat) : Nat := bitsOf n 65 16
abbrev cwLop (n : Nat) : Nat := bitsOf n 81 3
abbrev cwLrud (n : Nat) : Nat := bitsOf n 84 16
abbrev cwPop (n : Nat) : Nat := bitsOf n 100 2
abbrev cwPrud (n : Nat) : Nat := bitsOf n 102 16

/-- A reserved code in a cluster word, or a slot code of 12 to 15 with a matrix operation (R126). -/
def cwBad (n : Nat) : Bool :=
  decide (5 < cwMop n) || decide (1 < cwVop n) || decide (2 < cwCop n) || decide (4 < cwLop n) || decide (1 < cwPop n) ||
    (cwMop n != 0 && decide (12 ≤ cwSlot n))

/-! ## The record in the store -/

/-- SEQ_PC (R163), in 16-byte units of the region. -/
abbrev State.pc (s : State) (d h : Nat) : Nat := s.get (SEQ_PC.record d h)

/-- The die word at unit u of the region. -/
def State.dieWord (s : State) (d h u : Nat) : Nat := s.readNat (s.regionAt d h + 16 * u) 16

/-- The cluster words of the record at unit u: cluster and word. -/
def State.clusterWords (s : State) (d h u : Nat) : List (Nat × Nat) :=
  (dwClusters (s.dieWord d h u)).zipIdx.map fun x => (x.1, s.readNat (s.regionAt d h + 16 * u + 16 + 32 * x.2) 32)

/-- Where rudiment i of a context lies (R155). -/
def State.rudPlace (s : State) (d h i : Nat) : Nat := s.regionAt d h + 16 * s.hdr d h 16 4 + 64 * i
def State.rudBytes (s : State) (d h i n : Nat) : List Byte := s.read (s.rudPlace d h i) n

/-- Where core-set entry i lies (R144, R155). -/
def State.setPlace (s : State) (d h i : Nat) : Nat := s.regionAt d h + 16 * s.hdr d h 36 4 + 16 * i

/-- Where loft pattern i lies (R138, R155). -/
def State.patPlace (s : State) (d h i : Nat) : Nat := s.regionAt d h + 16 * s.hdr d h 28 4 + 16 * i

/-- The parts of the store a record names besides itself: rudiments, descriptors aside, the core set of a BR, loft patterns (R119). The rudiments of
engines that no core of the word starts (kmask 0) are not read (DESIGN CHOICE, log entry 103). -/
def State.namedParts (s : State) (d h u : Nat) : List (Nat × Nat) :=
  let n := s.dieWord d h u
  let die := (if dwSeq n = 2 then [(s.setPlace d h (dwSset n), 16)] else []) ++
    (if dwBop n = 3 then [(s.rudPlace d h (dwBell n), 64)] else []) ++ (if dwDop n = 1 then [(s.rudPlace d h (dwDrud n), 64)] else [])
  die ++ (s.clusterWords d h u).flatMap fun w =>
    let c := w.2
    [(s.patPlace d h (cwLpat c), 16)] ++
      (if cwKmask c = 0 then [] else
        (if 1 ≤ cwMop c ∧ cwMop c ≤ 4 then [(s.rudPlace d h (cwMrud c), 64)] else []) ++
        (if cwVop c = 1 then [(s.rudPlace d h (cwVrud c), 64)] else []) ++
        (if cwCop c = 1 ∨ cwCop c = 2 then [(s.rudPlace d h (cwCrud c), 128)] else []) ++
        (if 1 ≤ cwLop c ∧ cwLop c ≤ 4 then [(s.rudPlace d h (cwLrud c), 64)] else [])) ++
      (if cwPop c = 1 then [(s.rudPlace d h (cwPrud c), 64)] else [])

/-! ## The operations a beat starts -/

/-- One operation of one core or cluster. -/
inductive BeatOp where
  | mat (c k mop slot : Nat) (r : MatRud)
  | vec (c k op : Nat) (r : VecRud) (cv : Option ConvRud)
  | conv (c k : Nat) (r : ConvRud)
  | chld (c k : Nat) (r : ConvRud)
  | move (c k lop : Nat) (r : MoveRud)
  | bcast (c : Nat) (r : MoveRud)
  | piv (c op : Nat) (r : PivRud)
  deriving DecidableEq, Repr

/-- A pivot rudiment (R212), and its operation code. -/
def pivOf (b : List Byte) : Nat × PivRud :=
  let n := fieldNat b 0 8
  (bitsOf n 8 8, { dl := bitOf n 16, count := bitsOf n 32 16 + 1, ag := agOf (fieldBytes b 16 16) })

/-- The cores of a cluster word, lowest first. -/
def cwCores (n : Nat) : List Nat := (List.range 16).filter fun k => bitOf (cwKmask n) k

/-- The operations of one core of a word (R127): matrix, vector, converter, move. A CONV that takes the lanes' results is part of the
vector operation of the same word (R139). -/
def State.coreOps (s : State) (d h c n k : Nat) : List BeatOp :=
  let v := vecOf (s.rudBytes d h (cwVrud n) 64)
  let q := convOf (s.rudBytes d h (cwCrud n) 128)
  let m := moveOf (s.rudBytes d h (cwLrud n) 64)
  (if cwMop n = 5 then [.mat c k 5 (cwSlot n) blankMat]
   else if cwMop n = 0 then [] else [.mat c k (cwMop n) (cwSlot n) (matOf (s.rudBytes d h (cwMrud n) 64))]) ++
  (if cwVop n = 1 then [.vec c k v.1 v.2 (if cwCop n = 1 then some q else none)] else []) ++
  (if cwCop n = 1 then (if cwVop n = 1 ∧ q.src = 15 then [] else [.conv c k q])
   else if cwCop n = 2 then [.chld c k q] else []) ++
  (if 1 ≤ cwLop n ∧ cwLop n ≤ 3 then [.move c k (cwLop n) m] else [])

/-- The operations of a word: its cores' in order, one BCAST for any core (R539), the pivot engine's. -/
def State.wordOps (s : State) (d h : Nat) (w : Nat × Nat) : List BeatOp :=
  let p := pivOf (s.rudBytes d h (cwPrud w.2) 64)
  (cwCores w.2).flatMap (s.coreOps d h w.1 w.2) ++
    (if cwLop w.2 = 4 ∧ cwKmask w.2 ≠ 0 then [.bcast w.1 (moveOf (s.rudBytes d h (cwLrud w.2) 64))] else []) ++
    (if cwPop w.2 = 1 then [.piv w.1 p.1 p.2] else [])

/-- Is it a vector opcode of R133? -/
def vecListed (op : Nat) : Bool :=
  decide (op ≤ 0x0C) || (decide (0x10 ≤ op) && decide (op ≤ 0x16)) || (decide (0x18 ≤ op) && decide (op ≤ 0x1C)) ||
    (decide (0x20 ≤ op) && decide (op ≤ 0x22)) || (decide (0x28 ≤ op) && decide (op ≤ 0x2D)) ||
    (decide (0x30 ≤ op) && decide (op ≤ 0x35)) || [0x38, 0x39, 0x3A, 0x3C, 0x3D, 0x3F].contains op

/-- The fault an operation raises at issue: code (0 none), cluster, core. -/
def State.opFault (s : State) (d : Nat) : BeatOp → Nat × Nat × Nat
  | .mat c k mop slot r => (s.matFault d c k mop slot r, c, k)
  | .vec c k op r cv => (if vecListed op then s.vecFault d c k op r cv else 0x30, c, k)
  | .conv c k r => (s.convFault d c k r false, c, k)
  | .chld c k _ => (s.chldFault d c k, c, k)
  | .move c k lop r => (s.moveFault d c k lop r, c, k)
  | .bcast c r => match s.bcastBusy d c r with
    | some k => (0x25, c, k)
    | none => (0, c, 0)
  | .piv c op _ => (if op = 0 ∨ 4 < op then 0x30 else if s.pivBusy d c then 0x25 else 0, c, 0)

/-- Do its operand codes have a meaning (log entry 29)? -/
def State.opDefined (s : State) (d : Nat) : BeatOp → Bool
  | .mat c k mop slot r => s.matDefined d c k mop slot r
  | .vec c _ op r cv => s.vecDefined d c op r cv
  | .conv c _ r => s.convDefined d c r
  | _ => true

/-- The conversion an operation makes: its cluster and rudiment. -/
def BeatOp.conversion : BeatOp → Option (Nat × ConvRud)
  | .vec c _ _ r (some q) => if r.dest = 3 then some (c, q) else none
  | .conv c _ q => some (c, q)
  | _ => none

/-- The output descriptors of the conversions are read (R119). -/
def State.descsRead (s : State) (d : Nat) (l : List BeatOp) : State :=
  (l.filterMap BeatOp.conversion).foldl (fun t x => t.descRead d x.1 x.2) s

/-- A loft write of a pivot operation becomes visible in cycle y. -/
def State.pivLater (s : State) (d c y : Nat) (l : List (Nat × List Byte × Bool)) : State :=
  s.setCluster d c { s.cluster d c with lands := (s.cluster d c).lands ++ l.map fun x => (y, x) }

/-- A pivot operation starts (R212); with the cluster of one whose access missed its slot. -/
def State.pivIssue (s : State) (d c op : Nat) (r : PivRud) : State × Option Nat :=
  let t := s.cycOf d c
  match op with
  | 1 => match s.pivBegin d c r with
    | (u, some b) => (u.setCluster d c { u.cluster d c with start := some b }, none)
    | (u, none) => (u, some c)
  | 2 =>
    let s1 := s.setCluster d c { s.cluster d c with
      piv := some ⟨s.loftAddr d (s.hOf d c) 0 r.ag, 0, r.count, t + 8, none, []⟩, pBusy := t + 8 }
    (s1.set (CORE_PIV_STATUS.busy d c) 1, none)
  | _ =>
    let o := s.pivShort d c op r
    match o.2 with
    | some l => (o.1.pivLater d c (t + (if op = 3 then 6 else 4)) l, none)
    | none => (o.1, some c)

/-- An operation starts: what is left to do stands in the jobs of its core (Jobs.lean). -/
def State.opStart (s : State) (d : Nat) : BeatOp → State × Option Nat
  | .mat c k mop slot r => (s.matStart d c k mop slot r, none)
  | .vec c k op r cv => (s.vecStart d c k op r cv, none)
  | .conv c k r => (s.convStart d c k r, none)
  | .chld c k r => (s.chldStart d c k r, none)
  | .move c k lop r => (s.moveStart d c k lop r, none)
  | .bcast c r => (s.bcastStart d c r, none)
  | .piv c op r => s.pivIssue d c op r

/-- All operations of a beat start; with the lowest cluster whose pivot engine missed a slot. -/
def State.opsStart (s : State) (d : Nat) (l : List BeatOp) : State × Option Nat :=
  l.foldl (fun a o =>
    let r := a.1.opStart d o
    (r.1, match a.2 with | some f => some f | none => r.2)) (s, none)

/-! ## Clashes of accesses in flight -/

/-- The accesses that stand a second time later in the list. -/
def repeated : List Access → List Access
  | [] => []
  | a :: t => if t.contains a then a :: repeated t else repeated t

/-- The clashes of one core in cycles lo to hi − 1: cycle and core fault. Two accesses of one core in one cycle to a group it owns (the last loft
write of an ST and the first read of the next LD) are more than R99 has a group do, and the spec gives them no fault: both pass (DESIGN
CHOICE, log entry 104). -/
def State.coreClashes (s : State) (d c k lo hi : Nat) : List (Nat × Nat) :=
  let l := (s.core d c k).use.filter fun a => decide (lo ≤ a.cyc) && decide (a.cyc < hi)
  ((repeated l).filterMap fun a => match a.res with
    | .bank _ => some (a.cyc, 0x20)
    | .accPort _ => some (a.cyc, 0x22)
    | _ => none) ++
  l.filterMap fun a => match a.res with
    | .group g => if s.groupOwner d c a.cyc g = k then none else some (a.cyc, 0x21)
    | _ => none

/-- A clash: cycle, cluster, core, fault code. -/
structure Clash where
  cyc  : Nat
  c    : Nat
  k    : Nat
  code : Nat
  deriving DecidableEq, Repr

/-- Is clash a before b: by cycle, then cluster, core and code? -/
def Clash.before (a b : Clash) : Bool :=
  if a.cyc ≠ b.cyc then decide (a.cyc < b.cyc)
  else if a.c ≠ b.c then decide (a.c < b.c)
  else if a.k ≠ b.k then decide (a.k < b.k) else decide (a.code < b.code)

/-- The first of two. -/
def Clash.first (a b : Option Clash) : Option Clash :=
  match a, b with
  | some x, some y => if y.before x then some y else some x
  | some x, none => some x
  | none, y => y

/-- The first clash of a context's cores in cycles lo to hi − 1. -/
def State.clash (s : State) (d h lo hi : Nat) : Option Clash :=
  ((s.ctxClusters d h).flatMap fun c => (List.range 16).flatMap fun k =>
    (s.coreClashes d c k lo hi).map fun x => (⟨x.1, c, k, x.2⟩ : Clash)).foldl
    (fun m x => match m with | some y => if x.before y then some x else some y | none => some x) none

/-! ## Cadence cycles -/

/-- Every core of a context changed by f. -/
def State.eachCore (s : State) (d h : Nat) (f : State → Nat → Nat → State) : State :=
  (s.ctxClusters d h).foldl (fun t c => (List.range 16).foldl (fun t k => f t c k) t) s

/-- A summary becomes the register's value (R87, R111). -/
def State.showSummary (s : State) (d c k : Nat) (l : Latch) : State :=
  (((s.set (CORE_SM.value d c k l.sm) l.value.toNat).setB (CORE_SMCTL.poison d c k l.sm) l.poison).setB (CORE_SMCTL.sat d c k l.sm) l.sat).set
    (CORE_SMCTL.kind d c k l.sm) l.kind

/-- The summaries that a BR issued in cycle t sees (R145): those readable from cycle t − 6 or before. -/
def State.settleCore (s : State) (d c k t : Nat) : State :=
  let core := s.core d c k
  let due := core.latches.filter fun l => decide (l.cyc + 6 ≤ t)
  if due.isEmpty then s
  else due.foldl (fun u l => u.showSummary d c k l)
    (s.setCore d c k { core with latches := core.latches.filter fun l => !decide (l.cyc + 6 ≤ t) })

/-- Summaries and pivot engines of a context as they stand in cycle t. -/
def State.settle (s : State) (d h t : Nat) : State :=
  (s.ctxClusters d h).foldl (fun u c =>
    if (u.cluster d c).pBusy ≤ t ∧ (u.cluster d c).piv.isSome = false then u.set (CORE_PIV_STATUS.busy d c) 0 else u)
    (s.eachCore d h fun u c k => u.settleCore d c k t)

/-- The context is in cycle t: accesses before it are over, and rings of its beats are visible (R146). -/
def State.atCycle (s : State) (d h t : Nat) : State :=
  (((s.eachCore d h fun u c k =>
    let core := u.core d c k
    if core.use.isEmpty then u else u.setCore d c k { core with use := core.use.filter fun a => decide (t ≤ a.cyc) }).set
      (SEQ_CYC.cycles d h) t).settle d h t).landRings d h t

/-- A clash stops the context in its cycle (R65, R73, R100, R140). -/
def State.stopAt (s : State) (d h : Nat) (x : Clash) : State := (s.set (SEQ_CYC.cycles d h) x.cyc).coreFault d h x.code x.c x.k

/-- A fault of the pivot engine stops the context in its cycle (R200, R211). -/
def State.pivStop (s : State) (d h x : Nat) (f : Nat × Nat) : State := (s.set (SEQ_CYC.cycles d h) x).raise d h f.1 f.2 0

/-- Cadence cycles pass up to cycle t and its engines act in them, unless a clash or a fault of a pivot engine stops the context before:
then `next`. -/
def State.runTo (s : State) (d h t : Nat) (next : State → State) : State :=
  let t0 := s.get (SEQ_CYC.cycles d h)
  let x := s.clash d h t0 t
  let r := s.enginesRun d h ((match x with | some y => y.cyc | none => t) - t0) t0
  match r.2.2 with
  | some f => r.1.pivStop d h r.2.1 f
  | none => match x with
    | some y => r.1.stopAt d h y
    | none => next r.1

/-- The cycle by which every engine operation of the context has completed (R152). -/
def State.drainedAt (s : State) (d h : Nat) : Nat :=
  (s.ctxClusters d h).foldl (fun n c => (List.range 16).foldl (fun n k =>
    let r := s.core d c k
    r.use.foldl (fun m a => max m (a.cyc + 1)) (max (max (max (max n r.mBusy) r.vBusy) r.cBusy) r.lBusy))
    (max n (s.cluster d c).pBusy)) (s.get (SEQ_CYC.cycles d h))

end Sys2Proof.Machine
end

