-- ==== Sys2Proof/Machine/Cadence.lean ====
section
/-!
DEFINITION. Cadence.lean: the sequencer (R118 to R127, R139 to R154): issue of a beat, loops and branches, bells and DMA issues of beats,
holds, STEP and HALT.
-/

namespace Sys2Proof.Machine

/-! ## State of a context -/

/-- The context enters HELD for a reason (R150, R162): 1 AWAIT, 2 DMA queue full, 3 step barrier. Its rings are visible before the hold ends
(R146). -/
def State.hold (s : State) (d h reason : Nat) : State :=
  ((s.landAllRings d h).set (SEQ_STATUS.state d h) 4).set (SEQ_STATUS.held_reason d h) reason

/-- The context leaves HELD (R156). -/
def State.unhold (s : State) (d h : Nat) : State :=
  ((s.countHeld d h).set (SEQ_STATUS.state d h) 3).set (SEQ_STATUS.held_reason d h) 0

def State.setPhase (s : State) (d h : Nat) (p : Phase) : State := s.setCtx d h { s.ctx d h with phase := p }

/-- May the context act as a running one: RUN, not gated by a freeze? -/
def State.runs (s : State) (d h : Nat) : Bool := s.cstate d h == 3 && s.ctxLive d h

/-- May it issue a beat: running, and not waiting in a HALT? -/
def State.issues (s : State) (d h : Nat) : Bool := s.runs d h && (s.ctx d h).phase != .halting

/-! ## Loops (R141, R142) -/

/-- The active loops of a context: physical counter, first unit of the body, unit after it. -/
def State.activeLoops (s : State) (d h : Nat) : List (Nat × Nat × Nat) :=
  ((s.ctx d h).loops).filterMap fun e => if s.flag (SEQ_LC.active d (e.1 / 8) (e.1 % 8)) then some (e.1, e.2.1, e.2.2) else none

/-- SEQ_STATUS.loops (R162). -/
def State.showLoops (s : State) (d h : Nat) : State := s.set (SEQ_STATUS.loops d h) (s.activeLoops d h).length

/-- A counter becomes inactive. -/
def State.endLoop (s : State) (d h p : Nat) : State :=
  ((s.set (SEQ_LC.active d (p / 8) (p % 8)) 0).setCtx d h { s.ctx d h with loops := Tab.erase (s.ctx d h).loops p }).showLoops d h

/-- Do the records from unit u on end exactly at unit e (R141)? -/
def State.recordsEnd (s : State) (d h e : Nat) : Nat → Nat → Bool
  | 0, _ => false
  | n + 1, u => if u = e then true else if e < u then false else s.recordsEnd d h e n (u + dwUnits (s.dieWord d h u))

/-- LOOP raises SEQ_NEST (R141): the counter is active, or the body does not end on a record; nor does one of lend 0, which R123 does not give
(log entries 79, 95). -/
def State.nestBad (s : State) (d h u len lc lend : Nat) : Bool :=
  let p := s.physCtr d h lc
  s.flag (SEQ_LC.active d (p / 8) (p % 8)) || lend == 0 || !s.recordsEnd d h (u + len + lend) (lend + 1) (u + len)

/-- Where a context goes on after the record at unit u when nothing branches and unit e follows: the back-edges of the loops whose body ends
there, innermost first (R142). -/
def State.backEdge (s : State) (d h u e : Nat) : Nat → State
  | 0 => s.set (SEQ_PC.record d h) e
  | n + 1 =>
    match ((s.activeLoops d h).filter fun l => l.2.2 == e && decide (l.2.1 ≤ u) && decide (u < e)).foldl
        (fun (m : Option (Nat × Nat × Nat)) l => match m with | some y => if y.2.1 < l.2.1 then some l else some y | none => some l) none with
    | none => s.set (SEQ_PC.record d h) e
    | some l =>
      let j := (l.1 / 8, l.1 % 8)
      let v := s.get (SEQ_LC.value d j.1 j.2)
      if v + 1 < s.get (SEQ_LC.count d j.1 j.2) then (s.set (SEQ_LC.value d j.1 j.2) (v + 1)).set (SEQ_PC.record d h) l.2.1
      else (s.endLoop d h l.1).backEdge d h u e n

/-- The record after the one at unit u, of `len` units. -/
def State.follow (s : State) (d h u len : Nat) : State := s.backEdge d h u (u + len) 16

/-- LOOP (R141): a count of 0 skips the body. -/
def State.seqLoop (s : State) (d h u len lc count lend : Nat) : State :=
  if count = 0 then s.backEdge d h u (u + len + lend) 16
  else
    let p := s.physCtr d h lc
    let j := (p / 8, p % 8)
    let s1 := ((s.set (SEQ_LC.value d j.1 j.2) 0).set (SEQ_LC.count d j.1 j.2) count).set (SEQ_LC.active d j.1 j.2) 1
    let s2 := s1.setCtx d h { s1.ctx d h with loops := Tab.set (0, 0) (s1.ctx d h).loops p (u + len, u + len + lend) }
    (s2.showLoops d h).set (SEQ_PC.record d h) (u + len)

/-! ## Branches (R143 to R145) -/

/-- The target of a branch at unit u: outside the region it is none. -/
def State.target (s : State) (d h u imm : Nat) : Option Nat :=
  let t := (u : Int) + sext 24 imm
  if 0 ≤ t ∧ 16 * t + 16 ≤ s.regionSize d h then some t.toNat else none

/-- A branch is taken (R143): loops whose body the target leaves become inactive. -/
def State.jumpTo (s : State) (d h t : Nat) : State :=
  ((s.activeLoops d h).foldl (fun u l => if l.2.1 ≤ t ∧ t < l.2.2 then u else u.endLoop d h l.1) s).set (SEQ_PC.record d h) t

/-- The cores of core-set entry i: cluster and core (R144). An index at or above the core-set count names no set. -/
def State.coreSet (s : State) (d h i : Nat) : List (Nat × Nat) :=
  if s.hdr d h 33 1 ≤ i then []
  else
    let n := s.readNat (s.setPlace d h i) 16
    (List.range 128).filterMap fun b => if bitOf n b then some (b / 16, b % 16) else none

/-- The fault a BR raises (R144): SUM_KIND, then SUM_POISON at the lowest poisoned core. -/
def State.brFault (s : State) (d h sset sm : Nat) : Nat × Nat × Nat :=
  let l := s.coreSet d h sset
  let kinds := (l.map fun x => s.get (CORE_SMCTL.kind d x.1 x.2 sm)).eraseDups
  if 1 < kinds.length then (0x33, 0, 0)
  else match l.find? fun x => s.flag (CORE_SMCTL.poison d x.1 x.2 sm) with
    | some x => (0x24, x.1, x.2)
    | none => (0, 0, 0)

/-- The combination of the summaries (R144). Over no core at all its value is open (log entry 36). -/
def State.brValue (s : State) (d h sset sm : Nat) : Int × State :=
  let l := s.coreSet d h sset
  let vs := l.map fun x => sext 64 (s.get (CORE_SM.value d x.1 x.2 sm))
  match l with
  | [] => (sext 64 s.draw.1.toNat, s.draw.2)
  | x :: _ =>
    match s.get (CORE_SMCTL.kind d x.1 x.2 sm) with
    | 0 => (if vs.any (· != 0) then 1 else 0, s)
    | 1 => (if vs.all (· != 0) then 1 else 0, s)
    | 2 => (vs.foldl max (vs.headD 0), s)
    | 3 => (vs.foldl min (vs.headD 0), s)
    | _ => (sat63 vs.sum, s)

/-- Does the value meet the condition (R123)? -/
def condMet (cond : Nat) (v : Int) : Bool :=
  match cond with
  | 0 => v == 0
  | 1 => v != 0
  | 2 => decide (v < 0)
  | _ => decide (0 ≤ v)

/-- A branch operation on the combined value v: the state with SEQ_PC moved, and the bubbles it costs (R143). -/
def State.seqBr (s : State) (d h u len cond off : Nat) (v : Int) : State × Nat :=
  if condMet cond v then
    match s.target d h u off with
    | some t => (s.jumpTo d h t, 4)
    | none => (s, 0)
  else (s.follow d h u len, 0)

/-- The fault of a BR whose target, if taken, lies outside the region. -/
def State.brRange (s : State) (d h u sset sm cond off : Nat) : Bool :=
  condMet cond (s.brValue d h sset sm).1 && (s.target d h u off).isNone

/-! ## Bells and DMA of beats (R146, R147) -/

/-- RING of a beat: its count is visible from its issue cycle + 2. -/
def State.ringLater (s : State) (d h bell count : Nat) : State :=
  if count = 0 then s
  else s.setCtx d h { s.ctx d h with rings := (s.ctx d h).rings ++ [(s.get (SEQ_CYC.cycles d h) + 2, bell, count)] }

/-- RING: a count of 0 changes nothing. -/
def State.beatRing (s : State) (d h bell count : Nat) : State :=
  if count = 0 then s else s.ringOwn (s.ctxPen d h) d bell count false

/-- RINGX: the bell named in remote-bell rudiment `rud`. -/
def State.beatRingx (s : State) (d h rud count : Nat) : State :=
  if count = 0 then s else s.ringName (s.ctxPen d h) (s.readNat (s.rudPlace d h rud + 8) 8) count false

/-- An AWAIT's test. -/
inductive Test where
  | pass | wait | err
  deriving DecidableEq, Repr

/-- Does context 0 of a die await this bell, with a count that it satisfies? -/
def State.zeroAwaits (s : State) (d bell : Nat) : Option Nat :=
  let n := s.dieWord d 0 (s.pc d 0)
  if s.cstate d 0 = 4 ∧ s.get (SEQ_STATUS.held_reason d 0) = 1 ∧ s.ctxLive d 0 = true ∧ dwBell n = bell ∧
    dwCount n ≤ s.get (BEL_VAL.count d bell) then some (dwCount n) else none

/-- The test by context h (R146, R379): where the count satisfies only one of the two contexts, context 0 is served. -/
def State.awaitTest (s : State) (d h bell count : Nat) : Test :=
  if s.flag (BEL_VAL.err d bell) then .err
  else if s.get (BEL_VAL.count d bell) < count then .wait
  else if h = 0 then .pass
  else match s.zeroAwaits d bell with
    | some n => if s.get (BEL_VAL.count d bell) < n + count then .wait else .pass
    | none => .pass

/-- The subtraction of an AWAIT that passes. -/
def State.awaitTake (s : State) (d bell count : Nat) : State :=
  s.set (BEL_VAL.count d bell) (s.get (BEL_VAL.count d bell) - count)

/-- The context's DMA queue is full (R147). -/
def State.dmaFull (s : State) (d h : Nat) : Bool := decide (64 ≤ (s.ctx d h).dmaq.length)

/-- The queue entry of a DMA rudiment as resolved at issue (R148). -/
def State.dmaEntry (s : State) (d h rud cls : Nat) (r : DmaRud) : DmaEntry :=
  { rud := BitVec.ofNat 16 rud, cls := cls, toMem := r.dir == 1,
    gaddr := BitVec.ofInt 64 (r.gbase.toNat + s.terms d h r.terms), cluster := r.cluster, laddr := s.loftAddr d h 0 r.agL,
    len := r.len, done := r.done, errb := if r.errbEn then some r.errb else none, issued := 0, waiting := 0, failed := none, noted := false }

/-- DMA issue. -/
def State.dmaPush (s : State) (d h rud cls : Nat) : State :=
  let e := s.dmaEntry d h rud cls (dmaOf (s.rudBytes d h rud 64))
  s.setCtx d h { s.ctx d h with dmaq := (s.ctx d h).dmaq ++ [e] }

/-- The direction of a DMA rudiment is one of R148. -/
def State.dmaDefined (s : State) (d h rud : Nat) : Bool := decide ((dmaOf (s.rudBytes d h rud 64)).dir ≤ 1)

/-! ## STEP and HALT (R152, R153) -/

/-- Every operation in flight completes: cadence cycles pass, at least until cycle `lo`; a clash among them, or a pivot engine, may stop the
context. -/
def State.drain (s : State) (d h lo : Nat) (next : State → State) : State :=
  let t := max lo (s.drainedAt d h)
  s.runTo d h t fun u =>
    let r := u.enginesRun d h engineBound t
    match r.2.2 with
    | some f => r.1.pivStop d h r.2.1 f
    | none => next (r.1.atCycle d h r.2.1)

/-- STEP action 1. -/
def State.stepStart (s : State) (d h : Nat) (snap : Bool) : State :=
  s.drain d h 0 fun t => (t.setCtx d h { t.ctx d h with phase := .draining, snap := snap }).hold d h 3

/-- HALT after its engine fields: its cycle passes, and it waits. -/
def State.haltStart (s : State) (d h : Nat) : State := s.drain d h (s.get (SEQ_CYC.cycles d h) + 1) fun t => t.setPhase d h .halting

/-! ## Issue of a beat (R125, R139, R140) -/

/-- The fault of fetching the record at unit u: SEQ_RANGE, or SEQ_STORE_UE for the record itself (R119, R143). -/
def State.fetchFault (s : State) (d h u : Nat) : Nat :=
  let len := 16 * dwUnits (s.dieWord d h u)
  if s.regionSize d h < 16 * u + 16 ∨ s.regionSize d h < 16 * u + len then 0x34
  else if s.readBad (s.regionAt d h + 16 * u) len then 0x32 else 0

/-- Reserved codes of the record (R124, R126). -/
def State.codesBad (s : State) (d h u : Nat) : Bool :=
  let n := s.dieWord d h u
  decide (5 < dwSeq n) || decide (1 < dwDop n) || (s.clusterWords d h u).any fun w => cwBad w.2

/-- The fault of the sequencer operation itself. -/
def State.seqFault (s : State) (d h u : Nat) : Nat × Nat × Nat :=
  let n := s.dieWord d h u
  match dwSeq n with
  | 1 => if s.nestBad d h u (dwUnits n) (dwLc n) (dwLend n) then (0x31, 0, 0) else (0, 0, 0)
  | 2 =>
    let f := s.brFault d h (dwSset n) (dwSm n)
    if f.1 ≠ 0 then f else if s.brRange d h u (dwSset n) (dwSm n) (dwCond n) (dwImm n) then (0x34, 0, 0) else (0, 0, 0)
  | 3 => if (s.target d h u (dwImm n)).isNone then (0x34, 0, 0) else (0, 0, 0)
  | _ => (0, 0, 0)

/-- All operations of the record. -/
def State.beatOps (s : State) (d h u : Nat) : List BeatOp := (s.clusterWords d h u).flatMap (s.wordOps d h)

/-- The first fault found at issue: reserved codes, parts of the store, operations from the lowest cluster and core on, the sequencer
operation. -/
def State.issueFault (s : State) (d h u : Nat) : Nat × Nat × Nat :=
  if s.codesBad d h u then (0x30, 0, 0)
  else if (s.namedParts d h u).any (fun p => s.readBad p.1 p.2) then (0x32, 0, 0)
  else match ((s.beatOps d h u).map (s.opFault d)).find? fun f => f.1 != 0 with
    | some f => f
    | none => s.seqFault d h u

/-- Every store word the beat reads is read (R119, R166). -/
def State.beatReads (s : State) (d h u : Nat) : State :=
  ((s.regionAt d h + 16 * u, 16 * dwUnits (s.dieWord d h u)) :: s.namedParts d h u).foldl
    (fun t p => t.storeRead d h (p.1 - storeBase d) p.2) s

/-- The loft patterns the record selects (R127). -/
def State.setPatterns (s : State) (d h u : Nat) : State :=
  (s.clusterWords d h u).foldl (fun t w => t.setCluster d w.1 { t.cluster d w.1 with pat := cwLpat w.2 }) s

/-- The bell operation of the record, but for AWAIT (R146). That of a HALT is performed after everything else of it (R153). -/
def State.beatBell (s : State) (d h n : Nat) : State :=
  match dwBop n with
  | 1 => if dwSeq n = 5 then s.beatRing d h (dwBell n) (dwCount n) else s.ringLater d h (dwBell n) (dwCount n)
  | 3 => s.beatRingx d h (dwBell n) (dwCount n)
  | _ => s

/-- What a BR branches on; nothing for any other record. -/
def State.seqValue (s : State) (d h n : Nat) : Int × State := if dwSeq n = 2 then s.brValue d h (dwSset n) (dwSm n) else (0, s)

/-- The sequencer operation moves SEQ_PC: the state, and the bubbles (R124). -/
def State.seqOp (s : State) (d h u n : Nat) (v : Int) : State × Nat :=
  match dwSeq n with
  | 1 => (s.seqLoop d h u (dwUnits n) (dwLc n) (dwImm n) (dwLend n), 0)
  | 2 => s.seqBr d h u (dwUnits n) (dwCond n) (dwImm n) v
  | 3 => match s.target d h u (dwImm n) with
    | some t => (s.jumpTo d h t, 4)
    | none => (s, 0)
  | _ => (s.follow d h u (dwUnits n), 0)

/-- The cycles of a beat pass, its rest and its bubbles with them; then SEQ_PC moves and one more beat counts (R106). A fault in one of the
cycles leaves SEQ_PC at the beat (R140). -/
def State.beatEnd (s : State) (d h n : Nat) (seq : State → State × Nat) : State :=
  let e := s.get (SEQ_CYC.cycles d h) + 1 + dwRest n + (seq s).2
  s.runTo d h e fun u =>
    let r := (seq u).1
    (r.setCtx d h { r.ctx d h with beats := (r.ctx d h).beats + 1, phase := .none }).atCycle d h e

/-! ### The header of the next chunk (R70) -/

/-- The beats that follow, from the record at SEQ_PC on and not after cycle `last`: the cycle of each, with the state as its engine fields see it.
Nothing is foreseen past a BR, a STEP or a HALT: the list ends there, or where the region does. The argument after d and h bounds it. -/
def State.foreseen (s : State) (d h : Nat) : Nat → Nat → List (Nat × State)
  | 0, _ => []
  | n + 1, last =>
    let u := s.pc d h
    let w := s.dieWord d h u
    let t := s.get (SEQ_CYC.cycles d h)
    if last < t ∨ s.regionSize d h < 16 * u + 16 then []
    else if dwSeq w = 1 ∨ dwSeq w = 0 ∨ dwSeq w = 3 then
      let r := s.seqOp d h u w 0
      (t, s) :: State.foreseen (r.1.set (SEQ_CYC.cycles d h) (t + 1 + dwRest w + r.2)) d h n last
    else [(t, s)]

/-- The word of cluster c in the record at SEQ_PC that gives core k a matrix operation. -/
def State.matWord (s : State) (d h c k : Nat) : Option Nat :=
  ((s.clusterWords d h (s.pc d h)).find? fun w => w.1 == c && bitOf (cwKmask w.2) k && cwMop w.2 != 0).map (·.2)

/-- A chunk of core k, which takes `cycles`, starts: in its first sixteen it reads the header of the chunk that will follow without a gap. `l` are the
beats that follow. -/
def State.lookAhead (s : State) (d h c k cycles : Nat) (l : List (Nat × State)) : State :=
  let next := (s.core d c k).mBusy
  match l.findSome? fun x => (x.2.matWord d h c k).map fun w => (x.1, x.2, w) with
  | some (t, u, w) =>
    if t = next ∧ (cwMop w = 1 ∨ cwMop w = 2) then
      let r := matOf (u.rudBytes d h (cwMrud w) 64)
      s.readAhead d c k (u.stallAddr d h k r.agA) (u.stallAddr d h k r.agB) (next - cycles) next
    else s
  | none => s

/-- The cores in which this beat starts a chunk, and the cycles it takes. -/
def chunkCores (l : List BeatOp) : List (Nat × Nat × Nat) := l.filterMap fun o => match o with
  | .mat c k mop _ r => if mop = 1 ∨ mop = 2 then some (c, k, (wideOf r).chunkCycles) else none
  | _ => none

/-- A beat's chunks look ahead: `v` is what its own BR branches on. -/
def State.lookAheads (s : State) (d h u n : Nat) (v : Int) (ops : List BeatOp) : State :=
  let cs := chunkCores ops
  if cs.isEmpty ∨ 4 ≤ dwSeq n then s
  else
    let r := s.seqOp d h u n v
    let t := s.get (SEQ_CYC.cycles d h)
    let l := (r.1.set (SEQ_CYC.cycles d h) (t + 1 + dwRest n + r.2)).foreseen d h 145 (t + 144)
    cs.foldl (fun x e => x.lookAhead d h e.1 e.2.1 e.2.2 l) s

/-- A beat has issued. -/
def State.beatNext (s : State) (d h u n : Nat) : State :=
  let v := s.seqValue d h n
  v.2.beatEnd d h n fun w => w.seqOp d h u n v.1

/-- A missed slot of the pivot engine of cluster `m` is the fault x: CORE_PIV_STATUS shows it (R200). -/
def State.slotMissed (s : State) (d : Nat) (m : Option Nat) (x : Clash) : State :=
  match m with
  | some c => if x.c = c ∧ x.k = 0 ∧ x.code = 0x21 then s.set (CORE_PIV_STATUS.slot_fault d c) 1 else s
  | none => s

/-- The whole beat issues. `s` is the state with its AWAIT not yet taken, `s1` with it taken. A clash of its own cycle, or an access of a pivot
engine that missed its slot, is found at issue: none of its fields take effect (R140). -/
def State.issueNow (s s1 : State) (d h u : Nat) : Host.Outcome State Fault Refusal :=
  let n := s.dieWord d h u
  let f := s.issueFault d h u
  let t := s.get (SEQ_CYC.cycles d h)
  if f.1 ≠ 0 then .next (((s.beatReads d h u).descsRead d (s.beatOps d h u)).raise d h f.1 f.2.1 f.2.2)
  else if !(s.beatOps d h u).all (s.opDefined d) || (dwDop n == 1 && !s.dmaDefined d h (dwDrud n)) then reservedCode
  else
    let s2 := ((s1.beatReads d h u).setPatterns d h u).opsStart d (s.beatOps d h u)
    let s3 := s2.1.lookAheads d h u n (s.seqValue d h n).1 (s.beatOps d h u)
    match Clash.first (s3.clash d h t (t + 1)) (s2.2.map fun c => ⟨t, c, 0, 0x21⟩) with
    | some x => .next (((({ s with fresh := s2.1.fresh }.beatReads d h u).descsRead d (s.beatOps d h u)).slotMissed d s2.2 x).stopAt d h x)
    | none =>
      let s4 := if dwDop n = 1 then s3.dmaPush d h (dwDrud n) (dwCls n) else s3
      let s5 := if dwSeq n = 5 then s4 else s4.beatBell d h n
      .next (if dwSeq n = 5 then s5.haltStart d h else s5.beatNext d h u n)

/-- BEAT_ISSUE: the AWAIT is tested first, then the DMA queue (R146, R147); `taken` says that this AWAIT has passed already. A STEP beat
issues only after the boundary (R152). -/
def State.beatIssue (s : State) (d h : Nat) (taken : Bool) : Host.Outcome State Fault Refusal :=
  let u := s.pc d h
  let n := s.dieWord d h u
  let f := s.fetchFault d h u
  let aw := dwBop n == 2 && !taken
  let s1 := if aw then s.awaitTake d (dwBell n) (dwCount n) else s
  if f ≠ 0 then .next ((s.storeRead d h (s.regionAt d h + 16 * u - storeBase d) (if f = 0x32 then 16 * dwUnits n else 0)).contextFault d h f 0 0)
  else if dwSeq n = 4 ∧ (s.ctx d h).phase ≠ .resumed then .next (s.stepStart d h (bitOf (dwImm n) 0))
  else if aw && s.awaitTest d h (dwBell n) (dwCount n) == .err then .next (s.contextFault d h 0x36 0 0)
  else if aw && s.awaitTest d h (dwBell n) (dwCount n) == .wait then .next (s.hold d h 1)
  else if dwDop n = 1 ∧ s.dmaFull d h = true then .next (s1.hold d h 2)
  else s.issueNow s1 d h u

/-! ## The rows -/

/-- BEAT_ISSUE (R125). -/
def execBeatIssue (d : Fin 4) (h : Fin 2) (s : State) : Host.Outcome State Fault Refusal :=
  if s.issues d.val h.val then s.beatIssue d.val h.val false else s.notDue

/-- A sequencer operation on its own acts for the record at SEQ_PC, of whose fields it takes the length and the rest. -/
def State.seqRow (s : State) (d h : Nat) (f : Nat × Nat × Nat) (seq : State → State × Nat) : Host.Outcome State Fault Refusal :=
  if !s.issues d h then s.notDue
  else if f.1 ≠ 0 then .next (s.raise d h f.1 f.2.1 f.2.2)
  else .next (s.beatEnd d h (s.dieWord d h (s.pc d h)) seq)

/-- The length of the record at SEQ_PC. -/
def State.pcLen (s : State) (d h : Nat) : Nat := dwUnits (s.dieWord d h (s.pc d h))

/-- NOP (R124). -/
def execNop (d : Fin 4) (h : Fin 2) (s : State) : Host.Outcome State Fault Refusal :=
  s.seqRow d.val h.val (0, 0, 0) fun w => (w.follow d.val h.val (s.pc d.val h.val) (s.pcLen d.val h.val), 0)

/-- LOOP (R141). -/
def execLoop (d : Fin 4) (h : Fin 2) (lc : BitVec 4) (count : BitVec 24) (lend : U16) (s : State) : Host.Outcome State Fault Refusal :=
  let u := s.pc d.val h.val
  let len := s.pcLen d.val h.val
  s.seqRow d.val h.val (if s.nestBad d.val h.val u len lc.toNat lend.toNat then (0x31, 0, 0) else (0, 0, 0))
    fun w => (w.seqLoop d.val h.val u len lc.toNat count.toNat lend.toNat, 0)

/-- BR (R144). -/
def execBr (d : Fin 4) (h : Fin 2) (sset : BitVec 4) (sm cond : BitVec 2) (off : BitVec 24) (s : State) : Host.Outcome State Fault Refusal :=
  let u := s.pc d.val h.val
  let f := s.brFault d.val h.val sset.toNat sm.toNat
  let g := if f.1 ≠ 0 then f
    else if s.brRange d.val h.val u sset.toNat sm.toNat cond.toNat off.toNat then (0x34, 0, 0) else (0, 0, 0)
  let v := s.brValue d.val h.val sset.toNat sm.toNat
  if g.1 ≠ 0 then s.seqRow d.val h.val g fun w => (w, 0)
  else v.2.seqRow d.val h.val (0, 0, 0) fun w => w.seqBr d.val h.val u (s.pcLen d.val h.val) cond.toNat off.toNat v.1

/-- JMP (R143). -/
def execJmp (d : Fin 4) (h : Fin 2) (off : BitVec 24) (s : State) : Host.Outcome State Fault Refusal :=
  match s.target d.val h.val (s.pc d.val h.val) off.toNat with
  | some t => s.seqRow d.val h.val (0, 0, 0) fun w => (w.jumpTo d.val h.val t, 4)
  | none => s.seqRow d.val h.val (0x34, 0, 0) fun w => (w, 0)

/-- STEP (R152): action 1, for the record at SEQ_PC. -/
def execStep (d : Fin 4) (h : Fin 2) (s : State) : Host.Outcome State Fault Refusal :=
  if s.issues d.val h.val && (s.ctx d.val h.val).phase != .resumed then
    .next (s.stepStart d.val h.val (bitOf (dwImm (s.dieWord d.val h.val (s.pc d.val h.val))) 0))
  else s.notDue

/-- STEP_DRAINED (R152): every DMA entry, yard command (R243) and collective (R386) of the context is complete. -/
def execStepDrained (d : Fin 4) (h : Fin 2) (s : State) : Host.Outcome State Fault Refusal :=
  let c := s.ctx d.val h.val
  if s.ctxLive d.val h.val && c.phase == .draining && c.dmaq.isEmpty && !s.ctxCommands d.val h.val && !s.ctxColls (2 * d.val + h.val) then
    .next (s.setPhase d.val h.val .arrived)
  else s.notDue

/-- HALT (R153), for the record at SEQ_PC. -/
def execHalt (d : Fin 4) (h : Fin 2) (s : State) : Host.Outcome State Fault Refusal :=
  if s.issues d.val h.val then .next (s.haltStart d.val h.val) else s.notDue

/-- HALT_COMPLETE (R153): the bell operation of the HALT beat, and HALTED; the pen's last context to halt lets it take its share of an armed
shadow (R453). -/
def execHaltComplete (d : Fin 4) (h : Fin 2) (s : State) : Host.Outcome State Fault Refusal :=
  let c := s.ctx d.val h.val
  if s.runs d.val h.val && c.phase == .halting && c.dmaq.isEmpty then
    let s1 := s.beatBell d.val h.val (s.dieWord d.val h.val (s.pc d.val h.val))
    let s2 := (s1.setPhase d.val h.val .none).set (SEQ_STATUS.state d.val h.val) 5
    .next (match s2.penOfHalf d.val h.val with | some p => s2.shareIfIdle p | none => s2)
  else s.notDue

/-- RING (R146). -/
def execRing (d : Fin 4) (h : Fin 2) (bell : BitVec 12) (count : U16) (s : State) : Host.Outcome State Fault Refusal :=
  .next (s.beatRing d.val h.val bell.toNat count.toNat)

/-- AWAIT (R146, R379): the beat that holds it issues, faults, or the context holds. -/
def execAwait (d : Fin 4) (h : Fin 2) (bell : BitVec 12) (count : U16) (s : State) : Host.Outcome State Fault Refusal :=
  if !s.issues d.val h.val then s.notDue
  else match s.awaitTest d.val h.val bell.toNat count.toNat with
    | .err => .next (s.contextFault d.val h.val 0x36 0 0)
    | .wait => .next (s.hold d.val h.val 1)
    | .pass => .next (s.awaitTake d.val bell.toNat count.toNat)

/-- AWAIT_PASS (R146, R379): a held AWAIT is tested again, and the whole beat issues; a bell with err set stops the context. -/
def execAwaitPass (d : Fin 4) (h : Fin 2) (s : State) : Host.Outcome State Fault Refusal :=
  let n := s.dieWord d.val h.val (s.pc d.val h.val)
  if s.cstate d.val h.val == 4 && s.get (SEQ_STATUS.held_reason d.val h.val) == 1 && s.ctxLive d.val h.val then
    if s.awaitTest d.val h.val (dwBell n) (dwCount n) == .wait then s.notDue
    else (s.unhold d.val h.val).beatIssue d.val h.val false
  else s.notDue

/-- AWAIT_TMO (R151): one continuous hold has reached the limit. -/
def execAwaitTmo (d : Fin 4) (h : Fin 2) (held : BitVec 48) (s : State) : Host.Outcome State Fault Refusal :=
  let lim := s.get (SEQ_AWAIT_TMO.cycles d.val h.val)
  if s.cstate d.val h.val == 4 && s.get (SEQ_STATUS.held_reason d.val h.val) == 1 && s.ctxLive d.val h.val && lim != 0 && decide (lim ≤ held.toNat) then
    .next (((s.inc (SEQ_HELD.cycles d.val h.val) held.toNat).set (SEQ_STATUS.state d.val h.val) 3).contextFault d.val h.val 0x35 0 0)
  else s.notDue

/-- RINGX (R146). -/
def execRingx (d : Fin 4) (h : Fin 2) (rud : BitVec 12) (count : U16) (s : State) : Host.Outcome State Fault Refusal :=
  .next (s.beatRingx d.val h.val rud.toNat count.toNat)

/-- DMA_ISSUE (R147). -/
def execDmaIssue (d : Fin 4) (h : Fin 2) (rud : U16) (cls : BitVec 2) (s : State) : Host.Outcome State Fault Refusal :=
  if !s.dmaDefined d.val h.val rud.toNat then reservedCode
  else .next (if s.dmaFull d.val h.val then s.hold d.val h.val 2 else s.dmaPush d.val h.val rud.toNat cls.toNat)

/-- DMA_QUEUE_FREE (R147): an entry of the full queue is free, and the held beat issues; its AWAIT has passed before. -/
def execDmaQueueFree (d : Fin 4) (h : Fin 2) (s : State) : Host.Outcome State Fault Refusal :=
  if s.cstate d.val h.val == 4 && s.get (SEQ_STATUS.held_reason d.val h.val) == 2 && s.ctxLive d.val h.val && !s.dmaFull d.val h.val then
    (s.unhold d.val h.val).beatIssue d.val h.val true
  else s.notDue

/-- DMA_TRANSFER_DONE (R148, R349): the last byte of the transfer at the head of the queue has landed, and no
posting of it waits (R237). -/
def execDmaTransferDone (d : Fin 4) (h : Fin 2) (s : State) : Host.Outcome State Fault Refusal :=
  match (s.ctx d.val h.val).dmaq with
  | e :: q =>
    if s.ctxLive d.val h.val && e.issued == e.len && e.waiting == 0 && e.failed.isNone && !s.postHeld d.val h.val then
      .next ((s.setCtx d.val h.val { s.ctx d.val h.val with dmaq := q }).ringOwn (s.ctxPen d.val h.val) d.val e.done 1 false)
    else s.notDue
  | [] => s.notDue

end Sys2Proof.Machine
end

