-- ==== Sys2Proof/Machine/Hash.lean ====
section
/-!
DEFINITION. Hash.lean: SHA-256 and SHA-384 (FIPS 180-4, which R422 and R445 name, and R425 and R446 through ECDSA). Both are one
construction over words of 32 or 64 bits: the constants are computed from the primes FIPS 180-4 takes them from, the compression is
a fold over the message schedule.
-/

namespace Sys2Proof.Machine

/-- The first primes: the numbers below `bound` with no divisor from 2 on below themselves. -/
def primesBelow (bound : Nat) : List Nat :=
  (List.range bound).filter fun p => decide (2 ≤ p) && (List.range (min p 22)).all fun d => decide (d < 2) || decide (p % d ≠ 0)

/-- The greatest r below 2^bits with r^k ≤ n, found bit by bit from the top. -/
def rootBits (k n : Nat) : Nat → Nat → Nat
  | 0, r => r
  | bits + 1, r => rootBits k n bits (if (r + 2 ^ bits) ^ k ≤ n then r + 2 ^ bits else r)

/-- The first `w` bits of the fractional part of the k-th root of p. -/
def rootFraction (w k p : Nat) : BitVec w := BitVec.ofNat w (rootBits k (p * 2 ^ (k * w)) (w + 6) 0)

/-- What tells one hash of the family from another: rotations of the two big and the two small sigma functions, the small ones' shifts,
the rounds, the primes left out before the eight whose square roots start the hash, the words of the digest. -/
structure HashForm where
  big0   : List Nat
  big1   : List Nat
  small0 : List Nat
  shift0 : Nat
  small1 : List Nat
  shift1 : Nat
  rounds : Nat
  skip   : Nat
  out    : Nat
  deriving DecidableEq, Repr

def sha256Form : HashForm :=
  { big0 := [2, 13, 22], big1 := [6, 11, 25], small0 := [7, 18], shift0 := 3, small1 := [17, 19], shift1 := 10, rounds := 64, skip := 0, out := 8 }

def sha384Form : HashForm :=
  { big0 := [28, 34, 39], big1 := [14, 18, 41], small0 := [1, 8], shift0 := 7, small1 := [19, 61], shift1 := 6, rounds := 80, skip := 8, out := 6 }

/-- The exclusive or of x rotated right by each amount. -/
def rotated {w : Nat} (x : BitVec w) (l : List Nat) : BitVec w := l.foldl (fun r k => r ^^^ x.rotateRight k) 0

/-- The round constants: cube roots of the first primes. -/
def HashForm.constants (f : HashForm) (w : Nat) : List (BitVec w) := ((primesBelow 410).take f.rounds).map (rootFraction w 3)

/-- The starting words: square roots of eight primes. -/
def HashForm.start (f : HashForm) (w : Nat) : List (BitVec w) := (((primesBelow 410).drop f.skip).take 8).map (rootFraction w 2)

/-- The message schedule, newest word first: each further word from those 2, 7, 15 and 16 places before it. -/
def HashForm.schedule (f : HashForm) {w : Nat} : Nat → List (BitVec w) → List (BitVec w)
  | 0, l => l
  | n + 1, l =>
    let back := fun (i : Nat) => l.getD (i - 1) 0
    f.schedule n (((rotated (back 2) f.small1 ^^^ (back 2 >>> f.shift1)) + back 7 + (rotated (back 15) f.small0 ^^^ (back 15 >>> f.shift0)) +
      back 16) :: l)

/-- A round on the eight words: the seven older ones move down by one place, and the fifth takes the first sum besides. `kw` is the round's
constant plus its schedule word. -/
def HashForm.round (f : HashForm) {w : Nat} (v : List (BitVec w)) (kw : BitVec w) : List (BitVec w) :=
  let x := fun (i : Nat) => v.getD i 0
  let pick := (x 4 &&& x 5) ^^^ (~~~(x 4) &&& x 6)
  let most := (x 0 &&& x 1) ^^^ (x 0 &&& x 2) ^^^ (x 1 &&& x 2)
  let sum := x 7 + rotated (x 4) f.big1 + pick + kw
  [sum + rotated (x 0) f.big0 + most, x 0, x 1, x 2, x 3 + sum, x 4, x 5, x 6]

/-- A block of 16 words on the running hash. -/
def HashForm.block (f : HashForm) {w : Nat} (h m : List (BitVec w)) : List (BitVec w) :=
  let words := (f.schedule (f.rounds - 16) m.reverse).reverse
  List.zipWith (· + ·) h ((List.zipWith (· + ·) (f.constants w) words).foldl f.round h)

/-- A big-endian number. -/
def beNat (l : List Byte) : Nat := l.foldl (fun a b => 256 * a + b.toNat) 0

/-- The message with its padding: a one bit, zeros, its length in bits in the last two words' bytes, to whole blocks of 16 words of n bytes. -/
def shaPadded (n : Nat) (m : List Byte) : List Byte :=
  let tail := 2 * n
  let used := m.length + 1 + tail
  m ++ [0x80#8] ++ List.replicate ((16 * n - used % (16 * n)) % (16 * n)) 0#8 ++ (leBytes tail (8 * m.length)).reverse

/-- The running hash over the blocks. -/
def HashForm.blocks (f : HashForm) (w : Nat) : Nat → List Byte → List (BitVec w) → List (BitVec w)
  | 0, _, h => h
  | k + 1, m, h =>
    let n := w / 8
    f.blocks w k (m.drop (16 * n)) (f.block h ((List.range 16).map fun i => BitVec.ofNat w (beNat ((m.drop (n * i)).take n))))

/-- The hash of a message, its words most significant byte first. -/
def HashForm.hash (f : HashForm) (w : Nat) (m : List Byte) : List Byte :=
  let p := shaPadded (w / 8) m
  ((f.blocks w (p.length / (2 * w)) p (f.start w)).take f.out).flatMap fun x => (leBytes (w / 8) x.toNat).reverse

/-- SHA-256 of a message: 32 bytes. -/
def sha256 (m : List Byte) : List Byte := sha256Form.hash 32 m

/-- SHA-384 of a message: 48 bytes. -/
def sha384 (m : List Byte) : List Byte := sha384Form.hash 64 m

end Sys2Proof.Machine
end

