-- ==== Sys2Proof/Machine/Gcm.lean ====
section
/-!
DEFINITION. Gcm.lean: AES-256 in Galois/Counter Mode (FIPS 197, SP 800-38D), with which R424 encrypts the payload of a shard.
-/

namespace Sys2Proof.Machine

/-! ## AES-256 -/

/-- Twice a field element modulo x^8 + x^4 + x^3 + x + 1. -/
def aesTwice (a : Byte) : Byte := (a <<< 1) ^^^ (if a.msb then 0x1B#8 else 0#8)

/-- The product of two field elements, over the bits of the second, the lowest first. -/
def aesTimes (b : Byte) : Nat → Nat → Byte → Byte
  | 0, _, _ => 0
  | n + 1, i, a => (if b.getLsbD i then a else 0#8) ^^^ aesTimes b n (i + 1) (aesTwice a)

def aesMul (a b : Byte) : Byte := aesTimes b 8 0 a

/-- The S-box: the field inverse, a^254, then the affine map. -/
def subByte (a : Byte) : Byte :=
  let sq := fun x => aesMul x x
  let a2 := sq a
  let a4 := sq a2
  let a8 := sq a4
  let a16 := sq a8
  let a32 := sq a16
  let a64 := sq a32
  let inv := [a4, a8, a16, a32, a64, sq a64].foldl aesMul a2
  (List.range 5).foldl (fun r k => r ^^^ inv.rotateLeft k) 0x63#8

def xorBytes (a b : List Byte) : List Byte := List.zipWith (· ^^^ ·) a b

/-- The words of the key schedule, newest first: `n` more, the next being word number i; `rc` is the next round constant. -/
def keyWords : Nat → Nat → Byte → List (List Byte) → List (List Byte)
  | 0, _, _, l => l
  | n + 1, i, rc, l =>
    let last := l.headD []
    let t := if i % 8 = 0 then xorBytes ((last.drop 1 ++ last.take 1).map subByte) [rc, 0, 0, 0] else if i % 8 = 4 then last.map subByte else last
    keyWords n (i + 1) (if i % 8 = 0 then aesTwice rc else rc) (xorBytes (l.getD 7 []) t :: l)

/-- The fifteen round keys of 16 bytes. -/
def roundKeys (key : List Byte) : List (List Byte) :=
  let first := ((List.range 8).map fun i => (key.drop (4 * i)).take 4).reverse
  let all := (keyWords 52 8 1 first).reverse.flatten
  (List.range 15).map fun r => (all.drop (16 * r)).take 16

/-- ShiftRows and SubBytes of a block held column by column: row r of column c comes from column c + r. -/
def shiftSub (b : List Byte) : List Byte := (List.range 16).map fun i => subByte (b.getD ((i + 4 * (i % 4)) % 16) 0)

/-- MixColumns. -/
def mixColumns (b : List Byte) : List Byte :=
  (List.range 16).map fun i =>
    let x := fun (k : Nat) => b.getD (4 * (i / 4) + (i + k) % 4) 0
    aesTwice (x 0) ^^^ aesTwice (x 1) ^^^ x 1 ^^^ x 2 ^^^ x 3

/-- The block cipher. -/
def aes256 (key block : List Byte) : List Byte :=
  let ks := roundKeys key
  let mid := ((ks.drop 1).take 13).foldl (fun b k => xorBytes (mixColumns (shiftSub b)) k) (xorBytes block (ks.headD []))
  xorBytes (shiftSub mid) (ks.getD 14 [])

/-! ## Galois/Counter Mode -/

/-- The product of GHASH, over the bits of x from the most significant. -/
def ghashTimes (x : U128) : Nat → U128 → U128
  | 0, _ => 0
  | n + 1, v =>
    (if x.getLsbD n then v else 0) ^^^ ghashTimes x n ((v >>> 1) ^^^ (if v.getLsbD 0 then 0xE1000000000000000000000000000000#128 else 0))

/-- Bytes filled with zeros to whole blocks. -/
def wholeBlocks (l : List Byte) : List Byte := l ++ List.replicate ((16 - l.length % 16) % 16) 0

/-- GHASH under the hash key h. -/
def ghash (h : U128) (l : List Byte) : U128 :=
  (List.range (l.length / 16)).foldl (fun y i => ghashTimes (y ^^^ BitVec.ofNat 128 (beNat ((l.drop (16 * i)).take 16))) 128 h) 0

def be (n v : Nat) : List Byte := (leBytes n v).reverse

/-- Counter block i under a 96-bit nonce: 1 for the tag, from 2 on for the text. -/
def counterBlock (nonce : List Byte) (i : Nat) : List Byte := nonce ++ be 4 (i % 2 ^ 32)

/-- Encryption and decryption are the same exclusive or with the key stream. -/
def gcmText (key nonce text : List Byte) : List Byte :=
  (List.range ((text.length + 15) / 16)).flatMap fun i => xorBytes ((text.drop (16 * i)).take 16) (aes256 key (counterBlock nonce (i + 2)))

/-- The 16-byte tag of a ciphertext with its additional data. -/
def gcmTag (key nonce aad cipher : List Byte) : List Byte :=
  let h := BitVec.ofNat 128 (beNat (aes256 key (List.replicate 16 0)))
  let y := ghash h (wholeBlocks aad ++ wholeBlocks cipher ++ be 8 (8 * aad.length) ++ be 8 (8 * cipher.length))
  xorBytes (be 16 y.toNat) (aes256 key (counterBlock nonce 1))

end Sys2Proof.Machine
end

