-- ==== Sys2Proof/Machine/Codeword.lean ====
section
/-!
DEFINITION. Codeword.lean: the link layer's code (R341 to R344): CRC-32C, RS(280,256) over GF(2^8), the scrambler; packets as bytes
(R346, R347).
-/

namespace Sys2Proof.Machine

/-! ## CRC-32C (R342) -/

/-- One step of the reflected CRC register. -/
def crcBit (r : Nat) : Nat := if r % 2 = 1 then (r / 2) ^^^ 0x82F63B78 else r / 2

/-- One byte into the register. -/
def crcByte (r : Nat) (b : Byte) : Nat := (List.range 8).foldl (fun a _ => crcBit a) (r ^^^ b.toNat)

/-- The CRC of a byte list. -/
def crc32c (l : List Byte) : Nat := (l.foldl crcByte 0xFFFFFFFF) ^^^ 0xFFFFFFFF

/-! ## GF(2^8) by x^8 + x^4 + x^3 + x^2 + 1 (R341) -/

/-- Multiplication by α. -/
def gfTwice (a : Nat) : Nat := if a < 128 then 2 * a else (2 * a) ^^^ 0x11D

/-- Product of two elements. -/
def gfMul (a b : Nat) : Nat :=
  ((List.range 8).foldl (fun (x : Nat × Nat) i => (if bitOf b i then x.1 ^^^ x.2 else x.1, gfTwice x.2)) (0, a)).1

/-- α to a power. -/
def gfPow (k : Nat) : Nat := (List.range (k % 255)).foldl (fun a _ => gfTwice a) 1

/-- The powers α^0 to α^254. -/
def gfTable : List Nat := ((List.range 254).foldl (fun (l : List Nat) _ => gfTwice (l.headD 1) :: l) [1]).reverse

/-- The inverse of a nonzero element: its 254th power. -/
def gfInv (a : Nat) : Nat := (List.range 253).foldl (fun x _ => gfMul x a) a

/-- The value at x of a polynomial given lowest coefficient first. -/
def gfEval (l : List Nat) (x : Nat) : Nat := l.foldr (fun c a => c ^^^ gfMul a x) 0

/-- Coefficient i of a polynomial. -/
def coeff (l : List Nat) (i : Nat) : Nat := l.getD i 0

/-- a + c · x^k · b of polynomials, lowest coefficient first. -/
def gfAddScaled (a b : List Nat) (c k : Nat) : List Nat :=
  (List.range (max a.length (b.length + k))).map fun i => coeff a i ^^^ (if k ≤ i then gfMul c (coeff b (i - k)) else 0)

/-- The generator g(x), highest coefficient first, without its leading 1: Π (x − α^i) for i from 0 to 23. -/
def rsGen : List Nat :=
  ((List.range 24).foldl (fun (g : List Nat) i => gfAddScaled (0 :: g) g (gfPow i) 0) [1]).reverse.drop 1

/-- One step of the division by g: the remainder register, highest coefficient first. -/
def rsStep (gen r : List Nat) (b : Byte) : List Nat :=
  let f := b.toNat ^^^ r.headD 0
  ((r.drop 1 ++ [0]).zip gen).map fun (x : Nat × Nat) => x.1 ^^^ gfMul f x.2

/-- The 24 parity bytes of a message (R341). -/
def rsParity (m : List Byte) : List Byte :=
  let gen := rsGen
  (m.foldl (rsStep gen) (List.replicate 24 0)).map (BitVec.ofNat 8)

/-- The syndromes of a received word: its value at α^0 to α^23. -/
def rsSyndromes (w : List Byte) : List Nat :=
  (List.range 24).map fun i =>
    let x := gfPow i
    w.foldl (fun a b => gfMul a x ^^^ b.toNat) 0

/-- What the search for the error locator carries: locator, its last version, that version's discrepancy, distance since, length. -/
structure Bm where
  loc : List Nat
  old : List Nat
  b   : Nat
  m   : Nat
  len : Nat

/-- One step of the Berlekamp–Massey search with syndrome n. -/
def bmStep (syn : List Nat) (a : Bm) (n : Nat) : Bm :=
  let d := (List.range (a.len + 1)).foldl (fun x i => x ^^^ gfMul (coeff a.loc i) (coeff syn (n - i))) 0
  if d = 0 then { a with m := a.m + 1 }
  else
    let next := gfAddScaled a.loc a.old (gfMul d (gfInv a.b)) a.m
    if 2 * a.len ≤ n then { loc := next, old := a.loc, b := d, m := 1, len := n + 1 - a.len }
    else { a with loc := next, m := a.m + 1 }

/-- The error locator and the number of errors. -/
def rsLocator (syn : List Nat) : Bm := (List.range 24).foldl (bmStep syn) ⟨[1], [1], 1, 1, 0⟩

/-- The error value at locator x (Forney): x · Ω(1/x) / Λ′(1/x). -/
def rsValue (syn loc : List Nat) (x : Nat) : Nat :=
  let xi := gfInv x
  let omega := (List.range 24).map fun k => (List.range (k + 1)).foldl (fun a i => a ^^^ gfMul (coeff syn i) (coeff loc (k - i))) 0
  let deriv := (List.range loc.length).map fun i => if i % 2 = 0 then coeff loc (i + 1) else 0
  gfMul x (gfMul (gfEval omega xi) (gfInv (gfEval deriv xi)))

/-- Does a codeword's CRC hold (R342)? -/
def crcOk (w : List Byte) : Bool := crc32c (w.take 252) == fieldNat w 252 4

/-- Every way to place errors, given for each its value and the places it can lie at. -/
def placings : List (Nat × List Nat) → List (List (Nat × Nat))
  | [] => [[]]
  | e :: t => (placings t).flatMap fun l => e.2.map fun i => (i, e.1) :: l

/-- A received word with errors taken out. -/
def takeOut (w : List Byte) (l : List (Nat × Nat)) : List Byte :=
  l.foldl (fun a e => a.set e.1 (a.getD e.1 0 ^^^ BitVec.ofNat 8 e.2)) w

/-- The codeword of a received word of 280 bytes, and whether bytes were corrected (R341, R342); none where the word is uncorrectable or
its CRC fails. The byte at place i has locator α^(279 − i); places 255 apart share one, and the CRC decides between them (log entry 37). -/
def rsDecode (w : List Byte) : Option (List Byte × Bool) :=
  let syn := rsSyndromes w
  if syn.all (· == 0) then if crcOk w then some (w, false) else none
  else
    let r := rsLocator syn
    let ks := (List.range 255).filter fun k => gfEval r.loc (gfPow (255 - k)) == 0
    if 12 < r.len ∨ ks.length ≠ r.len then none
    else
      let errs := ks.map fun k => (rsValue syn r.loc (gfPow k), (List.range 280).filter fun i => (279 - i) % 255 == k)
      ((placings errs).map (takeOut w)).find? (fun c => crcOk c && (rsSyndromes c).all (· == 0)) |>.map fun c => (c, true)

/-! ## The scrambler (R344) -/

/-- One step of x^31 + x^28 + 1: the next bit and the register (log entry 38). -/
def scrStep (r : BitVec 31) : Bool × BitVec 31 :=
  let b := r.getLsbD 30 ^^ r.getLsbD 27
  (b, (r <<< 1) ||| (if b then 1 else 0))

/-- Eight steps: a byte of the scrambling sequence, first bit highest. -/
def scrByte (r : BitVec 31) : Nat × BitVec 31 :=
  (List.range 8).foldl (fun a _ => let x := scrStep a.2; (2 * a.1 + x.1.toNat, x.2)) (0, r)

/-- Bytes scrambled, and the register after them; the same operation descrambles. -/
def scramble : List Byte → BitVec 31 → List Byte × BitVec 31
  | [], r => ([], r)
  | b :: t, r =>
    let x := scrByte r
    let y := scramble t x.2
    ((b ^^^ BitVec.ofNat 8 x.1) :: y.1, y.2)

/-! ## Lanes (R344) -/

/-- The PAM4 symbol of two bits under Gray coding. -/
def pam4 (n : Nat) : Nat :=
  match n with
  | 0 => 0 | 1 => 1 | 3 => 2 | _ => 3

/-- The symbols of a byte, most significant bits first. -/
def byteSymbols (b : Byte) : List Nat := [6, 4, 2, 0].map fun i => pam4 (bitsOf b.toNat i 2)

/-- The symbols of a codeword's bytes on the four lanes: byte i on lane i mod 4. -/
def laneSymbols (w : List Byte) : List (List Nat) :=
  (List.range 4).map fun n => ((List.range ((w.length + 3 - n) / 4)).map fun i => byteSymbols (w.getD (4 * i + n) 0)).flatten

/-! ## Codewords (R341, R343) -/

/-- A codeword before scrambling: link word, cell data, CRC, parity. -/
def codeword (seq kind : Nat) (data : List Byte) : List Byte :=
  let m := leBytes 2 (seq % 16384 + 16384 * kind) ++ data
  let c := m ++ leBytes 4 (crc32c m)
  c ++ rsParity c

/-! ## Packets as bytes (R346, R347) -/

def typeCode : PType → Nat
  | .rdReq => 1 | .rdRsp => 2 | .wr => 3 | .wrDone => 4 | .atom => 5 | .atomRsp => 6 | .bell => 7 | .team => 8 | .coll => 9
  | .grpq => 10 | .mgmt => 11 | .errRsp => 12

def typeOf (c : Nat) : Option PType :=
  match c with
  | 1 => some .rdReq | 2 => some .rdRsp | 3 => some .wr | 4 => some .wrDone | 5 => some .atom | 6 => some .atomRsp
  | 7 => some .bell | 8 => some .team | 9 => some .coll | 10 => some .grpq | 11 => some .mgmt | 12 => some .errRsp
  | _ => none

/-- The bytes of a packet that have arrived (R346): the header names the length of the whole payload. -/
def Item.bytes (e : Item) : List Byte :=
  let k := e.pkt
  leBytes 1 (typeCode k.ptype + 16 * k.exped.toNat + 32 * (respLane k.ptype).toNat) ++ [k.hops] ++ leBytes 2 k.dst.toNat ++
    leBytes 2 k.src.toNat ++ leBytes 2 k.group.toNat ++ leBytes 2 (k.payload.length + e.more) ++ leBytes 2 k.mask.toNat ++
    leBytes 4 k.tag.toNat ++ leBytes 8 k.wordA.toNat ++ leBytes 8 k.wordB.toNat ++ k.payload

/-- A whole packet's bytes. -/
def packetBytes (k : Packet) : List Byte := Item.bytes ⟨k, 0⟩

/-- The packet of a type whose header and payload are the first bytes of a list. -/
def packetOf (t : PType) (l : List Byte) : Packet :=
  { ptype := t, exped := bitOf (fieldNat l 0 1) 4, hops := l.getD 1 0, dst := BitVec.ofNat 16 (fieldNat l 2 2),
    src := BitVec.ofNat 16 (fieldNat l 4 2), group := BitVec.ofNat 12 (fieldNat l 6 2), mask := BitVec.ofNat 16 (fieldNat l 10 2),
    tag := BitVec.ofNat 32 (fieldNat l 12 4), wordA := BitVec.ofNat 64 (fieldNat l 16 8), wordB := BitVec.ofNat 64 (fieldNat l 24 8),
    payload := fieldBytes l 32 (bitsOf (fieldNat l 8 2) 0 9) }

/-- The bytes of the packet that begins a list. -/
def packetLen (l : List Byte) : Nat := 32 + bitsOf (fieldNat l 8 2) 0 9

/-- The credits of a packet (R351). -/
def Item.cost (e : Item) : Nat := (32 + e.pkt.payload.length + e.more + 63) / 64

end Sys2Proof.Machine
end

