-- ==== Sys2Proof/Machine/ErrRsp.lean ====
section
/-!
DEFINITION. ErrRsp.lean: failed die DMA transfers (R149, R168), and an ERR_RSP at the endpoint of its source (R354, R371, R398).
-/

namespace Sys2Proof.Machine

/-! ## Lines of a transfer -/

/-- The tag of a line of a context's transfer, and of a line of a control-die channel's descriptor (log entry 35). -/
def dmaTag (d h i : Nat) : Nat := ctxIx d h * 2 ^ 26 + i
def cdTag (n i : Nat) : Nat := 2 ^ 31 + n * 2 ^ 26 + i
/-- The context or channel of a tag, and the line. -/
def tagDie (t : Nat) : Nat := t / 2 ^ 27 % 4
def tagHalf (t : Nat) : Nat := t / 2 ^ 26 % 2
def tagCd (t : Nat) : Bool := decide (2 ^ 31 ≤ t)
def tagChannel (t : Nat) : Nat := t / 2 ^ 26 % 16
def tagLine (t : Nat) : Nat := t % 2 ^ 26

/-- The byte offset, within a transfer from a global address, of its line i: lines are cut where the global address crosses them (R256). -/
def lineOffset (gaddr i : Nat) : Nat := if i = 0 then 0 else 256 * i - gaddr % 256

/-- The bytes of the line that begins at an offset of a transfer. -/
def lineLen (gaddr len off : Nat) : Nat := min (len - off) (256 - (gaddr + off) % 256)

/-- The index of the line at an offset. -/
def lineIndex (gaddr off : Nat) : Nat := (gaddr % 256 + off) / 256

/-! ## Failure -/

/-- The failure of a context's transfer is recorded unless one is (R168). -/
def State.dmaRecord (s : State) (d h status detail rud off : Nat) : State :=
  if s.flag (SEQ_DMA_ERR.valid d h) then s
  else ((((s.set (SEQ_DMA_ERR.status d h) status).set (SEQ_DMA_ERR.detail d h) detail).set (SEQ_DMA_ERR.rudiment d h) rud).set
    (SEQ_DMA_ERRPOS.offset d h) off).set (SEQ_DMA_ERR.valid d h) 1

/-- The transfer at the head of a context's queue fails at a line (R149): no further line is issued, it is recorded, and its bells ring. A
transfer fails once; a later answer can only move the first line not completed down, in the record too (R168). An entry that awaits no response is done with. -/
def State.dmaFail (s : State) (d h status detail off : Nat) : State :=
  match (s.ctx d h).dmaq with
  | [] => s
  | e :: q =>
    match e.failed with
    | some o =>
      let s1 := s.setCtx d h { s.ctx d h with dmaq := { e with failed := some (min o off) } :: q }
      if e.noted && s.flag (SEQ_DMA_ERR.valid d h) then s1.set (SEQ_DMA_ERRPOS.offset d h) (min o off) else s1
    | none =>
      let p := s.ctxPen d h
      let s1 := (s.setCtx d h { s.ctx d h with
        dmaq := { e with failed := some off, noted := !s.flag (SEQ_DMA_ERR.valid d h) } :: q }).dmaRecord d h status detail e.rud.toNat off
      let s2 := s1.ringOwn p d e.done 1 true
      match e.errb with
      | some b => s2.ringOwn p d b 1 false
      | none => s2

/-- A failed transfer leaves the queue when no response is awaited any more (R149). -/
def State.dmaRetire (s : State) (d h : Nat) : State :=
  match (s.ctx d h).dmaq with
  | e :: q => if e.failed.isSome && e.waiting == 0 then s.setCtx d h { s.ctx d h with dmaq := q } else s
  | [] => s

/-- One awaited response of the transfer at the head is in. -/
def State.dmaAnswered (s : State) (d h : Nat) : State :=
  match (s.ctx d h).dmaq with
  | e :: q => s.setCtx d h { s.ctx d h with dmaq := { e with waiting := e.waiting - 1 } :: q }
  | [] => s

/-- An ERR_RSP answers a line of a context's transfer (R149, R354). -/
def State.dmaError (s : State) (d h i reason : Nat) : State :=
  match (s.ctx d h).dmaq with
  | [] => s
  | e :: _ =>
    if e.waiting = 0 then s
    else ((s.dmaFail d h 4 reason (lineOffset e.gaddr.toNat i)).dmaAnswered d h).dmaRetire d h

/-- The descriptor in flight on a control-die channel ends with a status unless it has one (R470). -/
def State.cdEnd (s : State) (n status detail : Nat) : State :=
  let r := s.cdrun n
  if r.desc.isEmpty ∨ r.status ≠ 0 then s else s.setCdrun n { r with status := status, detail := detail, worked := true }

/-- One awaited answer of a control-die channel's descriptor is in. -/
def State.cdAnswered (s : State) (n : Nat) : State := s.setCdrun n { s.cdrun n with acks := (s.cdrun n).acks - 1 }

/-- The owner of a control-die channel (R471): none for the system. -/
def State.cdPen (s : State) (n : Nat) : Option Nat :=
  let o := s.get (CD_DMAQ.owner n)
  if o < 8 then some o else none

/-! ## ERR_RSP -/

/-- An ERR_RSP reaches the endpoint of fabric die f (R354): of a collective's traffic, which a group of the packet or the tag of group packets
shows, it ends the collective (R398); of a die DMA line it fails the transfer, of a control-die line its descriptor (CD_FABRIC), of a management
access nothing. FAB_ERR records it, and the pen that issued the request takes the fabric fault. -/
def State.errArrive (s : State) (f : Nat) (k : Packet) : State :=
  let reason := bitsOf k.wordB.toNat 0 8
  let t := k.tag.toNat
  if k.group.toNat ≠ 0 ∨ t = groupTag then
    let g := k.group.toNat
    let d := s.gdesc g
    let s1 := s.fabError f reason d.pen k.src.toNat
    if (s1.group g).coll.isSome then s1.failColl g 8 reason d.rank else s1.penFaultIfRunning d.pen
  else if mgmtTag 0 ≤ t then s.fabricFault f reason (t % 8) k.src.toNat
  else if tagCd t then
    let s1 := (s.cdEnd (tagChannel t) 8 reason).cdAnswered (tagChannel t)
    match s.cdPen (tagChannel t) with
    | some p => s1.fabricFault f reason p k.src.toNat
    | none => s1.fabError f reason 0 k.src.toNat
  else
    let s1 := s.dmaError (tagDie t) (tagHalf t) (tagLine t) reason
    match s.ctxPen (tagDie t) (tagHalf t) with
    | some p => s1.fabricFault f reason p k.src.toNat
    | none => s1.fabError f reason 0 k.src.toNat

/-- A request that this package discards is answered (R354, R358, R360, R364): its ERR_RSP goes to the source by pen p's table, or straight to
this package's own endpoint. Other packets are not answered. -/
def State.refuse (s : State) (p : Option Nat) (f : Nat) (k : Packet) (reason : Nat) : State :=
  if !PType.answered k.ptype then s
  else
    let e := errRsp k s.package reason
    if k.src.toNat = s.package then s.errArrive f e else s.emit p e

end Sys2Proof.Machine
end

