-- ==== Sys2Proof/Machine/Link.lean ====
section
/-!
DEFINITION. Link.lean: fabric ports (R338 to R365): credits, acknowledgement and retry, arbitration and sending of codewords, link down,
training, drains.
-/

namespace Sys2Proof.Machine

/-! ## A port -/

/-- The port is optical (R338). -/
def opticalPort (n : Nat) : Bool := decide (24 ≤ n % 32)

/-- The cells of the replay buffer (R352). -/
def replayCap (n : Nat) : Nat := if opticalPort n then 12288 else 512

/-- The credits of a receive buffer by lane (R351). -/
def bufferCredits (n lane : Nat) : Nat :=
  if opticalPort n then (if lane < 2 then 2048 else 32768) else (if lane < 2 then 256 else 1024)

/-- The owning pen (R340). -/
def State.portPen (s : State) (n : Nat) : Option Nat :=
  let o := s.get (PRT_CTL.owner n)
  if o < 8 then some o else none

/-- The link carries codewords: UP, or PARKED (R363). -/
def State.linkUp (s : State) (n : Nat) : Bool := s.get (PRT_LINK.link n) == 2 || s.get (PRT_LINK.link n) == 3

/-- The fabric dies run: no package freeze (R498). -/
abbrev State.awake (s : State) : Bool := !s.pkgFrozen

/-- Free credits of a lane. -/
def Port.avail (q : Port) (n lane : Nat) : Nat :=
  bufferCredits n lane - (Tab.get 0 q.used lane + 65536 - Tab.get 0 q.granted lane) % 65536

/-- Nothing is queued or begun for the link. -/
def Port.empty (q : Port) : Bool :=
  q.queues.isEmpty && q.outE.isEmpty && q.outO.isEmpty && q.begE.isNone && q.begO.isNone

/-- Credits go back to the link a packet came in on (R351, R354). -/
def State.returnCredit (s : State) (inp : Nat) (k : Item) : State :=
  if inp < 64 then
    let q := s.port inp
    let l := packetLane k.pkt
    s.setPort inp { q with returned := Tab.set 0 q.returned l ((Tab.get 0 q.returned l + k.cost) % 65536) }
  else s

/-! ## Loss (R354, R364) -/

/-- A packet held for port n is lost or discarded: counted, and answered if it is a request. -/
def State.losePacket (s : State) (n reason : Nat) (k : Packet) : State :=
  (s.inc (FAB_CNT.lost (n / 32)) 1).refuse (s.portPen n) (n / 32) k reason

/-- The packets with a cell unacknowledged (R354): those that end in a stored cell, and those begun. -/
def Port.inFlight (q : Port) : List Packet :=
  q.unacked.flatMap (·.ends) ++ (q.begE.toList ++ q.begO.toList).map (·.2.pkt)

/-- A port as a link starts with it (R362, stage 6): its queues, nothing else. -/
def Port.fresh (q : Port) : Port := { Port.clear with queues := q.queues, served := q.served, left := q.left }

/-- Input n's packet that passes through has lost its rest: while it waits in the queue it leads to it is discarded; begun already, it never
ends, and holds its output stream (R356; log entry 87). -/
def Port.orphan (q : Port) (n : Nat) : Port :=
  let cut := fun (b : Option (Nat × Item)) => b.map fun x => if x.1 = n && decide (0 < x.2.more) then (65, x.2) else x
  { q with begE := cut q.begE, begO := cut q.begO,
           queues := (q.queues.map fun e => (e.1, if e.1 % 65 = n then e.2.filter (·.more == 0) else e.2)).filter fun e => !e.2.isEmpty }

/-- Partial packets of port n are discarded on the ports they pass through to (R354). -/
def State.orphans (s : State) (n : Nat) : State :=
  ((s.port n).passE.toList ++ (s.port n).passO.toList).foldl (fun t x =>
    if x.out < 64 then t.setPort x.out ((t.port x.out).orphan n) else t) s

/-- What a link that goes down loses (R354). -/
def State.linkLost (s : State) (n : Nat) : State :=
  let q := s.port n
  let s1 := (q.begE.toList ++ q.begO.toList).foldl (fun t x => t.returnCredit x.1 x.2) (s.orphans n)
  let s2 := s1.setPort n (s1.port n).fresh
  q.inFlight.foldl (fun t k => t.losePacket n 4 k) s2

/-- The packets still queued for a port are discarded (R364). -/
def State.dropQueued (s : State) (n : Nat) : State :=
  let q := s.port n
  let l := q.queues.flatMap fun e => e.2.map fun k => (e.1 % 65, k)
  let s1 := s.setPort n { q with queues := [] }
  l.foldl (fun t x => (t.returnCredit x.1 x.2).losePacket n 5 x.2.pkt) s1

/-! ## Training and drains (R362 to R364) -/

/-- The optical engine of an optical port (R338). -/
def engineOf (n : Nat) : Nat := 2 * (n / 32) + (n % 32 - 24) / 4

/-- May the port leave OFF: an optical port needs its engine ON (R456)? -/
def State.portFree (s : State) (n : Nat) : Bool := !opticalPort n || s.get (PKG_OPT.state (engineOf n)) == 2

/-- May the port train: owned (R340), with a layout loaded (R362)? -/
def State.mayTrain (s : State) (n : Nat) : Bool := (s.portPen n).isSome && decide (2 ≤ s.get LAY_STATUS.state)

/-- The port starts training. -/
def State.startTraining (s : State) (n : Nat) : State := s.set (PRT_LINK.link n) 1

/-- The port comes ON (R363): counters restart, the link trains where it may. -/
def State.portOn (s : State) (n : Nat) : State :=
  let s1 := (s.clearFlds (portStepFlds n)).set (PRT_CTL.state n) 2
  let s2 := s1.setPort n { s1.port n with left := false }
  if s.mayTrain n then s2.startTraining n else s2

/-- A port's drain completes (R363): OFF, or back ON when rearm is set. -/
def State.portDrained (s : State) (n : Nat) : State :=
  let s1 := (s.clearFlds (portStepFlds n)).set (PRT_LINK.link n) 0
  let s2 := s1.setPort n Port.clear
  let s3 := (s2.set (PRT_CTL.rearm n) 0).set (PRT_CTL.state n) 0
  if s.flag (PRT_CTL.rearm n) && s.portFree n then s3.portOn n else s3

/-- The link goes down (R354, R363) with a reason code of R373: first of all it is no longer usable, so no answer to a lost packet goes out by it. -/
def State.linkDown (s : State) (n reason : Nat) : State :=
  let s1 := (((s.set (PRT_LINK.link n) 0).inc (PRT_CNT.down n) 1).set (PRT_LINK.reason n) reason).linkLost n
  if s1.get (PRT_CTL.state n) = 1 then (s1.dropQueued n).portDrained n
  else if s1.flag (PRT_CTL.auto_retrain n) && s1.mayTrain n then s1.startTraining n
  else s1

/-- Signal from the partner is gone (R354). A PARKED link waits for a partner that is draining or off: it stays PARKED. -/
def State.signalLost (s : State) (n : Nat) : State :=
  if s.get (PRT_LINK.link n) = 3 ∧ s.get (PRT_CTL.state n) = 2 then s.linkLost n else s.linkDown n 1

/-- PRT_CTL.enable is written (R363, R455). -/
def State.portEnable (s : State) (n : Nat) (v : Bool) : State :=
  let s1 := s.setB (PRT_CTL.enable n) v
  match s1.get (PRT_CTL.state n), v with
  | 0, true => if s1.portFree n then s1.portOn n else s1
  | 0, false => s1
  | 1, v => s1.setB (PRT_CTL.rearm n) v
  | _, true => s1
  | _, false =>
    let s2 := s1.set (PRT_CTL.state n) 1
    if s2.get (PRT_LINK.link n) = 1 ∧ (s2.port n).left = false then (s2.dropQueued n).portDrained n else s2

/-- The three conditions of R364. -/
def State.portDrainMet (s : State) (n : Nat) : Bool :=
  (s.port n).empty && (s.port n).unacked.isEmpty && (s.port n).quiet

/-- The first stage of training that fails (R362), by its code of R373; 0 when all pass. -/
def State.trainFault (s : State) (n : Nat) (t : Training) : Nat :=
  if !t.signal then 1
  else if !t.eq then 2
  else if !t.lanes then 3
  else if s.flag (PRT_NBR.check n) && !(t.package.toNat == s.get (PRT_NBR.package n) && t.port.toNat == s.get (PRT_NBR.port n)) then 4
  else if (if opticalPort n then 21000 else 500) < t.rttNs.toNat then 5
  else 0

/-- Training ends (R362, R363). The partner's numbers are learned in stage 4, the round trip in stage 5. -/
def State.trained (s : State) (n : Nat) (t : Training) : State :=
  let f := s.trainFault n t
  let s0 := s.setPort n { s.port n with left := true }
  let s1 := if f = 0 ∨ 4 ≤ f then
      (s0.set (PRT_PEER.package n) t.package.toNat).set (PRT_PEER.port n) t.port.toNat else s0
  let s2 := if f = 0 ∨ f = 5 then s1.set (PRT_LINK.rtt_ns n) t.rttNs.toNat else s1
  if f = 0 then (s2.setPort n { (s2.port n).fresh with left := true }).set (PRT_LINK.link n) 2
  else (s2.set (PRT_LINK.reason n) f).set (PRT_LINK.link n) 4

/-! ## Retry (R352, R353) -/

/-- The transmitter resends every stored cell; the seventeenth time without an acknowledgement takes the link down. -/
def State.goBack (s : State) (n : Nat) : State :=
  let q := s.port n
  if q.unacked.isEmpty then s
  else if 16 ≤ q.resends then s.linkDown n 6
  else (s.setPort n { q with again := q.unacked, resends := q.resends + 1 }).inc (PRT_CNT.retries n) 1

/-- The cells before sequence number `a` are acknowledged; an acknowledgement of no stored cell changes nothing. -/
def Port.acked (q : Port) (a : Nat) : Port :=
  match q.unacked with
  | [] => q
  | c :: _ =>
    let k := (a + 16384 - c.seq) % 16384
    if k = 0 ∨ q.unacked.length < k then q
    else
      let rest := q.unacked.drop k
      { q with unacked := rest, resends := 0, again := q.again.filter fun x => rest.any fun y => y.seq == x.seq }

/-- A cumulative credit count is applied if it is newer (R350). -/
def Port.credited (q : Port) (lane v : Nat) : Port :=
  let d := (v + 65536 - Tab.get 0 q.granted lane) % 65536
  if d = 0 ∨ 32768 < d then q else { q with granted := Tab.set 0 q.granted lane v }

/-- A link-control entry is received (R350, R352, R363). -/
def State.controlEntry (s : State) (n : Nat) (e : List Byte) : State :=
  let b := fieldNat e 1 1
  let q0 := (s.port n).acked (bitsOf (fieldNat e 2 2) 0 14)
  let q1 := (List.range 4).foldl (fun q i => q.credited i (fieldNat e (4 + 2 * i) 2)) q0
  let s1 := s.setPort n { q1 with quiet := bitOf b 2 }
  let s2 := if bitOf b 1 && s1.get (PRT_LINK.link n) == 2 then s1.set (PRT_LINK.link n) 3 else s1
  if bitOf b 0 then s2.goBack n else s2

/-! ## Sending (R345, R350, R361) -/

/-- The link-control entry of a port as it stands (R350); drain notice while DRAINING, quiet while nothing is queued. -/
def State.entryNow (s : State) (n : Nat) (nak : Bool) : List Byte :=
  let q := s.port n
  leBytes 1 0x0F ++ leBytes 1 (nak.toNat + 2 * (s.get (PRT_CTL.state n) == 1).toNat + 4 * q.empty.toNat) ++ leBytes 2 q.rxSeq ++
    (List.range 4).flatMap (fun i => leBytes 2 (Tab.get 0 q.returned i)) ++ leBytes 4 0

/-- Something a link-control entry says has changed since the last one, or a NAK is to be sent. -/
def State.entryOwed (s : State) (n : Nat) : Bool :=
  (s.port n).nakDue || s.entryNow n false != (s.port n).lastEntry

/-- The entry is taken for sending. -/
def State.takeEntry (s : State) (n : Nat) : State × List Byte :=
  let e := s.entryNow n (s.port n).nakDue
  (s.setPort n { s.port n with lastEntry := s.entryNow n false, nakDue := false, since := 0 }, e)

def Port.out (q : Port) (exped : Bool) : List Byte := if exped then q.outE else q.outO
def Port.setOut (q : Port) (exped : Bool) (l : List Byte) : Port := if exped then { q with outE := l } else { q with outO := l }
def Port.beg (q : Port) (exped : Bool) : Option (Nat × Item) := if exped then q.begE else q.begO
def Port.setBeg (q : Port) (exped : Bool) (b : Option (Nat × Item)) : Port :=
  if exped then { q with begE := b } else { q with begO := b }

/-- The next input of a class round-robin with a head packet that has its full credits (R361). Request and response lane queue apart (R351);
where both heads of an input could go, the response goes (DESIGN CHOICE, log entry 114). -/
def Port.nextInput (q : Port) (n : Nat) (exped : Bool) : Option (Nat × Item) :=
  ((List.range 65).map fun i => (Tab.get 64 q.served exped.toNat + 1 + i) % 65).findSome? fun i => [true, false].findSome? fun resp =>
    let lane := 2 * (!exped).toNat + resp.toNat
    match Tab.get [] q.queues (65 * lane + i) with
    | k :: _ => if k.cost ≤ q.avail n lane then some (i, k) else none
    | [] => none

/-- The head packet of an input begins: its credits are used (R351). -/
def Port.begin (q : Port) (i : Nat) (k : Item) : Port :=
  let l := packetLane k.pkt
  let key := 65 * l + i
  (({ q with queues := Tab.set [] q.queues key ((Tab.get [] q.queues key).drop 1),
             served := Tab.set 64 q.served k.pkt.exped.toNat i,
             used := Tab.set 0 q.used l ((Tab.get 0 q.used l + k.cost) % 65536) } : Port).setOut k.pkt.exped k.bytes).setBeg
    k.pkt.exped (some (i, k))

/-- Has the class's stream a cell to send? A packet begun whose rest has not all arrived holds it until a whole cell of its bytes has (R356). -/
def Port.ready (q : Port) (n : Nat) (exped : Bool) : Bool :=
  match q.beg exped with
  | some x => x.2.more == 0 || decide (250 ≤ (q.out exped).length)
  | none => !(q.out exped).isEmpty || (q.nextInput n exped).isSome

/-- A cell's data of a class: bytes of the entry begun, then further entries (R345): a link-control entry in the expedited stream when one is
owed, else the next packet. A packet that is still arriving begins behind so many pad bytes that what is there of it ends the cell (log entry
87). The result is the state, the bytes so far, and the packets that end in them with their inputs. -/
def State.fillCell (s : State) (n : Nat) (exped : Bool) : Nat → List Byte → List (Nat × Packet) → State × List Byte × List (Nat × Packet)
  | 0, acc, ends => (s, acc, ends)
  | fuel + 1, acc, ends =>
    let q := s.port n
    let o := q.out exped
    if 250 ≤ acc.length then (s, acc, ends)
    else if !o.isEmpty then
      let room := 250 - acc.length
      let s1 := s.setPort n (q.setOut exped (o.drop room))
      if room < o.length then (s1, acc ++ o.take room, ends)
      else match q.beg exped with
        | some (i, k) =>
          if 0 < k.more then (s1, acc ++ o, ends)
          else ((s1.setPort n ((s1.port n).setBeg exped none)).returnCredit i k).fillCell n exped fuel (acc ++ o) (ends ++ [(i, k.pkt)])
        | none => s1.fillCell n exped fuel (acc ++ o) ends
    else if (q.beg exped).isSome then (s, acc, ends)
    else if exped && s.entryOwed n then
      let r := s.takeEntry n
      (r.1.setPort n ((r.1.port n).setOut true r.2)).fillCell n exped fuel acc ends
    else match q.nextInput n exped with
      | some (i, k) =>
        let pads := if 0 < k.more then 250 - acc.length - k.bytes.length else 0
        (s.setPort n (q.begin i k)).fillCell n exped fuel (acc ++ List.replicate pads 0) ends
      | none => (s, acc, ends)

/-- Bytes padded to a cell (R345). -/
def padCell (l : List Byte) : List Byte := l ++ List.replicate (250 - l.length) 0

/-- A codeword leaves (R344): scrambled, its symbols on the four lanes, its class noted; its bytes are the answer of the command. -/
def State.transmit (s : State) (n seq kind : Nat) (data : List Byte) : State :=
  let q := s.port n
  let r := scramble (codeword seq kind data) q.scrTx
  (s.setPort n { q with scrTx := r.2, lanes := laneSymbols r.1, window := ((kind == 1) :: q.window).take 63 }).answer (.data r.1 [])

/-- An idle cell, with a link-control entry when one is owed (R343, R350). -/
def State.sendIdle (s : State) (n : Nat) : State :=
  let seq := ((s.port n).again.head?.map (·.seq)).getD (s.port n).seq
  if s.entryOwed n then
    let r := s.takeEntry n
    r.1.transmit n seq 2 (padCell r.2)
  else s.transmit n seq 2 (padCell [])

/-- A message of this package has left the port: its SEND is complete (R399). -/
def State.messageLeft (s : State) (g : Nat) : State :=
  match (s.group g).coll with
  | some c =>
    if gcOp c.cmd = 5 ∧ c.done = true then
      let s1 := s.setGroup g { s.group g with coll := none }
      (((s1.finishColl c.w c.cmd (c.record 0 0 0xFFFF noChunk) 0).countColl g 0 0xFFFF)).ringName (s1.gwinPen (c.w % 16)) (gcDone c.cmd) 1 false
    else s
  | none => s

/-- A new cell of a class is stored and leaves (R343, R352). -/
def State.sendStream (s : State) (n : Nat) (exped : Bool) : State :=
  let r := s.fillCell n exped 40 [] []
  let q := r.1.port n
  let c : StreamCell := ⟨q.seq, exped, padCell r.2.1, r.2.2.map (·.2)⟩
  let s1 := (r.1.setPort n { q with unacked := q.unacked ++ [c], seq := (q.seq + 1) % 16384 }).transmit n c.seq exped.toNat c.data
  r.2.2.foldl (fun t x => if x.1 = 64 && x.2.ptype == .grpq then t.messageLeft x.2.group.toNat else t) s1

/-- May the expedited stream take the next codeword (R361): no ordinary cell waits, or it took fewer than exp_cap of the last 63? -/
def State.expedFree (s : State) (n : Nat) : Bool :=
  !(s.port n).ready n false || decide (((s.port n).window.filter id).length < s.get (FAB_CTL.exp_cap (n / 32)))

/-- The next codeword of a port (R350, R352, R361): an entry owed for 63 codewords or a NAK in an idle cell; a cell to be resent; a stream
cell while the replay buffer has room; else an idle cell. -/
def State.sendNext (s : State) (n : Nat) : State :=
  let q := s.port n
  if s.entryOwed n && (q.nakDue || decide (63 ≤ q.since)) then s.sendIdle n
  else
    let s1 := s.setPort n { q with since := if s.entryOwed n then q.since + 1 else 0 }
    match q.again with
    | c :: rest => (s1.setPort n { s1.port n with again := rest }).transmit n c.seq c.exped.toNat c.data
    | [] =>
      if replayCap n ≤ q.unacked.length then s1.sendIdle n
      else if q.ready n true && s.expedFree n then s1.sendStream n true
      else if q.ready n false then s1.sendStream n false
      else s1.sendIdle n

/-! ## The rows -/

/-- CODEWORD_SEND (R361). -/
def execCodewordSend (n : Fin 64) (s : State) : Host.Outcome State Fault Refusal :=
  s.yardStep fun s => if s.linkUp n.val && s.awake then .next (s.sendNext n.val) else s.notDue

/-- LINK_CONTROL_ENTRY (R350). -/
def execLinkControlEntry (n : Fin 64) (entry : List Byte) (s : State) : Host.Outcome State Fault Refusal :=
  if s.linkUp n.val && s.awake then .next (s.controlEntry n.val entry) else s.notDue

/-- RETRY_TIMEOUT (R352): the oldest unacknowledged cell has waited its time. -/
def execRetryTimeout (n : Fin 64) (s : State) : Host.Outcome State Fault Refusal :=
  if s.linkUp n.val && s.awake && !(s.port n.val).unacked.isEmpty then .next (s.goBack n.val) else s.notDue

/-- LINK_DOWN (R354). -/
def execLinkDown (n : Fin 64) (cause : DownCause) (s : State) : Host.Outcome State Fault Refusal :=
  if s.linkUp n.val && s.awake then
    .next (match cause with
      | .retryLimit => s.linkDown n.val 6
      | .lossOfSignal => s.signalLost n.val
      | .protocol => s.linkDown n.val 7)
  else s.notDue

/-- LOSS_OF_SIGNAL (R354). -/
def execLossOfSignal (n : Fin 64) (s : State) : Host.Outcome State Fault Refusal :=
  if s.linkUp n.val && s.awake then .next (s.signalLost n.val) else s.notDue

/-- PARTNER_TRAINING (R363). -/
def execPartnerTraining (n : Fin 64) (s : State) : Host.Outcome State Fault Refusal :=
  if s.get (PRT_LINK.link n.val) == 3 && s.get (PRT_CTL.state n.val) == 2 && s.awake then
    .next ((s.linkLost n.val).startTraining n.val)
  else s.notDue

/-- TRAINING_DONE (R362). -/
def execTrainingDone (n : Fin 64) (t : Training) (s : State) : Host.Outcome State Fault Refusal :=
  if s.get (PRT_LINK.link n.val) == 1 && s.get (PRT_CTL.state n.val) == 2 && s.awake then .next (s.trained n.val t) else s.notDue

/-- RETRAIN_TIMER (R363). -/
def execRetrainTimer (n : Fin 64) (s : State) : Host.Outcome State Fault Refusal :=
  if s.get (PRT_LINK.link n.val) == 4 && s.get (PRT_CTL.state n.val) == 2 && s.flag (PRT_CTL.auto_retrain n.val) &&
      s.mayTrain n.val && s.awake then
    .next (s.startTraining n.val)
  else s.notDue

/-- PORT_ENABLE_WRITE (R363). -/
def execPortEnableWrite (n : Fin 64) (v : Bool) (s : State) : Host.Outcome State Fault Refusal :=
  if s.awake then .next (s.portEnable n.val v) else s.notDue

/-- PORT_DRAIN (R364): drain_us has elapsed. -/
def execPortDrain (n : Fin 64) (s : State) : Host.Outcome State Fault Refusal :=
  if s.get (PRT_CTL.state n.val) == 1 && s.awake then .next (((s.linkLost n.val).dropQueued n.val).portDrained n.val) else s.notDue

end Sys2Proof.Machine
end

