-- ==== Sys2Proof/Machine/Enables.lean ====
section
/-!
DEFINITION. Enables.lean: the enableable functions and their OFF, DRAINING and ON rule (R455, R456), drains (R405, R247, R308, R461, R462).
-/

namespace Sys2Proof.Machine

/-- The enable, state and rearm fields of a function (R455). -/
def funcFlds : Func → Fld × Fld × Fld
  | .port n => (PRT_CTL.enable n.val, PRT_CTL.state n.val, PRT_CTL.rearm n.val)
  | .pen p => (PEN_CTL.enable p.val, PEN_CTL.state p.val, PEN_CTL.rearm p.val)
  | .grpq f g => (GRP_QCTL.enable f.val g.toNat, GRP_QCTL.state f.val g.toNat, GRP_QCTL.rearm f.val g.toNat)
  | .xch y => (YRD_XCH_CTL.enable y.val, YRD_XCH_CTL.state y.val, YRD_XCH_CTL.rearm y.val)
  | .eng y => (YRD_ENG_CTL.enable y.val, YRD_ENG_CTL.state y.val, YRD_ENG_CTL.rearm y.val)
  | .opt n => (PKG_OPT.enable n.val, PKG_OPT.state n.val, PKG_OPT.rearm n.val)

/-- The counters of a function, which restart as it comes ON (R455, R249, R310, R375). -/
def funcCounters : Func → List Fld
  | .port n => portStepFlds n.val
  | .xch y => [YRD_XCH_CNT.cmds y.val, YRD_XCH_CNT.errs y.val, YRD_XCH_CNT.sat y.val, YRD_XCH_CNT.unf y.val]
  | .eng y => [YRD_ENG_CNT.cmds y.val, YRD_ENG_CNT.errs y.val, YRD_ENG_CNT.sat y.val, YRD_ENG_CNT.unf y.val]
  | .pen _ | .grpq _ _ | .opt _ => []

/-- The ports of an optical engine (R338). -/
def enginePorts (n : Nat) : List Nat := (List.range 4).map fun i => 32 * (n / 2) + 24 + 4 * (n % 2) + i

/-- The counts by pen of an exchange converter or engine block restart. -/
def State.blockCounts (s : State) (f : Func) : State :=
  match f with
  | .xch y => s.setEngine y.val false { s.engine y.val false with counts := [] }
  | .eng y => s.setEngine y.val true { s.engine y.val true with counts := [] }
  | _ => s

/-- A function comes ON: its counters restart. -/
def State.funcOn (s : State) (f : Func) : State :=
  match f with
  | .port n => s.portOn n.val
  | _ => (((s.blockCounts f).clearFlds (funcCounters f)).set (funcFlds f).2.2 0).set (funcFlds f).2.1 2

/-- A function stops accepting new work (R455); an optical engine turns its ports off first (R456). -/
def State.funcDrain (s : State) (f : Func) : State :=
  let s1 := s.set (funcFlds f).2.1 1
  match f with
  | .opt n => (enginePorts n.val).foldl (fun t i => t.portEnable i false) s1
  | _ => s1

/-- A function's enable field is written (R455, R363). -/
def State.funcEnable (s : State) (f : Func) (v : Bool) : State :=
  match f with
  | .port n => s.portEnable n.val v
  | _ =>
    let s1 := s.setB (funcFlds f).1 v
    match s1.get (funcFlds f).2.1, v with
    | 0, true => s1.funcOn f
    | 0, false => s1
    | 1, v => s1.setB (funcFlds f).2.2 v
    | _, true => s1
    | _, false => s1.funcDrain f

/-- No command of a yard's block is queued or running (R456). -/
def State.engineIdle (s : State) (y : Nat) (eng : Bool) : Bool :=
  (s.engine y eng).run.isNone && (List.range 9).all fun w => !(s.engine y eng).holds w

/-- A pen's drain completes (R456). -/
def State.penIdle (s : State) (p : Nat) : Bool :=
  ((s.penCtxs p).all fun x => s.cstate x.1 x.2 == 0 || s.cstate x.1 x.2 == 5 || s.cstate x.1 x.2 == 6) && !s.penInFlight p

/-- The drain condition of a function (R364, R405, R456). -/
def State.drainMet (s : State) (f : Func) : Bool :=
  match f with
  | .port n => s.portDrainMet n.val
  | .pen p => s.penIdle p.val
  | .grpq _ g => !(s.group g.toNat).busy
  | .xch y => s.engineIdle y.val false
  | .eng y => s.engineIdle y.val true
  | .opt n => (enginePorts n.val).all fun i => s.get (PRT_CTL.state i) == 0

/-- A drain completes (R455): OFF, or ON again when rearm is set. -/
def State.funcDrained (s : State) (f : Func) : State :=
  match f with
  | .port n => s.portDrained n.val
  | _ =>
    let s1 := (s.set (funcFlds f).2.1 0).set (funcFlds f).2.2 0
    if s.flag (funcFlds f).2.2 then s1.funcOn f else s1

/-- Is the function gated by a freeze (R498)? -/
def State.funcFrozen (s : State) (f : Func) : Bool :=
  match f with
  | .pen p => s.penFrozen p.val
  | _ => s.pkgFrozen

/-! ## The rows -/

/-- PEN_ENABLE_WRITE (R455). -/
def execPenEnableWrite (p : Fin 8) (v : Bool) (s : State) : Host.Outcome State Fault Refusal :=
  if s.awake then .next (s.funcEnable (.pen p) v) else s.notDue

/-- GRPQ_ENABLE_WRITE (R405). -/
def execGrpqEnableWrite (f : Fin 2) (g : BitVec 12) (v : Bool) (s : State) : Host.Outcome State Fault Refusal :=
  if s.awake then .next (s.funcEnable (.grpq f g) v) else s.notDue

/-- XCH_ENABLE_WRITE (R247). -/
def execXchEnableWrite (y : Fin 8) (v : Bool) (s : State) : Host.Outcome State Fault Refusal :=
  if s.awake then .next (s.funcEnable (.xch y) v) else s.notDue

/-- ENG_ENABLE_WRITE (R308). -/
def execEngEnableWrite (y : Fin 8) (v : Bool) (s : State) : Host.Outcome State Fault Refusal :=
  if s.awake then .next (s.funcEnable (.eng y) v) else s.notDue

/-- OPT_ENABLE_WRITE (R462). -/
def execOptEnableWrite (n : Fin 4) (v : Bool) (s : State) : Host.Outcome State Fault Refusal :=
  if s.awake then .next (s.funcEnable (.opt n) v) else s.notDue

/-- DRAIN_COMPLETE (R455). -/
def execDrainComplete (f : Func) (s : State) : Host.Outcome State Fault Refusal :=
  if s.get (funcFlds f).2.1 == 1 && s.drainMet f && !s.funcFrozen f then .next (s.funcDrained f) else s.notDue

end Sys2Proof.Machine
end

