-- ==== Sys2Proof/Machine/Signature.lean ====
section
/-!
DEFINITION. Signature.lean: ECDSA over P-384 with SHA-384 (FIPS 186-5 and its curve y² = x³ − 3x + b of SP 800-186), as R425, R446, R481 and R482
use it: verification under a public key, and the identifier of a public key.
-/

namespace Sys2Proof.Machine

/-- The field's prime. -/
def p384 : Nat := 2 ^ 384 - 2 ^ 128 - 2 ^ 96 + 2 ^ 32 - 1

/-- The order of the base point. -/
def order384 : Nat :=
  0xFFFFFFFFFFFFFFFFFFFFFFFFFFFFFFFFFFFFFFFFFFFFFFFFC7634D81F4372DDF581A0DB248B0A77AECEC196ACCC52973

/-- The curve's b. -/
def b384 : Nat := 0xB3312FA7E23EE7E4988E056BE3F82D19181D9C6EFE8141120314088F5013875AC656398D8A2ED19D2A85C8EDD3EC2AEF

/-- A point of the curve as X, Y and Z with x = X / Z² and y = Y / Z³; Z is 0 at the point at infinity. -/
structure CurvePoint where
  x : Nat
  y : Nat
  z : Nat
  deriving DecidableEq, Repr

/-- The base point. -/
def base384 : CurvePoint :=
  ⟨0xAA87CA22BE8B05378EB1C71EF320AD746E1D3B628BA79B9859F741E082542A385502F25DBF55296C3A545E3872760AB7,
   0x3617DE4A96262C6F5D9E98BF9292DC29F8F41DBD289A147CE9DA3113B5F0B8C00A60B1CE1D7E819D7A431D7C90EA0E5F, 1⟩

/-- b^e mod m; the first number is how many bits of e are read. -/
def powMod (m b : Nat) : Nat → Nat → Nat
  | 0, _ => 1 % m
  | n + 1, e =>
    let h := powMod m b n (e / 2)
    if e % 2 = 1 then h * h % m * b % m else h * h % m

/-- The inverse modulo a prime m below 2^384. -/
def invMod (m a : Nat) : Nat := powMod m a 384 (m - 2)

/-- a − b modulo the field's prime. -/
def subMod (a b : Nat) : Nat := (a + p384 - b % p384) % p384

/-- Twice a point. -/
def CurvePoint.twice (p : CurvePoint) : CurvePoint :=
  let yy := p.y * p.y % p384
  let zz := p.z * p.z % p384
  let s := 4 * p.x * yy % p384
  let m := 3 * (p.x + zz) * subMod p.x zz % p384
  let x := subMod (m * m) (2 * s)
  ⟨x, subMod (m * subMod s x) (8 * yy * yy), 2 * p.y * p.z % p384⟩

/-- The sum of two points. -/
def CurvePoint.plus (p q : CurvePoint) : CurvePoint :=
  let pz := p.z * p.z % p384
  let qz := q.z * q.z % p384
  let u := p.x * qz % p384
  let v := p.y * qz * q.z % p384
  let h := subMod (q.x * pz) u
  let r := subMod (q.y * pz * p.z) v
  let hh := h * h % p384
  let x := subMod (r * r) (hh * h + 2 * u * hh)
  if p.z = 0 then q
  else if q.z = 0 then p
  else if h = 0 then (if r = 0 then p.twice else ⟨1, 1, 0⟩)
  else ⟨x, subMod (r * subMod (u * hh) x) (v * hh * h), h * p.z * q.z % p384⟩

/-- k times a point; the first number is how many bits of k are read. -/
def CurvePoint.times (p : CurvePoint) : Nat → Nat → CurvePoint
  | 0, _ => ⟨1, 1, 0⟩
  | n + 1, k =>
    let h := (p.times n (k / 2)).twice
    if k % 2 = 1 then h.plus p else h

/-- The public key a key's 96 bytes, x then y, big-endian, name: none if they name no point of the curve. -/
def publicPoint (key : List Byte) : Option CurvePoint :=
  let x := beNat (key.take 48)
  let y := beNat (key.drop 48)
  if key.length = 96 ∧ x < p384 ∧ y < p384 ∧ y * y % p384 = subMod (x * x * x + b384) (3 * x) then some ⟨x, y, 1⟩ else none

/-- Does the 96-byte signature, r then s, big-endian, over `msg` verify under the public key? -/
def ecdsaVerify (key msg sig : List Byte) : Bool :=
  let r := beNat (sig.take 48)
  let s := beNat (sig.drop 48)
  let w := invMod order384 s
  match publicPoint key with
  | none => false
  | some q =>
    decide (sig.length = 96) && decide (0 < r) && decide (r < order384) && decide (0 < s) && decide (s < order384) &&
      let v := (base384.times 384 (beNat (sha384 msg) * w % order384)).plus (q.times 384 (r * w % order384))
      v.z != 0 && v.x * powMod p384 (v.z * v.z % p384) 384 (p384 - 2) % p384 % order384 == r

/-- The identifier of a public key: the first 16 bytes of its SHA-256 (R425, R445). The bytes a key is hashed as are not given (log entry 8). -/
def keyIdentifier (key : List Byte) : List Byte := (sha256 (Config.publicKeyBytes key)).take 16

end Sys2Proof.Machine
end

