-- ==== Sys2Proof/Machine/Image.lean ====
section
/-!
DEFINITION. Image.lean: the layout image (R443 to R447) and its checks (R448, R449, R451).
-/

namespace Sys2Proof.Machine

/-! ## Sections (R445, R447) -/

/-- PENS entry p. -/
def penEnt (m : List Byte) (p : Nat) : List Byte := fieldBytes (secBytes m 2) (64 * p) 64
def penUsed (m : List Byte) (p : Nat) : Bool := bitOf (fieldNat (penEnt m p) 0 1) 0
def penHalves (m : List Byte) (p : Nat) : Nat := fieldNat (penEnt m p) 1 1
def penGrade (m : List Byte) (p : Nat) : Nat := fieldNat (penEnt m p) 2 1
def penAllowance (m : List Byte) (p : Nat) : Nat := fieldNat (penEnt m p) 4 4

/-- The used pens of an image. -/
def usedPens (m : List Byte) : List Nat := (List.range 8).filter (penUsed m)

/-- The pen of half i = 2d + h; none where it belongs to no pen. -/
def halfPen (m : List Byte) (i : Nat) : Option Nat := (usedPens m).find? fun p => bitOf (penHalves m p) i

/-- CLUSTERS: the use mask, split, region base and size in 64 KiB units. -/
def imgClusters (m : List Byte) : Nat := fieldNat (secBytes m 3) 0 4
def imgSplit (m : List Byte) (d : Nat) : Bool := bitOf (fieldNat (secBytes m 3) (16 + 12 * d) 1) 0
def imgRegion (m : List Byte) (d h : Nat) : Nat × Nat :=
  (fieldNat (secBytes m 3) (20 + 12 * d + 4 * h) 2, fieldNat (secBytes m 3) (22 + 12 * d + 4 * h) 2)

/-- MEMORY: the entry of stack s, and the ranges. -/
def stackEnt (m : List Byte) (y : Nat) : List Byte := fieldBytes (secBytes m 4) (32 * y) 32
def imgRetire (m : List Byte) (y : Nat) : Nat := fieldNat (stackEnt m y) 0 8
def imgWays (m : List Byte) (y p : Nat) : Nat := fieldNat (stackEnt m y) (8 + 2 * p) 2
def rangeOf (b : List Byte) : Range :=
  let pen := fieldNat b 17 1
  let f := fieldNat b 18 1
  { stack := fieldNat b 16 1, start := fieldNat b 0 8, len := fieldNat b 8 8, pen := if pen = 15 then none else some pen,
    cacheable := bitOf f 0, snapshot := bitOf f 1, index := fieldNat b 19 1 }
def rangeEnts (m : List Byte) : List (List Byte) :=
  let b := secBytes m 4
  (List.range ((b.length - 256) / 32)).map fun i => fieldBytes b (256 + 32 * i) 32
def imgRanges (m : List Byte) : List Range := (rangeEnts m).map rangeOf

/-- PORTS entry n; of an absent section it says: no owner. -/
def portEnt (m : List Byte) (n : Nat) : List Byte :=
  if hasSec m 5 then fieldBytes (secBytes m 5) (8 * n) 8 else leBytes 8 0x0F
def portOwner (m : List Byte) (n : Nat) : Nat := fieldNat (portEnt m n) 0 1
def portFlags (m : List Byte) (n : Nat) : Nat := fieldNat (portEnt m n) 1 1

/-- ROUTES: the pens present, and a pen's table entry by destination. -/
def routePens (m : List Byte) : List Nat := (List.range 8).filter fun p => bitOf (fieldNat (secBytes m 6) 0 1) p
def routeTable (m : List Byte) (p : Nat) : List Byte :=
  fieldBytes (secBytes m 6) (64 + 131072 * ((routePens m).idxOf p)) 131072

/-- A table of two-byte entries as a list. -/
def entries2 : List Byte → List Nat
  | a :: b :: t => (a.toNat + 256 * b.toNat) :: entries2 t
  | _ => []

/-- The routing entries of all pens: 65,536 × pen + destination, entry; absent ones are zero. -/
def imgRoutes (m : List Byte) : Tab Nat :=
  (routePens m).flatMap fun p => (entries2 (routeTable m p)).zipIdx.filterMap fun x =>
    if x.1 = 0 then none else some (65536 * p + x.2, x.1)

/-- GROUPS: the table base, and the records: group index, descriptor. -/
def grpBase (m : List Byte) : Nat := fieldNat (secBytes m 7) 0 8
def grpRecs (m : List Byte) : List (Nat × List Byte) :=
  let b := secBytes m 7
  (List.range (fieldNat b 8 2)).map fun i => (fieldNat b (16 + 72 * i) 2, fieldBytes b (24 + 72 * i) 64)

/-- The group that record i describes, which a refusal names (R460). -/
def grpIndex (m : List Byte) (i : Nat) : Nat := ((grpRecs m).getD i (0, [])).1

/-- BELLS: the owner of bell j of bell block b. -/
def bellAt (m : List Byte) (b j : Nat) : Nat :=
  if hasSec m 8 then
    let k := (if b < 4 then 1792 * b else 7168 + 512 * (b - 4)) + j / 2
    bitsOf (fieldNat (secBytes m 8) k 1) (4 * (j % 2)) 4
  else 15

/-- SHED entries. -/
def shedEnts (m : List Byte) : List (List Byte) :=
  let b := secBytes m 9
  (List.range (b.length / 16)).map fun i => fieldBytes b (16 * i) 16
def shedOf (b : List Byte) : Shed := { stack := fieldNat b 0 1, pen := fieldNat b 1 1, start := fieldNat b 8 8, pages := fieldNat b 4 4 }
def imgSheds (m : List Byte) : List Shed := (shedEnts m).map shedOf

/-! ## LI_FORMAT (R451) -/

/-- Are all bytes zero? -/
def zeros (l : List Byte) : Bool := l.all (· == 0)

/-- The header is wrong (R444). -/
def headerBad (m : List Byte) : Bool :=
  let n := fieldNat m 8 4
  fieldNat m 0 4 != 0x5459414C || fieldNat m 4 2 != 1 || decide (2 ≤ fieldNat m 6 2) || decide (0x400000 < n) ||
    decide (n < 128 + 16 * secCount m + 96) || decide (secCount m < 4) || decide (12 < secCount m) || fieldNat m 14 2 != 0 ||
    fieldNat m 24 8 != 0 || !zeros (fieldBytes m 80 48)

/-- The length a section of a type must have (R445). -/
def secLenOk (m : List Byte) (t : Nat) : Bool :=
  let n := (secBytes m t).length
  match t with
  | 1 => n == 32
  | 2 => n == 512
  | 3 => n == 64
  | 4 => decide (256 ≤ n) && n % 32 == 0
  | 5 => n == 512
  | 6 => n == 64 + 131072 * (routePens m).length
  | 7 => n == 16 + 72 * fieldNat (secBytes m 7) 8 2
  | 8 => n == 8192
  | 9 => n % 16 == 0
  | 10 => n == 64
  | 11 => n == 16
  | 12 => n == 16
  | _ => false

/-- A directory entry is wrong: type, reserved fields, place. -/
def dirBad (m : List Byte) (e : Nat × Nat × Nat × Bool) : Bool :=
  !e.2.2.2 || decide (e.1 < 1) || decide (12 < e.1) || e.2.1 % 64 != 0 || decide (e.2.1 < 128 + 16 * secCount m) ||
    decide (fieldNat m 8 4 < e.2.1 + e.2.2.1 + 96)

/-- Reserved fields of a PENS entry. -/
def penRsv (b : List Byte) : Bool :=
  let c := fieldNat b 21 2
  decide (8 ≤ fieldNat b 0 1) || fieldNat b 3 1 != 0 || decide (2 ^ 52 ≤ fieldNat b 8 8) || decide (2 ≤ fieldNat b 20 1) || bitOf c 3 ||
    decide (2 ^ 12 ≤ c) || fieldNat b 23 1 != 0 || decide (2 ^ 12 ≤ fieldNat b 28 2) || fieldNat b 30 2 != 0 || !zeros (fieldBytes b 40 24)

/-- Reserved fields of a descriptor (R380). -/
def gdescRsv (b : List Byte) : Bool := (gdescOf b).rsv

/-- The first entry of a list that fails a test. -/
def firstBad {α : Type} (l : List α) (f : α → Bool) : Option Nat := l.findIdx? f

/-- The first entry of a section with a reserved field that is not zero (R447). -/
def secRsv (m : List Byte) (t : Nat) : Option Nat :=
  let b := secBytes m t
  match t with
  | 1 => if zeros (fieldBytes b 7 25) then none else some 0
  | 2 => firstBad (List.range 8) fun p => penRsv (penEnt m p)
  | 3 => if !zeros (fieldBytes b 4 12) then some 0
    else firstBad (List.range 4) fun d => decide (2 ≤ fieldNat b (16 + 12 * d) 1) || !zeros (fieldBytes b (17 + 12 * d) 3)
  | 4 => match firstBad (List.range 8) fun y => decide (4 ≤ fieldNat (stackEnt m y) 31 1) with
    | some y => some y
    | none => firstBad (rangeEnts m) fun e => decide (4 ≤ fieldNat e 18 1) || !zeros (fieldBytes e 20 12)
  | 5 => firstBad (List.range 64) fun n => decide (8 ≤ portFlags m n) || decide (64 ≤ fieldNat (portEnt m n) 6 1) ||
      fieldNat (portEnt m n) 7 1 != 0
  | 6 => if !zeros (fieldBytes b 1 63) then some 0 else ((imgRoutes m).find? fun e => decide (2 ^ 14 ≤ e.2)).map (·.1)
  | 7 => if !zeros (fieldBytes b 10 6) || fieldNat b 0 8 % 64 != 0 then some 0
    else (firstBad (List.range (fieldNat b 8 2)) fun i => !zeros (fieldBytes b (18 + 72 * i) 6) || gdescRsv (fieldBytes b (24 + 72 * i) 64)).map
      (grpIndex m)
  | 9 => firstBad (shedEnts m) fun e => fieldNat e 2 2 != 0
  | 10 => firstBad (List.range 8) fun p => let e := teamEnt m p
      decide (8 ≤ fieldNat e 0 1) || fieldNat e 3 1 != 0 || fieldNat e 6 2 != 0
  | 11 => if zeros (fieldBytes b 3 13) then none else some 0
  | 12 => if fieldNat b 2 2 == 0 && zeros (fieldBytes b 8 8) then none else some 0
  | _ => none

/-- LI_FORMAT: section and index of the first failure; for a duplicate type or a wrong length the index of the directory entry (log entry
93). -/
def formatBad (m : List Byte) : Option (Nat × Nat) :=
  let ts := (directory m).map (·.1)
  if headerBad m then some (0, 0)
  else match firstBad (directory m) (dirBad m) with
    | some i => some (0, i)
    | none =>
      match [1, 2, 3, 12].find? fun t => !ts.contains t with
      | some t => some (t, 0)
      | none =>
        match firstBad (List.range ts.length) fun i => (ts.take i).contains (ts.getD i 0) with
        | some i => some (ts.getD i 0, i)
        | none =>
          match firstBad ts fun t => !secLenOk m t with
          | some i => some (ts.getD i 0, i)
          | none => ts.findSome? fun t => (secRsv m t).map fun i => (t, i)

/-! ## The other checks (R451), each with section and index of its first failure -/

/-- The image with its SHA-256 field set to zero, without the signature (R444). -/
def hashedImage (m : List Byte) : List Byte :=
  let n := fieldNat m 8 4
  m.take 32 ++ List.replicate 32 0 ++ fieldBytes m 64 (n - 96 - 64)

def signedImage (m : List Byte) : List Byte := m.take (fieldNat m 8 4 - 96)
def imageSig (m : List Byte) : List Byte := fieldBytes m (fieldNat m 8 4 - 96) 96
def imageKey (m : List Byte) : List Byte := fieldBytes m 64 16

/-- Is a pen byte that may be 0xF neither that nor a used pen? -/
def penByteBad (m : List Byte) (v : Nat) : Bool := v != 15 && !(decide (v < 8) && penUsed m v)

/-- LP_PEN. What an unused pen may not own is anything a section would give it: its PENS entry beyond the flags of byte 0 and its TEAM entry
are zero (log entry 93). Ports, bells and groups have checks of their own. -/
def lpPen (m : List Byte) : Option (Nat × Nat) :=
  let us := usedPens m
  match firstBad (List.range 8) fun i => decide (1 < (us.filter fun p => bitOf (penHalves m p) i).length) with
  | some i => some (2, i)
  | none =>
    match (List.range 8).find? fun p => if penUsed m p then penHalves m p == 0 else !zeros ((penEnt m p).drop 1) with
    | some p => some (2, p)
    | none =>
      if penByteBad m (fieldNat (secBytes m 1) 6 1) then some (1, 0)
      else match firstBad (List.range 8) fun y => hasSec m 4 && (penByteBad m (fieldNat (stackEnt m y) 27 1) ||
          penByteBad m (fieldNat (stackEnt m y) 30 1) || (List.range 8).any (fun p => !penUsed m p && imgWays m y p != 0)) with
        | some y => some (4, y)
        | none =>
          match firstBad (rangeEnts m) fun e => penByteBad m (fieldNat e 17 1) with
          | some i => some (4, i)
          | none =>
            match (routePens m).find? fun p => !penUsed m p with
            | some p => some (6, p)
            | none =>
              match firstBad (imgSheds m) fun x => !(decide (x.pen < 8) && penUsed m x.pen) with
              | some i => some (9, i)
              | none => (firstBad (List.range 8) fun p => !penUsed m p && !zeros (teamEnt m p)).map fun p => (10, p)

/-- Is a clock grade accepted by the part (R1)? -/
def gradeOk (g : Nat) : Bool := if Config.isA18 then g == 0 || g == 1 || g == 3 || g == 4 else g == 2 || g == 3 || g == 4

/-- LP_CLOCK: the first pen entry whose grade the part does not accept, then the first that differs from an earlier pen of one of its dies (log
entry 93). -/
def lpClock (m : List Byte) : Option (Nat × Nat) :=
  match (usedPens m).find? fun p => !gradeOk (penGrade m p) with
  | some p => some (2, p)
  | none => ((usedPens m).find? fun q => (List.range 4).any fun d =>
      match halfPen m (2 * d), halfPen m (2 * d + 1) with
      | some a, some b => max a b == q && penGrade m a != penGrade m b
      | _, _ => false).map fun q => (2, q)

/-- LP_SPLIT. -/
def lpSplit (m : List Byte) : Option (Nat × Nat) :=
  (firstBad (List.range 4) fun d =>
    let a := imgRegion m d 0
    let b := imgRegion m d 1
    (match halfPen m (2 * d), halfPen m (2 * d + 1) with
      | some p, some q => p != q && !imgSplit m d
      | _, _ => false) ||
    decide (512 < a.1 + a.2) || (imgSplit m d && (decide (512 < b.1 + b.2) || overlap a b))).map fun d => (3, d)

/-- LP_QUAR. -/
def State.lpQuar (s : State) (m : List Byte) : Option (Nat × Nat) :=
  (firstBad (List.range 32) fun i => bitOf (imgClusters m) i &&
    (s.flag (CORE_LOFT_ECC.quarantine_pending (i / 8) (i % 8)) || (halfPen m (2 * (i / 8) + i % 8 / 4)).isNone)).map fun i => (3, i)

/-- Does entry i of a list overlap an earlier one? -/
def overlapsEarlier {α : Type} (l : List α) (ext : α → Nat × Nat × Nat) (i : Nat) : Bool :=
  match l[i]? with
  | none => false
  | some x => (l.take i).any fun z => (ext z).1 == (ext x).1 && overlap (ext z).2 (ext x).2

def Range.ext (r : Range) : Nat × Nat × Nat := (r.stack, r.start, r.len)
def Shed.ext (x : Shed) : Nat × Nat × Nat := (x.stack, x.start, x.pages * 65536)

/-- LM_RANGE. -/
def lmRange (m : List Byte) : Option (Nat × Nat) :=
  let l := imgRanges m
  (firstBad (List.range l.length) fun i =>
    match l[i]? with
    | none => false
    | some r => decide (8 ≤ r.stack) || r.start % 65536 != 0 || r.len % 65536 != 0 || decide (0x1800000000 < r.start + r.len) ||
        overlapsEarlier l Range.ext i).map fun i => (4, i)

/-- LM_RETIRE (R274); without a MEMORY section nothing is retired. -/
def State.lmRetire (s : State) (m : List Byte) : Option (Nat × Nat) :=
  (firstBad (List.range 8) fun y =>
    let k := imgRetire m y
    (List.range 64).any (fun c => bitOf k c && bitOf k (c ^^^ 0x20)) ||
    (k != 0 && (imgRanges m).any (fun r => r.stack == y && decide (0xC00000000 < r.start + r.len))) ||
    (List.range 64).any (fun c => bitOf (s.get (YRD_TRFAIL.mask y)) c && !bitOf k c)).map fun y => (4, y)

/-- LM_WAYS (R290). -/
def lmWays (m : List Byte) : Option (Nat × Nat) :=
  if !hasSec m 4 then none
  else (firstBad (List.range 8) fun y => (List.range 16).any fun i =>
    decide (1 < ((List.range 8).filter fun p => bitOf (imgWays m y p) i).length)).map fun y => (4, y)

/-- LM_ARB (R297, R299). -/
def lmArb (m : List Byte) : Option (Nat × Nat) :=
  if !hasSec m 4 then none
  else (firstBad (List.range 8) fun y =>
    let b := stackEnt m y
    let p0 := fieldNat b 24 1
    let p3 := fieldNat b 26 1
    decide (p0 < 1) || decide (32 < p0) || decide (16 < fieldNat b 25 1) || decide (p3 < 1) || decide (16 < p3) ||
      decide (fieldNat b 28 2 < 256)).map fun y => (4, y)

/-- LM_SHED (R411, R447). -/
def lmShed (m : List Byte) : Option (Nat × Nat) :=
  let l := imgSheds m
  (firstBad (List.range l.length) fun i =>
    match l[i]? with
    | none => false
    | some x => decide (8 ≤ x.stack) || x.start % 65536 != 0 || decide (1572864 < x.pages) || overlapsEarlier l Shed.ext i ||
        (l.take i).any (fun z => z.stack == x.stack && z.pen == x.pen) ||
        (imgRanges m).any (fun r => r.stack == x.stack && overlap (Shed.ext x).2 (Range.ext r).2)).map fun i => (9, i)

/-- Do the `n` bytes at a global address lie in one range of a pen, or in a system range (R535)? -/
def inRanges (m : List Byte) (package : Nat) (p : Option Nat) (g n : Nat) : Bool :=
  g / 2 ^ 48 % 65536 == package && decide (localOf g < dramTop) && (imgRanges m).any fun r =>
    r.pen == p && r.stack == localOf g / 0x2000000000 && decide (r.start ≤ localOf g % 0x2000000000) &&
      decide (localOf g % 0x2000000000 + n ≤ r.start + r.len)

/-- The package number of an image. -/
def imgPackage (m : List Byte) : Nat := fieldNat (secBytes m 1) 2 2

/-- LM_SYSTEM: the ledger rings of the used pens, where the ledger is enabled or a ring is given, and the group table. -/
def lmSystem (m : List Byte) : Option (Nat × Nat) :=
  match (usedPens m).find? fun p => let b := penEnt m p
      (bitOf (fieldNat b 20 1) 0 || fieldNat b 16 4 != 0) && (fieldNat b 16 4 == 0 ||
        !inRanges m (imgPackage m) (some p) (fieldNat b 8 8 * 4096) (fieldNat b 16 4 * 4096)) with
  | some p => some (2, p)
  | none => if hasSec m 7 && !inRanges m (imgPackage m) none (grpBase m) 0x40000 then some (7, 0) else none

/-- LF_CTL (R369). -/
def lfCtl (m : List Byte) : Option (Nat × Nat) :=
  let b := secBytes m 1
  if fieldNat b 4 1 < 1 ∨ 63 < fieldNat b 4 1 ∨ fieldNat b 5 1 < 1 ∨ 63 < fieldNat b 5 1 then some (1, 0) else none

/-- LF_PORT: an enabled port without a used owner; an owner code that names no pen. -/
def lfPort (m : List Byte) : Option (Nat × Nat) :=
  (firstBad (List.range 64) fun n =>
    penByteBad m (portOwner m n) || (bitOf (portFlags m n) 0 && portOwner m n == 15)).map fun n => (5, n)

/-- The ports an entry of a routing table sends to another package by, primary and alternate (R357). -/
def routePorts (e : Nat) : List Nat := if bitOf e 12 && !bitOf e 13 then [bitsOf e 0 6, bitsOf e 6 6] else []

/-- The port of this package at the other end of enabled port n, where the image names it as the partner to expect (R447). -/
def loopEnd (m : List Byte) (n : Nat) : Option Nat :=
  if hasSec m 5 && bitOf (portFlags m n) 0 && bitOf (portFlags m n) 2 && fieldNat (portEnt m n) 4 2 == imgPackage m then
    some (fieldNat (portEnt m n) 6 1)
  else none

/-- Where a packet for `dst` that left by port n goes out next on this package: by the table of the pen that owns the port it comes back on
(R340). -/
def loopNext (m : List Byte) (rs : Tab Nat) (n dst : Nat) : List Nat :=
  match loopEnd m n with
  | some c => routePorts (Tab.get 0 rs (65536 * portOwner m c + dst))
  | none => []

/-- The ports that come back to this package. -/
def loopPorts (m : List Byte) : List Nat := (List.range 64).filter fun n => (loopEnd m n).isSome

/-- The channel dependencies from a port that comes back (R360): the ports a packet of some destination may take after it. -/
def dependsOn (m : List Byte) (rs : Tab Nat) (n : Nat) : List Nat :=
  (rs.flatMap fun e => if e.1 / 65536 == portOwner m n && (routePorts e.2).contains n then loopNext m rs n (e.1 % 65536) else []).eraseDups

/-- The nodes of a graph from which a cycle is reached: what is left when those without successors are taken away over and over. -/
def onCycle (g : List (Nat × List Nat)) : Nat → List Nat → List Nat
  | 0, l => l
  | fuel + 1, l => onCycle g fuel (l.filter fun n => (g.any fun e => e.1 == n && e.2.any l.contains))

/-- The pass-throughs of this package that a packet for `dst` may make after it left by port n. -/
def hopsAfter (m : List Byte) (rs : Tab Nat) (dst : Nat) : Nat → Nat → Nat
  | 0, _ => 0
  | fuel + 1, n => ((loopNext m rs n dst).map fun k => 1 + hopsAfter m rs dst fuel k).foldl max 0

/-- LF_ROUTE (R360), as far as one package's own tables show it (log entry 39): an entry that names a port of another pen, leads into a cycle of
channels, or makes a path of more than max_hops pass-throughs. -/
def lfRoute (m : List Byte) : Option (Nat × Nat) :=
  let rs := imgRoutes m
  let loops := loopPorts m
  let cyc := onCycle (loops.map fun n => (n, dependsOn m rs n)) loops.length loops
  (rs.find? fun e => (routePorts e.2).any fun n => portOwner m n != e.1 / 65536 || cyc.contains n ||
    (loops.contains n && decide (fieldNat (secBytes m 1) 5 1 < hopsAfter m rs (e.1 % 65536) loops.length n))).map fun e => (6, e.1)

/-- LG_GROUP (R380). -/
def lgGroup (m : List Byte) : Option (Nat × Nat) :=
  (firstBad (grpRecs m) fun e =>
    let d := gdescOf e.2
    let bad := decide (4096 ≤ e.1) || d.rsv || decide (d.chunk < 12) || decide (20 < d.chunk) || decide (d.n ≤ d.rank) || d.tmo == 0 ||
      (d.tree0 ++ d.tree1).any (fun r => r != noRank && decide (d.n ≤ r)) || decide (d.ringLog < 4) || decide (20 < d.ringLog) ||
      !penUsed m d.pen || !inRanges m (imgPackage m) (some d.pen) d.list (2 * d.n) ||
      !inRanges m (imgPackage m) (some d.pen) d.ring (64 + 64 * 2 ^ d.ringLog)
    d.valid && bad || decide (4096 ≤ e.1)).map fun i => (7, grpIndex m i)

/-- The bells of a package: block and index, by number. -/
def bellNum (i : Nat) : Nat × Nat := if i < 14336 then (i / 3584, i % 3584) else (4 + (i - 14336) / 1024, (i - 14336) % 1024)

/-- LB_BELL. -/
def lbBell (m : List Byte) : Option (Nat × Nat) :=
  if !hasSec m 8 then none
  else
    let ns := (secBytes m 8).flatMap fun b => [b.toNat % 16, b.toNat / 16]
    (firstBad ns fun v => penByteBad m v).map fun i => (8, i)

/-- LT_TEAM. -/
def ltTeam (m : List Byte) : Option (Nat × Nat) :=
  (firstBad (List.range 8) fun p => let b := teamEnt m p
    bitOf (fieldNat b 0 1) 0 && (decide (fieldNat b 1 1 < 1) || decide (4 < fieldNat b 1 1) || decide (64 ≤ fieldNat b 2 1) ||
      portOwner m (fieldNat b 2 1) != p)).map fun p => (10, p)

/-- LK_CKP. -/
def State.lkCkp (s : State) (m : List Byte) : Option (Nat × Nat) :=
  ((usedPens m).find? fun p => let c := fieldNat (penEnt m p) 21 2
    bitsOf c 8 4 == 0 || (bitOf c 2 && Tab.get 0 s.rot.aes (bitsOf c 4 4) == 0) ||
    (bitOf c 0 && !(grpRecs m).any fun e => e.1 == bitsOf (fieldNat (penEnt m p) 28 2) 0 12 && (gdescOf e.2).valid &&
      (gdescOf e.2).pen == p)).map fun p => (2, p)

/-- LW_PCIE. -/
def lwPcie (m : List Byte) : Option (Nat × Nat) :=
  let b := secBytes m 11
  if 2 < fieldNat b 0 1 ∨ 4 < fieldNat b 1 1 ∨ 5 < fieldNat b 2 1 then some (11, 0) else none

/-- LW_POWER (R448). -/
def lwPower (m : List Byte) : Option (Nat × Nat) :=
  let b := secBytes m 12
  let cap := fieldNat b 0 2
  if cap < 1200 ∨ 2500 < cap ∨ cap % 50 ≠ 0 ∨ cap * 10 < fieldNat b 4 4 + ((usedPens m).map (penAllowance m)).sum then some (12, 0)
  else none

/-- The checks of R451 in order: the code of the first that fails, with section and index. `clean` says that the image was read without
poison. -/
def State.imageFault (s : State) (m : List Byte) (clean : Bool) : Option (Nat × Nat × Nat) :=
  let c := fun (n : Nat) (o : Option (Nat × Nat)) => o.map fun x => (n, x.1, x.2)
  let z := fun (b : Bool) => if b then some (0, 0) else none
  match formatBad m with
  | some x => some (0x01, x.1, x.2)
  | none =>
    [c 0x02 (z (!clean || sha256 (hashedImage m) != fieldBytes m 32 32)),
     c 0x03 (z (!(s.rot.layout.any fun x => keyIdentifier x.2 == imageKey m && ecdsaVerify x.2 (signedImage m) (imageSig m)))),
     c 0x04 (if fieldNat (secBytes m 1) 0 2 = Config.partCode then none else some (1, 0)),
     c 0x10 (lpPen m), c 0x11 (lpClock m), c 0x12 (lpSplit m), c 0x13 (s.lpQuar m), c 0x20 (lmRange m), c 0x21 (s.lmRetire m),
     c 0x22 (lmWays m), c 0x23 (lmArb m), c 0x24 (lmShed m), c 0x25 (lmSystem m), c 0x30 (lfCtl m), c 0x31 (lfPort m),
     c 0x32 (lfRoute m), c 0x33 (lgGroup m), c 0x34 (lbBell m), c 0x35 (ltTeam m), c 0x36 (s.lkCkp m), c 0x37 (lwPcie m),
     c 0x38 (lwPower m)].findSome? id

end Sys2Proof.Machine
end

