-- ==== Sys2Proof/Machine/Layout.lean ====
section
/-!
DEFINITION. Layout.lean: loading, unloading and swapping layout images (R450 to R454), the shadow group tables (R383).
-/

namespace Sys2Proof.Machine

/-! ## The fields a layout fills -/

/-- The "L" fields but for bell owners. -/
def layoutFlds : List Fld :=
  (List.range 4).flatMap (fun d => SEQ_DIE.split d :: [0, 1].flatMap fun h => [SEQ_CTL.region_base d h, SEQ_CTL.region_size d h]) ++
  (List.range 8).flatMap (fun y =>
    [YRD_CTL.trr_thresh y, YRD_ARB.p0_cap y, YRD_ARB.p2_floor y, YRD_ARB.p3_floor y, YRD_XCH_CTL.enable y, YRD_ENG_CTL.enable y] ++
    (List.range 9).flatMap (fun w => [YRD_XCH_CTL.owner y w, YRD_ENG_CTL.owner y w]) ++ (List.range 8).map fun p => YRD_CACHE_WAYS.pen y p) ++
  (List.range 8).flatMap (fun p =>
    [LDG_CTL.enable p, LDG_BASE.base p, LDG_SIZE.size p, LDG_TEAM.enable p, LDG_TEAM.scope p, LDG_TEAM.lagged p, LDG_TEAM.lag p,
     LDG_TEAM.port p, LDG_TEAM.partner p, CKP_CTL.enable p, CKP_CTL.allstop p, CKP_CTL.encrypt p, CKP_CTL.key_slot p,
     CKP_CTL.root_slots p, CKP_CTL.group p, CKP_POLICY.max_lost p, CKP_POLICY.mtbf0_s p, PEN_CTL.enable p, PEN_INFO.halves p,
     PEN_INFO.grade p, PEN_INFO.used p, PEN_INFO.shrinkable p, PEN_INFO.allowance p] ++ (List.range 8).map fun y => CKP_SHED.size p y) ++
  (List.range 2).flatMap (fun f => [FAB_ID.package f, FAB_CTL.exp_cap f, FAB_CTL.max_hops f, GRP_TBL.base f, GRP_TBL_S.base f] ++
    (List.range 4096).map fun g => GRP_QCTL.enable f g) ++
  (List.range 64).flatMap (fun n => [PRT_CTL.enable n, PRT_CTL.owner n, PRT_CTL.auto_retrain n, PRT_CTL.drain_us n, PRT_NBR.package n,
    PRT_NBR.port n, PRT_NBR.check n]) ++
  (List.range 4).map (fun n => PKG_OPT.enable n) ++ [CD_PCIE.role, PWR_CAP.cap, PWR_CAP.p_fixed]

/-- Is it the key of a bell owner field? -/
def bellOwnKey (k : Nat) : Bool := (List.range 6).any fun b => decide (8 * bellBlk b ≤ k) && decide (k < 8 * (bellBlk b + 0x800))

/-- With no layout active every "L" field has its value of that state: 0, owners 0xF, and the values R299, R372 and R408 give (log
entry 2). -/
def State.layoutCleared (s : State) : State :=
  let s1 := s.clearFlds layoutFlds
  { s1 with regs := s1.regs.filter (fun e => !bellOwnKey e.1), lay := Layout.none, routes := [], shadowRoutes := [] }

/-! ## Applying an image -/

/-- PACKAGE. -/
def pkgVals (m : List Byte) : List (Fld × Nat) :=
  (List.range 2).flatMap fun f => [(FAB_ID.package f, imgPackage m), (FAB_CTL.exp_cap f, fieldNat (secBytes m 1) 4 1),
    (FAB_CTL.max_hops f, fieldNat (secBytes m 1) 5 1)]

/-- PENS entry p. -/
def penVals (m : List Byte) (p : Nat) : List (Fld × Nat) :=
  let b := penEnt m p
  let f := fieldNat b 0 1
  let c := fieldNat b 21 2
  [(PEN_INFO.used p, bitsOf f 0 1), (PEN_INFO.shrinkable p, bitsOf f 1 1), (PEN_INFO.halves p, fieldNat b 1 1),
   (PEN_INFO.grade p, fieldNat b 2 1), (PEN_INFO.allowance p, fieldNat b 4 4), (LDG_BASE.base p, fieldNat b 8 8),
   (LDG_SIZE.size p, fieldNat b 16 4), (LDG_CTL.enable p, fieldNat b 20 1), (CKP_CTL.enable p, bitsOf c 0 1),
   (CKP_CTL.allstop p, bitsOf c 1 1), (CKP_CTL.encrypt p, bitsOf c 2 1), (CKP_CTL.key_slot p, bitsOf c 4 4),
   (CKP_CTL.root_slots p, bitsOf c 8 4), (CKP_POLICY.max_lost p, fieldNat b 24 4), (CKP_CTL.group p, fieldNat b 28 2),
   (CKP_POLICY.mtbf0_s p, fieldNat b 32 8)]

/-- CLUSTERS. -/
def clusterVals (m : List Byte) : List (Fld × Nat) :=
  (List.range 4).flatMap fun d => (SEQ_DIE.split d, (imgSplit m d).toNat) :: [0, 1].flatMap fun h =>
    [(SEQ_CTL.region_base d h, (imgRegion m d h).1), (SEQ_CTL.region_size d h, (imgRegion m d h).2)]

/-- The pen of yard and group window w: derived from the half-dies for 0 to 7. -/
def windowOwner (m : List Byte) (w eighth : Nat) : Nat := if w < 8 then (halfPen m w).getD 15 else eighth

/-- MEMORY entry of stack y. Retirement, and with it the fold, is written here too (R273). -/
def stackVals (m : List Byte) (y : Nat) : List (Fld × Nat) :=
  let b := stackEnt m y
  let k := imgRetire m y
  [(YRD_RETIRE.mask y, k), (YRD_STATUS.fold y, (k != 0).toNat), (YRD_ARB.p0_cap y, fieldNat b 24 1), (YRD_ARB.p2_floor y, fieldNat b 25 1),
   (YRD_ARB.p3_floor y, fieldNat b 26 1), (YRD_CTL.trr_thresh y, fieldNat b 28 2)] ++
  (List.range 8).map (fun p => (YRD_CACHE_WAYS.pen y p, imgWays m y p)) ++
  (List.range 64).flatMap (fun c => [(MCH_STAT.retired y c, (bitOf k c).toNat), (MCH_STAT.donor y c, (bitOf k (c ^^^ 0x20)).toNat)]) ++
  (List.range 9).flatMap fun w => [(YRD_XCH_CTL.owner y w, windowOwner m w (fieldNat b 30 1)),
    (YRD_ENG_CTL.owner y w, windowOwner m w (fieldNat b 30 1))]

/-- An image without a MEMORY section: nothing retired, the windows derived from the half-dies, no window 8. -/
def stackNone (m : List Byte) (y : Nat) : List (Fld × Nat) :=
  [(YRD_RETIRE.mask y, 0), (YRD_STATUS.fold y, 0)] ++
  (List.range 64).flatMap (fun c => [(MCH_STAT.retired y c, 0), (MCH_STAT.donor y c, 0)]) ++
  (List.range 9).flatMap fun w => [(YRD_XCH_CTL.owner y w, windowOwner m w 15), (YRD_ENG_CTL.owner y w, windowOwner m w 15)]

/-- PORTS entry n. -/
def portVals (m : List Byte) (n : Nat) : List (Fld × Nat) :=
  let b := portEnt m n
  let f := portFlags m n
  [(PRT_CTL.owner n, portOwner m n), (PRT_CTL.auto_retrain n, bitsOf f 1 1), (PRT_CTL.drain_us n, fieldNat b 2 2),
   (PRT_NBR.check n, bitsOf f 2 1), (PRT_NBR.package n, fieldNat b 4 2), (PRT_NBR.port n, fieldNat b 6 1)]

/-- GROUPS. The image gives one table base, which both table registers take (log entry 40). -/
def grpVals (m : List Byte) : List (Fld × Nat) :=
  (List.range 2).flatMap fun f => [(GRP_TBL.base f, grpBase m / 64), (GRP_TBL_S.base f, grpBase m / 64)]

/-- SHED, PCIE, POWER. -/
def otherVals (m : List Byte) : List (Fld × Nat) :=
  (imgSheds m).map (fun x => (CKP_SHED.size x.pen x.stack, x.pages)) ++
  [(CD_PCIE.role, fieldNat (secBytes m 11) 0 1), (PWR_CAP.cap, fieldNat (secBytes m 12) 0 2), (PWR_CAP.p_fixed, fieldNat (secBytes m 12) 4 4)]

/-- Every register field the image fills but the enables and bell owners. -/
def imageVals (m : List Byte) : List (Fld × Nat) :=
  pkgVals m ++ (List.range 8).flatMap (penVals m) ++ clusterVals m ++
    (List.range 8).flatMap (fun y => if hasSec m 4 then stackVals m y else stackNone m y) ++ (List.range 64).flatMap (portVals m) ++
    grpVals m ++ (List.range 8).flatMap (teamVals m) ++ otherVals m

/-- Every bell owner. -/
def State.setBells (s : State) (m : List Byte) : State :=
  (List.range 16384).foldl (fun t i => let b := bellNum i; t.set (BEL_OWN.pen b.1 b.2) (bellAt m b.1 b.2)) s

/-- The layout record of an image. -/
def layoutOf (m : List Byte) : Layout :=
  let by_ := fun (k : Nat) => if hasSec m 4 then (List.range 8).map fun y => (y, fieldNat (stackEnt m y) k 1)
    else (List.range 8).map fun y => (y, 15)
  { Layout.none with
    ranges := imgRanges m, sheds := imgSheds m, ledgerPen := by_ 27, win8 := by_ 30, grpWin8 := fieldNat (secBytes m 1) 6 1,
    clusters := imgClusters m, image := m, pcieWidth := fieldNat (secBytes m 11) 1 1, pcieSpeed := fieldNat (secBytes m 11) 2 1 }

/-- The image's descriptors are written into the group table at a base (R447, R452). -/
def State.writeGroups (s : State) (m : List Byte) (base : Nat) : State :=
  (grpRecs m).foldl (fun t e => t.localWrite (ctlVia 2 none) (localOf base + 64 * e.1) e.2 false) s

/-- The functions with their image enable bits, in the order they are turned on: optical engines before their ports. -/
def imageEnables (m : List Byte) : List (Func × Bool) :=
  (List.finRange 4).map (fun n => (Func.opt n, (enginePorts n.val).any fun i => bitOf (portFlags m i) 0)) ++
  (List.finRange 64).map (fun n => (Func.port n, bitOf (portFlags m n.val) 0)) ++
  (List.finRange 8).map (fun p => (Func.pen p, bitOf (fieldNat (penEnt m p.val) 0 1) 2)) ++
  (List.finRange 8).flatMap (fun y => [(Func.xch y, hasSec m 4 && bitOf (fieldNat (stackEnt m y.val) 31 1) 0),
    (Func.eng y, hasSec m 4 && bitOf (fieldNat (stackEnt m y.val) 31 1) 1)]) ++
  (grpRecs m).map fun e => (Func.grpq (Fin.ofNat 2 (gdescOf e.2).home) (BitVec.ofNat 12 e.1), (gdescOf e.2).valid)

/-- Every enableable function. -/
def allFuncs : List Func :=
  (List.finRange 4).map Func.opt ++ (List.finRange 64).map Func.port ++ (List.finRange 8).map Func.pen ++
  (List.finRange 8).flatMap (fun y => [Func.xch y, Func.eng y]) ++
  (List.finRange 2).flatMap fun f => (List.range 4096).map fun g => Func.grpq f (BitVec.ofNat 12 g)

/-- A function's enable is written by a load or an unload; a function that is OFF and stays OFF is left alone. -/
def State.writeEnable (s : State) (f : Func) (v : Bool) : State :=
  if s.get (funcFlds f).1 = 0 ∧ s.get (funcFlds f).2.1 = 0 ∧ v = false then s else s.funcEnable f v

/-- A PCIe link that is up in another role than the image's goes down (R478). -/
def State.pcieRoleLoaded (s : State) : State :=
  if s.pcieRole == s.get CD_PCIE.role then s
  else ({ s with pcieRole := 0 } : State).clearFlds [CD_PCIE.width, CD_PCIE.speed]

/-- A port that is ON already, with its link DOWN, trains once a layout is there (R362). -/
def State.portsTrain (s : State) : State :=
  (List.range 64).foldl (fun t n =>
    if t.get (PRT_CTL.state n) == 2 && t.get (PRT_LINK.link n) == 0 && t.mayTrain n then t.startTraining n else t) s

/-- Every check passed (R450): every "L" field is written, every function whose image enable is 1 comes on, LAY_ID is set. -/
def State.applyImage (s : State) (m : List Byte) : State :=
  let s1 := ((s.clearFlds layoutFlds).setAll (imageVals m)).setBells m
  let s2 := { s1 with lay := layoutOf m, routes := imgRoutes m, shadowRoutes := [] }
  let s3 := if hasSec m 7 then s2.writeGroups m (grpBase m) else s2
  let s4 := (s3.pcieRoleLoaded.set LAY_ID.id (fieldNat m 16 8)).set LAY_STATUS.state 2
  let on := imageEnables m
  (List.range 8).foldl State.showCoord (allFuncs.foldl (fun t f => t.writeEnable f (on.any fun e => e.1 == f && e.2)) s4).portsTrain

/-- A refusal is recorded (R460). -/
def State.layRefuse (s : State) (code sec idx : Nat) : State :=
  ((s.set LAY_STATUS.reason code).set LAY_STATUS.section sec).set LAY_STATUS.index idx

/-! ## Loading and unloading (R450) -/

/-- The bytes of an image at an address register's base, by the length in its header. -/
def State.imageAt (s : State) (base : Nat) : List Byte :=
  let a := localOf (base * 64)
  let n := s.readNat (a + 8) 4
  s.read a (min n 0x400000)

/-- The control die reads an image through the yard where it lies in a stack (R291): its length, then all of it. -/
def State.readImage (s : State) (base : Nat) : State :=
  let a := localOf (base * 64)
  (s.countRead (ctlVia 2 none) (a + 8) 4).countRead (ctlVia 2 none) a (s.imageAt base).length

/-- Is the image in mapped memory, and read without poison? -/
def State.imageClean (s : State) (base n : Nat) : Bool :=
  let a := localOf (base * 64)
  (s.rangeMapped a n || (inShared a && inShared (a + n - 1))) && !s.readBad a n

/-- LAY_CTL.load is written 1. -/
def State.layLoad (s : State) : State :=
  if s.get LAY_STATUS.state = 0 then
    ((s.readImage (s.get LAY_IMAGE.base)).set LAY_STATUS.state 1).setLay { s.lay with checking := s.imageAt (s.get LAY_IMAGE.base) }
  else s.layRefuse 0x50 0 0

/-- The checks of a load end (R450, R451). -/
def State.layChecked (s : State) : State :=
  let m := s.lay.checking
  match s.imageFault m (s.imageClean (s.get LAY_IMAGE.base) m.length) with
  | some f => ((s.layRefuse f.1 f.2.1 f.2.2).set LAY_STATUS.state 0).setLay { s.lay with checking := [] }
  | none => s.applyImage m

/-- LAY_CTL.unload is written 1: with no context in RUN or HELD every function drains, its enable written 0. -/
def State.layUnload (s : State) : State :=
  if s.get LAY_STATUS.state ≠ 2 then s
  else if s.anyRunning then s.layRefuse 0x50 0 0
  else
    (allFuncs.foldl (fun t f => t.writeEnable f false) s).set LAY_STATUS.state 3

/-- A context is cleared to IDLE: its status, SEQ_PC, its cycle counts and loop counters (log entry 94). -/
def State.ctxIdle (s : State) (d h : Nat) : State :=
  (s.clearFlds ([SEQ_STATUS.state d h, SEQ_STATUS.held_reason d h, SEQ_STATUS.fault_code d h, SEQ_STATUS.fault_cluster d h,
    SEQ_STATUS.fault_core d h, SEQ_STATUS.loops d h, SEQ_PC.record d h, SEQ_CYC.cycles d h, SEQ_HELD.cycles d h] ++
    (List.range 8).flatMap fun j => [SEQ_LC.value d h j, SEQ_LC.count d h j, SEQ_LC.active d h j])).setCtx d h Ctx.clear

/-- Every function is OFF: nothing is locked any more, contexts are IDLE, no layout (R450). -/
def State.layUnloaded (s : State) : State :=
  let s1 := (List.range 8).foldl (fun t i => t.ctxIdle (i / 2) (i % 2)) s
  let s2 := ((s1.set LAY_STATUS.state 0).set LAY_STATUS.shadow 0).set LAY_STATUS.pending 0
  ((s2.layoutCleared.set LAY_ID.id 0).set (GRP_SWAP.armed 0) 0).set (GRP_SWAP.armed 1) 0

/-! ## Shadow group tables (R383) -/

/-- GRP_SWAP.arm is written 1 on die f: pens with no running context swap at once. With no pen the table swaps. -/
def State.armTable (s : State) (f : Nat) : State :=
  let s1 := s.set (GRP_SWAP.armed f) 1
  if s1.penList.isEmpty then s1.tableSwapped f
  else (s1.penList.filter fun p => !s1.penRunning p).foldl (fun t p => t.takeTable p f false) s1

/-- GRP_SWAP_ARM (R383). -/
def execGrpSwapArm (f : Fin 2) (s : State) : Host.Outcome State Fault Refusal :=
  if s.awake then .next (s.armTable f.val) else s.notDue

/-! ## Shadow images (R452 to R454) -/

/-- LAY_CTL.arm is written 1. -/
def State.layArm (s : State) : State :=
  if s.get LAY_STATUS.state = 2 ∧ s.get LAY_STATUS.shadow = 0 then
    ((s.readImage (s.get LAY_SHADOW.base)).set LAY_STATUS.shadow 1).setLay { s.lay with checking := s.imageAt (s.get LAY_SHADOW.base) }
  else s.layRefuse 0x50 0 0

/-- ARM_DIFF: the first section but ROUTES, GROUPS and TEAM in which two images differ; 0 for the header's flags and signer key (R452). -/
def armDiff (a b : List Byte) : Option Nat :=
  if fieldNat a 6 2 ≠ fieldNat b 6 2 ∨ imageKey a ≠ imageKey b then some 0
  else [1, 2, 3, 4, 5, 8, 9, 11, 12].find? fun t => hasSec a t != hasSec b t || secBytes a t != secBytes b t

/-- The checks of an arm end (R452): the shadow is armed, and pens with no running context take their shares at once (R453). -/
def State.armChecked (s : State) : State :=
  let m := s.lay.checking
  let s0 := s.setLay { s.lay with checking := [] }
  match s.imageFault m (s.imageClean (s.get LAY_SHADOW.base) m.length), armDiff s.lay.image m with
  | some f, _ => (s0.layRefuse f.1 f.2.1 f.2.2).set LAY_STATUS.shadow 0
  | none, some t => (s0.layRefuse 0x51 t 0).set LAY_STATUS.shadow 0
  | none, none =>
    let s1 := { s0.setLay { s0.lay with shadow := m } with shadowRoutes := imgRoutes m }
    let s2 := [0, 1].foldl (fun (t : State) f =>
      (if hasSec m 7 then t.writeGroups m (t.get (GRP_TBL_S.base f) * 64) else t).set (GRP_SWAP.armed f) 1) s1
    let s3 := (s2.set LAY_STATUS.shadow 2).set LAY_STATUS.pending (maskOf s2.penList)
    s3.penList.foldl State.shareIfIdle s3.shareDone

/-- LAY_CTL.disarm is written 1 (R454): only while no pen has taken its share. -/
def State.layDisarm (s : State) : State :=
  if s.get LAY_STATUS.shadow = 2 ∧ s.get LAY_STATUS.pending = maskOf s.penList then
    let s1 := ((s.set LAY_STATUS.shadow 0).set LAY_STATUS.pending 0).setLay { s.lay with shadow := [] }
    { (s1.set (GRP_SWAP.armed 0) 0).set (GRP_SWAP.armed 1) 0 with shadowRoutes := [] }
  else s

/-! ## The rows -/

/-- LAYOUT_LOAD (R450). -/
def execLayoutLoad (s : State) : Host.Outcome State Fault Refusal :=
  s.yardStep fun s => if s.awake then .next s.layLoad else s.notDue

/-- LAYOUT_CHECKS_DONE (R451). -/
def execLayoutChecksDone (s : State) : Host.Outcome State Fault Refusal :=
  s.yardStep fun s =>
    if s.get LAY_STATUS.state == 1 && s.awake then .next s.layChecked else s.notDue

/-- LAYOUT_UNLOAD (R450). -/
def execLayoutUnload (s : State) : Host.Outcome State Fault Refusal := if s.awake then .next s.layUnload else s.notDue

/-- UNLOAD_COMPLETE (R450): every function is OFF. -/
def execUnloadComplete (s : State) : Host.Outcome State Fault Refusal :=
  if s.get LAY_STATUS.state == 3 && (allFuncs.all fun f => s.get (funcFlds f).2.1 == 0) && s.awake then .next s.layUnloaded else s.notDue

/-- LAYOUT_ARM (R452). -/
def execLayoutArm (s : State) : Host.Outcome State Fault Refusal :=
  s.yardStep fun s => if s.awake then .next s.layArm else s.notDue

/-- ARM_CHECKS_DONE (R452). -/
def execArmChecksDone (s : State) : Host.Outcome State Fault Refusal :=
  s.yardStep fun s =>
    if s.get LAY_STATUS.shadow == 1 && s.awake then .next s.armChecked else s.notDue

/-- LAYOUT_DISARM (R454). -/
def execLayoutDisarm (s : State) : Host.Outcome State Fault Refusal := if s.awake then .next s.layDisarm else s.notDue

end Sys2Proof.Machine
end

