-- ==== Sys2Proof/Machine/Scan.lean ====
section
/-!
DEFINITION. Scan.lean: loading a cadence (R155 to R158, R540): the image scan, go, and writes into the cadence store (R121).
-/

namespace Sys2Proof.Machine

/-! ## The header (R155) -/

/-- The image length in bytes, the entry record, the counts. -/
abbrev State.imgLen (s : State) (d h : Nat) : Nat := s.hdr d h 8 4
abbrev State.imgEntry (s : State) (d h : Nat) : Nat := s.hdr d h 12 4
abbrev State.rudOff (s : State) (d h : Nat) : Nat := s.hdr d h 16 4
abbrev State.descCount (s : State) (d h : Nat) : Nat := s.hdr d h 22 2
abbrev State.patCount (s : State) (d h : Nat) : Nat := s.hdr d h 32 1
abbrev State.setCount (s : State) (d h : Nat) : Nat := s.hdr d h 33 1

/-- Rudiments of the image: none when the table offset is 0 (R128, R155). -/
def State.rudCount (s : State) (d h : Nat) : Nat := if s.rudOff d h = 0 then 0 else s.hdr d h 20 2 + 1

/-- The tables: byte offset of the header field, table offset in units, bytes of the table. -/
def State.tables (s : State) (d h : Nat) : List (Nat × Nat × Nat) :=
  [(16, s.rudOff d h, 64 * s.rudCount d h), (24, s.hdr d h 24 4, 64 * s.descCount d h), (28, s.hdr d h 28 4, 16 * s.patCount d h),
   (36, s.hdr d h 36 4, 16 * s.setCount d h)]

/-- The header field that fails PRG_HEADER (R157): the parts of the check in the order of its words, the lowest offset first within one (log
entry 80). A table that does not lie inside the image fails by its offset. -/
def State.headerFault (s : State) (d h : Nat) : Option Nat :=
  let len := s.imgLen d h
  let counts := (if s.hdr d h 0 4 = 0x4E444143 then [] else [0]) ++ (if s.hdr d h 4 2 = 1 then [] else [4]) ++
    (if s.rudOff d h = 0 ∧ s.hdr d h 20 2 ≠ 0 then [20] else []) ++ (if 4096 < s.descCount d h then [22] else []) ++
    (if 1 ≤ s.patCount d h ∧ s.patCount d h ≤ 64 then [] else [32]) ++ (if 1 ≤ s.setCount d h ∧ s.setCount d h ≤ 16 then [] else [33])
  let outside := (if s.imgEntry d h * 16 < len then [] else [12]) ++
    (s.tables d h).filterMap fun t => if len < 16 * t.2.1 + t.2.2 then some t.1 else none
  let uneven := (s.tables d h).filterMap fun t => if t.2.1 % 4 = 0 then none else some t.1
  (counts ++ outside ++ uneven).head?

/-! ## Reachable records (R157) -/

/-- Does the record at unit u (which may lie before the region) lie partly outside the image, or begin inside a table? -/
def State.recordBad (s : State) (d h : Nat) (u : Int) : Bool :=
  let len := s.imgLen d h
  u < 0 || decide (len < 16 * u.toNat + 16) || decide (len < 16 * u.toNat + 16 * dwUnits (s.dieWord d h u.toNat)) ||
    (s.tables d h).any fun t => decide (16 * t.2.1 ≤ 16 * u.toNat) && decide (16 * u.toNat < 16 * t.2.1 + t.2.2)

/-- The records that stand in a relation of R157 to the one at unit u. -/
def State.recordNext (s : State) (d h u : Nat) : List Int :=
  let n := s.dieWord d h u
  let e : Int := u + dwUnits n
  let t : Int := (u : Int) + sext 24 (dwImm n)
  (if dwSeq n = 3 ∨ dwSeq n = 5 then [] else [e]) ++ (if dwSeq n = 2 ∨ dwSeq n = 3 then [t] else []) ++
    (if dwSeq n = 1 then [e + dwLend n] else [])

/-- The reachable records, from a list still to be looked at; a bad one is kept and not followed. -/
def State.reach (s : State) (d h : Nat) : Nat → List Int → List Int → List Int
  | 0, _, seen => seen
  | _ + 1, [], seen => seen
  | n + 1, u :: todo, seen =>
    if seen.contains u then s.reach d h n todo seen
    else if s.recordBad d h u then s.reach d h n todo (u :: seen)
    else s.reach d h n (s.recordNext d h u.toNat ++ todo) (u :: seen)

/-- The reachable records in ascending order. -/
def State.reachable (s : State) (d h : Nat) : List Int :=
  sortBy (fun a b => decide (a ≤ b)) (s.reach d h (4 * (s.imgLen d h / 16) + 8) [(s.imgEntry d h : Int)] [])

/-! ## What the records name -/

/-- Why a rudiment is named: by which record, for which use. -/
inductive RudUse where
  | mat (mop slot : Nat)
  | vec
  | conv
  | chld
  | move (lop : Nat)
  | dma
  | bell
  | piv
  deriving DecidableEq, Repr

/-- A rudiment named by the record at unit u. -/
structure Named where
  u   : Nat
  i   : Nat
  use : RudUse
  deriving DecidableEq, Repr

/-- The kind a use needs (R128). -/
def RudUse.kind : RudUse → Nat
  | .mat _ _ => 1 | .vec => 2 | .conv | .chld => 3 | .move _ => 4 | .dma => 5 | .bell => 6 | .piv => 7

/-- Rudiments a use takes. -/
def RudUse.entries : RudUse → Nat
  | .conv | .chld => 2
  | _ => 1

/-- The rudiments the record at unit u names. -/
def State.namedBy (s : State) (d h u : Nat) : List Named :=
  let n := s.dieWord d h u
  (if dwBop n = 3 then [⟨u, dwBell n, .bell⟩] else []) ++ (if dwDop n = 1 then [⟨u, dwDrud n, .dma⟩] else []) ++
  (s.clusterWords d h u).flatMap fun w =>
    let c := w.2
    (if 1 ≤ cwMop c ∧ cwMop c ≤ 4 then [⟨u, cwMrud c, .mat (cwMop c) (cwSlot c)⟩] else []) ++
    (if cwVop c = 1 then [⟨u, cwVrud c, .vec⟩] else []) ++
    (if cwCop c = 1 then [⟨u, cwCrud c, .conv⟩] else if cwCop c = 2 then [⟨u, cwCrud c, .chld⟩] else []) ++
    (if 1 ≤ cwLop c ∧ cwLop c ≤ 4 then [⟨u, cwLrud c, .move (cwLop c)⟩] else []) ++
    (if cwPop c = 1 then [⟨u, cwPrud c, .piv⟩] else [])

/-- The largest value counter c can take: one below the largest count a reachable LOOP loads into it (R142: the iterations are numbered from 0; that
R157's "up to the largest count" means these is DEDUCED, log entry 100). -/
def State.ctrMax (s : State) (d h : Nat) (rs : List Nat) (c : Nat) : Nat :=
  (rs.foldl (fun m u => let n := s.dieWord d h u
    if dwSeq n = 1 ∧ dwLc n = c then max m (dwImm n) else m) 0) - 1

/-! ## Ranges -/

/-- The enabled terms with one term for each counter. -/
def onePerCtr (ts : List AgTerm) : List AgTerm :=
  (ts.filter (·.en)).foldl (fun l t =>
    if l.any (fun x => x.ctr == t.ctr) then l.map fun x => if x.ctr = t.ctr then { x with stride := x.stride + t.stride } else x else l ++ [t]) []

/-- The lowest and the highest value of base + cstride × k + Σ terms, with k up to `cores` − 1. -/
def genRange (ctr : Nat → Nat) (base cstride : Int) (cores : Nat) (ts : List AgTerm) : Int × Int :=
  let span := fun (n : Int × Int) (x : Int) => (n.1 + min 0 x, n.2 + max 0 x)
  (onePerCtr ts).foldl (fun n t => span n (t.stride * ctr t.ctr)) (span (base, base) (cstride * (cores - 1 : Nat)))

/-- Every access of n bytes an AG can generate stays inside a space of `size` bytes. -/
def agFits (ctr : Nat → Nat) (g : AG) (cores n size : Nat) : Bool :=
  let r := genRange ctr g.base g.cstride cores g.terms
  decide (0 ≤ r.1) && decide (8 * r.2 + n ≤ size)

abbrev stallFits (ctr : Nat → Nat) (g : AG) (n : Nat) : Bool := agFits ctr g 16 n 0x200000
abbrev loftFits (ctr : Nat → Nat) (g : AG) (cores n : Nat) : Bool := agFits ctr g cores n 0x1000000

/-- A vector source stays inside the stall, or its slot. -/
def vecSrcFits (ctr : Nat → Nat) (form fmt : Nat) (g : AG) (m n : Nat) : Bool :=
  if 2 < form then true
  else if fmt = fmtSlot then
    let edge := if halfOf g.base = 0 then 64 else 32
    decide (g.base < 12) && (form == 1 || decide (m ≤ edge)) && (form == 2 || decide (n ≤ edge))
  else
    let x := vecSrc form fmt 0 0 0 0 m n false
    let bytes := if x.block then headerBytes x.f x.rows x.cols + x.rows * rowBytes x.f x.cols else x.rows * x.cols * (x.bits / 8)
    stallFits ctr g bytes

/-- The stall accesses of a vector rudiment with opcode op (R134). -/
def vecFits (ctr : Nat → Nat) (op : Nat) (r : VecRud) : Bool :=
  let size := if r.dest = 1 then 16 else 8
  let red := if op = 0x28 ∨ op = 0x2B then 16 else size
  let out := if op = 0x39 then size * r.m * r.n + 16 * r.m else if op = 0x3C then 32 * r.m
    else if vecRowRed op then red * r.m else if vecColRed op then red * r.n else size * r.m * r.n
  vecSrcFits ctr r.forma r.fmta r.agA r.m r.n &&
    (if op = 0x3D then stallFits ctr r.agB (32 * r.m) else !vecBinary op || vecSrcFits ctr r.formb r.fmtb r.agB r.m r.n) &&
    (decide (2 ≤ r.dest) || stallFits ctr r.agD out) && (!(op == 0x1B && r.var) || stallFits ctr r.agD (8 * r.m))

/-- The stall accesses of a matrix rudiment for its use (R157). -/
def matFits (ctr : Nat → Nat) (mop slot : Nat) (r : MatRud) : Bool :=
  let w := wideOf r
  let bytes := fun f : Nat => 128 + w.tile.1 * w.tile.2 * (matFmt f).bits / 8
  if mop ≤ 2 then stallFits ctr r.agA (bytes r.fmta) && stallFits ctr r.agB (bytes r.fmtb)
  else stallFits ctr r.agA (if halfOf slot = 0 then 32768 else 16384)

/-- The output tile of a CONV, and the source tile, of which a slot code with half 1 holds 32 × 32 (R74); the channel table of a CHLD. -/
def State.convFits (s : State) (d h : Nat) (ctr : Nat → Nat) (conv : Bool) (r : ConvRud) : Bool :=
  let f := (s.ctxDesc d h r.desc).format
  let bytes := if f.block then headerBytes f r.rows r.cols + r.rows * rowBytes f r.cols else r.rows * r.cols * (f.bits / 8)
  let tile := decide (12 ≤ r.src) || halfOf r.src == 0 || (decide (r.rows ≤ 32) && decide (r.cols ≤ 32))
  if conv then tile && stallFits ctr r.agD bytes else stallFits ctr r.agC (16 * r.chn)

/-- The loft and the stall of a move rudiment. -/
def moveFits (ctr : Nat → Nat) (lop : Nat) (r : MoveRud) : Bool :=
  let n := match (if lop = 3 then Fmt.ofCode r.efmt else none) with
    | some f => let rb := r.rowlen * f.bits / 8; if rb = 0 then 0 else r.len / rb * rb
    | none => r.len
  loftFits ctr r.agL 16 n && stallFits ctr r.agS n

/-- Does `ok` hold of every address that these terms reach from a on? -/
def everyAddr (ok : Int → Bool) (ctr : Nat → Nat) : List AgTerm → Int → Bool
  | [], a => ok a
  | t :: l, a => (List.range (ctr t.ctr + 1)).all fun n => everyAddr ok ctr l (a + t.stride * n)

/-- The loft and the memory of a DMA rudiment: every address its generator can yield is judged by R535. -/
def State.dmaFits (s : State) (ctr : Nat → Nat) (r : DmaRud) : Bool :=
  loftFits ctr r.agL 1 r.len && everyAddr (fun a => s.gMapped (a % 2 ^ 64).toNat r.len) ctr (onePerCtr r.terms) r.gbase.toNat

/-- PRG_RANGE for a named rudiment. -/
def State.namedFits (s : State) (d h : Nat) (ctr : Nat → Nat) (x : Named) : Bool :=
  let b := s.rudBytes d h x.i 128
  match x.use with
  | .mat mop slot => matFits ctr mop slot (matOf b)
  | .vec => vecFits ctr (vecOf b).1 (vecOf b).2
  | .conv => s.convFits d h ctr true (convOf b)
  | .chld => s.convFits d h ctr false (convOf b)
  | .move lop => moveFits ctr lop (moveOf b)
  | .dma => s.dmaFits ctr (dmaOf b)
  | .bell => true
  | .piv => let p := pivOf b
    loftFits ctr p.2.ag 1 (match p.1 with | 1 => 16 | 2 => 32 * p.2.count | 3 => 8 | _ => 16)

/-- PRG_BLOCK (R540): a column origin or the column count is no multiple of the block length. -/
def State.namedBlock (s : State) (d h : Nat) (ctr : Nat → Nat) (x : Named) : Bool :=
  let r := convOf (s.rudBytes d h x.i 128)
  let f := (s.ctxDesc d h r.desc).format
  if (x.use = .conv ∨ x.use = .chld) ∧ f.block = true then
    r.cols % f.len != 0 || r.col.base % f.len != 0 || r.col.cstride % f.len != 0 ||
      r.col.terms.any fun t => t.en && decide (0 < ctr t.ctr) && t.stride % f.len != 0
  else false

/-! ## The checks -/

/-- Is a bell of this package owned by pen p? Names of other packages pass. -/
def State.bellOwned (s : State) (p : Option Nat) (name : Nat) : Bool :=
  bellPackage name != s.package ||
    (!bellReserved name && decide (bellIndex name < bellsOf (bellDie name)) && p == some (s.get (BEL_OWN.pen (bellDie name) (bellIndex name))))

/-- A local bell of the context's die. -/
def State.localOwned (s : State) (p : Option Nat) (d j : Nat) : Bool := decide (j < bellsOf d) && p == some (s.get (BEL_OWN.pen d j))

/-- Does the record at unit u name a bell the pen does not own (PRG_BELL)? The check comes before PRG_RUD: the bytes of a rudiment of a kind the field
does not take are read as a rudiment of the kind it does (DESIGN CHOICE, log entry 101). -/
def State.recordBell (s : State) (d h : Nat) (p : Option Nat) (u : Nat) : Bool :=
  let n := s.dieWord d h u
  let m := dmaOf (s.rudBytes d h (dwDrud n) 64)
  ((dwBop n == 1 || dwBop n == 2) && !s.localOwned p d (dwBell n)) ||
    (dwBop n == 3 && decide (dwBell n < s.rudCount d h) && !s.bellOwned p (s.readNat (s.rudPlace d h (dwBell n) + 8) 8)) ||
    (dwDop n == 1 && decide (dwDrud n < s.rudCount d h) && (!s.localOwned p d m.done || (m.errbEn && !s.localOwned p d m.errb)))

/-- A cluster the context may not use (PRG_CORE): outside its clusters, in a half that its pen does not hold (R440), or one that the layout does not
use (R442), as it does none that was quarantined when it was loaded (R101, LP_QUAR). -/
def State.clusterBad (s : State) (d h c : Nat) : Bool :=
  !(s.ctxClusters d h).contains c || s.penOfHalf d (c / 4) != s.penOfHalf d h || !bitOf s.lay.clusters (8 * d + c)

/-- PRG_CORE: the index it gives. It comes before PRG_RUD, and reads the cluster of a rudiment of another kind as a DMA rudiment's (log entry 101). -/
def State.coreFaultIndex (s : State) (d h : Nat) (rs : List Nat) : Option Nat :=
  match rs.find? fun u => (dwClusters (s.dieWord d h u)).any (s.clusterBad d h) with
  | some u => some u
  | none =>
    match (List.range (s.setCount d h)).find? fun i => (s.coreSet d h i).any fun x => s.clusterBad d h x.1 with
    | some i => some i
    | none => rs.find? fun u =>
      let n := s.dieWord d h u
      dwDop n == 1 && decide (dwDrud n < s.rudCount d h) && s.clusterBad d h (dmaOf (s.rudBytes d h (dwDrud n) 64)).cluster

/-- The counters a rudiment's generators name. -/
def State.namedCtrs (s : State) (d h : Nat) (x : Named) : List Nat :=
  let b := s.rudBytes d h x.i 128
  let ts : List AgTerm := match x.use with
    | .mat _ _ => (matOf b).agA.terms ++ (matOf b).agB.terms
    | .vec => (vecOf b).2.agA.terms ++ (vecOf b).2.agB.terms ++ (vecOf b).2.agD.terms
    | .conv | .chld => (convOf b).agD.terms ++ (convOf b).agC.terms ++ (convOf b).row.terms ++ (convOf b).col.terms
    | .move _ => (moveOf b).agL.terms ++ (moveOf b).agS.terms
    | .dma => (dmaOf b).terms ++ (dmaOf b).agL.terms
    | .bell => []
    | .piv => (pivOf b).2.ag.terms
  (ts.filter (·.en)).map (·.ctr)

/-- Loops of reachable records around the record at unit u, itself included. -/
def State.nestDepth (s : State) (d h : Nat) (rs : List Nat) (u : Nat) : Nat :=
  1 + (rs.filter fun v => let n := s.dieWord d h v
    dwSeq n == 1 && decide (v + dwUnits n ≤ u) && decide (u < v + dwUnits n + dwLend n)).length

/-- PRG_LOOP: the record. -/
def State.loopFault (s : State) (d h : Nat) (rs : List Nat) : Option Nat :=
  let most := if s.split d then 8 else 16
  rs.find? fun u =>
    let n := s.dieWord d h u
    (dwSeq n == 1 && (decide (most ≤ dwLc n) || decide (most < s.nestDepth d h rs u))) ||
      ((s.namedBy d h u).any fun x => decide (x.i < s.rudCount d h) && (s.namedCtrs d h x).any fun c => decide (most ≤ c))

/-- PRG_PATTERN for pattern i (R138). -/
def State.patBad (s : State) (d h i : Nat) : Bool :=
  let n := s.readNat (s.patPlace d h i) 16
  let l := (List.range 16).map fun g => bitsOf n (5 * g) 5
  let cores := l.filter fun a => decide (a < 16)
  l.any (fun a => decide (17 < a) && a != 31) || cores.eraseDups.length != cores.length

/-- PRG_RUD for a named rudiment. -/
def State.namedBad (s : State) (d h : Nat) (x : Named) : Bool :=
  let b := s.rudBytes d h x.i 128
  decide (s.rudCount d h < x.i + x.use.entries) || fieldNat b 0 1 != x.use.kind ||
    (x.use.kind == 3 && ((decide (12 ≤ (convOf b).src) && (convOf b).src != 15) || decide (s.descCount d h ≤ (convOf b).desc)))

/-- Rudiment indices of named ones that fail a test, lowest first. -/
def lowestNamed (l : List Named) (bad : Named → Bool) : Option Nat :=
  ((l.filter bad).map (·.i)).foldl (fun m i => match m with | some j => some (min i j) | none => some i) none

/-- The uncorrectable words of the image: 16-byte unit of the first. -/
def State.imageUe (s : State) (d h : Nat) : Option Nat :=
  let a := s.regionAt d h
  ((s.mem.marks.find? fun e => decide (a ≤ 8 * e.1) && decide (8 * e.1 < a + s.imgLen d h) && (e.2.ue || e.2.poison))).map fun e =>
    (8 * e.1 - a) / 16

/-- The scan (R157): reason (0 for a pass), detail, index. Of a reachable record that would lie before the region the index is the 32-bit two's
complement of its offset (DESIGN CHOICE, log entry 102). -/
def State.scan (s : State) (d h : Nat) : Nat × Nat × Nat :=
  let p := s.penOfHalf d h
  let all := s.reachable d h
  let rs := (all.filter fun u => !s.recordBad d h u).map (·.toNat)
  let named := rs.flatMap (s.namedBy d h)
  let ctr := s.ctrMax d h rs
  let desc := (List.range (s.descCount d h)).findSome? fun i =>
    let f := s.descFault (s.ctxDesc d h i)
    if f = 0 then none else some (i, f)
  let allow := match p with | some p => s.get (PEN_INFO.allowance p) | none => 0
  if s.regionSize d h < s.imgLen d h then (0x40, 0, 0)
  else match s.imageUe d h with
  | some u => (0x4A, 0, u)
  | none => match s.headerFault d h with
  | some o => (0x41, 0, o)
  | none => match all.find? (s.recordBad d h) with
  | some u => (0x41, 0, uns 32 u)
  | none => match desc with
  | some x => (0x42, x.2, x.1)
  | none => match rs.find? (s.recordBell d h p) with
  | some u => (0x43, 0, u)
  | none => match s.coreFaultIndex d h rs with
  | some i => (0x44, 0, i)
  | none => match s.loopFault d h rs with
  | some u => (0x45, 0, u)
  | none => match (List.range (s.patCount d h)).find? (s.patBad d h) with
  | some i => (0x46, 0, i)
  | none =>
    if allow < s.hdr d h 40 4 then (0x47, 0, 0)
    else match named.find? (s.namedBad d h) with
    | some x => (0x48, 0, x.u)
    | none => match lowestNamed named (fun x => !s.namedFits d h ctr x) with
    | some i => (0x49, 0, i)
    | none => match lowestNamed named (s.namedBlock d h ctr) with
    | some i => (0x4B, 0, i)
    | none => (0, 0, 0)

/-- The words of the image are read (R157, R166). -/
def State.scanReads (s : State) (d h : Nat) : State :=
  let a := s.regionAt d h
  (s.mem.marks.filter fun e => decide (a ≤ 8 * e.1) && decide (8 * e.1 < a + s.imgLen d h)).foldl
    (fun t e => t.storeCount d h (8 * e.1 - storeBase d)) s

/-! ## Load and go (R156) -/

/-- Load and go are taken only while the context's pen is ON (R456). -/
def State.takesLoad (s : State) (d h : Nat) : Bool :=
  (h == 0 || s.split d) && (match s.penOfHalf d h with | some p => s.get (PEN_CTL.state p) == 2 | none => false)

/-- SEQ_CTL.load is written 1. -/
def State.loadStart (s : State) (d h : Nat) : State :=
  if s.cstate d h = 0 ∧ s.takesLoad d h = true then s.set (SEQ_STATUS.state d h) 1 else s

/-- The engines of a context as go finds them: free, nothing in flight, pattern 0 (R127). -/
def State.freshEngines (s : State) (d h : Nat) : State :=
  (s.ctxClusters d h).foldl (fun t c => t.setCluster d c { t.cluster d c with pat := 0, pBusy := 0, piv := none, lands := [], start := none })
    (s.eachCore d h fun t c k =>
      t.setCore d c k { t.core d c k with
        latches := [], mBusy := 0, mChunk := false, vBusy := 0, cBusy := 0, lBusy := 0, use := [], jobs := [], ahead := none })

/-- SEQ_CTL.go is written 1: the cycle counts clear, and the entry record issues next. -/
def State.goStart (s : State) (d h : Nat) : State :=
  if s.cstate d h = 2 ∧ s.takesLoad d h = true then
    let s1 := (((s.set (SEQ_CYC.cycles d h) 0).set (SEQ_HELD.cycles d h) 0).set (SEQ_PC.record d h) (s.imgEntry d h)).set
      (SEQ_STATUS.state d h) 3
    (s1.setCtx d h { s1.ctx d h with beats := 0, hold := 0, rings := [], phase := .none, cycMark := 0, heldMark := 0, snap := false }).freshEngines d h
  else s

/-! ## The rows -/

/-- SEQ_LOAD_START (R156). -/
def execSeqLoadStart (d : Fin 4) (h : Fin 2) (s : State) : Host.Outcome State Fault Refusal := .next (s.loadStart d.val h.val)

/-- SCAN_COMPLETE (R157). -/
def execScanComplete (d : Fin 4) (h : Fin 2) (s : State) : Host.Outcome State Fault Refusal :=
  if s.cstate d.val h.val == 1 && s.ctxLive d.val h.val then
    let r := s.scan d.val h.val
    let s1 := (((s.scanReads d.val h.val).set (SEQ_LOAD.reason d.val h.val) r.1).set (SEQ_LOAD.detail d.val h.val) r.2.1).set
      (SEQ_LOAD.index d.val h.val) r.2.2
    .next (s1.set (SEQ_STATUS.state d.val h.val) (if r.1 = 0 then 2 else 0))
  else s.notDue

/-- SEQ_GO (R156). -/
def execSeqGo (d : Fin 4) (h : Fin 2) (s : State) : Host.Outcome State Fault Refusal := .next (s.goStart d.val h.val)

/-- Does store offset [o, o + n) touch the region of a context that is not IDLE (R121)? -/
def State.storeClosed (s : State) (d o n : Nat) : Bool :=
  (if s.split d then [0, 1] else [0]).any fun h =>
    let b := s.get (SEQ_CTL.region_base d h) * 65536
    s.cstate d h != 0 && decide (o < b + s.regionSize d h) && decide (b < o + n)

/-- A write into the cadence store through the aperture (R120, R121). -/
def State.storeWrite (s : State) (d o : Nat) (bs : List Byte) (poison : Bool) : State :=
  if 0x2000000 < o + bs.length ∨ s.storeClosed d o bs.length = true then s.answer .accessFault
  else (s.put (storeBase d + o) bs poison).answer .accepted

/-- STORE_APERTURE_WRITE (R121). -/
def execStoreApertureWrite (d : Fin 4) (off : BitVec 25) (data : List Byte) (s : State) : Host.Outcome State Fault Refusal :=
  .next (s.storeWrite d.val off.toNat data false)

end Sys2Proof.Machine
end

