-- ==== Sys2Proof/Machine/Governor.lean ====
section
/-!
DEFINITION. Governor.lean: STEP action 5 (R152): the scale governor (R181 to R187, R193), a pen's share of a shadow image (R453), the
snapshot mark (R410, R412, R418, R420, R424).
-/

namespace Sys2Proof.Machine

/-! ## The governor's decision (R181 to R183) -/

/-- A parameter entry (R182). -/
structure GovParam where
  gov    : Bool
  rebase : Bool
  rise   : Int
  fall   : Int
  eMin   : Int
  eMax   : Int
  deriving DecidableEq, Repr

def govParamOf (n : Nat) : GovParam :=
  { gov := bitOf n 0, rebase := bitOf n 1, rise := bitsOf n 2 3, fall := bitsOf n 5 3, eMin := sext 16 (bitsOf n 16 16),
    eMax := sext 16 (bitsOf n 32 16) }

/-- The addresses of the parameter entry and the input entry of descriptor x. -/
def State.paramAt (s : State) (d h x : Nat) : Nat := localOf (s.get (SEQ_GOV_PARAM.base d h) * 64) + 8 * x
def State.govInAt (s : State) (d h x : Nat) : Nat := localOf (s.get (SEQ_GOV_IN.base d h) * 64) + 64 + 32 * x
def State.govHeader (s : State) (d h : Nat) : Nat := localOf (s.get (SEQ_GOV_IN.base d h) * 64)

def State.param (s : State) (d h x : Nat) : GovParam := govParamOf (s.readNat (s.paramAt d h x) 8)

/-- Is descriptor x governed: gov = 1, and a block format (R182)? -/
def State.governed (s : State) (d h x : Nat) : Bool := (s.param d h x).gov && (s.ctxDesc d h x).format.block

/-- The new exponent (R183). -/
def newExp (p : GovParam) (e : Int) (sat top floor : Nat) : Int :=
  let δ := if 0 < sat then p.rise else if 0 < floor ∧ top = 0 then -p.fall else 0
  min (max (e + δ) p.eMin) p.eMax

/-- The new exponent of descriptor x of a context. -/
def State.govExp (s : State) (d h x : Nat) : Int :=
  let a := s.govInAt d h x
  newExp (s.param d h x) (s.ctxDesc d h x).exp (s.readNat a 8) (s.readNat (a + 8) 8) (s.readNat (a + 16) 8)

/-- Does the governor act for the context, and does the input table's step tag name the step that is closing (R183)? -/
def State.govOn (s : State) (d h : Nat) : Bool := s.flag (SEQ_GOV_PARAM.enable d h)
def State.govFresh (s : State) (d h n : Nat) : Bool := s.readNat (s.govHeader d h) 8 == n

/-- The governed descriptors of a context. -/
def State.govList (s : State) (d h : Nat) : List Nat := (List.range (s.descCount d h)).filter fun x => s.governed d h x

/-- A table of the governor cannot be read: poisoned data (R193), an unmapped address or one of another pen's ranges (R13, R442; that the fault is
GOV_POISON there too is a DESIGN CHOICE, log entry 98). -/
def State.govBad (s : State) (d h a n : Nat) : Bool := !s.penReach (s.ctxPen d h) a n || s.readBad a n

/-- The fault of the governor's reads (R193): GOV_POISON for table data it cannot use, SEQ_STORE_UE for a descriptor that cannot be read. -/
def State.govFault (s : State) (d h n : Nat) : Nat :=
  if !s.govOn d h then 0
  else if s.govBad d h (s.govHeader d h) 64 then 0x39
  else if !s.govFresh d h n then 0
  else if (List.range (s.descCount d h)).any fun x => s.govBad d h (s.paramAt d h x) 8 then 0x39
  else if (List.range (s.descCount d h)).any fun x => (s.param d h x).gov && s.readBad (s.descPlace d h x) 64 then 0x32
  else if (s.govList d h).any fun x => s.govBad d h (s.govInAt d h x) 32 then 0x39
  else 0

/-- The descriptors of a context whose exponent changes, with the change. -/
def State.govChanges (s : State) (d h n : Nat) : List (Nat × Int) :=
  if s.govOn d h && s.govFresh d h n then
    (s.govList d h).filterMap fun x =>
      let e := s.govExp d h x
      let o := (s.ctxDesc d h x).exp
      if e = o then none else some (x, e - o)
  else []

/-- Behind the governor's reads of its tables, and its rewriting in the yards (R185), in class P1 (log entry 109). -/
def State.govVia (s : State) (d h : Nat) : Via := { pen := s.ctxPen d h, port := .die (Fin.ofNat 4 d), cls := 1, who := 8 + 2 * d + h }
def rebaseVia (p : Option Nat) : Via := { pen := p, port := .engines, cls := 1, who := 1 }

/-- The governor's reads are counted at their stacks. -/
def State.govReads (s : State) (d h n : Nat) : State :=
  if !s.govOn d h then s
  else
    let v := s.govVia d h
    let s1 := s.countRead v (s.govHeader d h) 64
    if !s.govFresh d h n then s1
    else (s.govList d h).foldl (fun t x => t.countRead v (t.govInAt d h x) 32)
      (s1.countRead v (s.paramAt d h 0) (8 * s.descCount d h))

/-! ## Rewriting (R185) -/

/-- The new codes of a block whose shift becomes b′, with how many were clamped and how many nonzero ones became zero. -/
def rebaseCodes (w : Nat) (b : Int) (codes : List Int) : List Int × Nat × Nat :=
  if 255 < b then
    let l := codes.map fun m => roundNe m (b - 255)
    (l, 0, ((codes.zip l).filter fun x => x.1 != 0 && x.2 == 0).length)
  else if b < 0 then
    let l := codes.map fun m => m * 2 ^ (-b).toNat
    let c := l.map (clampInt (-(maxCode w)) (maxCode w))
    (c, ((l.zip c).filter fun x => x.1 != x.2).length, 0)
  else (codes, 0, 0)

/-- One block of a governed tensor, rewritten for an exponent change: what is written to its element plane and to its shift plane, codes clamped,
codes become zero. -/
def State.rebaseBlock (s : State) (t : Desc) (δ : Int) (i q : Nat) : (List Piece × Piece) × Nat × Nat :=
  let f := t.format
  let b : Int := ((s.mem.byte (s.loc (t.shiftAddr i q))).toNat : Int) + δ
  let bs := s.read (t.blockAddr i q) t.blockBytes
  let shift : Piece := (t.shiftAddr i q, [BitVec.ofNat 8 (clampInt 0 255 b).toNat], false)
  if s.blockBad t i q then (([(t.blockAddr i q, bs, true)], shift), 0, 0)
  else
    let r := rebaseCodes f.bits b ((List.range f.len).map (codeAt f.bits bs))
    ((if 0 ≤ b ∧ b ≤ 255 then [] else [(t.blockAddr i q, packCodes f.bits r.1, false)], shift), r.2.1, r.2.2)

/-- The planes of a tensor are rewritten block by block: the state, codes clamped, codes become zero. -/
def State.rebase (s : State) (t : Desc) (δ : Int) (p : Option Nat) : State × Nat × Nat :=
  let v := rebaseVia p
  let s1 := (s.countRead v (localOf t.elem) t.elemBytes).countRead v (localOf t.shift) t.shiftBytes
  let l := (List.range t.rows).flatMap fun i => (List.range (t.cols / t.format.len)).map fun q => s.rebaseBlock t δ i q
  ((s1.putPieces v false .write (l.flatMap (·.1.1))).putPieces v false .write (l.map (·.1.2)), (l.map (·.2.1)).sum, (l.map (·.2.2)).sum)

/-- A governed descriptor takes its new exponent, its planes rewritten where rebase = 1. -/
def State.govApply (s : State) (d h : Nat) (a : Nat × Int) : State :=
  let t := s.ctxDesc d h a.1
  let r := if (s.param d h a.1).rebase then s.rebase t a.2 (s.ctxPen d h) else (s, 0, 0)
  let s1 := ((r.1.inc (SEQ_GOV_STAT.rb_sat d h) r.2.1).inc (SEQ_GOV_STAT.rb_unf d h) r.2.2).inc (SEQ_GOV_STAT.changed d h) 1
  s1.put (s1.descPlace d h a.1 + 28) (leBytes 2 (uns 16 (t.exp + a.2))) false

/-- The governor of a context acts for the closing step n: SEQ_GOV_STAT describes this boundary (R192). -/
def State.govern (s : State) (d h n : Nat) : State :=
  if !s.govOn d h then s
  else
    let l := s.govChanges d h n
    let s1 := s.clearFlds [SEQ_GOV_STAT.changed d h, SEQ_GOV_STAT.stale d h, SEQ_GOV_STAT.rb_sat d h, SEQ_GOV_STAT.rb_unf d h]
    if !s.govFresh d h n then s1.set (SEQ_GOV_STAT.stale d h) 1
    else l.foldl (fun t a => t.govApply d h a) s1

/-- Has the boundary planes to rewrite (R185, R186)? -/
def State.rewrites (s : State) (p n : Nat) : Bool :=
  (s.penCtxs p).any fun x => (s.govChanges x.1 x.2 n).any fun a => (s.param x.1 x.2 a.1).rebase

/-! ## The snapshot mark -/

/-- The exponent table (R410): one entry per designated or governed tensor of the pen's contexts. -/
def State.expTable (s : State) (p : Nat) : List (U32 × BitVec 16) :=
  let all := (s.penCtxs p).flatMap fun x => (List.range (s.descCount x.1 x.2)).filterMap fun i =>
    let t := s.ctxDesc x.1 x.2 i
    if t.digest || (s.govOn x.1 x.2 && s.governed x.1 x.2 i) then some (BitVec.ofNat 32 t.tid, BitVec.ofInt 16 t.exp) else none
  all.foldl (fun l e => if l.any (fun f => f.1 == e.1) then l else l ++ [e]) []

/-- The pages of the pen's snapshot ranges become HELD (R413). -/
def State.holdPages (s : State) (p : Nat) : State :=
  (s.lay.ranges.filter fun r => r.snapshot && r.pen == some p).foldl (fun t r =>
    (List.range (r.len / 65536)).foldl (fun u i => u.setPage r.stack (r.start / 65536 + i) (.held p)) t) s

/-- A snapshot is marked (R412, R420), the state shard's Write in flight, unless the generation is not above the key slot's high-water mark (R424). -/
def State.mark (s : State) (p : Nat) : State :=
  let g := s.get (CKP_GEN.gen p)
  let k := s.get (CKP_CTL.key_slot p)
  let enc := s.flag (CKP_CTL.encrypt p)
  if enc && decide (g ≤ Tab.get 0 s.rot.high k) then s.ckpError p 3 (s.get (LDG_STEP.step p))
  else
    let s1 := if enc then { s with rot := { s.rot with high := Tab.set 0 s.rot.high k g } } else s
    let s2 := if s1.flag (CKP_CTL.allstop p) then s1 else s1.holdPages p
    let old := s2.ckp p
    let k1 := { old.kept with step := BitVec.ofNat 64 (s.get (LDG_STEP.step p)), gen := BitVec.ofNat 64 g }
    ((s2.setCkp p { k1 with record := s.lastRecord p, exps := s.expTable p, nvme := [.write] }).set (CKP_STAT.state p) 1).showCoord p

/-- Does the boundary ask for a snapshot that CKP_CTL and CKP_NEXT allow (R412)? -/
def State.snapWanted (s : State) (p : Nat) : Bool :=
  ((s.penCtxs p).any fun x => (s.ctx x.1 x.2).snap) && s.flag (CKP_CTL.enable p) &&
    decide (s.get (CKP_NEXT.step p) ≤ s.get (LDG_STEP.step p))

/-! ## Action 5 and 6 -/

/-- Action 6: every context of the pen resumes, its STEP beat to issue in its first cycle. -/
def State.resumePen (s : State) (p : Nat) : State :=
  let s1 := (s.penCtxs p).foldl (fun t x =>
    (t.unhold x.1 x.2).setCtx x.1 x.2 { (t.unhold x.1 x.2).ctx x.1 x.2 with phase := .resumed, snap := false }) s
  s1.setPen p { s1.pen p with boundary := .none }

/-- A hold in action 5 begins. -/
def State.holdPen (s : State) (p : Nat) (b : Boundary) : State :=
  s.setPen p { s.pen p with boundary := b, holdNs := s.get CD_TIME.ns }

/-- A hold in action 5 ends: its time is shed stall (R412, R415, R418). -/
def State.holdEnds (s : State) (p : Nat) : State :=
  let r := s.pen p
  s.setPen p { r with shedNs := r.shedNs + (s.get CD_TIME.ns - r.holdNs) }

/-- The package manifest has not been written: the all-stop hold lasts (R418). -/
def State.manifestDue (s : State) (p : Nat) : Bool :=
  s.get (CKP_STAT.state p) == 1 || (s.get (CKP_STAT.state p) == 2 && !(s.ckp p).nvme.isEmpty)

/-- The mark, and with it the resume or the all-stop hold. -/
def State.markAndGo (s : State) (p : Nat) : State :=
  let s1 := s.mark p
  if s1.flag (CKP_CTL.allstop p) && s1.get (CKP_STAT.state p) == 1 then s1.holdPen p .allstop else s1.resumePen p

/-- Action 5 after the governor's reads: exponents and rewrites, the shadow share, the snapshot (R152, R187). -/
def State.action5 (s : State) (p n : Nat) : State :=
  let s1 := (s.penCtxs p).foldl (fun t x => t.govern x.1 x.2 n) s
  let s2 := s1.shareAtBound p
  if !s2.snapWanted p then s2.resumePen p
  else if s2.get (CKP_STAT.state p) ≠ 0 then s2.holdPen p .unitBusy
  else s2.markAndGo p

/-- The step that is closing: action 4 has moved LDG_STEP past it (R152). -/
def State.closing (s : State) (p : Nat) : Nat := (s.get (LDG_STEP.step p) + (2 ^ 64 - 1)) % 2 ^ 64

/-- The first context whose governor reads fault, with the fault. -/
def State.penGovFault (s : State) (p n : Nat) : Option (Nat × Nat × Nat) :=
  (s.penCtxs p).findSome? fun x => let f := s.govFault x.1 x.2 n; if f = 0 then none else some (x.1, x.2, f)

/-- Action 5 begins, or its rewrites end: a fault of the governor's reads stops the pen with every descriptor unchanged (R193). -/
def State.runAction5 (s0 : State) (p : Nat) (rewritten : Bool) : State :=
  let n := s0.closing p
  let s := if rewritten then s0 else s0.setPen p { s0.pen p with share := s0.get LAY_STATUS.shadow == 2 }
  match s.penGovFault p n with
  | some f =>
    let read := (s.penCtxs p).takeWhile (· != (f.1, f.2.1)) ++ [(f.1, f.2.1)]
    (read.foldl (fun t x => t.govReads x.1 x.2 n) s).contextFault f.1 f.2.1 f.2.2 0 0
  | none =>
    if s.rewrites p n && !rewritten then
      let s1 := (s.penCtxs p).foldl (fun t x => t.govReads x.1 x.2 n) s
      s1.setPen p { s1.pen p with boundary := .rebasing }
    else if rewritten then s.action5 p n
    else ((s.penCtxs p).foldl (fun t x => t.govReads x.1 x.2 n) s).action5 p n

/-- STEP_ACTION5 (R152): begins, or goes on from a hold (R412, R418). -/
def execStepAction5 (p : Fin 8) (s : State) : Host.Outcome State Fault Refusal :=
  s.yardStep fun s =>
    if s.penFrozen p.val then s.notDue
    else match (s.pen p.val).boundary with
      | .latched => if s.teamPending p.val then s.notDue else .next (s.runAction5 p.val false)
      | .unitBusy => if s.get (CKP_STAT.state p.val) = 0 then .next ((s.holdEnds p.val).markAndGo p.val) else s.notDue
      | .allstop => if s.manifestDue p.val then s.notDue else .next ((s.holdEnds p.val).resumePen p.val)
      | .rebasing | .none => s.notDue

/-- REBASE_DONE (R187). -/
def execRebaseDone (p : Fin 8) (s : State) : Host.Outcome State Fault Refusal :=
  s.yardStep fun s =>
    if !s.penFrozen p.val && (s.pen p.val).boundary == .rebasing then .next (s.runAction5 p.val true) else s.notDue

end Sys2Proof.Machine
end

