-- ==== Sys2Proof/Machine/Collective.lean ====
section
/-!
DEFINITION. Collective.lean: collectives on a package's group engines (R384 to R402): start, exact combination up the trees, results and
digests down, confirmation and release, step comparison, errors, messages.
-/

namespace Sys2Proof.Machine

/-! ## Chunks and elements -/

/-- The bytes of a chunk, and how many chunks a command has (R382). -/
def GDesc.size (d : GDesc) : Nat := 2 ^ d.chunk
def chunkCount (d : GDesc) (cmd : List Byte) : Nat := if gcMoves (gcOp cmd) then (gcLen cmd + d.size - 1) / d.size else 0
def chunkLen (d : GDesc) (cmd : List Byte) (k : Nat) : Nat := min d.size (gcLen cmd - k * d.size)
/-- The bytes of an element of a command, and the elements of a chunk. -/
def cmdElem (cmd : List Byte) : Nat := elemSize (gcElem cmd)
def chunkElems (d : GDesc) (cmd : List Byte) (k : Nat) : Nat := chunkLen d cmd k / cmdElem cmd

def Coll.chunk (c : Coll) (k : Nat) : Chunk := Tab.get Chunk.clear c.chunks k
def Coll.setChunk (c : Coll) (k : Nat) (v : Chunk) : Coll := { c with chunks := Tab.set Chunk.clear c.chunks k v }
def State.setColl (s : State) (g : Nat) (c : Coll) : State := s.setGroup g { s.group g with coll := some c }

/-- Is the etype an A format (R26, R385)? Its width. -/
def etypeBits (e : Nat) : Option Nat :=
  match e with
  | 5 => some 48 | 6 => some 64 | 7 => some 96 | 8 => some 192 | _ => none

/-- Two digest entries of 32 bytes combined (R318, R390): sums modulo 2^128, counts that stop at all ones, every flag ORed; of two tensor
identifiers that differ the lower stays and conflict is set, whether an entry is used or not. -/
def combineDigest (a b : List Byte) : List Byte :=
  let x := fieldNat a 16 4
  let y := fieldNat b 16 4
  leBytes 16 ((fieldNat a 0 16 + fieldNat b 0 16) % 2 ^ 128) ++ leBytes 4 (min x y) ++
    leBytes 4 (fieldNat a 20 4 ||| fieldNat b 20 4 ||| (if x = y then 0 else 4)) ++ cnt 8 (fieldNat a 24 8 + fieldNat b 24 8)

/-- Two elements combined (R390): the bytes, and whether the sum was clamped. A container whose upper bits are not the sign extension of its n + 8 bit
value (R26) is read here as the number its whole width holds (DESIGN CHOICE, log entry 107); the engines read its low n + 8 bits. -/
def combine (etype kind : Nat) (a b : List Byte) : List Byte × Bool :=
  let n := elemSize etype
  let x := sext (8 * n) (leNat a)
  let y := sext (8 * n) (leNat b)
  let out := fun (v : Int) => leBytes n (uns (8 * n) v)
  if etype = 10 then (leBytes 16 ((leNat a + leNat b) % 2 ^ 128), false)
  else if etype = 11 then (combineDigest a b, false)
  else if kind = 1 then (out (max x y), false)
  else if kind = 2 then (out (min x y), false)
  else match etypeBits etype with
    | some w => let v := extended w (x + y); (out v, v != x + y)
    | none => let v := sat63 (x + y); (out v, v != x + y)

/-- The words of an element for the chunk digest (R392). -/
def elemWords (b : List Byte) : List U64 := (List.range (b.length / 8)).map fun i => BitVec.ofNat 64 (fieldNat b (8 * i) 8)

/-- The digest and poison count of a chunk's elements (R392): `bad` lists the poisoned ones; `first` is the chunk's first element in the data. -/
def chunkDigest (g etype first n : Nat) (data : List Byte) (bad : List Nat) : U128 × Nat :=
  let e := elemSize etype
  let l := (List.range n).filter fun i => !bad.contains i
  ((l.map fun i => foldElem (BitVec.ofNat 32 (0x80000000 + g)) (BitVec.ofNat 64 (first + i)) etype 0
    (elemWords (fieldBytes data (e * i) e))).sum, n - l.length)

/-- The poison mask bit of payload unit u (R348): elements of 8 bytes share units of 16. -/
def maskBits (l : List Nat) (esize n : Nat) : Nat :=
  maskOf ((List.range ((n * esize + 15) / 16)).filter fun u => l.any fun i => i < n && (i * esize / 16 == u || (i * esize + esize - 1) / 16 == u))

/-- The elements of a payload that a mask poisons. -/
def maskElems (mask esize n : Nat) : List Nat :=
  (List.range n).filter fun i => bitOf mask (i * esize / 16) || bitOf mask ((i * esize + esize - 1) / 16)

/-! ## Ending -/

/-- The done bell of a command rings with count 1 (R393). -/
def State.doneBell (s : State) (c : Coll) : State := s.ringName (s.gwinPen (c.w % 16)) (gcDone c.cmd) 1 false

/-- The collective ends with GC_DONE; where the done bell has not rung for its last chunk it rings after the record (R393, R397). -/
def State.collDone (s : State) (g : Nat) (c : Coll) : State :=
  let rung := gcMoves (gcOp c.cmd) && (gcEager c.cmd || gcChunkBell c.cmd) && (gcOp c.cmd != 3 || gcRank c.cmd == (s.gdesc g).rank)
  let s1 := s.endColl g 0 0 0xFFFF noChunk
  if rung then s1 else s1.doneBell c

/-- Is everything of the collective done at this member: chunks landed, confirmed and counted, the step verdict in (R386, R387, R393, R395)? -/
def Coll.finished (c : Coll) (d : GDesc) : Bool :=
  let op := gcOp c.cmd
  let all := fun (f : Chunk → Bool) => (List.range (chunkCount d c.cmd)).all fun k => f (c.chunk k)
  c.done && match op with
    | 1 => c.stepFrom.contains 3
    | 2 => all (fun x => x.releaseIn && x.counted)
    | 3 => all (·.landed) && c.stepFrom.contains 3
    | 4 => all (fun x => x.releaseIn && x.counted) && c.stepFrom.contains 3
    | _ => true

def State.tryComplete (s : State) (g : Nat) : State :=
  match (s.group g).coll with
  | some c => if c.finished (s.gdesc g) then s.collDone g c else s
  | none => s

/-! ## Up (R387, R390, R391) -/

/-- The contributors an element needs at this member: itself and its children; for a BCAST whoever brings it. -/
def needs (d : GDesc) (cmd : List Byte) (t : Nat) : List Nat := if gcOp cmd = 2 then [] else 0 :: (d.children t).map (·.1)

/-- Is element i of a chunk complete here? -/
def Chunk.complete (x : Chunk) (need : List Nat) (i : Nat) : Bool :=
  if need.isEmpty then [0, 1, 2].any fun q => x.from_.contains (4 * i + q) else need.all fun q => x.from_.contains (4 * i + q)

/-- One element from contributor q joins: the chunk, and whether the sum was clamped. -/
def Chunk.add (x : Chunk) (etype kind i q : Nat) (b : List Byte) (bad : Bool) : Chunk × Bool :=
  if x.from_.contains (4 * i + q) then (x, false)
  else
    let old := Tab.get [] x.parts i
    let r := if old.isEmpty then (b, false) else combine etype kind old b
    ({ x with parts := Tab.set [] x.parts i r.1, mask := if bad && !x.mask.contains i then x.mask ++ [i] else x.mask,
              from_ := x.from_ ++ [4 * i + q] }, r.2)

/-- Elements from i0 on of a chunk join from contributor q. -/
def Coll.addRun (c : Coll) (k i0 q : Nat) (data : List Byte) (bad : List Nat) : Coll :=
  let e := cmdElem c.cmd
  let r := (List.range (data.length / e)).foldl (fun (a : Chunk × Nat) i =>
    let z := a.1.add (gcElem c.cmd) (gcCombine c.cmd) (i0 + i) q (fieldBytes data (e * i) e) (bad.contains i)
    (z.1, a.2 + z.2.toNat)) (c.chunk k, 0)
  { c.setChunk k r.1 with sats := c.sats + r.2 }

/-- The runs of consecutive numbers of an ascending list, each of at most n numbers. -/
def runsOf (n : Nat) (l : List Nat) : List (Nat × Nat) :=
  (l.foldl (fun (a : List (Nat × Nat)) i => match a with
    | (b, m) :: t => if b + m = i ∧ m < n then (b, m + 1) :: t else (i, 1) :: (b, m) :: t
    | [] => [(i, 1)]) []).reverse

/-- Elements of a chunk that are complete and have not gone up go to the parent, at most 224 bytes a packet. -/
def State.sendUp (s : State) (g k : Nat) : State :=
  match (s.group g).coll with
  | none => s
  | some c =>
    let d := s.gdesc g
    let t := k % 2
    let x := c.chunk k
    let e := cmdElem c.cmd
    let rdy := (List.range (chunkElems d c.cmd k)).filter fun i => x.complete (needs d c.cmd t) i && !x.from_.contains (4 * i + 3)
    if d.root t ∨ (gcOp c.cmd = 2 ∧ (x.begun = true ∨ x.landed = true)) then s
    else
      let s1 := s.setColl g (c.setChunk k { x with from_ := x.from_ ++ rdy.map (4 * · + 3) })
      (runsOf (224 / e) rdy).foldl (fun u r =>
        let data := (List.range r.2).flatMap fun i => Tab.get [] x.parts (r.1 + i)
        let bad := maskBits (((List.range r.2).filter fun i => x.mask.contains (r.1 + i))) e r.2
        u.emit (some d.pen) (u.collPacket d g (d.parent t) k t 0 (r.1 * e) (u.get (GRP_QCTL.number (u.homeOf g) g)) (gcElem c.cmd)
          (gcX c.cmd) data bad)) s1

/-- A control packet of the running collective goes to a member (R400). -/
def State.sendColl (s : State) (g rank chunk phase : Nat) (payload : List Byte) (etype : Nat) : State :=
  let d := s.gdesc g
  s.emit (some d.pen) (s.collPacket d g rank chunk (if chunk = 0xFFFFFFFF then 0 else chunk % 2) phase 0
    (s.get (GRP_QCTL.number (s.homeOf g) g)) etype 0 payload 0)

/-- A packet without payload goes to every child in a chunk's tree. -/
def State.tellChildren (s : State) (g chunk phase : Nat) : State :=
  let d := s.gdesc g
  (d.children (if chunk = 0xFFFFFFFF then 0 else chunk % 2)).foldl (fun t c => t.sendColl g c.2 chunk phase [] 0) s

/-- Does the operation compare steps (R387)? -/
def comparesStep (op : Nat) : Bool := op == 1 || op == 3 || op == 4

/-- Have all elements of tree 0 gone up? -/
def Coll.upDone (c : Coll) (d : GDesc) : Bool :=
  (List.range (chunkCount d c.cmd)).all fun k => k % 2 == 1 ||
    (List.range (chunkElems d c.cmd k)).all fun i => (c.chunk k).from_.contains (4 * i + 3)

/-- The step pair goes up once this member's last elements on tree 0 have and its children's pairs are in; at the root of tree 0 it is the
verdict: GC_STEP, or RELEASE with the chunk field all ones (log entry 25). -/
def State.stepUp (s : State) (g : Nat) : State :=
  match (s.group g).coll with
  | none => s
  | some c =>
    let d := s.gdesc g
    let need := 0 :: (d.children 0).map (·.1)
    if !comparesStep (gcOp c.cmd) || c.stepSent || !need.all c.stepFrom.contains || !(d.root 0 || c.upDone d) then s
    else
      let s1 := s.setColl g { c with stepSent := true }
      if !d.root 0 then s1.sendColl g (d.parent 0) 0xFFFFFFFF 0 (leBytes 8 c.minStep ++ leBytes 8 c.maxStep) (gcElem c.cmd)
      else if c.minStep ≠ c.maxStep then s1.failColl g 5 0 d.rank
      else (s1.setColl g { c with stepSent := true, stepFrom := c.stepFrom ++ [3] }).tellChildren g 0xFFFFFFFF 3

/-- A step pair joins from contributor q. -/
def Coll.addStep (c : Coll) (q lo hi : Nat) : Coll :=
  if c.stepFrom.contains q then c
  else { c with minStep := if c.stepFrom.isEmpty then lo else min c.minStep lo, maxStep := max c.maxStep hi, stepFrom := c.stepFrom ++ [q] }

/-! ## Down, confirmation, release (R392 to R395, R401) -/

/-- The group's engine may read or write the n bytes at a global address for its pen (R12, R13, R411, R442). -/
def State.groupReach (s : State) (d : GDesc) (g n : Nat) : Bool := s.ownPackage g && s.penReach (some d.pen) (localOf g) n

/-- The engine's own access goes to an address it may not reach: R13 makes it a fault, and no code of R398 names it. It ends the collective as an
answer ADDR to its traffic would (DESIGN CHOICE, log entry 117). -/
def State.collAddr (s : State) (g : Nat) : State := s.failColl g 8 3 (s.gdesc g).rank

/-- Elements from i0 on of a chunk land at the destination, poisoned ones poisoned (R270, R391). -/
def State.landRun (s : State) (g : Nat) (d : GDesc) (c : Coll) (k i0 : Nat) (data : List Byte) (bad : List Nat) : State :=
  let e := cmdElem c.cmd
  let a := gcDst c.cmd + k * d.size + i0 * e
  let n := data.length / e
  let x := c.chunk k
  if !s.lands d c k then s.setColl g (c.setChunk k { x with begun := true })
  else if !s.groupReach d a data.length then s.collAddr g
  else
    let s1 := s.putPieces (grpVia (s.homeOf g) (some d.pen)) false .write
      (pieceRun (localOf a) ((List.range n).map fun i => (fieldBytes data (e * i) e, bad.contains i)))
    s1.setColl g { c.setChunk k { x with begun := true, bad := x.bad ++ bad.map (i0 + ·) } with poisons := c.poisons + bad.length }

/-- Do elements i and j of a run of e-byte elements from address a share a codeword? -/
def sharesCodeword (a e i j : Nat) : Bool := decide ((a + e * i) / 16 ≤ (a + e * j + e - 1) / 16) && decide ((a + e * j) / 16 ≤ (a + e * i + e - 1) / 16)

/-- This member's digest and poison count of a chunk over the bytes as they landed (R392). An element that came clean and only shares a codeword
with one that came poisoned counts as it came: R391 lets poison end no collective. -/
def State.landedDigest (s : State) (g : Nat) (d : GDesc) (c : Coll) (k : Nat) : U128 × Nat :=
  let e := cmdElem c.cmd
  let n := chunkElems d c.cmd k
  let a := localOf (gcDst c.cmd) + k * d.size
  let came := (c.chunk k).bad
  chunkDigest g (gcElem c.cmd) (k * d.size / e) n (s.read a (n * e)) ((List.range n).filter fun i =>
    came.contains i || (s.readBad (a + e * i) e && !came.any (sharesCodeword a e i)))

/-- A chunk is counted toward the done bell (R393): once per chunk with chunk_bell; else, in eager release, with the last one. -/
def State.countChunk (s : State) (g k : Nat) : State :=
  match (s.group g).coll with
  | none => s
  | some c =>
    if (c.chunk k).counted then s
    else
      let c1 := c.setChunk k { c.chunk k with counted := true }
      let s1 := s.setColl g c1
      let last := (List.range (chunkCount (s.gdesc g) c.cmd)).all fun i => (c1.chunk i).counted
      if gcChunkBell c.cmd || (gcEager c.cmd && last) then s1.doneBell c1 else s1

/-- The pieces of a chunk in DOWN packets: offset, elements, bytes. -/
def downRuns (d : GDesc) (cmd : List Byte) (k : Nat) : List (Nat × Nat) := runsOf (224 / cmdElem cmd) (List.range (chunkElems d cmd k))

/-- A chunk goes down from the tree root: pieces, the last with digest and poison count (R392, R400). -/
def State.sendDown (s : State) (g k : Nat) : State :=
  match (s.group g).coll with
  | none => s
  | some c =>
    let d := s.gdesc g
    let x := c.chunk k
    let e := cmdElem c.cmd
    let n := chunkElems d c.cmd k
    (d.children (k % 2)).foldl (fun t ch => (downRuns d c.cmd k).foldl (fun u r =>
      let data := (List.range r.2).flatMap fun i => Tab.get [] x.parts (r.1 + i)
      let bad := maskBits ((List.range r.2).filter fun i => x.mask.contains (r.1 + i)) e r.2
      let tail := if r.1 + r.2 = n then leBytes 16 x.digest.toNat ++ leBytes 4 x.poisons else []
      u.emit (some d.pen) (u.collPacket d g ch.2 k (k % 2) 1 (r.1 * e) (u.get (GRP_QCTL.number (u.homeOf g) g)) (gcElem c.cmd)
        (gcX c.cmd) (data ++ tail) bad)) t) s

/-- CONFIRM goes up when this member's landing is checked and every child's CONFIRM is in; the result says that this is the tree root and every
CONFIRM is in. -/
def State.confirmUp (s : State) (g k : Nat) : State × Bool :=
  match (s.group g).coll with
  | none => (s, false)
  | some c =>
    let d := s.gdesc g
    let x := c.chunk k
    if !x.landed || x.confirmSent || !((d.children (k % 2)).map (·.1)).all x.confirms.contains then (s, false)
    else
      let s1 := s.setColl g (c.setChunk k { x with confirmSent := true })
      if d.root (k % 2) then (s1, true) else (s1.sendColl g (d.parent (k % 2)) k 2 (leBytes 1 x.mismatch.toNat) 0, false)

/-- All bytes of a chunk have landed here: the comparison with the root's digest, the chunk map, eager release; a REDUCE is released by its
root (R393, R395, R401). -/
def State.checkLanded (s : State) (g k : Nat) : State :=
  match (s.group g).coll with
  | none => s
  | some c =>
    let d := s.gdesc g
    let x := c.chunk k
    let mine := s.landedDigest g d c k
    let lands := s.lands d c k
    let bad := lands && gcOp c.cmd != 3 && !(mine.1 == x.digest && mine.2 == x.poisons)
    let s1 := s.setColl g (c.setChunk k { x with landed := true, mismatch := x.mismatch || bad })
    let s2 := if lands then s1.mapChunk c.cmd c.w k (if bad then 2 else 1) else s1
    if gcOp c.cmd = 3 then (if gcRank c.cmd = d.rank then s2.countChunk g k else s2)
    else if gcEager c.cmd then s2.countChunk g k else s2

/-- The tree root sends a complete chunk down and lands it itself. Poison goes by units of 16 bytes from here on, as the packets carry it (R348,
R391). -/
def State.rootDown (s : State) (g k : Nat) : State :=
  match (s.group g).coll with
  | none => s
  | some c =>
    let d := s.gdesc g
    let x := c.chunk k
    let e := cmdElem c.cmd
    let n := chunkElems d c.cmd k
    let data := (List.range n).flatMap fun i => Tab.get [] x.parts i
    let mask := maskElems (maskBits x.mask e n) e n
    let dg := chunkDigest g (gcElem c.cmd) (k * d.size / e) n data mask
    let c1 := c.setChunk k { x with digest := dg.1, poisons := dg.2, mask := mask, bad := [] }
    let s1 := ((s.setColl g c1).sendDown g k).landRun g d c1 k 0 data mask
    s1.checkLanded g k

/-- Every CONFIRM of a chunk is in at its tree root (R393 to R395): RELEASE; or, on a mismatch, a first REJECT with the chunk sent again in
guarded release, else GC_DIGEST. -/
def State.decideChunk (s : State) (g k : Nat) : State :=
  match (s.group g).coll with
  | none => s
  | some c =>
    let d := s.gdesc g
    let x := c.chunk k
    if !x.mismatch then
      (((s.setColl g (c.setChunk k { x with releaseIn := true })).tellChildren g k 3)).countChunk g k
    else if gcEager c.cmd || decide (0 < x.rejects) then s.failColl g 6 0 d.rank
    else
      let s1 := s.setColl g (c.setChunk k { x with rejects := 1, landed := false, confirms := [], mismatch := false, confirmSent := false })
      let s2 := (s1.inc (GRP_CNT.rejects (s.homeOf g) d.pen) 1).tellChildren g k 4
      let r := (s2.rootDown g k).confirmUp g k
      if r.2 then
        match (r.1.group g).coll with
        | some c2 => if (c2.chunk k).mismatch then r.1.failColl g 6 0 d.rank
          else (((r.1.setColl g (c2.setChunk k { c2.chunk k with releaseIn := true })).tellChildren g k 3)).countChunk g k
        | none => r.1
      else r.1

/-- Confirmation as far as it can go (R393); a REDUCE has none. -/
def State.confirm (s : State) (g k : Nat) : State :=
  match (s.group g).coll with
  | none => s
  | some c =>
    if gcOp c.cmd = 3 then s
    else
      let r := s.confirmUp g k
      if r.2 then r.1.decideChunk g k else r.1

/-- A chunk's progress after contributions: up, or at the tree root down once every element is complete. -/
def State.chunkUp (s : State) (g k : Nat) : State :=
  match (s.group g).coll with
  | none => s
  | some c =>
    let d := s.gdesc g
    let x := c.chunk k
    if d.root (k % 2) then
      if x.begun || x.landed || !(List.range (chunkElems d c.cmd k)).all (x.complete (needs d c.cmd (k % 2))) then s
      else (s.rootDown g k).confirm g k
    else s.sendUp g k

/-! ## Starting (R388, R389) -/

/-- The first command of a group's queue leaves it and runs (R388). -/
def State.collBegin (s : State) (g w : Nat) (cmd : List Byte) : State :=
  let r := s.group g
  let p := (s.gdesc g).pen
  let c : Coll := { cmd := cmd, w := w, step := BitVec.ofNat 64 (s.get (LDG_STEP.step p)), chunks := [], minStep := 0, maxStep := 0,
                    stepFrom := [], stepSent := false, sats := 0, poisons := 0, done := false }
  let s1 := s.setGroup g { r with queue := r.queue.drop 1, gated := false, coll := some c, status := if gcOp cmd = 2 then [] else r.status }
  (s1.showGroup g).releaseWindows

/-- The gate bell of a command passes: a bell of the group's home die with a count and no error (R389). -/
def State.gatePasses (s : State) (g b : Nat) : Bool :=
  let k := 4 + s.homeOf g
  !s.flag (BEL_VAL.err k b) && decide (1 ≤ s.get (BEL_VAL.count k b))

def State.gateTake (s : State) (g b : Nat) : State :=
  let k := 4 + s.homeOf g
  s.set (BEL_VAL.count k b) (s.get (BEL_VAL.count k b) - 1)

/-- A queued command that fails its checks leaves the queue (R388). -/
def State.collRefuse (s : State) (g w : Nat) (cmd : List Byte) (status : Nat) : State :=
  let r := s.group g
  ((s.setGroup g { r with queue := r.queue.drop 1, gated := false }).showGroup g).releaseWindows.failQueued g w cmd status

/-- Does the operation name a rank (R385)? One outside the group is taken as a bad field (log entry 41). -/
def rankNamed (op : Nat) : Bool := op == 2 || op == 3 || op == 5

/-- The next queued command of a group is checked and starts, or waits on its gate. -/
def State.collStart (s : State) (g w : Nat) (cmd : List Byte) : State :=
  if gcBad cmd then s.collRefuse g w cmd 1
  else if w / 16 ≠ s.homeOf g ∨ s.groupUsable (s.gdesc g) (s.gwinPen (w % 16)) = false then s.collRefuse g w cmd 2
  else if rankNamed (gcOp cmd) = true ∧ (s.gdesc g).n ≤ gcRank cmd then s.collRefuse g w cmd 1
  else match gcGate cmd with
    | none => s.collBegin g w cmd
    | some b =>
      if s.gatePasses g b then (s.gateTake g b).collBegin g w cmd
      else s.setGroup g { s.group g with gated := true }

/-- Is the group gated by a freeze of its pen (R498)? -/
def State.groupLive (s : State) (g : Nat) : Bool := !s.penFrozen (s.gdesc g).pen

/-! ## This member's own part -/

/-- Elements of a chunk from this member's source, with those that are poisoned. -/
def State.ownChunk (s : State) (d : GDesc) (c : Coll) (k : Nat) : List Byte × List Nat :=
  let e := cmdElem c.cmd
  let n := chunkElems d c.cmd k
  let a := localOf (gcSrc c.cmd) + k * d.size
  (s.read a (n * e), (List.range n).filter fun i => s.readBad (a + e * i) e)

/-- Does this member bring data: every member of a REDUCE or ALLREDUCE, the root of a BCAST? -/
def brings (d : GDesc) (cmd : List Byte) : Bool := gcOp cmd != 2 || gcRank cmd == d.rank

/-- This member's elements of a chunk join. -/
def State.contribute (s : State) (g k : Nat) : State :=
  match (s.group g).coll with
  | none => s
  | some c =>
    let d := s.gdesc g
    if !brings d c.cmd then s
    else if !s.groupReach d (gcSrc c.cmd + k * d.size) (chunkLen d c.cmd k) then s.collAddr g
    else
      let r := s.ownChunk d c k
      let s1 := s.countRead (grpVia (s.homeOf g) (some d.pen)) (localOf (gcSrc c.cmd) + k * d.size) (chunkLen d c.cmd k)
      (s1.setColl g (c.addRun k 0 0 r.1 r.2)).chunkUp g k

/-! ## Packets of a running collective -/

/-- The child that a packet comes from, by its contributor number. -/
def State.childOf (s : State) (d : GDesc) (t : Nat) (k : Packet) : Option Nat :=
  ((d.children t).find? fun c => s.memberAt d c.2 == k.src.toNat).map (·.1)

/-- The fields of a COLL packet (R400). -/
abbrev cpChunk (k : Packet) : Nat := bitsOf k.wordA.toNat 0 32
abbrev cpTree (k : Packet) : Nat := bitsOf k.wordA.toNat 32 1
abbrev cpPhase (k : Packet) : Nat := bitsOf k.wordA.toNat 33 3
abbrev cpOff (k : Packet) : Nat := bitsOf k.wordA.toNat 40 24
abbrev cpNumber (k : Packet) : Nat := bitsOf k.wordB.toNat 0 32
abbrev cpEtype (k : Packet) : Nat := bitsOf k.wordB.toNat 32 8
abbrev cpX (k : Packet) : Nat := bitsOf k.wordB.toNat 40 16

/-- UP (R387, R390). -/
def State.collUp (s : State) (g : Nat) (c : Coll) (k : Packet) : State :=
  let d := s.gdesc g
  match s.childOf d (cpTree k) k with
  | none => s
  | some q =>
    if cpChunk k = 0xFFFFFFFF then
      ((s.setColl g (c.addStep q (fieldNat k.payload 0 8) (fieldNat k.payload 8 8))).stepUp g).tryComplete g
    else if cpEtype k ≠ gcElem c.cmd ∨ ((etypeBits (cpEtype k)).isSome = true ∧ cpX k ≠ gcX c.cmd) then s.failColl g 3 0 d.rank
    else
      let e := cmdElem c.cmd
      let bad := maskElems k.mask.toNat e (k.payload.length / e)
      (((s.setColl g (c.addRun (cpChunk k) (cpOff k / e) q k.payload bad)).chunkUp g (cpChunk k)).stepUp g).tryComplete g

/-- DOWN (R392): lands, is forwarded; the last piece carries the root's digest. -/
def State.collDown (s : State) (g : Nat) (c : Coll) (k : Packet) : State :=
  let d := s.gdesc g
  let e := cmdElem c.cmd
  let ch := cpChunk k
  let len := chunkLen d c.cmd ch
  let last := cpOff k + k.payload.length == len + 20
  let data := if last then k.payload.take (k.payload.length - 20) else k.payload
  let bad := maskElems k.mask.toNat e (data.length / e)
  let s1 := (d.children (ch % 2)).foldl (fun t x =>
    t.emit (some d.pen) { k with dst := BitVec.ofNat 16 (t.memberAt d x.2), src := BitVec.ofNat 16 t.package, hops := 0 }) s
  let s2 := s1.landRun g d c ch (cpOff k / e) data bad
  if !last then s2
  else
    match (s2.group g).coll with
    | none => s2
    | some c2 =>
      let x := c2.chunk ch
      let tail := k.payload.drop (k.payload.length - 20)
      let s3 := s2.setColl g (c2.setChunk ch { x with digest := BitVec.ofNat 128 (fieldNat tail 0 16), poisons := fieldNat tail 16 4 })
      (((s3.checkLanded g ch).confirm g ch).stepUp g).tryComplete g

/-- CONFIRM (R393). -/
def State.collConfirm (s : State) (g : Nat) (c : Coll) (k : Packet) : State :=
  let d := s.gdesc g
  match s.childOf d (cpTree k) k with
  | none => s
  | some q =>
    let x := c.chunk (cpChunk k)
    let m := fieldNat k.payload 0 1 != 0
    ((s.setColl g (c.setChunk (cpChunk k) { x with confirms := if x.confirms.contains q then x.confirms else x.confirms ++ [q],
                                                   mismatch := x.mismatch || m })).confirm g (cpChunk k)).tryComplete g

/-- RELEASE (R393, R394), or with the chunk field all ones the step verdict (log entry 25). -/
def State.collRelease (s : State) (g : Nat) (c : Coll) (k : Packet) : State :=
  if cpChunk k = 0xFFFFFFFF then
    ((s.setColl g { c with stepFrom := if c.stepFrom.contains 3 then c.stepFrom else c.stepFrom ++ [3] }).tellChildren g 0xFFFFFFFF 3).tryComplete g
  else
    let x := c.chunk (cpChunk k)
    (((s.setColl g (c.setChunk (cpChunk k) { x with releaseIn := true })).tellChildren g (cpChunk k) 3).countChunk g (cpChunk k)).tryComplete g

/-- REJECT (R394): the chunk comes again and is confirmed again; a second one ends the collective. -/
def State.collReject (s : State) (g : Nat) (c : Coll) (k : Packet) : State :=
  let d := s.gdesc g
  let x := c.chunk (cpChunk k)
  let s1 := (s.inc (GRP_CNT.rejects (s.homeOf g) d.pen) 1).tellChildren g (cpChunk k) 4
  if gcEager c.cmd || decide (0 < x.rejects) then s1.failColl g 6 0 d.rank
  else s1.setColl g (c.setChunk (cpChunk k) { x with rejects := 1, landed := false, begun := false, bad := [], confirms := [], mismatch := false,
                                                     confirmSent := false })

/-- ERROR (R396): the reporting rank and the first failing chunk are those of the record it brings (R397). -/
def State.collError (s : State) (g : Nat) (k : Packet) : State := s.failColl g 9 0 (fieldNat k.payload 2 2) (fieldNat k.payload 8 4)

/-- A packet of the running collective acts. -/
def State.collAct (s : State) (g : Nat) (c : Coll) (k : Packet) : State :=
  match cpPhase k with
  | 0 => s.collUp g c k
  | 1 => s.collDown g c k
  | 2 => s.collConfirm g c k
  | 3 => s.collRelease g c k
  | 4 => s.collReject g c k
  | 5 => s.collError g k
  | _ => s

/-- A packet is buffered until its collective runs (R388). -/
def State.keepEarly (s : State) (g n : Nat) (k : Packet) : State := s.setGroup g { s.group g with early := (s.group g).early ++ [(n, k)] }

/-- A packet for a usable group (R388, R396, R401): a STATUS is kept; one of a collective that ended here in error is discarded; one of
the running collective acts; one of the current or next collective is buffered; any other ends the running one with GC_SEQ. -/
def State.collIn (s : State) (g n : Nat) (k : Packet) : State :=
  let r := s.group g
  let cur := s.get (GRP_QCTL.number (s.homeOf g) g)
  if cpPhase k = 6 then s.setGroup g { r with status := r.status ++ [(k.src.toNat, k.payload)] }
  else if r.failed.contains (cpNumber k) then s
  else if cpNumber k = cur then
    match r.coll with
    | some c => if c.done && s.groupLive g then s.collAct g c k else s.keepEarly g n k
    | none => s.keepEarly g n k
  else if cpNumber k = (cur + 1) % 2 ^ 32 then s.keepEarly g n k
  else match r.coll with
    | some _ => s.failColl g 4 0 (s.gdesc g).rank
    | none => s

/-- A COLL packet arrives for this package on port n (R383): for a group unusable to the port's pen it is discarded and counted. -/
def State.collArrive (s : State) (n : Nat) (k : Packet) : State :=
  let g := k.group.toNat
  let p := s.portPen n
  if s.groupUsable (s.gdesc g) p then s.collIn g n k
  else match p with
    | some p => s.inc (GRP_CNT.discard (s.homeOf g) p) 1
    | none => s

/-- The buffered packets of the collective that runs now act, in arrival order. -/
def State.replay (s : State) (g : Nat) : State :=
  let cur := s.get (GRP_QCTL.number (s.homeOf g) g)
  let l := (s.group g).early.filter fun e => cpNumber e.2 == cur
  let s1 := s.setGroup g { s.group g with early := (s.group g).early.filter fun e => cpNumber e.2 != cur }
  l.foldl (fun t e =>
    if t.get (GRP_QCTL.number (t.homeOf g) g) = cur then
      match (t.group g).coll with
      | some c => t.collAct g c e.2
      | none => t
    else t) s1

/-- The running collective of an operation does this member's part (R386). -/
def State.ownPart (s : State) (g op : Nat) : Option State :=
  match (s.group g).coll with
  | none => none
  | some c =>
    if gcOp c.cmd ≠ op ∨ c.done = true ∨ s.groupLive g = false then none
    else
      let d := s.gdesc g
      let c1 := if comparesStep op then { c with done := true }.addStep 0 c.step.toNat c.step.toNat else { c with done := true }
      let s1 := (List.range (chunkCount d c.cmd)).foldl (fun t k => t.contribute g k) (s.setColl g c1)
      some (((s1.stepUp g).replay g).tryComplete g)

/-! ## Messages (R399) -/

/-- A message entry of 64 bytes. -/
def messageEntry (package rank flags seq : Nat) (payload : List Byte) : List Byte :=
  leBytes 2 package ++ leBytes 2 rank ++ leBytes 2 flags ++ leBytes 2 0 ++ leBytes 8 seq ++ (List.range 48).map fun i => payload.getD i 0

/-- An entry is appended to the message ring of a group and its arrival bell rung, or discarded when the ring is full. -/
def State.appendMessage (s : State) (g : Nat) (package rank seq : Nat) (payload : List Byte) (poison : Bool) : State :=
  let d := s.gdesc g
  let a := localOf d.ring
  let n := 2 ^ d.ringLog
  let head := s.readNat a 8
  let tail := s.readNat (a + 8) 8
  let p := some d.pen
  let v := grpVia (s.homeOf g) p
  if n ≤ (head + 2 ^ 64 - tail) % 2 ^ 64 then
    (s.localWrite v (a + 16) (leBytes 4 ((s.readNat (a + 16) 4 + 1) % 2 ^ 32)) false).setGroup g
      { s.group g with lostNext := true }
  else
    let flags := (s.group g).lostNext.toNat + 2 * poison.toNat
    let s1 := s.localWrite v (a + 64 + 64 * (head % n)) (messageEntry package rank flags seq payload) false
    let s2 := s1.localWrite v a (leBytes 8 ((head + 1) % 2 ^ 64)) false
    (s2.setGroup g { s2.group g with lostNext := false }).ringName p d.arrival 1 false

/-- A GRPQ packet arrives for this package on port n. -/
def State.grpqArrive (s : State) (n : Nat) (k : Packet) : State :=
  let g := k.group.toNat
  let p := s.portPen n
  if s.groupUsable (s.gdesc g) p then
    s.appendMessage g k.src.toNat (bitsOf k.wordB.toNat 0 16) k.wordA.toNat k.payload (k.mask != 0)
  else match p with
    | some p => s.inc (GRP_CNT.discard (s.homeOf g) p) 1
    | none => s

/-- SEND (R399): one message to a rank; on this package it is appended here. It completes when its packet has left the port; one that is
discarded before never does, and its SEND stays until a void step ends it (log entry 116). -/
def State.sendMessage (s : State) (g : Nat) : Option State :=
  match (s.group g).coll with
  | none => none
  | some c =>
    if gcOp c.cmd ≠ 5 ∨ c.done = true ∨ s.groupLive g = false then none
    else
      let d := s.gdesc g
      let seq := (s.group g).sends
      let dst := s.memberAt d (gcRank c.cmd)
      let s1 := s.setGroup g { s.group g with sends := seq + 1, coll := some { c with done := true } }
      let body := fieldBytes c.cmd 80 48
      some (if dst = s.package then (s1.appendMessage g s.package d.rank seq body false).messageLeft g
        else s1.emit (some d.pen)
          { ptype := .grpq, exped := false, hops := 0, dst := BitVec.ofNat 16 dst, src := BitVec.ofNat 16 s.package,
            group := BitVec.ofNat 12 g, mask := 0, tag := BitVec.ofNat 32 groupTag, wordA := BitVec.ofNat 64 seq, wordB := BitVec.ofNat 64 d.rank,
            payload := body })

/-! ## The rows -/

/-- GRP_CMD_POST (R384): the write that posts a window's command: its last 8 bytes. -/
def execGrpCmdPost (src : Source) (f : Fin 2) (w : Fin 9) (last : U64) (s : State) : Host.Outcome State Fault Refusal :=
  if s.awake then .next (s.gwinWrite src f.val w.val 120 (leBytes 8 last.toNat)) else s.notDue

/-- COLL_START (R388). -/
def execCollStart (g : BitVec 12) (s : State) : Host.Outcome State Fault Refusal :=
  s.yardStep fun s =>
    let r := s.group g.toNat
    match r.queue with
    | (w, cmd) :: _ =>
      if r.coll.isNone && !r.gated && s.groupLive g.toNat then .next (s.collStart g.toNat w cmd) else s.notDue
    | [] => s.notDue

/-- COLL_GATE_PASS (R389). -/
def execCollGatePass (g : BitVec 12) (s : State) : Host.Outcome State Fault Refusal :=
  s.yardStep fun s =>
    let r := s.group g.toNat
    match r.queue with
    | (w, cmd) :: _ =>
      match gcGate cmd with
      | some b =>
        if r.gated && s.gatePasses g.toNat b && s.groupLive g.toNat then .next ((s.gateTake g.toNat b).collBegin g.toNat w cmd) else s.notDue
      | none => s.notDue
    | [] => s.notDue

/-- BARRIER, BCAST, REDUCE, ALLREDUCE, SEND (R386). -/
def State.collRow (s : State) (g op : Nat) : Host.Outcome State Fault Refusal :=
  s.yardStep fun s =>
    match s.ownPart g op with
    | some t => .next t
    | none => s.notDue

def execBarrier (g : BitVec 12) (s : State) : Host.Outcome State Fault Refusal := s.collRow g.toNat 1
def execCollBcast (g : BitVec 12) (s : State) : Host.Outcome State Fault Refusal := s.collRow g.toNat 2
def execCollReduce (g : BitVec 12) (s : State) : Host.Outcome State Fault Refusal := s.collRow g.toNat 3
def execAllreduce (g : BitVec 12) (s : State) : Host.Outcome State Fault Refusal := s.collRow g.toNat 4
def execSend (g : BitVec 12) (s : State) : Host.Outcome State Fault Refusal :=
  s.yardStep fun s =>
    match s.sendMessage g.toNat with
    | some t => .next t
    | none => s.notDue

/-- GC_TIMEOUT (R396, R401): tmo_us have passed without an expected packet; the record of a BCAST goes straight to the root's package. -/
def execGcTimeout (g : BitVec 12) (s : State) : Host.Outcome State Fault Refusal :=
  s.yardStep fun s =>
    match (s.group g.toNat).coll with
    | some c =>
      if c.done && gcOp c.cmd != 5 && s.groupLive g.toNat then
        let d := s.gdesc g.toNat
        let number := s.get (GRP_QCTL.number (s.homeOf g.toNat) g.toNat)
        let rec_ := c.record 7 0 d.rank noChunk
        let s1 := if gcOp c.cmd = 2 ∧ gcRank c.cmd ≠ d.rank then
            s.emit (some d.pen) (s.collPacket d g.toNat (gcRank c.cmd) 0 0 6 0 number 0 0 rec_ 0)
          else s
        .next (s1.failColl g.toNat 7 0 d.rank)
      else s.notDue
    | none => s.notDue

end Sys2Proof.Machine
end

