-- ==== Sys2Proof/Machine/Reset.lean ====
section
/-!
DEFINITION. Reset.lean: the reset classes and what each clears (R505, R506, R502, R512).
-/

namespace Sys2Proof.Machine

/-! ## Clearing registers and memory -/

/-- Registers at addresses [lo, hi) go to their reset values, but for the field keys that `keep` names. -/
def State.dropRegs (s : State) (lo hi : Nat) (keep : Nat → Bool) : State :=
  { s with regs := s.regs.filter fun e => !(decide (8 * lo ≤ e.1) && decide (e.1 < 8 * hi)) || keep e.1 }

/-- Memory at storage addresses [lo, hi) is written to zero with valid check bits (R506). -/
def Memory.clearRange (m : Memory) (lo hi : Nat) : Memory :=
  { cells := m.cells.filter fun c => !(decide (lo ≤ c.1) && decide (c.1 < hi)),
    marks := m.marks.filter fun c => !(decide (lo ≤ 8 * c.1) && decide (8 * c.1 < hi)) }

def State.clearMem (s : State) (lo hi : Nat) : State := { s with mem := s.mem.clearRange lo hi }

/-- Does a list of fields hold the key? -/
def keyIn (l : List Fld) (k : Nat) : Bool := l.any fun f => f.key == k

/-- The W1C error record of a context, kept by every reset but power-on (R168, R506). -/
def dmaErrFlds (d h : Nat) : List Fld :=
  [SEQ_DMA_ERR.status d h, SEQ_DMA_ERR.detail d h, SEQ_DMA_ERR.rudiment d h, SEQ_DMA_ERR.valid d h, SEQ_DMA_ERRPOS.offset d h]

/-- What a die or pen reset keeps of a context's registers: the layout's region and the error record. -/
def ctxKept (d h : Nat) : List Fld := [SEQ_CTL.region_base d h, SEQ_CTL.region_size d h] ++ dmaErrFlds d h

/-- A context, its registers and its half's clusters are cleared: cores, stalls, lofts, accumulators (R506). -/
def State.clearHalf (s : State) (d h : Nat) : State :=
  let s1 := (s.dropRegs (ctxBlk d h) (ctxBlk d h + 0x1000) (keyIn (ctxKept d h))).setCtx d h Ctx.clear
  let s2 := s1.dropRegs (clusterBlk d (4 * h)) (clusterBlk d (4 * h) + 0x80000)
    (keyIn ((List.range 4).map fun i => CORE_LOFT_ECC.quarantine_pending d (4 * h + i)))
  let s3 := { s2 with
    cores := s2.cores.filter fun e => !(decide (coreIx d (4 * h) 0 ≤ e.1) && decide (e.1 < coreIx d (4 * h) 0 + 64)),
    clusters := s2.clusters.filter fun e => !(decide (8 * d + 4 * h ≤ e.1) && decide (e.1 < 8 * d + 4 * h + 4)) }
  (s3.clearMem (loftBase d (4 * h)) (loftBase d (4 * h) + 0x4000000)).clearMem (stallBase d (4 * h) 0) (stallBase d (4 * h) 0 + 0x8000000)

/-- A die-level freeze leaves half-dies (R502, R493). -/
def State.thaw (s : State) (halves : Nat) : State :=
  let left := s.get FRZ_STAT.halves - (s.get FRZ_STAT.halves &&& halves)
  if s.get FRZ_STAT.state = 1 then
    if left = 0 then (((s.set FRZ_STAT.state 0).set FRZ_STAT.halves 0).set FRZ_STAT.more 0).set FRZ_STAT.resumable 0 else s.set FRZ_STAT.halves left
  else s

/-! ## Die reset -/

/-- PKG_RST.die, one die (R505, R506): refused while a pen that holds a half of it runs. -/
def State.dieReset (s : State) (d : Nat) : State :=
  if (s.diePens d).any s.penRunning then s.set PKG_RST.refused 1
  else
    let s1 := (s.clearHalf d 0).clearHalf d 1
    let s2 := s1.clearMem (storeBase d) (storeBase d + 0x2000000)
    let s3 := (s2.dropRegs (bellBlk d + 0x800) (bellBlk d + 0x10000) fun _ => false)
    let s4 := { s3 with deadDies := s3.deadDies - (s3.deadDies &&& 2 ^ d), dmaLast := Tab.erase s3.dmaLast d }
    s4.thaw (3 * 4 ^ d)

/-! ## Pen reset -/

/-- The half-dies of a pen. -/
def State.penHalves (s : State) (p : Nat) : List (Nat × Nat) :=
  (List.range 8).filterMap fun i => if bitOf (s.get (PEN_INFO.halves p)) i then some (i / 2, i % 2) else none

/-- The cadence store of a pen's half-die: all of it when the pen holds the die, else its context's region (R119, R506). -/
def State.clearStore (s : State) (p d h : Nat) : State :=
  if s.penOfHalf d (1 - h) = some p then s.clearMem (storeBase d) (storeBase d + 0x2000000)
  else
    let lo := storeBase d + s.get (SEQ_CTL.region_base d h) * 65536
    s.clearMem lo (lo + s.get (SEQ_CTL.region_size d h) * 65536)

/-- Is it the key of a count or err of a bell that pen p owns? -/
def State.penBellKey (s : State) (p k : Nat) : Bool :=
  (List.range 6).any fun b =>
    decide (8 * (bellBlk b + 0x8000) ≤ k) && decide (k < 8 * (bellBlk b + 0x8000 + 8 * bellsOf b)) &&
      s.get (BEL_OWN.pen b ((k - 8 * (bellBlk b + 0x8000)) / 64)) == p

/-- A group queue and its collective number are cleared. -/
def State.clearGroup (s : State) (g : Nat) : State :=
  [0, 1].foldl (fun t f => (t.set (GRP_QCTL.depth f g) 0).set (GRP_QCTL.number f g) 0) (s.setGroup g Group.clear)

/-- The pen's group queues, its group windows, its counts (R506). -/
def State.clearPenGroups (s : State) (p : Nat) : State :=
  let mine := (s.groups.map (·.1)).filter fun g => (s.gdesc g).pen == p
  let s1 := mine.foldl State.clearGroup s
  let keys := s1.regs.filterMap fun e =>
    (List.range 2).findSome? fun f =>
      let base := 8 * (grpQBlk f 0 + 0x20)
      if base ≤ e.1 then
        let g := (e.1 - base) / (8 * 0x1000000000000)
        if e.1 = (GRP_QCTL.number f g).key && (s.gdesc g).pen == p then some e.1 else none
      else none
  let s2 := { s1 with regs := s1.regs.filter fun e => !keys.contains e.1 }
  let wins := (List.range 9).filter fun w => s2.gwinPen w == some p
  let s3 := [0, 1].foldl (fun t f =>
    let q := t.gwin f
    t.setGwin f (wins.foldl (fun (q : GroupWindows) w =>
      ⟨Tab.erase q.staged w, Tab.erase q.queue w, Tab.erase q.held w⟩) q)) s2
  s3.clearFlds ((List.range 2).flatMap fun f => [GRP_CNT.done f p, GRP_CNT.errs f p, GRP_CNT.discard f p, GRP_CNT.rejects f p])

/-- The team state and the model's own state of a pen; records lost and a shrink not yet recorded stay. -/
def State.clearPen (s : State) (p : Nat) : State :=
  let r := s.pen p
  let s1 := if r.atBound then s.set FRZ_CTL.req 0 else s
  (s1.setPen p { Pen.clear with lost := r.lost, shrink := r.shrink }).clearFlds
    [LDG_TEAM_STAT.solo_active p, LDG_TEAM_STAT.late p, LDG_STAT.full_hold p]

/-- The checkpoint unit is IDLE, with CK_ROLLBACK if it was not (R506). -/
def State.resetCkp (s : State) (p : Nat) : State := if s.get (CKP_STAT.state p) = 0 then s else s.dropCkp p 7

/-- PKG_RST.pen, one pen (R505, R506): a running pen first takes a pen fault; a die-level freeze of it ends (R502); its shadow share is
taken (R453). -/
def State.penReset (s : State) (p : Nat) : State :=
  let s1 := (s.penFaultIfRunning p).stopYards p
  let s2 := (s1.penHalves p).foldl (fun t x => (t.clearStore p x.1 x.2).clearHalf x.1 x.2) s1
  let s3 := { s2 with regs := s2.regs.filter fun e => !s2.penBellKey p e.1 }
  let s4 := (s3.clearStep p).clearPenGroups p
  let s5 := ((s4.resetCkp p).clearPen p).takeShare p false
  let dead := ((List.range 4).map fun d => if bitOf s5.deadDies d then 3 * 4 ^ d else 0).sum
  let h := s5.get (PEN_INFO.halves p)
  s5.thaw (h - (h &&& dead))

/-! ## Warm and power-on reset -/

/-- The fields a warm reset keeps outside the power block (R506, R273; log entry 43). -/
def warmFlds : List Fld :=
  [CD_TIME.ns, CD_BOOT.prefer, CD_BOOT.rot_refused, PKG_FAULT.code, PKG_FAULT.die, PKG_FAULT.valid, FRZ_STAT.cause, PKG_RST.refused] ++
  (List.range 5).flatMap (fun n => [CD_ETH.fcs_err n, CD_ETH.rx_drop n]) ++
  (List.range 4).flatMap (fun d => (List.range 8).map fun c => CORE_LOFT_ECC.quarantine_pending d c) ++
  (List.range 8).flatMap (fun i => dmaErrFlds (i / 2) (i % 2)) ++
  (List.range 2).flatMap (fun f => [FAB_ERR.reason f, FAB_ERR.pen f, FAB_ERR.package f, FAB_ERR.valid f, GRP_ERR.status f, GRP_ERR.group f,
    GRP_ERR.pen f, GRP_ERR.rank f, GRP_ERR.valid f]) ++
  (List.range 8).flatMap (fun p => [LDG_STAT.lost p, LDG_TEAM_STAT.reason p, LDG_TEAM_STAT.valid p, LDG_TEAM_MM.step p, LDG_TEAM_LOC0.t p,
    LDG_TEAM_LOC1.t p, LDG_TEAM_PAR0.t p, LDG_TEAM_PAR1.t p, CKP_ERR.reason p, CKP_ERR.step p, CKP_ERR.valid p, CKP_STAT.bound_miss p]) ++
  (List.range 8).flatMap fun y => [YRD_STATUS.trained y, YRD_STATUS.fold y, YRD_RETIRE.mask y, YRD_TRFAIL.mask y, YRD_ECC_ADDR.offset y,
    YRD_ECC_ADDR.scrub y, YRD_ECC_ADDR.valid y, YRD_XCH_ERR.status y, YRD_XCH_ERR.window y, YRD_XCH_ERR.valid y, YRD_XCH_NAN.gidx y,
    YRD_ENG_ERR.status y, YRD_ENG_ERR.window y, YRD_ENG_ERR.row y, YRD_ENG_ERR.valid y] ++
    (List.range 64).flatMap fun c => [MCH_STAT.retired y c, MCH_STAT.failed y c, MCH_STAT.donor y c]

/-- Does a warm reset keep the field with this key? Of the power block it resets PWR_CAP (no layout) and the stretch level (R516). -/
def warmKeeps (k : Nat) : Bool :=
  (decide (8 * pwrBlk ≤ k) && decide (k < 8 * (pwrBlk + 0x1000)) && !keyIn [PWR_CAP.cap, PWR_CAP.p_fixed, PWR_STRETCH.level] k) ||
    keyIn warmFlds k

/-- What a yard keeps in a warm reset: its DRAM's refresh state (R506: memory training and contents are kept). -/
def Yard.warm (y : Yard) : Yard := { Yard.clear with blocked := y.blocked, acts := y.acts }

/-- The input is out of range (R512). -/
def Power.badIn (p : Power) : Bool := p.badV || p.badI

/-- A warm reset (R505, R506): start-up goes back to stage 2 (R522). It is refused while the input is out of range (R512);
with the rails off there is nothing to reset. -/
def State.warmReset (s : State) : State :=
  if s.power.badIn || s.stage == .off then s
  else
    let s0 := (List.range 8).foldl State.resetCkp s
    { State.reset with
      regs := s0.regs.filter fun e => warmKeeps e.1,
      mem := s0.mem.clearRange (apertureBase 0) (apertureBase 4),
      yards := (s0.yards.map fun e => (e.1, e.2.warm)).filter fun e => e.2 != Yard.clear,
      ckps := (s0.ckps.map fun e => (e.1, e.2.kept)).filter fun e => e.2 != Ckp.clear,
      rot := s0.rot, ptpSlew := s0.ptpSlew, timeFrac := s0.timeFrac, stage := if s0.stage = .softStart then .softStart else .boot,
      power := { s0.power with lowUs := 0, overUs := 0 },
      pins := { s0.pins with ready := false }, jtag := s0.jtag, fresh := s0.fresh, reply := s0.reply, pending := s0.pending }

/-- What outlives the loss of power: the root of trust (R482, R506), what the file store holds, and the levels on the input pins. -/
def State.powerLost (s : State) : State :=
  { State.reset with
    ckps := (s.ckps.map fun e => (e.1, e.2.kept)).filter fun e => e.2 != Ckp.clear,
    rot := s.rot, power := { State.reset.power with resetLow := s.power.resetLow }, fresh := s.fresh, reply := s.reply,
    pending := s.pending }

/-- The converters are off and every rail falls (R512, R520). -/
def State.railsOff (s : State) : State :=
  let t := s.powerLost
  { t with stage := .off, power := { t.power with on := false } }

/-! ## The rows -/

/-- POWER_ON_RESET (R505, R521): 48 V becoming valid. -/
def execPowerOnReset (s : State) : Host.Outcome State Fault Refusal := .next s.powerLost

/-- PKG_RST_WARM (R505): PKG_RST.warm is written 1. -/
def execPkgRstWarm (s : State) : Host.Outcome State Fault Refusal := .next s.warmReset

/-- RESET_PIN (R505, R524): RESET_N low for 1 us; the package stays in reset while it is low. -/
def execResetPin (s : State) : Host.Outcome State Fault Refusal :=
  let t := s.warmReset
  .next { t with power := { t.power with resetLow := true } }

/-- PKG_RST_DIE: PKG_RST.die is written. -/
def State.diesReset (s : State) (mask : Nat) : State := ((List.range 4).filter (bitOf mask)).foldl State.dieReset s
def execPkgRstDie (mask : BitVec 4) (s : State) : Host.Outcome State Fault Refusal :=
  if s.awake then .next (s.diesReset mask.toNat) else s.notDue

/-- PKG_RST_PEN: PKG_RST.pen is written. -/
def State.pensReset (s : State) (mask : Nat) : State := ((List.range 8).filter (bitOf mask)).foldl State.penReset s
def execPkgRstPen (mask : Byte) (s : State) : Host.Outcome State Fault Refusal :=
  if s.awake then .next (s.pensReset mask.toNat) else s.notDue

/-- RESET_N_RELEASE (R522): RESET_N returns high, and the boot ROM may run. -/
def execResetNRelease (s : State) : Host.Outcome State Fault Refusal :=
  if s.power.resetLow then .next { s with power := { s.power with resetLow := false } } else s.notDue

end Sys2Proof.Machine
end

