-- ==== Sys2Proof/Machine/Power.lean ====
section
/-!
DEFINITION. Power.lean: the power manager (R512 to R516), temperature sensors (R520, R531), start-up (R521, R522), PCIe training (R478),
package time (R479, R480).
-/

namespace Sys2Proof.Machine

/-! ## Package time (R479, R480) -/

/-- Package time moves on by a microsecond, with at most 100 ppm of what is to be slewed away. -/
def State.timeTick (s : State) : State :=
  let c := clampInt (-1) 1 s.ptpSlew
  let t := ((s.timeFrac : Int) + 10000 + c).toNat
  { s with ptpSlew := s.ptpSlew - c, timeFrac := t % 10 }.set CD_TIME.ns (s.get CD_TIME.ns + t / 10)

/-! ## The clock stretch (R513 to R515) -/

/-- The cap the power manager holds: the layout's, or 2,500 W while none is active. -/
def State.activeCap (s : State) : Nat := if s.layoutActive then s.get PWR_CAP.cap else 2500

/-- The stretch time of the microsecond that ends, at the level it ran at: of the package, and of every running pen that no freeze gates. -/
def State.stretchTick (s : State) : State :=
  let l := s.get PWR_STRETCH.level
  if l = 0 ∨ s.pkgFrozen = true then s
  else
    let u := 1000 * stretchUnit / (16 + l) * l
    let t := s.power.strFrac + u
    let s1 := { s with power := { s.power with strFrac := t % stretchUnit } }.inc PWR_STRETCH_NS.ns (t / stretchUnit)
    (List.range 8).foldl (fun a p =>
      if a.penRunning p && !a.penFrozen p then a.setPen p { a.pen p with strNs := (a.pen p).strNs + u } else a) s1

/-- A stretch event: of the package, and of the step of every running pen. -/
def State.stretchEvent (s : State) : State :=
  (List.range 8).foldl (fun a p => if a.penRunning p then a.setPen p { a.pen p with strEv := (a.pen p).strEv + 1 } else a)
    (s.inc PWR_STRETCH.events 1)

/-- R513, once per microsecond. -/
def State.stretchLevel (s : State) (sum n : Nat) : State :=
  let cap := s.activeCap
  let l := s.get PWR_STRETCH.level
  let w := s.power
  if cap * n < sum then
    let l1 := if l < 8 then l + 1 else l
    let past := if l1 = 8 then w.overUs + 1 else 0
    let s1 := { s.set PWR_STRETCH.level l1 with power := { w with lowUs := 0, overUs := past } }
    let s2 := if l = 0 then s1.stretchEvent else s1
    if past = 1000 then (s2.set PWR_STAT.cap_miss 1).alert else s2
  else
    let low := if sum + 50 * n ≤ cap * n then w.lowUs + 1 else 0
    if low = 100 ∧ 0 < l then { s.set PWR_STRETCH.level (l - 1) with power := { w with lowUs := 0, overUs := 0 } }
    else { s with power := { w with lowUs := low, overUs := 0 } }

/-- The power manager runs R513 from rail sequencing on. -/
def State.managed (s : State) : Bool := s.stage == .rails || s.stage == .memory || s.stage == .bridges || s.stage == .ready

/-- POWER_SAMPLE (R513): the input is sampled, p10 formed, the level updated. -/
def State.powerSample (s : State) (vin iin pin : Nat) : State :=
  let l := (pin :: s.power.samples).take 10
  let p10 := l.sum / l.length
  let s1 := { s with power := { s.power with samples := l } }
  let s2 := (((s1.set PWR_IN.vin vin).set PWR_IN.iin iin).set PWR_IN.p10 p10).set PWR_IN.peak (max (s.get PWR_IN.peak) p10)
  if s2.managed then s2.stretchTick.stretchLevel l.sum l.length else s2

def execPowerSample (vin iin pin : U16) (s : State) : Host.Outcome State Fault Refusal :=
  if s.stage == .off then s.notDue else .next ((s.timeTick).powerSample vin.toNat iin.toNat pin.toNat)

/-! ## The input (R512) -/

def voltsBad (vin : Nat) : Bool := decide (vin < 40000) || decide (58000 < vin)
def voltsGone (vin : Nat) : Bool := decide (vin < 36000) || decide (60000 < vin)
def ampsBad (iin : Nat) : Bool := decide (6500 < iin)

/-- Voltage and current as measured. -/
def State.inputSeen (s : State) (vin iin : Nat) : State :=
  let s1 := { s with power := { s.power with badV := voltsBad vin, badI := ampsBad iin } }
  (s1.set PWR_IN.vin vin).set PWR_IN.iin iin

/-- INPUT_OUT_OF_RANGE (R512): the voltage leaves 40 V to 58 V, or the current passes 65 A. -/
def execInputOutOfRange (vin iin : U16) (s : State) : Host.Outcome State Fault Refusal :=
  if (voltsBad vin.toNat || ampsBad iin.toNat) && !voltsGone vin.toNat && s.stage != .off then
    let s1 := s.inputSeen vin.toNat iin.toNat
    let s2 := if vin.toNat < 40000 then s1.set PWR_STAT.uv 1 else s1
    .next (if 58000 < vin.toNat then s2.set PWR_STAT.ov 1 else s2)
  else s.notDue

/-- OUT_OF_RANGE_TIMEOUT (R512): 50 us of voltage or 100 us of current out of range: PF_POWER. -/
def execOutOfRangeTimeout (s : State) : Host.Outcome State Fault Refusal :=
  if s.power.badIn then .next (s.packageFault 0x7A 7) else s.notDue

/-- INPUT_BACK_IN_RANGE (R512). -/
def execInputBackInRange (vin iin : U16) (s : State) : Host.Outcome State Fault Refusal :=
  if (s.power.badV && !voltsBad vin.toNat) || (s.power.badI && !ampsBad iin.toNat) then .next (s.inputSeen vin.toNat iin.toNat)
  else s.notDue

/-- INPUT_COLLAPSE (R512): below 36 V or above 60 V the converters turn off. -/
def execInputCollapse (vin : U16) (s : State) : Host.Outcome State Fault Refusal :=
  if voltsGone vin.toNat then .next s.railsOff else s.notDue

/-- CLR_PEAK (R530): PWR_IN.peak restarts from the p10 of now. -/
def State.clrPeak (s : State) : State := s.set PWR_IN.peak (s.get PWR_IN.p10)
def execClrPeak (s : State) : Host.Outcome State Fault Refusal := if s.awake then .next s.clrPeak else s.notDue

/-! ## Temperatures (R520, R531) -/

/-- The trip temperature of a sensor in °C. -/
def tripOf (i : Nat) : Nat := if 7 ≤ i ∧ i < 15 then 100 else 105

/-- A sensor's reading, in 1/16 °C, is seen. -/
def State.tempSeen (s : State) (i : Nat) (t : Int) : State :=
  let m := sext 16 (s.get (PWR_THERM.max i))
  let s1 := (s.set (PWR_THERM.temp i) (uns 16 t)).set (PWR_THERM.max i) (uns 16 (max m t))
  let s2 := s1.setB (PWR_THERM.over i) (decide (16 * (s.get (PWR_THERM.warn i) : Int) ≤ t))
  s2.setB PWR_STAT.therm_warn ((List.range 16).any fun j => s2.flag (PWR_THERM.over j))

/-- TEMP_WARNING (R520). -/
def execTempWarning (i : Fin 16) (temp : BitVec 16) (s : State) : Host.Outcome State Fault Refusal :=
  if 16 * (s.get (PWR_THERM.warn i.val) : Int) ≤ temp.toInt ∧ s.stage ≠ .off then .next (s.tempSeen i.val temp.toInt).alert else s.notDue

/-- TEMP_BELOW_WARN (R531). -/
def execTempBelowWarn (i : Fin 16) (temp : BitVec 16) (s : State) : Host.Outcome State Fault Refusal :=
  if s.flag (PWR_THERM.over i.val) = true ∧ temp.toInt < 16 * (s.get (PWR_THERM.warn i.val) : Int) then
    .next (s.tempSeen i.val temp.toInt)
  else s.notDue

/-- TEMP_TRIP (R520): DF_THERM of a compute die, PF_THERM elsewhere. -/
def execTempTrip (i : Fin 16) (temp : BitVec 16) (s : State) : Host.Outcome State Fault Refusal :=
  if 16 * (tripOf i.val : Int) ≤ temp.toInt ∧ s.stage ≠ .off then
    let t := s.tempSeen i.val temp.toInt
    let u := if t.flag (PWR_THERM.over i.val) && !s.flag (PWR_THERM.over i.val) then t.alert else t
    .next (if i.val < 4 then (if u.pkgFrozen then u.pkgFault 0x72 i.val else u.dieFault i.val 0x72)
      else u.packageFault 0x7B (if i.val < 7 then i.val else 7))
  else s.notDue

/-- HARDWARE_THERMTRIP (R520): 115 °C turns the converters off, and THERMTRIP_N goes low. -/
def execHardwareThermtrip (_ : Fin 16) (s : State) : Host.Outcome State Fault Refusal :=
  let t := s.railsOff
  .next { t with pins := { t.pins with thermtripN := false } }

/-! ## Start-up (R521, R522) -/

/-- SOFT_START_DONE: stage 1 ends. -/
def execSoftStartDone (s : State) : Host.Outcome State Fault Refusal :=
  if s.stage == .softStart then .next { s with stage := .boot } else s.notDue

/-- After stage 2: rail sequencing and memory training where they have not been done (R522: a warm reset repeats stages 2 and 5 only). -/
def State.afterBoot (s : State) : Stage :=
  if !s.pins.pwrOk then .rails else if s.flag (YRD_STATUS.trained 0) then .bridges else .memory

/-- BOOT_VERIFY_DONE (R481): the preferred slot, else the other; a slot passes with a good signature and a version not below the fused
rollback counter. -/
def execBootVerifyDone (okA okB : Bool) (verA verB : U16) (s : State) : Host.Outcome State Fault Refusal :=
  if s.stage == .boot && !s.power.resetLow then
    let a := okA && decide (Config.rollback.toNat ≤ verA.toNat)
    let b := okB && decide (Config.rollback.toNat ≤ verB.toNat)
    let preferB := s.flag CD_BOOT.prefer
    let boots := fun (slot : Nat) => Host.Outcome.next { ((s.set CD_BOOT.slot slot).set CD_BOOT.fail 0) with stage := s.afterBoot }
    if preferB && b then boots 1
    else if a then boots 0
    else if b then boots 1
    else .next { s.set CD_BOOT.fail 1 with stage := .failed }
  else s.notDue

/-- RAIL_SEQUENCING_DONE: stage 3 ends with PWR_OK high. -/
def execRailSequencingDone (s : State) : Host.Outcome State Fault Refusal :=
  if s.stage == .rails then .next { s with stage := .memory, pins := { s.pins with pwrOk := true } } else s.notDue

/-- MEMORY_TRAINING_DONE: the channels of each stack that failed are recorded (R300, R307). -/
def State.memoryTrained (s : State) (fails : List U64) : State :=
  (List.range 8).foldl (fun t y =>
    let m := (fails.getD y 0).toNat
    (List.range 64).foldl (fun u c => u.setB (MCH_STAT.failed y c) (bitOf m c))
      ((t.set (YRD_STATUS.trained y) 1).set (YRD_TRFAIL.mask y) m)) s
def execMemoryTrainingDone (fails : List U64) (s : State) : Host.Outcome State Fault Refusal :=
  if s.stage == .memory then .next { s.memoryTrained fails with stage := .bridges } else s.notDue

/-- BRIDGE_TRAINING_DONE: stages 5 and 6: READY, or PF_BRIDGE with READY low. -/
def execBridgeTrainingDone (ok : Bool) (eth : BitVec 5) (s : State) : Host.Outcome State Fault Refusal :=
  if s.stage == .bridges then
    let s1 := (List.range 5).foldl (fun t n => t.setB (CD_ETH.up n) (bitOf eth.toNat n)) s
    if ok then .next { s1 with stage := .ready, pins := { s1.pins with ready := true } }
    else .next ({ s1 with stage := .failed }.packageFault 0x78 7)
  else s.notDue

/-! ## PCIe and Ethernet links, the time transmitter -/

/-- PCIE_TRAINING_DONE (R478): a width and a speed within the caps; a disabled port never trains. -/
def execPcieTrainingDone (width : BitVec 5) (speed : BitVec 3) (s : State) : Host.Outcome State Fault Refusal :=
  let w := width.toNat
  let role := s.get CD_PCIE.role
  if (role == 1 || role == 2) && s.pcieRole == 0 && [1, 2, 4, 8, 16].contains w && decide (w ≤ 2 ^ s.lay.pcieWidth) &&
      decide (speed.toNat ≤ s.lay.pcieSpeed) && s.awake then
    .next (({ s with pcieRole := role }.set CD_PCIE.width w).set CD_PCIE.speed speed.toNat)
  else s.notDue

/-- Does Ethernet port n run: the service port through every freeze, the others not in a package freeze (R498)? -/
def State.ethLive (s : State) (n : Nat) : Bool := n == 4 || s.awake

/-- ETH_LINK_DOWN and ETH_LINK_UP (R487). -/
def execEthLinkDown (n : Fin 5) (s : State) : Host.Outcome State Fault Refusal :=
  if s.flag (CD_ETH.up n.val) && s.ethLive n.val then .next (s.set (CD_ETH.up n.val) 0) else s.notDue
def execEthLinkUp (n : Fin 5) (s : State) : Host.Outcome State Fault Refusal :=
  if !s.flag (CD_ETH.up n.val) && s.ethLive n.val && s.stage == .ready then .next (s.set (CD_ETH.up n.val) 1) else s.notDue

/-- PTP_TRANSMITTER_LOST (R480): package time runs free on the reference. -/
def execPtpTransmitterLost (s : State) : Host.Outcome State Fault Refusal :=
  .next { s.set CD_PTP_STAT.locked 0 with ptpSlew := 0 }

/-- PTP_MESSAGE (R480): the measured offset, positive when package time is behind. Up to step_us it is slewed away; a larger one is stepped
forward, or slewed when it is negative. Messages of another domain or transport, or with discipline off, are not heard. -/
def execPtpMessage (offsetNs : BitVec 32) (domain : Byte) (udp : Bool) (s : State) : Host.Outcome State Fault Refusal :=
  if !s.flag CD_PTP_CTL.enable || domain.toNat != s.get CD_PTP_CTL.domain || udp != s.flag CD_PTP_CTL.udp then .next s
  else
    let o := offsetNs.toInt
    let lim := (s.get CD_PTP_CTL.step_us : Int) * 1000
    let s1 := (s.set CD_PTP_STAT.offset_ns offsetNs.toNat).setB CD_PTP_STAT.locked (decide ((o.natAbs : Int) ≤ lim))
    if (o.natAbs : Int) ≤ lim ∨ o < 0 then .next { s1 with ptpSlew := 10 * o }
    else .next ({ s1 with ptpSlew := 0 }.set CD_TIME.ns (s.get CD_TIME.ns + o.toNat))

end Sys2Proof.Machine
end

