-- ==== Sys2Proof/Machine/Csr.lean ====
section
/-!
DEFINITION. Csr.lean: reads and writes of registers (R14 to R18): the register at an address with the tables that are read through CSR
space, and what a write does beyond the access codes of its fields, block by block. With it the rows whose register lies on the control
die: CSR_WRITE, CD_DMAQ_TAIL_WRITE, WATCH_PENDING_CLEAR.
-/

namespace Sys2Proof.Machine

/-! ## Reads -/

/-- A governor table entry (R179). -/
def Gov.bytes (g : Gov) : List Byte := leBytes 4 g.nsat ++ leBytes 4 g.ntop ++ leBytes 4 g.nfloor ++ leBytes 4 g.nblk

/-- The cadence cycle a cluster's registers are read in: past every one in flight while its context does not run. -/
def State.viewCycle (s : State) (d c : Nat) : Nat :=
  let h := s.ctxOfCluster d c
  if s.running d h then s.get (SEQ_CYC.cycles d h) else 2 ^ 64

/-- The registers of cluster c, or of a core of it, as they stand now: summaries that are readable (R87), a pivot engine that is done. -/
def State.clusterView (s : State) (d o : Nat) : State :=
  let c := (o - 0x2000000) / 0x20000
  let r := (o - 0x2000000) % 0x20000
  if r < 0x1000 then (if (s.cluster d c).pBusy ≤ s.viewCycle d c then s.set (CORE_PIV_STATUS.busy d c) 0 else s)
  else s.settleCore d c (r / 0x1000 - 1) (s.viewCycle d c + 6)

/-- The 8 bytes at offset `o` of a table of `n`-byte entries. -/
def tableWord (n o : Nat) (entry : Nat → List Byte) : Nat := fieldNat (entry (o / n)) (o % n) 8

/-- A register of a compute die (R103, R159, R180, R319). In whole mode the block of context 1 reads as zero but for its loop counters,
which are context 0's (R159). -/
def State.dieVal (s : State) (d o : Nat) : Nat :=
  if 0x110000 ≤ o ∧ o < 0x130000 then
    tableWord 16 ((o - 0x110000) % 0x10000) fun x => (Tab.get Gov.zero (s.ctx d ((o - 0x110000) / 0x10000)).gov x).bytes
  else if 0x140000 ≤ o ∧ o < 0x180000 then
    tableWord 32 ((o - 0x140000) % 0x20000) fun x => (Tab.get Dig.zero (s.ctx d ((o - 0x140000) / 0x20000)).dig x).bytes
  else if 0x101000 ≤ o ∧ o < 0x102000 ∧ s.split d = false ∧ ¬(0x101040 ≤ o ∧ o < 0x101080) then 0
  else if 0x2000000 ≤ o then (s.clusterView d o).csrWord (dieBlk d + o)
  else s.csrWord (dieBlk d + o)

/-- A register of a fabric die (R367): the routing tables, active and shadow, are read-only. -/
def State.fabVal (s : State) (f o : Nat) : Nat :=
  let entry := fun (t : Tab Nat) (b : Nat) => tableWord 8 ((o - b) % 0x20000) fun x =>
    (List.range 4).flatMap fun i => leBytes 2 (Tab.get 0 t (65536 * ((o - b) / 0x20000) + 4 * x + i))
  if 0x1000000 ≤ o ∧ o < 0x1100000 then entry s.routes 0x1000000
  else if 0x1800000 ≤ o ∧ o < 0x1900000 then entry s.shadowRoutes 0x1800000
  else s.csrWord (fabBlk f + o)

/-- The bits of CD_ETHn that a port has: roles on ports 0 to 3, the FEC choice on port 4 (R487). -/
def ethMask (n : Nat) : Nat := if n = 4 then 0xFFFFFFFFFFFFFFF9 else 0xFFFFFFFFFFFFFFE7

/-- A register of the control die (R484 to R488). -/
def State.cdVal (s : State) (o : Nat) : Nat :=
  if 0x700 ≤ o ∧ o < 0x728 then s.csrWord (cdBlk + o) &&& ethMask ((o - 0x700) / 8) else s.csrWord (cdBlk + o)

/-- The 64-bit register at a mapped, aligned local CSR address. -/
def State.csrVal (s : State) (a : Nat) : Nat :=
  let slot := (a - cdBlk) / 0x04000000
  let o := (a - cdBlk) % 0x04000000
  if slot = 0 then s.cdVal o
  else if slot < 5 then s.dieVal (slot - 1) o
  else if slot < 7 then s.fabVal (slot - 5) o
  else s.csrWord a

/-- A CSR access is answered: its size and alignment are accepted (R14) and its address is mapped (R13). -/
def csrOk (a size : Nat) : Bool := csrSizeOk a size && csrMapped a

/-- A read of a register, of 4 or 8 bytes (R14). -/
def State.csrRead (s : State) (a size : Nat) : List Byte := fieldBytes (leBytes 8 (s.csrVal (a / 8 * 8))) (a % 8) size

/-! ## Writes -/

/-- A write by the fields' access codes (R16), but for the fields of `but`. -/
def State.plain (s : State) (a mask data : Nat) (but : List Fld) : State :=
  s.writeFlds mask data ((regFlds s.qsel a).filter fun f => !keyIn but f.key)

/-- The write covers the field. -/
def covers (mask : Nat) (f : Fld) : Bool := bitsOf mask f.lo f.w != 0

/-- The write puts a 1 into the field's lowest bit. -/
def puts1 (mask data : Nat) (f : Fld) : Bool := bitOf (mask &&& data) f.lo

/-- The field's value after the write. -/
def State.merged (s : State) (mask data : Nat) (f : Fld) : Nat :=
  let m := bitsOf mask f.lo f.w
  (s.get f - (s.get f &&& m)) ||| (bitsOf data f.lo f.w &&& m)

/-- A context's registers (R159, R161, R177, R189, R193): in whole mode the block of context 1 ignores writes; the seeds and the governor's
addresses are not written in RUN or HELD. A 1 written to load or go sets the bit (R16), which no rule clears but a reset of the context. -/
def State.ctxWrite (s : State) (d h r mask data : Nat) : State :=
  let a := ctxBlk d h + r
  if h = 1 ∧ s.split d = false then s
  else if r = 0 then
    let s1 := s.plain a mask data []
    let s2 := if puts1 mask data (SEQ_CTL.load d h) then s1.loadStart d h else s1
    if puts1 mask data (SEQ_CTL.go d h) then s2.goStart d h else s2
  else if 0x80 ≤ r ∧ r < 0xA0 ∧ s.running d h = true then s
  else s.plain a mask data []

/-- BEL_VALk (R408): the count is not written while a context of the bell's pen is in RUN or HELD. -/
def State.bellWrite (s : State) (b j a mask data : Nat) : State :=
  let o := s.get (BEL_OWN.pen b j)
  if o < 8 ∧ s.penRunning o = true then s.plain a mask data [BEL_VAL.count b j] else s.plain a mask data []

def State.dieWrite (s : State) (d o mask data : Nat) : State :=
  let a := dieBlk d + o
  if 0x100000 ≤ o ∧ o < 0x102000 then s.ctxWrite d ((o - 0x100000) / 0x1000) (o % 0x1000) mask data
  else if 0x208000 ≤ o ∧ o < 0x210000 then s.bellWrite d ((o - 0x208000) / 8) a mask data
  else s.plain a mask data []

/-- The enable field of a function is written (R455), the rest of its register by the access codes. -/
def State.enableWrite (s : State) (f : Func) (a mask data : Nat) : State :=
  let e := (funcFlds f).1
  let s1 := s.plain a mask data [e]
  if covers mask e then s1.funcEnable f (bitOf data e.lo) else s1

/-- A port's registers (R372, R374): the expected neighbour is written in OFF only. -/
def State.portWrite (s : State) (n r mask data : Nat) : State :=
  let a := portBlk n + r
  if r = 0 then s.enableWrite (.port (Fin.ofNat 64 n)) a mask data
  else if r = 0x10 ∧ s.get (PRT_CTL.state n) ≠ 0 then s.plain a mask data [PRT_NBR.package n, PRT_NBR.port n, PRT_NBR.check n]
  else s.plain a mask data []

def State.fabWrite (s : State) (f o mask data : Nat) : State :=
  let a := fabBlk f + o
  if 0x10000 ≤ o ∧ o < 0x12000 then s.portWrite (32 * f + (o - 0x10000) / 0x100) (o % 0x100) mask data
  else if o = 0x200010 then
    let s1 := s.plain a mask data [GRP_SWAP.arm f]
    if puts1 mask data (GRP_SWAP.arm f) then s1.armTable f else s1
  else if o = 0x200020 then s.enableWrite (.grpq (Fin.ofNat 2 f) (BitVec.ofNat 12 (s.qsel f))) a mask data
  else if 0x308000 ≤ o ∧ o < 0x310000 then s.bellWrite (4 + f) ((o - 0x308000) / 8) a mask data
  else s.plain a mask data []

/-- A yard's registers (R297, R247, R308). -/
def State.yardRegWrite (s : State) (y o mask data : Nat) : State :=
  let a := yardBlk y + o
  if o = 0 then
    let v := s.merged mask data (YRD_CTL.scrub_hours y)
    s.plain a mask data (if 1 ≤ v ∧ v ≤ 168 then [] else [YRD_CTL.scrub_hours y])
  else if o = 0x40000 then s.enableWrite (.xch (Fin.ofNat 8 y)) a mask data
  else if o = 0x50000 then s.enableWrite (.eng (Fin.ofNat 8 y)) a mask data
  else s.plain a mask data []

/-- The ledger block (R336, R337): step, job tag and team input are not written in RUN; the tail frees room (R325). -/
def State.ledgerWrite (s : State) (p r mask data : Nat) : State :=
  let a := ldgBlk p + r
  if r = 0x20 then (if covers mask (LDG_TAIL.offset p) then s.tailWrite p (s.merged mask data (LDG_TAIL.offset p)) else s)
  else if (r = 0x30 ∨ r = 0x38 ∨ r = 0x48) ∧ s.penRunning p = true then s
  else s.plain a mask data []

/-- LAY_CTL (R458): each bit acts; of several, load acts first and unload last (log entry 44). -/
def State.layCtlWrite (s : State) (mask data : Nat) : State :=
  let s1 := if puts1 mask data LAY_CTL.load then s.layLoad else s
  let s2 := if puts1 mask data LAY_CTL.arm then s1.layArm else s1
  let s3 := if puts1 mask data LAY_CTL.disarm then s2.layDisarm else s2
  if puts1 mask data LAY_CTL.unload then s3.layUnload else s3

/-- The layout block (R457 to R462). -/
def State.layWrite (s : State) (o mask data : Nat) : State :=
  let a := layBlk + o
  if o = 0 then s.layCtlWrite mask data
  else if o = 8 ∧ s.get LAY_STATUS.state ≠ 0 then s
  else if o = 0x10 ∧ s.get LAY_STATUS.shadow ≠ 0 then s
  else if 0x800 ≤ o ∧ o < 0x820 then s.enableWrite (.opt (Fin.ofNat 4 ((o - 0x800) / 8))) a mask data
  else if 0x1000 ≤ o ∧ o < 0x1800 ∧ o % 0x100 = 0 then s.enableWrite (.pen (Fin.ofNat 8 ((o - 0x1000) / 0x100))) a mask data
  else s.plain a mask data []

/-- FRZ_CTL (R507): the scope is stored, then req requests a freeze; a resume beside it loses (R502). -/
def State.frzCtlWrite (s : State) (mask data : Nat) : State :=
  let s1 := s.plain frzBlk mask data [FRZ_CTL.req, FRZ_CTL.resume]
  if puts1 mask data FRZ_CTL.req then s1.freezeRequest (s1.flag FRZ_CTL.pkg) (s1.get FRZ_CTL.pen) (s1.flag FRZ_CTL.at_boundary)
  else if puts1 mask data FRZ_CTL.resume then s1.freezeResume
  else s1

/-- PKG_RST (R505, R509): a warm reset stands for all; else the pens' resets, then the dies' (log entry 45). -/
def State.pkgRstWrite (s : State) (mask data : Nat) : State :=
  let s1 := s.plain (frzBlk + 0x28) mask data [PKG_RST.warm, PKG_RST.die, PKG_RST.pen]
  if puts1 mask data PKG_RST.warm then s1.warmReset
  else (s1.pensReset (bitsOf (mask &&& data) PKG_RST.pen.lo PKG_RST.pen.w)).diesReset (bitsOf (mask &&& data) PKG_RST.die.lo PKG_RST.die.w)

/-- The freeze block (R507 to R509). -/
def State.frzWrite (s : State) (o mask data : Nat) : State :=
  if o = 0 then s.frzCtlWrite mask data
  else if o = 0x28 then s.pkgRstWrite mask data
  else if o = 0x18 ∧ s.get FRZ_STAT.state ≠ 0 then s.plain (frzBlk + o) mask data [FRZ_RO.enable]
  else s.plain (frzBlk + o) mask data []

/-- The power block (R530, R531): a warning threshold above the sensor's trip temperature is not taken; `over` follows one that is. -/
def State.pwrWrite (s : State) (o mask data : Nat) : State :=
  let a := pwrBlk + o
  if o = 0x20 then
    let s1 := s.plain a mask data [PWR_STAT.clr_peak]
    if puts1 mask data PWR_STAT.clr_peak then s1.clrPeak else s1
  else if 0x100 ≤ o ∧ o < 0x180 then
    let i := (o - 0x100) / 8
    if tripOf i < s.merged mask data (PWR_THERM.warn i) then s
    else
      let s1 := s.plain a mask data []
      s1.tempSeen i (sext 16 (s1.get (PWR_THERM.temp i)))
  else s.plain a mask data []

def State.svcWrite (s : State) (o mask data : Nat) : State :=
  if 0x200000 ≤ o ∧ o < 0x208000 then s.ledgerWrite ((o - 0x200000) / 0x1000) (o % 0x1000) mask data
  else if 0x400000 ≤ o ∧ o < 0x402000 then s.layWrite (o - 0x400000) mask data
  else if 0x500000 ≤ o ∧ o < 0x501000 then s.frzWrite (o - 0x500000) mask data
  else if 0x600000 ≤ o ∧ o < 0x601000 then s.pwrWrite (o - 0x600000) mask data
  else if 0x1000000 ≤ o ∧ o < 0x1800000 then s.yardRegWrite ((o - 0x1000000) / 0x100000) (o % 0x100000) mask data
  else s.plain (svcBlk + o) mask data []

/-- A channel that had stopped on a status restarts (R470, R485). -/
def State.dmaqTail (s : State) (n tail : Nat) : State :=
  let b := s.get CD_DMA_STAT.stopped
  (s.set (CD_DMAQ.tail n) tail).set CD_DMA_STAT.stopped (b - (b &&& 2 ^ n))

/-- CD_DMAQn (R485): base, size and owner are written only while head equals tail, a size of 12 to 15 not at all. -/
def State.dmaqWrite (s : State) (n mask data : Nat) : State :=
  let cfg := [CD_DMAQ.base n, CD_DMAQ.size n, CD_DMAQ.owner n]
  let but := if s.get (CD_DMAQ.head n) ≠ s.get (CD_DMAQ.tail n) then cfg
    else if 12 ≤ s.merged mask data (CD_DMAQ.size n) then [CD_DMAQ.size n] else []
  let s1 := s.plain (cdBlk + 0x300 + 8 * n) mask data (CD_DMAQ.tail n :: but)
  if covers mask (CD_DMAQ.tail n) then s1.dmaqTail n (s1.merged mask data (CD_DMAQ.tail n)) else s1

/-- CSR slot 0 (R484 to R488): a watch threshold of 0, a role or FEC choice a port does not have, and the PCIe window while its link is up
are not written. -/
def State.cdWrite (s : State) (o mask data : Nat) : State :=
  let a := cdBlk + o
  if 0x300 ≤ o ∧ o < 0x380 then s.dmaqWrite ((o - 0x300) / 8) mask data
  else if 0x400 ≤ o ∧ o < 0x600 then
    let f := CD_WATCH.threshold ((o - 0x400) / 8)
    s.plain a mask data (if s.merged mask data f = 0 then [f] else [])
  else if 0x700 ≤ o ∧ o < 0x728 then s.plain a (mask &&& ethMask ((o - 0x700) / 8)) data []
  else if o = 0x808 ∧ s.pcieRole ≠ 0 then s
  else s.plain a mask data []

/-- A write of register bits at an aligned address, command windows apart. -/
def State.regWrite (s : State) (a mask data : Nat) : State :=
  let slot := (a - cdBlk) / 0x04000000
  let o := (a - cdBlk) % 0x04000000
  if slot = 0 then s.cdWrite o mask data
  else if slot < 5 then s.dieWrite (slot - 1) o mask data
  else if slot < 7 then s.fabWrite (slot - 5) o mask data
  else s.svcWrite o mask data

/-- The window register block that an offset lies in: nine windows of 128 bytes from 0x1000 (R236, R296, R403). -/
def inWindows (o : Nat) : Bool := decide (0x1000 ≤ o) && decide (o < 0x1480)

/-- A CSR write (R14 to R17): an access of another size or alignment, or to an unmapped address, faults; into a command window it stages or
posts; otherwise it acts on its register. -/
def State.csrWrite (s : State) (src : Source) (a size data : Nat) : State :=
  let o := (a - svcBlk) % 0x100000
  let bs := leBytes size data
  if !csrOk a size then s.answer .accessFault
  else if yardBlk 0 ≤ a ∧ a < yardBlk 8 ∧ inWindows (o - 0x40000) then
    s.windowWrite src ((a - yardBlk 0) / 0x100000) false ((o - 0x41000) / 128) ((o - 0x41000) % 128) bs
  else if yardBlk 0 ≤ a ∧ a < yardBlk 8 ∧ inWindows (o - 0x50000) then
    s.windowWrite src ((a - yardBlk 0) / 0x100000) true ((o - 0x51000) / 128) ((o - 0x51000) % 128) bs
  else if grpBlk 0 ≤ a ∧ inWindows (a - grpBlk 0) then s.gwinWrite src 0 ((a - grpBlk 0 - 0x1000) / 128) ((a - grpBlk 0) % 128) bs
  else if grpBlk 1 ≤ a ∧ inWindows (a - grpBlk 1) then s.gwinWrite src 1 ((a - grpBlk 1 - 0x1000) / 128) ((a - grpBlk 1) % 128) bs
  else (s.regWrite (a / 8 * 8) (csrMask a size) (csrData a size data)).answer .accepted

/-! ## Writers with less reach -/

/-- The registers read-out and JTAG may write (R503, R504). -/
def readoutWritable (a : Nat) : Bool := a / 8 * 8 == frzBlk || a / 8 * 8 == frzBlk + 0x28

/-- Read-out answers (R503, R504): any freeze holds, and for the service port FRZ_RO.enable is set. -/
def State.readoutOn (s : State) (jtag : Bool) : Bool := s.get FRZ_STAT.state != 0 && (jtag || s.flag FRZ_RO.enable)

/-- Is the address a register of the ledger or checkpoint block of pen p (R483)? -/
def mgmtTarget (p : Option Nat) (a : Nat) : Bool :=
  match p with
  | some p => (decide (ldgBlk p ≤ a) && decide (a < ldgBlk p + 0x1000)) || (decide (ckpBlk p ≤ a) && decide (a < ckpBlk p + 0x1000))
  | none => false

/-- A member learns from the coordinator that the checkpoint is published (R420, log entry 26): it leaves MANIFEST, its
extent one of the two that must stand (R428), and knows which root slot the coordinator wrote (R427), should it become the coordinator. -/
def State.memberPublished (s : State) (p : Nat) : State :=
  if s.get (CKP_STAT.state p) = 2 ∧ s.flag (CKP_STAT.coordinator p) = false then
    let k := s.ckp p
    let i := rootSlot (s.get (CKP_CTL.root_slots p) + 1) k.roots
    (((s.set (CKP_LAST.step p) k.step.toNat).set (CKP_GEN.gen p) (k.gen.toNat + 1)).set (CKP_STAT.state p) 0).setCkp p
      { k.kept with live := (k.first, k.used) :: k.live.take 1, roots := (i, k.gen.toNat) :: k.roots.filter fun r => r.1 != i }
  else s

/-- A management write of a register of pen p's blocks (R420, R430, R483): CKP_NEXT comes with a publication, and a value not above
LDG_STEP + 1 is ignored; a write to CKP_ERR is the coordinator's report of an abandonment (log entry 26). -/
def State.mgmtRegWrite (s : State) (src : Source) (p a size data : Nat) : State :=
  if a = ckpBlk p + 0x18 ∧ size = 8 then
    let s1 := s.memberPublished p
    if data ≤ s1.get (LDG_STEP.step p) + 1 then s1.answer .accepted else s1.csrWrite src a size data
  else if a = ckpBlk p + 0x40 then
    (if s.flag (CKP_STAT.coordinator p) then s else s.abandonCkp p (data % 256)).answer .accepted
  else s.csrWrite src a size data

/-! ## The rows -/

/-- CSR_WRITE (R16): through the local bus, a die's DMA, a management packet, read-out or JTAG, each with its own reach. -/
def execCsrWrite (src : Source) (addr : BitVec 48) (size : Nat) (data : U64) (s : State) : Host.Outcome State Fault Refusal :=
  s.yardStep fun s =>
    let a := addr.toNat
    match src with
    | .service => .next (if s.readoutOn false && readoutWritable a then s.csrWrite src a size data.toNat else s.answer .refused)
    | .jtag => .next (if s.readoutOn true && readoutWritable a then s.csrWrite src a size data.toNat else s.answer .refused)
    | .port n =>
      if !s.awake then s.notDue
      else match s.portPen n.val with
        | some p => .next (if mgmtTarget (some p) a then s.mgmtRegWrite src p a size data.toNat else s.answer .refused)
        | none => .next (s.answer .refused)
    | .controlDie | .dma _ _ => if s.awake then .next (s.csrWrite src a size data.toNat) else s.notDue

/-- CD_DMAQ_TAIL_WRITE (R485). -/
def execCdDmaqTailWrite (n : Fin 16) (tail : U16) (s : State) : Host.Outcome State Fault Refusal :=
  if s.awake then .next (s.dmaqTail n.val tail.toNat) else s.notDue

/-- WATCH_PENDING_CLEAR (R472, R486): pending is written 1; testing resumes. -/
def execWatchPendingClear (n : Fin 64) (s : State) : Host.Outcome State Fault Refusal :=
  if s.awake then .next (s.set (CD_WATCH.pending n.val) 0) else s.notDue

end Sys2Proof.Machine
end

