-- ==== Sys2Proof/Machine/DmaLine.lean ====
section
/-!
DEFINITION. DmaLine.lean: the die DMA issues a line of a transfer (R147 to R149, R237, R348): memory and loft sides, command windows,
remote lines as packets.
-/

namespace Sys2Proof.Machine

/-! ## Ranges and pieces -/

/-- [a, a + n) lies in one memory range of pen p and is mapped (R149, R349). -/
def State.penRange (s : State) (p : Option Nat) (a n : Nat) : Bool :=
  decide (a < dramTop) && s.rangeMapped a n && p.isSome && s.lay.ranges.any fun r =>
    r.stack == a / 0x2000000000 && r.pen == p && decide (r.start ≤ a % 0x2000000000) &&
      decide (a % 0x2000000000 + n ≤ r.start + r.len)

/-- [a, a + n) cut where 16-byte codewords end: offsets and lengths. -/
def codewordCuts : Nat → Nat → Nat → Nat → List (Nat × Nat)
  | 0, _, _, _ => []
  | fuel + 1, a, o, n =>
    if n = 0 then []
    else
      let l := min n (16 - a % 16)
      (o, l) :: codewordCuts fuel (a + l) (o + l) (n - l)

/-- The pieces of a line at memory address a. -/
def linePieceOffs (a n : Nat) : List (Nat × Nat) := codewordCuts 17 a 0 n

/-- A line leaves a stack: read through its yard, its bytes, and the pieces that are delivered poisoned (R269). -/
def State.lineRead (s : State) (v : Via) (a n : Nat) : State × List (List Byte × Bool) :=
  ((s.countRead v a n), (linePieceOffs a n).map fun x => (s.read (a + x.1) x.2, s.readBad (a + x.1) x.2))

/-- A line enters a stack in pieces, each poisoned or clean (R270). -/
def State.lineWrite (s : State) (v : Via) (a : Nat) (l : List (List Byte × Bool)) : State := s.putPieces v false .write (pieceRun a l)

/-- The poison mask of a payload: bit k for its bytes 16k to 16k + 15 (R346, R348). -/
def payloadMask (bad : List (Nat × Nat)) : Nat :=
  ((List.range 16).filter fun k => bad.any fun x => decide (x.1 < 16 * k + 16) && decide (16 * k < x.1 + x.2)).foldl (fun n k => n + 2 ^ k) 0

/-- The offsets and lengths of the poisoned pieces. -/
def badPieces : Nat → List (List Byte × Bool) → List (Nat × Nat)
  | _, [] => []
  | o, q :: t => if q.2 then (o, q.1.length) :: badPieces (o + q.1.length) t else badPieces (o + q.1.length) t

/-- A payload in its 16-byte pieces, poisoned by its mask. -/
def maskedPieces (mask : Nat) (payload : List Byte) : List (List Byte × Bool) :=
  (List.range ((payload.length + 15) / 16)).map fun k => (fieldBytes payload (16 * k) 16, bitOf mask k)

/-! ## The loft side -/

/-- Loft bytes of a line go out in pieces of memory's codewords; a piece with a poisoned loft word is poisoned (R270). -/
def State.loftOut (s : State) (d c la ga n : Nat) : State × List (List Byte × Bool) :=
  (s.loftRead d c la n, (linePieceOffs ga n).map fun x => (s.read (loftBase d c + la + x.1) x.2, s.readBad (loftBase d c + la + x.1) x.2))

/-- Pieces go into a loft; a poisoned piece as poisoned words (R66, R348). -/
def State.loftIn (s : State) (d c la : Nat) (l : List (List Byte × Bool)) : State :=
  (l.foldl (fun (x : State × Nat) q => (x.1.loftWrite d c x.2 q.1 q.2, x.2 + q.1.length)) (s, la)).1

/-- Does the die DMA port own the bank groups of loft bytes [la, la + n) (R100)? While the context runs the line's accesses go cycle by cycle, 64
bytes each, an unaligned one to two groups, from a cycle that the port finds for it within a turn of the pattern (R138, R154): each must meet
its groups. Otherwise the phase stands still, and the port has the groups it has (R150, log entry 46). -/
def State.dmaSlots (s : State) (d c la n : Nat) : Bool :=
  let h := s.ctxOfCluster d c
  let t := s.get (SEQ_CYC.cycles d h)
  if s.cstate d h = 3 then
    (List.range 16).any fun i => (streamAccs groupAccs (t + i) la n 64).all fun x => match x.res with
      | .group g => s.groupOwner d c x.cyc g == 17
      | _ => true
  else (groupsOf la n).all fun g => s.groupOwner d c t g == 17

/-! ## The line -/

/-- The head entry of a context's queue, changed. -/
def State.setHead (s : State) (d h : Nat) (f : DmaEntry → DmaEntry) : State :=
  match (s.ctx d h).dmaq with
  | e :: q => s.setCtx d h { s.ctx d h with dmaq := f e :: q }
  | [] => s

/-- The line is issued. -/
def State.lineIssued (s : State) (d h n wait : Nat) : State :=
  s.setHead d h fun e => { e with issued := e.issued + n, waiting := e.waiting + wait }

/-- A remote line (R148, R348): its request leaves by the pen's table; one that no port can take is answered at once (R358). -/
def State.remoteLine (s : State) (d h : Nat) (e : DmaEntry) (off n : Nat) : State :=
  let p := s.ctxPen d h
  let g := e.gaddr.toNat + off
  let la := e.laddr + off
  let base : Packet := { ptype := .rdReq, exped := e.cls == 0, hops := 0, dst := BitVec.ofNat 16 (g / 2 ^ 48), src := BitVec.ofNat 16 s.package,
                         group := 0, mask := 0, tag := BitVec.ofNat 32 (dmaTag d h (lineIndex e.gaddr.toNat off)),
                         wordA := BitVec.ofNat 64 (localOf g), wordB := BitVec.ofNat 64 (n - 1), payload := [] }
  let r := s.loftOut d e.cluster la g n
  let k : Packet := if e.toMem then
      { base with ptype := .wr, wordB := 0, payload := r.2.flatMap (·.1), mask := BitVec.ofNat 16 (payloadMask (badPieces 0 r.2)) } else base
  let s1 := (if e.toMem then r.1 else s).lineIssued d h n 1
  let q := s1.route p 64 k 0
  if q.2.isNone then q.1.refuse p (p.elim 0 fun x => s.dieMap x k.dst.toNat) k 1 else q.1

/-- The words of a line written into CSR space in ascending order (R237); the state and the first failure's status, 0 for none. -/
def State.csrLine (s : State) (src : Source) : Nat → List Byte → Nat → State × Nat
  | 0, _, _ => (s, 0)
  | fuel + 1, bs, a =>
    if bs.isEmpty then (s, 0)
    else
      let t := s.csrWrite src a 8 (leNat (bs.take 8))
      match t.reply with
      | .refused => (t, 3)
      | .accessFault => (t, 1)
      | _ => t.csrLine src fuel (bs.drop 8) (a + 8)

/-- Behind a line of a context's die DMA, in the entry's class (R148, R257). -/
def State.dmaVia (s : State) (d h : Nat) (e : DmaEntry) : Via := { pen := s.ctxPen d h, port := .die (Fin.ofNat 4 d), cls := e.cls, who := 2 * d + h }

/-- A line on this package (R149): memory of the pen's ranges, or registers in aligned 64-bit words (R237). -/
def State.localLine (s : State) (d h : Nat) (e : DmaEntry) (off n : Nat) : State :=
  let p := s.ctxPen d h
  let a := localOf (e.gaddr.toNat + off)
  let la := e.laddr + off
  if s.penRange p a n then
    if e.toMem then
      let r := s.loftOut d e.cluster la a n
      (r.1.lineWrite (s.dmaVia d h e) a r.2).lineIssued d h n 0
    else
      let r := s.lineRead (s.dmaVia d h e) a n
      (r.1.loftIn d e.cluster la r.2).lineIssued d h n 0
  else if csrMapped a && csrMapped (a + n - 1) && a % 8 == 0 && n % 8 == 0 then
    if e.toMem then
      let r := s.loftOut d e.cluster la a n
      let w := r.1.csrLine (.dma (Fin.ofNat 4 d) (Fin.ofNat 2 h)) 32 (r.2.flatMap (·.1)) a
      if w.2 = 0 then ({ w.1 with reply := s.reply } : State).lineIssued d h n 0
      else (s.dmaFail d h w.2 0 off).dmaRetire d h
    else
      let bs := (List.range (n / 8)).flatMap fun i => s.csrRead (a + 8 * i) 8
      (s.loftIn d e.cluster la [(bs, false)]).lineIssued d h n 0
  else (s.dmaFail d h 1 0 off).dmaRetire d h

/-- The next line of the transfer at the head of a context's queue. A remote read meets the loft when its data arrive. -/
def State.nextLine (s : State) (d h : Nat) (e : DmaEntry) : State :=
  let off := e.issued
  let n := lineLen e.gaddr.toNat e.len off
  let g := (e.gaddr.toNat + off) % 2 ^ 64
  if s.ownPackage g && !s.penRange (s.ctxPen d h) (localOf g) n && !csrMapped (localOf g) then (s.dmaFail d h 1 0 off).dmaRetire d h
  else if (e.toMem || s.ownPackage g) && !s.dmaSlots d e.cluster (e.laddr + off) n then (s.dmaFail d h 2 0 off).dmaRetire d h
  else if s.ownPackage g then s.localLine d h e off n
  else s.remoteLine d h e off n

/-- The context has a line to issue: its head transfer is not failed and not fully issued, nothing gates or holds it (R149, R237, R498). -/
def State.lineReady (s : State) (d h : Nat) : Bool :=
  match (s.ctx d h).dmaq with
  | e :: _ => s.ctxLive d h && e.failed.isNone && decide (e.issued < e.len) && !s.postHeld d h
  | [] => false

/-- The context served next, round-robin (R147). -/
def State.lineTurn (s : State) (d : Nat) : Option Nat :=
  let last := Tab.get 1 s.dmaLast d
  [(last + 1) % 2, last].find? fun h => s.lineReady d h

/-- DMA_LINE_ISSUE (R147 to R149): a line whose yard does not take it holds the context's turn (R259). -/
def execDmaLineIssue (d : Fin 4) (s : State) : Host.Outcome State Fault Refusal :=
  s.yardStep fun t =>
    match t.lineTurn d.val with
    | none => t.notDue
    | some h =>
      match (t.ctx d.val h).dmaq with
      | e :: _ => .next (({ t with dmaLast := Tab.set 1 t.dmaLast d.val h } : State).nextLine d.val h e)
      | [] => t.notDue

end Sys2Proof.Machine
end

