-- ==== Sys2Proof/Machine/Endpoint.lean ====
section
/-!
DEFINITION. Endpoint.lean: packets arriving on a port (R347 to R349, R356, R358, R360): forwarded, or delivered to this package's endpoint:
remote reads, writes and atomics and their responses, bells, team frames, management accesses (R483), ERR_RSP, collectives, messages.
-/

namespace Sys2Proof.Machine

/-! ## Requests (R349) -/

/-- A response to a request, in its class. -/
def response (k : Packet) (me : Nat) (t : PType) (payload : List Byte) (mask : Nat) : Packet :=
  { ptype := t, exped := k.exped, hops := 0, dst := k.src, src := BitVec.ofNat 16 me, group := k.group, mask := BitVec.ofNat 16 mask,
    tag := k.tag, wordA := k.wordA, wordB := 0, payload := payload }

/-- The bytes an RD_REQ asks for. -/
def readLen (k : Packet) : Nat := bitsOf k.wordB.toNat 0 9 + 1

/-- The whole access lies in one line (R348) and in a range of the port's pen (R349). -/
def State.requestOk (s : State) (n a len : Nat) : Bool := decide (a % 256 + len ≤ 256) && s.penRange (s.portPen n) a len

/-- A request is refused with ADDR (R349, R355). -/
def State.refuseAddr (s : State) (n : Nat) (k : Packet) : State := (s.inc (FAB_CNT.addr (n / 32)) 1).refuse (s.portPen n) (n / 32) k 3

/-- Behind a request that arrived on port n, in class P0 or P2 by the packet's class (R257, R349). -/
def State.portVia (s : State) (n : Nat) (k : Packet) : Via :=
  { pen := s.portPen n, port := .fabric (Fin.ofNat 2 (n / 32)), cls := if k.exped then 0 else 2, who := n }

/-- RD_REQ. -/
def State.rdReqAt (s : State) (n : Nat) (k : Packet) : State :=
  let a := localOf k.wordA.toNat
  let p := s.portPen n
  if s.requestOk n a (readLen k) then
    let r := s.lineRead (s.portVia n k) a (readLen k)
    r.1.emit p (response k s.package .rdRsp (r.2.flatMap (·.1)) (payloadMask (badPieces 0 r.2)))
  else s.refuseAddr n k

/-- WR. -/
def State.wrAt (s : State) (n : Nat) (k : Packet) : State :=
  let a := localOf k.wordA.toNat
  let p := s.portPen n
  if s.requestOk n a k.payload.length then
    (s.lineWrite (s.portVia n k) a (maskedPieces k.mask.toNat k.payload)).emit p (response k s.package .wrDone [] 0)
  else s.refuseAddr n k

/-- ATOM (R292, R294, R295): on an aligned word; a kind R292 does not give, or an unaligned word, is refused as ADDR (log entry 47). -/
def State.atomAt (s : State) (n : Nat) (k : Packet) : State :=
  let a := localOf k.wordA.toNat
  let p := s.portPen n
  let kind := bitsOf k.wordB.toNat 0 4
  if s.requestOk n a 8 && a % 8 == 0 && atomKind kind then
    let r := s.atomic (s.portVia n k) (a / 0x2000000000) (a % 0x2000000000) kind (BitVec.ofNat 64 (fieldNat k.payload 0 8))
      (BitVec.ofNat 64 (fieldNat k.payload 8 8))
    r.1.emit p (response k s.package .atomRsp (if atomReturns kind then leBytes 8 r.2.1.toNat else []) (atomReturns kind && r.2.2).toNat)
  else s.refuseAddr n k

/-! ## Responses -/

/-- The data of a line of a context's transfer land in the loft (R348), unless the transfer failed at an earlier line (R149). -/
def State.dmaData (s : State) (d h : Nat) (k : Packet) : State :=
  match (s.ctx d h).dmaq with
  | [] => s
  | e :: _ =>
    let off := lineOffset e.gaddr.toNat (tagLine k.tag.toNat)
    if e.waiting = 0 then s
    else
      let s1 := if e.failed.any (fun o => decide (o ≤ off)) then s
        else if s.dmaSlots d e.cluster (e.laddr + off) k.payload.length then
          s.loftIn d e.cluster (e.laddr + off) (maskedPieces k.mask.toNat k.payload)
        else s.dmaFail d h 2 0 off
      (s1.dmaAnswered d h).dmaRetire d h

/-- The data of a piece of a control-die descriptor are in (R535). -/
def State.cdData (s : State) (n i : Nat) (k : Packet) : State :=
  let r := s.cdrun n
  (s.setCdrun n { r with got := Tab.set ([], 0) r.got i (k.payload, k.mask.toNat) }).cdAnswered n

/-- RD_RSP. -/
def State.rdRspAt (s : State) (k : Packet) : State :=
  let t := k.tag.toNat
  if tagCd t then s.cdData (tagChannel t) (tagLine t) k else s.dmaData (tagDie t) (tagHalf t) k

/-- WR_DONE. -/
def State.wrDoneAt (s : State) (k : Packet) : State :=
  let t := k.tag.toNat
  if tagCd t then s.cdAnswered (tagChannel t)
  else
    match (s.ctx (tagDie t) (tagHalf t)).dmaq with
    | e :: _ => if e.waiting = 0 then s else (s.dmaAnswered (tagDie t) (tagHalf t)).dmaRetire (tagDie t) (tagHalf t)
    | [] => s

/-- ATOM_RSP: no engine of this package keeps an atomic in flight; its answer goes to whoever asked (log entry 48). -/
def State.atomRspAt (s : State) (k : Packet) : State :=
  s.answer (if k.payload.isEmpty then .accepted else .data k.payload (if k.mask = 0 then [] else [0]))

/-! ## Bells, frames, management -/

/-- BELL (R378): for the pen of the arrival port. -/
def State.bellAt (s : State) (n : Nat) (k : Packet) : State :=
  let w := k.wordB.toNat
  if bitsOf w 0 16 = 0 ∧ bitOf w 16 = false then s
  else s.ringHere (s.portPen n) k.wordA.toNat (bitsOf w 0 16) (bitOf w 16)

/-- TEAM (R328, R331): for the pen of the arrival port; a payload without the frame's magic is no frame and is dropped (log entry 49). -/
def State.teamAt (s : State) (n : Nat) (k : Packet) : State :=
  match s.portPen n with
  | some p => if fieldNat k.payload 0 4 = 0x4D414554 then s.teamFrame p (teamOf k.payload) else s
  | none => s

/-- Free bytes (log entry 6). -/
def State.drawBytes (s : State) : Nat → State × List Byte
  | 0 => (s, [])
  | n + 1 =>
    let r := s.draw
    let t := r.2.drawBytes n
    (t.1, leBytes 8 r.1.toNat ++ t.2)

/-- A member's report reaches the coordinator (R419, R420): in MANIFEST its manifest is held; IDLE means it did not mark at this boundary
or gave up, and the checkpoint is abandoned with CK_PARTIAL (R421, log entry 26). -/
def State.ckpReported (s : State) (p src state : Nat) : State :=
  let d := s.gdesc (s.get (CKP_CTL.group p))
  let st := s.get (CKP_STAT.state p)
  if s.flag (CKP_STAT.coordinator p) && (st == 1 || st == 2) then
    match (List.range d.n).find? fun r => s.memberAt d r == src with
    | some r =>
      if state = 2 then s.setCkp p { s.ckp p with held := r :: (s.ckp p).held.filter fun x => x != r }
      else if state = 0 then s.abandonCkp p 5
      else s
    | none => s
  else s

abbrev mgOp (k : Packet) : Nat := bitsOf k.wordA.toNat 0 8
abbrev mgAddr (k : Packet) : Nat := bitsOf k.wordA.toNat 16 48

/-- MGMT (R483): accepted only for the ledger and checkpoint blocks of the port's pen; any other target, or op, is answered with ADDR. -/
def State.mgmtAt (s : State) (n : Nat) (k : Packet) : State :=
  let p := s.portPen n
  let a := mgAddr k
  match p with
  | none => s
  | some q =>
    if mgOp k = 3 then s.answer (.data (leBytes 8 k.wordB.toNat) [])
    else if mgmtTarget p a && decide (1 ≤ mgOp k) && decide (mgOp k ≤ 4) then
      match mgOp k with
      | 1 => s.mgmtRegWrite (.port (Fin.ofNat 64 n)) q a 8 k.wordB.toNat
      | 2 =>
        let r : Packet := { response k s.package .mgmt [] 0 with
          exped := true, wordA := BitVec.ofNat 64 (3 + a * 2 ^ 16), wordB := BitVec.ofNat 64 (s.csrVal (a / 8 * 8)) }
        s.emit p r
      | _ => s.ckpReported q k.src.toNat (k.wordB.toNat % 8)
    else s.emit p (errRsp k s.package 3)

/-! ## Arrival -/

/-- A packet for this package takes effect at the endpoint. -/
def State.deliver (s : State) (n : Nat) (k : Packet) : State :=
  match k.ptype with
  | .rdReq => s.rdReqAt n k
  | .rdRsp => s.rdRspAt k
  | .wr => s.wrAt n k
  | .wrDone => s.wrDoneAt k
  | .atom => s.atomAt n k
  | .atomRsp => s.atomRspAt k
  | .bell => s.bellAt n k
  | .team => s.teamAt n k
  | .coll => s.collArrive n k
  | .grpq => s.grpqArrive n k
  | .mgmt => s.mgmtAt n k
  | .errRsp => s.errArrive (n / 32) k

/-- A packet for another package passes through (R356, R360), with `more` bytes of it still to arrive; the port it leaves by. -/
def State.forward (s : State) (n : Nat) (k : Packet) (more : Nat) : State × Option Nat :=
  let f := n / 32
  let p := s.portPen n
  if s.get (FAB_CTL.max_hops f) < k.hops.toNat + 1 then (((s.returnCredit n ⟨k, more⟩).inc (FAB_CNT.hops f) 1).refuse p f k 2, none)
  else
    let k1 : Packet := { k with hops := k.hops + 1 }
    let r := s.route p n k1 more
    if r.2.isNone then ((r.1.returnCredit n ⟨k, more⟩).refuse p f k1 1, none) else r

/-- A packet arrives whole on port n. -/
def State.arrive (s : State) (n : Nat) (k : Packet) : State :=
  if k.dst.toNat = s.package then (s.returnCredit n ⟨k, 0⟩).deliver n k else (s.forward n k 0).1

/-- A row that brings a packet of one type: its link carries it. One that a yard does not take yet stays where it is (R259). -/
def State.packetRow (s : State) (n : Nat) (k : Packet) (ok : Bool) : Host.Outcome State Fault Refusal :=
  s.yardStep fun t => if t.linkUp n && t.awake && ok then .next (t.arrive n k) else t.notDue

/-! ## The rows -/

/-- RD_REQ (R349). -/
def execRdReq (n : Fin 64) (k : Packet) (s : State) : Host.Outcome State Fault Refusal := s.packetRow n.val k (k.ptype == .rdReq)
/-- RD_RSP (R348). -/
def execRdRsp (n : Fin 64) (k : Packet) (s : State) : Host.Outcome State Fault Refusal := s.packetRow n.val k (k.ptype == .rdRsp)
/-- WR (R349). -/
def execWr (n : Fin 64) (k : Packet) (s : State) : Host.Outcome State Fault Refusal := s.packetRow n.val k (k.ptype == .wr)
/-- WR_DONE (R349). -/
def execWrDone (n : Fin 64) (k : Packet) (s : State) : Host.Outcome State Fault Refusal := s.packetRow n.val k (k.ptype == .wrDone)
/-- ATOM_PKT (R347, R292). -/
def execAtomPkt (n : Fin 64) (k : Packet) (s : State) : Host.Outcome State Fault Refusal := s.packetRow n.val k (k.ptype == .atom)
/-- ATOM_RSP (R347). -/
def execAtomRsp (n : Fin 64) (k : Packet) (s : State) : Host.Outcome State Fault Refusal := s.packetRow n.val k (k.ptype == .atomRsp)
/-- BELL (R378). -/
def execBell (n : Fin 64) (k : Packet) (s : State) : Host.Outcome State Fault Refusal := s.packetRow n.val k (k.ptype == .bell)
/-- BELL_RING (R376 to R378): a unit working for pen p rings a global bell. -/
def execBellRing (p : Fin 8) (name : U64) (count : U16) (err : Bool) (s : State) : Host.Outcome State Fault Refusal :=
  if s.awake then .next (s.ringName (some p.val) name.toNat count.toNat err) else s.notDue
/-- TEAM (R331). -/
def execTeam (n : Fin 64) (k : Packet) (s : State) : Host.Outcome State Fault Refusal := s.packetRow n.val k (k.ptype == .team)
/-- MGMT_WRITE (R483). -/
def execMgmtWrite (n : Fin 64) (k : Packet) (s : State) : Host.Outcome State Fault Refusal :=
  s.packetRow n.val k (k.ptype == .mgmt && mgOp k == 1)
/-- MGMT_READ (R483). -/
def execMgmtRead (n : Fin 64) (k : Packet) (s : State) : Host.Outcome State Fault Refusal :=
  s.packetRow n.val k (k.ptype == .mgmt && mgOp k == 2)
/-- MGMT_READ_RESPONSE (R483). -/
def execMgmtReadResponse (n : Fin 64) (k : Packet) (s : State) : Host.Outcome State Fault Refusal :=
  s.packetRow n.val k (k.ptype == .mgmt && mgOp k == 3)
/-- CHECKPOINT_REPORT (R483). -/
def execCheckpointReport (n : Fin 64) (k : Packet) (s : State) : Host.Outcome State Fault Refusal :=
  s.packetRow n.val k (k.ptype == .mgmt && mgOp k == 4)
/-- ERR_RSP (R354). -/
def execErrRsp (n : Fin 64) (k : Packet) (s : State) : Host.Outcome State Fault Refusal := s.packetRow n.val k (k.ptype == .errRsp)
/-- COLL_UP (R392, R400). -/
def execCollUp (n : Fin 64) (k : Packet) (s : State) : Host.Outcome State Fault Refusal :=
  s.packetRow n.val k (k.ptype == .coll && cpPhase k == 0)
/-- COLL_DOWN (R393, R400). -/
def execCollDown (n : Fin 64) (k : Packet) (s : State) : Host.Outcome State Fault Refusal :=
  s.packetRow n.val k (k.ptype == .coll && cpPhase k == 1)
/-- COLL_CONFIRM (R394, R400). -/
def execCollConfirm (n : Fin 64) (k : Packet) (s : State) : Host.Outcome State Fault Refusal :=
  s.packetRow n.val k (k.ptype == .coll && cpPhase k == 2)
/-- COLL_RELEASE (R394, R400). -/
def execCollRelease (n : Fin 64) (k : Packet) (s : State) : Host.Outcome State Fault Refusal :=
  s.packetRow n.val k (k.ptype == .coll && cpPhase k == 3)
/-- COLL_REJECT (R394, R400). -/
def execCollReject (n : Fin 64) (k : Packet) (s : State) : Host.Outcome State Fault Refusal :=
  s.packetRow n.val k (k.ptype == .coll && cpPhase k == 4)
/-- COLL_ERROR (R396, R400). -/
def execCollError (n : Fin 64) (k : Packet) (s : State) : Host.Outcome State Fault Refusal :=
  s.packetRow n.val k (k.ptype == .coll && cpPhase k == 5)
/-- COLL_STATUS (R402). -/
def execCollStatus (n : Fin 64) (k : Packet) (s : State) : Host.Outcome State Fault Refusal :=
  s.packetRow n.val k (k.ptype == .coll && cpPhase k == 6)
/-- GRPQ (R399). -/
def execGrpq (n : Fin 64) (k : Packet) (s : State) : Host.Outcome State Fault Refusal := s.packetRow n.val k (k.ptype == .grpq)

end Sys2Proof.Machine
end

