-- ==== Sys2Proof/Machine/Receive.lean ====
section
/-!
DEFINITION. Receive.lean: a codeword arrives on a port (R341 to R345, R352): descrambled, corrected, checked; its cell discarded with one NAK or
its entries taken.
-/

namespace Sys2Proof.Machine

/-- The receiver asks once for the number it expects (R352). -/
def State.nakOnce (s : State) (n : Nat) : State :=
  let q := s.port n
  if q.nakOut then s else s.setPort n { q with nakOut := true, nakDue := true }

/-- A codeword that fails its CRC, cannot be corrected or has a reserved kind (R341 to R343). -/
def State.cellBad (s : State) (n : Nat) : State := (s.inc (PRT_CNT.crc_fail n) 1).nakOnce n

/-- The bytes received of an unfinished entry of a class. -/
def Port.inBytes (q : Port) (exped : Bool) : List Byte := if exped then q.inE else q.inO
def Port.setIn (q : Port) (exped : Bool) (l : List Byte) : Port := if exped then { q with inE := l } else { q with inO := l }

def Port.pass (q : Port) (exped : Bool) : Option Passing := if exped then q.passE else q.passO
def Port.setPass (q : Port) (exped : Bool) (x : Option Passing) : Port := if exped then { q with passE := x } else { q with passO := x }

/-- An item with further bytes of its payload. -/
def Item.add (e : Item) (l : List Byte) : Item := ⟨{ e.pkt with payload := e.pkt.payload ++ l }, e.more - l.length⟩

/-- Bytes of input n's packet that passes through reach the port it leaves by: into its begun stream, or into the last packet of its queue. -/
def Port.passBytes (q : Port) (n : Nat) (exped : Bool) (l : List Byte) : Port :=
  let mine := fun (x : Nat × Item) => x.1 == n && decide (0 < x.2.more)
  if (q.beg exped).any mine then (q.setOut exped (q.out exped ++ l)).setBeg exped ((q.beg exped).map fun x => (x.1, x.2.add l))
  else { q with queues := q.queues.map fun e =>
    if (e.1 == 65 * (2 * (!exped).toNat) + n || e.1 == 65 * (2 * (!exped).toNat + 1) + n) then
      (e.1, e.2.map fun k => if 0 < k.more then k.add l else k)
    else e }

/-- The bytes of a cell that belong to the packet that passes through (R356), and those behind it. -/
def State.passCell (s : State) (n : Nat) (exped : Bool) (data : List Byte) : State × List Byte :=
  match (s.port n).pass exped with
  | none => (s, data)
  | some x =>
    let l := data.take x.more
    let left := x.more - l.length
    let s1 := if x.out < 64 then s.setPort x.out ((s.port x.out).passBytes n exped l) else s
    (s1.setPort n ((s1.port n).setPass exped (if left = 0 then none else some { x with more := left })), data.drop x.more)

/-- A packet for another package is forwarded as soon as its header is in (R356): with what is there of it, the rest to follow. -/
def State.passStart (s : State) (n : Nat) (exped : Bool) (k : Packet) (more : Nat) : State :=
  let r := s.forward n k more
  r.1.setPort n ((r.1.port n).setPass exped (some ⟨r.2.getD 64, more⟩))

/-- The entries of a stream, in order (R345): pad bytes, link-control entries, packets. A reserved type code, or a link-control entry in the
ordinary stream, takes the link down; an entry that has not fully arrived is kept, or forwarded as it comes. -/
def State.entries (s : State) (n : Nat) (exped : Bool) : Nat → List Byte → State
  | 0, _ => s
  | fuel + 1, buf =>
    let t := fieldNat buf 0 1 % 16
    let keep := s.setPort n ((s.port n).setIn exped buf)
    if !s.linkUp n then s
    else if buf.isEmpty then keep
    else if t = 0 then s.entries n exped fuel (buf.drop 1)
    else if t = 15 then
      if !exped then s.linkDown n 7
      else if buf.length < 16 then keep
      else (s.controlEntry n (buf.take 16)).entries n exped fuel (buf.drop 16)
    else match typeOf t with
      | none => s.linkDown n 7
      | some ty =>
        if buf.length < 32 then keep
        else if buf.length < packetLen buf then
          let k : Packet := { packetOf ty buf with payload := buf.drop 32 }
          if k.dst.toNat = s.package then keep else (s.setPort n ((s.port n).setIn exped [])).passStart n exped k (packetLen buf - buf.length)
        else (s.arrive n (packetOf ty (buf.take (packetLen buf)))).entries n exped fuel (buf.drop (packetLen buf))

/-- A stream cell (R352): the expected one is taken, any other discarded. -/
def State.streamCell (s : State) (n : Nat) (exped : Bool) (seq : Nat) (data : List Byte) : State :=
  let q := s.port n
  if seq ≠ q.rxSeq then s.nakOnce n
  else
    let s1 := s.setPort n ({ q with rxSeq := (q.rxSeq + 1) % 16384, nakOut := false }.setIn exped [])
    let r := s1.passCell n exped data
    let buf := q.inBytes exped ++ r.2
    r.1.entries n exped (buf.length + 1) buf

/-- The link-control entries of an idle cell (R343, R350); what else it holds is ignored. -/
def State.idleEntries (s : State) (n : Nat) : Nat → List Byte → State
  | 0, _ => s
  | fuel + 1, buf =>
    if !s.linkUp n || buf.isEmpty then s
    else if fieldNat buf 0 1 % 16 = 15 then
      if buf.length < 16 then s else (s.controlEntry n (buf.take 16)).idleEntries n fuel (buf.drop 16)
    else s.idleEntries n fuel (buf.drop 1)

/-- An idle cell: it names the next number to be sent, so a stream cell lost before it is noticed (R343, R352). -/
def State.idleCell (s : State) (n seq : Nat) (data : List Byte) : State :=
  let s1 := if seq ≠ (s.port n).rxSeq then s.nakOnce n else s
  s1.idleEntries n 251 data

/-- A codeword of 280 bytes arrives (R344, R352). The descrambler advances whatever the codeword holds. -/
def State.codewordIn (s : State) (n : Nat) (bytes : List Byte) : State :=
  let r := scramble bytes (s.port n).scrRx
  let s0 := s.setPort n { s.port n with scrRx := r.2 }
  match rsDecode r.1 with
  | none => s0.cellBad n
  | some w =>
    let s1 := if w.2 then s0.inc (PRT_CNT.fec_ce n) 1 else s0
    let seq := fieldNat w.1 0 2 % 16384
    let data := fieldBytes w.1 2 250
    match fieldNat w.1 0 2 / 16384 with
    | 0 => s1.streamCell n false seq data
    | 1 => s1.streamCell n true seq data
    | 2 => s1.idleCell n seq data
    | _ => s1.cellBad n

/-- CODEWORD_RECEIVE (R352). -/
def execCodewordReceive (n : Fin 64) (bytes : List Byte) (s : State) : Host.Outcome State Fault Refusal :=
  s.yardStep fun s =>
    if s.linkUp n.val && s.awake then .next (s.codewordIn n.val bytes) else s.notDue

end Sys2Proof.Machine
end

