-- ==== Sys2Proof/Machine/Checkpoint.lean ====
section
/-!
DEFINITION. Checkpoint.lean: the checkpoint unit (R416 to R431): drain, shards, manifests, publication and interval; restore (R432 to R434).
What the file store and the host know and no register holds comes as operands (the free blocks, the members' manifests, the job's run time) or
is free (this package's namespace identifier: log entries 50, 51).
-/

namespace Sys2Proof.Machine

/-! ## The drain (R416, R417) -/

/-- The pages of pen p's snapshot ranges in stack y, ascending. -/
def State.snapPages (s : State) (p y : Nat) : List Nat :=
  (s.lay.ranges.filter fun r => r.snapshot && r.pen == some p && r.stack == y).flatMap fun r =>
    (List.range (r.len / 65536)).map fun i => r.start / 65536 + i

/-- The key of a page in a checkpoint's tables. -/
def pageKey (y pg : Nat) : Nat := y * 0x200000 + pg

/-- The pages still to be drained: those with a waiting write first, in arrival order, then ascending. -/
def State.pagesLeft (s : State) (p y : Nat) : List Nat :=
  let left := sortBy (fun a b => decide (a ≤ b)) ((s.snapPages p y).filter fun pg => Tab.get 0 (s.ckp p).drained (pageKey y pg) == 0)
  let first := (((s.yard y).waiting.map (·.page)).filter left.contains).eraseDups
  first ++ left.filter fun pg => !first.contains pg

/-- The home page is read, in class P3 through the yard cache (R291): its codewords decoded, whatever page a write would find. -/
def State.homeRead (s : State) (p y pg : Nat) : State :=
  let r := s.yard y
  let t := (s.setYard y { r with pages := Tab.set Page.home r.pages pg .home }).yardRead { ctlVia 1 (some p) with cls := 3 } y (pg * 65536) 65536 false
  t.setYard y { t.yard y with pages := r.pages }

/-- Is the home page delivered poisoned? -/
def State.homeBad (s : State) (y pg : Nat) : Bool := (s.setYard y { s.yard y with pages := Tab.set Page.home (s.yard y).pages pg .home }).readBad (stackBase y + pg * 65536) 65536

/-- An NVMe command is sent to the file store and is in flight (R429). -/
def State.sendNvme (s : State) (p : Nat) (c : NvmeCmd) : State := s.setCkp p { s.ckp p with nvme := (s.ckp p).nvme ++ [c] }

/-- A page goes out to the file store. -/
def State.drainNext (s : State) (p y pg : Nat) : State :=
  let bad := s.homeBad y pg
  let s1 := s.homeRead p y pg
  if bad then s1.abandonCkp p 4
  else
    let s2 := s1.drainPage p y pg
    (s2.sendNvme p .write).showWaiting y

/-! ## Shards (R422 to R424) -/

/-- A hexadecimal digit in ASCII. -/
def hexDigit (n : Nat) : Byte := BitVec.ofNat 8 (if n < 10 then 48 + n else 55 + n)

/-- `w` hexadecimal digits, highest first. -/
def hexAscii (w n : Nat) : List Byte := (List.range w).map fun i => hexDigit (n / 16 ^ (w - 1 - i) % 16)

/-- The ASCII of a short text of upper-case letters and dashes. -/
def ascii (t : String) : List Byte := t.toList.map fun c => BitVec.ofNat 8 c.toNat

/-- A list filled with zeros to a length. -/
def zeroTo (n : Nat) (l : List Byte) : List Byte := l ++ List.replicate (n - l.length) 0

/-- A list filled with zeros to whole logical blocks. -/
def toBlocks (l : List Byte) : List Byte := zeroTo ((l.length + 4095) / 4096 * 4096) l

/-- The state digest of a payload (R423) that begins at a word of its global range. -/
def stateDigest (range first : Nat) (b : List Byte) : U128 :=
  (List.range (b.length / 8)).foldl (fun a j =>
    a + foldElem (BitVec.ofNat 32 (0xC0000000 ||| range)) (BitVec.ofNat 64 (first + j)) 9 0 [BitVec.ofNat 64 (fieldNat b (8 * j) 8)]) 0

/-- What a shard's header says. -/
structure ShardHead where
  enc   : Bool
  state : Bool
  job   : Nat
  step  : Nat
  gen   : Nat
  package : Nat
  rank  : Nat
  stack : Nat
  range : Nat
  index : Nat
  off   : Nat
  len   : Nat
  digest : Nat
  slot  : Nat

/-- The header bytes with a tag and a SHA-256 (R422). -/
def ShardHead.bytes (h : ShardHead) (tag sha : List Byte) : List Byte :=
  let name := ascii "XN-" ++ hexAscii 16 h.job ++ ascii "-S-" ++ hexAscii 16 h.step ++ ascii "-P-" ++ hexAscii 4 h.package ++ ascii "-R-" ++
    hexAscii 2 h.range ++ ascii "-K-" ++ hexAscii 4 h.index
  leBytes 4 0x44524853 ++ leBytes 2 1 ++ leBytes 2 (h.enc.toNat + 2 * h.state.toNat) ++ leBytes 8 h.job ++ leBytes 8 h.step ++
    leBytes 8 h.gen ++ leBytes 2 h.package ++ leBytes 2 h.rank ++ leBytes 1 h.stack ++ leBytes 1 h.range ++ leBytes 2 h.index ++
    leBytes 8 h.off ++ leBytes 8 h.len ++ leBytes 8 0 ++ leBytes 16 h.digest ++ zeroTo 16 tag ++ leBytes 1 h.slot ++
    List.replicate 31 0 ++ zeroTo 32 sha ++ zeroTo 64 name ++ List.replicate 32 0

/-- The nonce of a shard (R424). -/
def ShardHead.nonce (h : ShardHead) : List Byte := leBytes 8 h.gen ++ leBytes 2 h.package ++ leBytes 2 h.index

/-- A shard as stored, without its padding (R422, R424), from its plaintext; `load` is the load of the key slot. -/
def ShardHead.stored (h : ShardHead) (load : Nat) (plain : List Byte) : List Byte :=
  let aad := h.bytes [] []
  let key := (Config.aesKey load).toList
  let body := if h.enc then gcmText key h.nonce plain else plain
  let tag := if h.enc then gcmTag key h.nonce aad body else []
  h.bytes tag (sha256 (h.bytes tag [] ++ body)) ++ body

/-- The parts of a snapshot range, at most 16 GiB each: offset in the range and length. -/
def rangeParts (len : Nat) : List (Nat × Nat) :=
  (List.range ((len + 0x3FFFFFFFF) / 0x400000000)).map fun i => (i * 0x400000000, min 0x400000000 (len - i * 0x400000000))

/-- The drained bytes of a part of a stack. -/
def Ckp.drainedBytes (k : Ckp) (y start len : Nat) : List Byte :=
  (List.range (len / 65536)).flatMap fun i => Tab.get [] k.bytes (pageKey y (start / 65536 + i))

/-- The payload of the state shard (R410): the step, then the exponent table. -/
def Ckp.statePayload (k : Ckp) : List Byte :=
  leBytes 8 k.step.toNat ++ k.exps.flatMap fun e => leBytes 4 e.1.toNat ++ leBytes 2 e.2.toNat ++ leBytes 2 0

/-- The headers and plaintexts of a checkpoint's shards: the snapshot ranges in image order, then the state shard, whose range index is not
given (log entry 51). -/
def State.shardList (s : State) (p stateRange : Nat) : List (ShardHead × List Byte) :=
  let k := s.ckp p
  let base : ShardHead :=
    { enc := s.flag (CKP_CTL.encrypt p), state := false, job := s.get (LDG_JOB.tag p), step := k.step.toNat, gen := k.gen.toNat,
      package := s.package, rank := (s.gdesc (s.get (CKP_CTL.group p))).rank, stack := 0xFF, range := stateRange, index := 0, off := 0,
      len := 0, digest := 0, slot := s.get (CKP_CTL.key_slot p) }
  let parts := (s.lay.ranges.filter fun r => r.snapshot && r.pen == some p).flatMap fun r =>
    (rangeParts r.len).map fun x =>
      let plain := k.drainedBytes r.stack (r.start + x.1) x.2
      let off := Config.rangeOffset s.package r.index r.stack r.start + x.1
      ({ base with stack := r.stack, range := r.index, off := off, len := plain.length,
                   digest := (stateDigest r.index (off / 8) plain).toNat }, plain)
  let st := k.statePayload
  let all := parts ++ [({ base with state := true, len := st.length, digest := (stateDigest stateRange 0 st).toNat }, st)]
  all.zipIdx.map fun x => ({ x.1.1 with index := x.2 }, x.1.2)

/-! ## The package manifest (R425) -/

/-- The entries of shards laid out from a logical block of the circular area on: their entries, and the next block. -/
def shardEntries : Nat → List (ShardHead × List Byte) → List Byte × Nat
  | b, [] => ([], b)
  | b, x :: t =>
    let next := (b + (x.2.length + 4095) / 4096) % max 1 Config.areaBlocks
    let r := shardEntries next t
    (leBytes 8 b ++ leBytes 8 x.2.length ++ leBytes 1 x.1.stack ++ leBytes 1 x.1.range ++ leBytes 2 x.1.index ++
      leBytes 4 (x.1.enc.toNat + 2 * x.1.state.toNat) ++ fieldBytes x.2 128 32 ++ leBytes 16 x.1.digest ++ leBytes 8 x.1.off ++
      List.replicate 16 0 ++ r.1, r.2)

/-- A message with the device key's signature (R425). -/
def signed (b : List Byte) : List Byte := b ++ (Config.ecdsaSign b).toList

/-- The package manifest; `sha` is the SHA-256 of the ledger record. -/
def State.manifestOf (s : State) (p n : Nat) (entries sha : List Byte) : List Byte :=
  let k := s.ckp p
  let digs := k.record.drop 256
  signed (leBytes 4 0x4E4D4B50 ++ leBytes 2 1 ++ leBytes 2 0 ++ leBytes 8 (s.get (LDG_JOB.tag p)) ++ leBytes 8 k.step.toNat ++
    leBytes 8 k.gen.toNat ++ leBytes 2 s.package ++ leBytes 2 (s.gdesc (s.get (CKP_CTL.group p))).rank ++ leBytes 4 n ++
    leBytes 4 (digs.length / 32) ++ leBytes 4 0 ++ zeroTo 32 sha ++ zeroTo 16 (keyIdentifier Config.deviceKey.toList) ++ List.replicate 32 0 ++ entries ++ digs)

/-- The logical blocks a checkpoint takes. -/
def blocksOf (l : List (List Byte)) : Nat := (l.map fun b => (b.length + 4095) / 4096).foldl (· + ·) 0

/-- The blocks from a block of the circular area to the nearest extent that must stand (R428). -/
def roomFrom (area block : Nat) (live : List (Nat × Nat)) : Nat :=
  live.foldl (fun r e => if e.2 = 0 then r else min r ((e.1 + area - block % area) % area)) area

/-- The blocks the next extent may take without overwriting an extent of the two newest published checkpoints (R428). -/
def Ckp.room (k : Ckp) : Nat := roomFrom (max 1 Config.areaBlocks) k.block k.live

/-- Drain and shard writes are complete, and the package manifest is written (R420, R428): MANIFEST, the manifest's Write in flight. `free` is
the number of free logical blocks of the package area. -/
def State.drainDone (s : State) (p free : Nat) : State :=
  let r := s.draw
  let k := r.2.ckp p
  let heads := r.2.shardList p (r.1.toNat % 256)
  let load := Tab.get 0 s.rot.aes (s.get (CKP_CTL.key_slot p))
  let shards := heads.map fun x => (x.1, x.1.stored load x.2)
  let e := shardEntries k.block shards
  let q := if k.record.isEmpty then r.2.drawBytes 4 else (r.2, sha256 k.record)
  let m := q.1.manifestOf p shards.length e.1 q.2
  let n := blocksOf (shards.map (·.2) ++ [m])
  if free < n ∨ k.room < n then q.1.abandonCkp p 2
  else
    let d := q.1.drawBytes 1
    let rank := (s.gdesc (s.get (CKP_CTL.group p))).rank
    let entry := leBytes 2 s.package ++ leBytes 2 rank ++ d.2.take 4 ++ leBytes 8 e.2 ++ leBytes 8 m.length ++ sha256 m ++ leBytes 8 0
    let kept := heads.zipIdx.map fun x =>
      ({ stack := x.1.1.stack, range := x.1.1.range, index := x.2, off := x.1.1.off, len := x.1.1.len,
         digest := BitVec.ofNat 128 x.1.1.digest, sha := fieldBytes ((shards.getD x.2 (x.1.1, [])).2) 128 32,
         block := fieldNat e.1 (96 * x.2) 8 } : Shard)
    let s1 := d.1.setCkp p { d.1.ckp p with
      shards := kept, manifest := m, entry := entry, first := k.block, used := n, left := free - n,
      block := (e.2 + (m.length + 4095) / 4096) % max 1 Config.areaBlocks }
    (s1.sendNvme p .write).set (CKP_STAT.state p) 2

/-- The package manifest's Write has completed: the coordinator holds its own, a member reports (R419, R420). -/
def State.manifestOut (s : State) (p : Nat) : State :=
  if s.flag (CKP_STAT.coordinator p) then
    let r := (s.gdesc (s.get (CKP_CTL.group p))).rank
    s.setCkp p { s.ckp p with held := r :: (s.ckp p).held.filter fun x => x != r }
  else s.ckpReport p

/-! ## Job manifest and root block (R426, R427, R437) -/

/-- The bytes of the membership records, oldest first. -/
def memberBytes (l : List (Nat × Nat × Nat × List Nat)) : List Byte :=
  l.flatMap fun m =>
    let rem := m.2.2.2.flatMap (leBytes 2)
    leBytes 8 m.1 ++ leBytes 4 m.2.1 ++ leBytes 4 m.2.2.1 ++ leBytes 4 m.2.2.2.length ++ leBytes 4 0 ++ zeroTo ((rem.length + 7) / 8 * 8) rem

/-- The membership records of a job manifest, read back: `n` of them (R437). -/
def membersFrom : Nat → List Byte → List (Nat × Nat × Nat × List Nat)
  | 0, _ => []
  | n + 1, b =>
    let c := fieldNat b 16 4
    (fieldNat b 0 8, fieldNat b 8 4, fieldNat b 12 4, (List.range c).map fun i => fieldNat b (24 + 2 * i) 2) ::
      membersFrom n (b.drop (24 + (2 * c + 7) / 8 * 8))

/-- The shard entries of a package manifest (R425). -/
def entriesOf (m : List Byte) : List (List Byte) := (List.range (fieldNat m 36 4)).map fun i => fieldBytes m (128 + 96 * i) 96

/-- The shard entries of a package manifest that are of snapshot ranges. -/
def rangeShards (m : List Byte) : List (List Byte) := (entriesOf m).filter fun e => fieldNat e 16 1 != 0xFF

/-- A package's entry in the job manifest (R426). -/
def packageEntry (package rank : Nat) (m : MemberManifest) : List Byte :=
  leBytes 2 package ++ leBytes 2 rank ++ leBytes 4 m.ns.toNat ++ leBytes 8 m.block.toNat ++ leBytes 8 m.bytes.length ++ sha256 m.bytes ++ leBytes 8 0

/-- A snapshot range's entry in the job manifest: the sum of the state digests of its shards (R426). -/
def rangeEntry (shards : List (List Byte)) (i : Nat) : List Byte :=
  let l := shards.filter fun e => fieldNat e 17 1 == i
  leBytes 4 i ++ leBytes 12 0 ++ leBytes 16 (l.foldl (fun a e => a + BitVec.ofNat 128 (fieldNat e 56 16)) (0 : U128)).toNat

/-- The job manifest (R426), from the members' manifests by rank; `runS` and `fails` are the job's run time and rollback count. -/
def State.jobManifest (s : State) (p runS fails : Nat) (members : List MemberManifest) : List Byte :=
  let k := s.ckp p
  let d := s.gdesc (s.get (CKP_CTL.group p))
  let others := members.zipIdx.filter fun x => x.2 != d.rank
  let shards := rangeShards k.manifest ++ others.flatMap fun x => rangeShards x.1.bytes
  let own := (s.lay.ranges.filter fun r => r.snapshot && r.pen == some p).map (·.index)
  let ranges := sortBy (fun a b => decide (a ≤ b)) (own ++ shards.map fun e => fieldNat e 17 1).eraseDups
  let entries := members.zipIdx.flatMap fun x => if x.2 = d.rank then k.entry else packageEntry (s.memberAt d x.2) x.2 x.1
  signed (leBytes 4 0x4E4D424A ++ leBytes 2 1 ++ leBytes 2 0 ++ leBytes 8 (s.get (LDG_JOB.tag p)) ++ leBytes 8 k.step.toNat ++
    leBytes 8 k.gen.toNat ++ leBytes 4 d.n ++ leBytes 4 ranges.length ++ leBytes 4 k.members.length ++ leBytes 4 fails ++ leBytes 8 runS ++
    leBytes 8 0 ++ entries ++ ranges.flatMap (rangeEntry shards) ++ memberBytes k.members)

/-- The first 8 bytes of the SHA-256 of a pen's job seed (R427). -/
def State.seedCheck (s : State) (p : Nat) : List Byte :=
  match s.penCtxs p with
  | x :: _ => (sha256 (leBytes 8 (s.get (SEQ_SEED_LO.k0 x.1 x.2)) ++ leBytes 8 (s.get (SEQ_SEED_HI.k1 x.1 x.2)))).take 8
  | [] => (sha256 (leBytes 16 0)).take 8

/-- The root block (R427). The job manifest stands in the coordinator's own package area, at block `first`. -/
def State.rootBlock (s : State) (p first : Nat) : List Byte :=
  let k := s.ckp p
  let b := leBytes 4 0x544F4F52 ++ leBytes 2 1 ++ leBytes 2 0 ++ leBytes 8 k.gen.toNat ++ leBytes 8 (s.get (LDG_JOB.tag p)) ++
    leBytes 8 k.step.toNat ++ fieldBytes k.entry 4 4 ++ leBytes 4 (s.gdesc (s.get (CKP_CTL.group p))).n ++ leBytes 8 first ++
    leBytes 8 k.job.length ++ sha256 k.job ++ s.seedCheck p
  signed (zeroTo 4000 b)

/-- Every member's manifest is held, and the comparison of the marked step, the one before the checkpoint step, neither waits nor has
failed (R420, R330). -/
def State.manifestsHeld (s : State) (p : Nat) : Bool :=
  let d := s.gdesc (s.get (CKP_CTL.group p))
  let k := s.ckp p
  (List.range d.n).all k.held.contains &&
    (!s.teamOn p || !(s.pen p).own.any fun v => !v.void && v.step + 1 == k.step) && !(s.pen p).failed.any fun x => x.2.1.step + 1 == k.step

/-- The coordinator writes the job manifest (R420): PUBLISHED, its Write in flight. Where the area has no room for it, the checkpoint is
abandoned (R428). -/
def State.writeJob (s : State) (p runS fails : Nat) (members : List MemberManifest) : State :=
  let k := s.ckp p
  let j := s.jobManifest p runS fails members
  let n := (j.length + 4095) / 4096
  if k.left < n ∨ k.room < n then s.abandonCkp p 2
  else ((s.setCkp p { k with job := j, rootStage := 1, used := k.used + n }).sendNvme p .write).set (CKP_STAT.state p) 3

/-- An NVMe command completed (R429): the oldest in flight. In MANIFEST it is the package manifest's Write. Of a publication in progress: after
the job manifest's Write its Flush, then the root block's Write to its slot, then a Flush. -/
def State.nvmeDone (s : State) (p : Nat) : State :=
  let k := { s.ckp p with nvme := (s.ckp p).nvme.drop 1 }
  let s1 := s.setCkp p k
  if s.get (CKP_STAT.state p) = 2 then s1.manifestOut p
  else if s.get (CKP_STAT.state p) ≠ 3 then s1
  else match k.rootStage with
    | 1 => (s1.setCkp p { k with rootStage := 2 }).sendNvme p .flush
    | 2 => (s1.setCkp p { k with rootStage := 3, root := s.rootBlock p k.block }).sendNvme p .write
    | 3 =>
      let i := rootSlot (s.get (CKP_CTL.root_slots p) + 1) k.roots
      (s1.setCkp p { k with rootStage := 4, roots := (i, k.gen.toNat) :: k.roots.filter (fun r => r.1 != i),
                            block := (k.block + (k.job.length + 4095) / 4096) % max 1 Config.areaBlocks }).sendNvme p .flush
    | _ => s1.setCkp p { k with rootStage := 5 }

/-! ## Publication and the interval (R420, R430, R431) -/

/-- The integer square root, bit by bit from 2^k. -/
def isqrtBits (n : Nat) : Nat → Nat → Nat
  | 0, r => r
  | k + 1, r => isqrtBits n k (if (r + 2 ^ k) * (r + 2 ^ k) ≤ n then r + 2 ^ k else r)
def isqrtOf (n : Nat) : Nat := isqrtBits n (Nat.log2 (n + 1) / 2 + 1) 0

/-- round(sqrt(2 · C · mtbf) / t) of R430, C in milliseconds, t in microseconds, mtbf = m / n in seconds. -/
def bestInterval (cMs tUs m n : Nat) : Nat := (isqrtOf (4 * (2 * cMs * m * 1000000000) / (n * tUs * tUs)) + 1) / 2

/-- The figures of R430: interval, steps spent writing, mtbf in seconds, and whether the write alone exceeds the bound. -/
def intervalOf (cMs tUs m n maxLost : Nat) : Nat × Nat × Nat × Bool :=
  let w := (cMs * 1000 + tUs - 1) / tUs
  let i := min (max (bestInterval cMs tUs m n) 1) (maxLost - w)
  (max i 1, w, m / n, decide (i < 1))

/-- The root write is complete: the checkpoint is published, the members are told, the next step computed (R420, R430, R431). -/
def State.published (s : State) (p cMs tUs runS fails : Nat) : State :=
  let k := s.ckp p
  let f := intervalOf cMs (max 1 tUs) (runS + s.get (CKP_POLICY.mtbf0_s p)) (fails + 1) (s.get (CKP_POLICY.max_lost p))
  let next := k.step.toNat + f.1
  let miss := f.2.2.2 || (decide (0 < k.took) && decide (k.took < f.2.1))
  let s1 := (((s.set (CKP_COST.c_ms p) cMs).set (CKP_COST.mtbf_s p) (min f.2.2.1 (2 ^ 32 - 1))).set (CKP_STAT.interval p) f.1).set
    (CKP_LAST.step p) k.step.toNat
  let s2 := if miss then s1.set (CKP_STAT.bound_miss p) 1 else s1
  let s3 := ((s2.set (CKP_GEN.gen p) (k.gen.toNat + 1)).set (CKP_STAT.state p) 0).setCkp p { k.kept with took := f.2.1, live := (k.first, k.used) :: k.live.take 1 }
  let s4 := if s.get (LDG_STEP.step p) + 1 < next then s3.set (CKP_NEXT.step p) next else s3
  s4.tellMembers p (ckpBlk p + 0x18) next

/-! ## Restore (R432 to R434) -/

/-- The trusted device key that verifies a signature over all but its last 96 bytes. -/
def signedBy (keys : List (List Byte)) (b : List Byte) : Bool :=
  keys.any fun k => ecdsaVerify k (b.take (b.length - 96)) (b.drop (b.length - 96))

/-- The fields of a stored shard's header. -/
def headOf (b : List Byte) : ShardHead :=
  let f := fieldNat b 6 2
  { enc := bitOf f 0, state := bitOf f 1, job := fieldNat b 8 8, step := fieldNat b 16 8, gen := fieldNat b 24 8,
    package := fieldNat b 32 2, rank := fieldNat b 34 2, stack := fieldNat b 36 1, range := fieldNat b 37 1, index := fieldNat b 38 2,
    off := fieldNat b 40 8, len := fieldNat b 48 8, digest := fieldNat b 64 16, slot := fieldNat b 96 1 }

/-- A header's bytes with the fields [off, off + n) zero. -/
def zeroField (b : List Byte) (off n : Nat) : List Byte := b.take off ++ List.replicate n 0 ++ b.drop (off + n)

/-- The payload of a stored shard in the clear (R424). -/
def State.shardPlain (s : State) (b : List Byte) : List Byte :=
  let h := headOf b
  let body := fieldBytes b 256 h.len
  if h.enc then gcmText (Config.aesKey (Tab.get 0 s.rot.aes h.slot)).toList h.nonce body else body

/-- A stored shard's SHA-256, GCM tag and state digest hold (R432); `sha` is the one its manifest entry names. -/
def State.shardOk (s : State) (b sha : List Byte) : Bool :=
  let h := headOf b
  let body := fieldBytes b 256 h.len
  let aad := zeroField (zeroField (b.take 256) 80 16) 128 32
  let found := sha256 (zeroField (b.take (256 + h.len)) 128 32)
  found == fieldBytes b 128 32 && found == sha &&
    (!h.enc || gcmTag (Config.aesKey (Tab.get 0 s.rot.aes h.slot)).toList h.nonce aad body == fieldBytes b 80 16) &&
    (stateDigest h.range (if h.state then 0 else h.off / 8) (s.shardPlain b)).toNat == h.digest

/-- The shards of one range cover it from `a` to its end without gap or overlap, offsets ascending (R432). -/
def coversFrom (stop : Nat) : Nat → List (Nat × Nat) → Bool
  | a, [] => a == stop
  | a, x :: t => x.1 == a && coversFrom stop (a + x.2) t

/-- The reason of a check that failed, if one did. -/
def firstReason (l : List (Nat × Bool)) : Nat := ((l.find? fun x => x.2).map (·.1)).getD 0

/-- The reason for which a stored checkpoint whose root passed its signature is rejected; 0 for none (R432, R433). -/
def State.checkStored (s : State) (p : Nat) (keys : List (List Byte)) (c : StoredCheckpoint) : Nat :=
  let r := c.root
  let job := c.job.getD []
  let n := fieldNat job 32 4
  let entry := fun i => fieldBytes job (64 + 64 * i) 64
  let pkgs := (List.range n).map fun i => (entry i, (c.packages.getD i none))
  let mans := pkgs.map fun x => x.2.getD []
  let ents := mans.flatMap entriesOf
  let shards := ents.zipIdx.map fun x => (x.1, (c.shards.getD x.2 none))
  let heads := shards.map fun x => headOf (x.2.getD [])
  let same := fun (h : List Byte) => fieldBytes h 8 8 == fieldBytes r 16 8 && fieldBytes h 16 8 == fieldBytes r 24 8 &&
    fieldBytes h 24 8 == fieldBytes r 8 8
  let ranges := (List.range (fieldNat job 36 4)).map fun i => fieldBytes job (64 + 64 * n + 32 * i) 32
  let ofRange := fun i => heads.filter fun h => !h.state && h.range == i
  firstReason
    [(0x11, fieldBytes r 88 8 != s.seedCheck p),
     (0x15, c.job.isNone),
     (0x12, sha256 job != fieldBytes r 56 32),
     (0x10, !signedBy keys job),
     (0x15, pkgs.any fun x => x.2.isNone),
     (0x12, pkgs.any fun x => sha256 (x.2.getD []) != fieldBytes x.1 24 32),
     (0x10, mans.any fun m => !signedBy (keys.filter fun k => keyIdentifier k == fieldBytes m 80 16) m),
     (0x15, shards.any fun x => x.2.isNone),
     (0x12, shards.any fun x => !s.shardOk (x.2.getD []) (fieldBytes x.1 24 32)),
     (0x13, !same job || mans.any (fun m => !same m) || shards.any (fun x => !same (x.2.getD []))),
     (0x14, ranges.any fun e =>
        let l := ofRange (fieldNat e 0 4)
        !coversFrom (Config.rangeBytes (fieldNat e 0 4)) 0 (sortBy (fun a b => decide (a.1 ≤ b.1)) (l.map fun h => (h.off, h.len))) ||
          (l.foldl (fun a h => a + BitVec.ofNat 128 h.digest) (0 : U128)).toNat != fieldNat e 16 16)]

/-- The checkpoints in the order they are tried: roots that pass their signature, newest generation first. -/
def triedInOrder (keys : List (List Byte)) (store : List StoredCheckpoint) : List StoredCheckpoint :=
  sortBy (fun a b => decide (fieldNat b.root 8 8 ≤ fieldNat a.root 8 8)) (store.filter fun c => signedBy keys c.root)

/-- The first acceptable checkpoint; every one rejected is recorded (R432, R433). -/
def State.choose (s : State) (p : Nat) (keys : List (List Byte)) : List StoredCheckpoint → State × Option StoredCheckpoint
  | [] => (s, none)
  | c :: t =>
    let e := s.checkStored p keys c
    if e = 0 then (s, some c) else (s.ckpError p e (fieldNat c.root 24 8)).choose p keys t

/-- The part of a shard that lies in a snapshot range of this package is written to its stack (R434, R435). -/
def State.writePart (s : State) (p : Nat) (r : Range) (h : ShardHead) (plain : List Byte) : State :=
  let base := Config.rangeOffset s.package r.index r.stack r.start
  let lo := max base h.off
  let hi := min (base + r.len) (h.off + h.len)
  if h.state || h.range != r.index || decide (hi ≤ lo) then s
  else s.localWrite (ctlVia 1 (some p)) (stackBase r.stack + r.start + (lo - base)) (fieldBytes plain (lo - h.off) (hi - lo)) false

/-- A shard's data: ranges, or from a state shard the exponents of its tensors into the descriptor tables of the pen's contexts (R434). -/
def State.restoreShard (s : State) (p : Nat) (b : List Byte) : State :=
  let h := headOf b
  let plain := s.shardPlain b
  if h.state then
    (s.penCtxs p).foldl (fun t x => (List.range (t.descCount x.1 x.2)).foldl (fun t i =>
      let tid := (t.ctxDesc x.1 x.2 i).tid
      match (List.range ((plain.length - 8) / 8)).find? (fun j => fieldNat plain (8 + 8 * j) 4 == tid) with
      | some j => t.put (t.descPlace x.1 x.2 i + 28) (fieldBytes plain (12 + 8 * j) 2) false
      | none => t) t) s
  else (s.lay.ranges.filter fun r => r.snapshot && r.pen == some p).foldl (fun t r => t.writePart p r h plain) s

/-- The extent of the package area that a stored checkpoint names for a package: from its first shard to its manifest's end, on the
coordinator to the job manifest's end (R428). -/
def storedExtent (package : Nat) (c : StoredCheckpoint) : Option (Nat × Nat) :=
  let job := c.job.getD []
  ((List.range (fieldNat job 32 4)).find? fun i => fieldNat job (64 + 64 * i) 2 == package).map fun i =>
    let e := fieldBytes job (64 + 64 * i) 64
    let first := fieldNat (((entriesOf ((c.packages.getD i none).getD [])).headD [])) 0 8
    let stop := if i = 0 then fieldNat c.root 40 8 + (fieldNat c.root 48 8 + 4095) / 4096 else fieldNat e 8 8 + (fieldNat e 16 8 + 4095) / 4096
    (first, (stop + max 1 Config.areaBlocks - first) % max 1 Config.areaBlocks)

/-- What the root slots say, read by the restore: which slot holds which generation, and the extents that must stand (R427, R428, R432). -/
def State.readRoots (s : State) (p : Nat) (tried : List StoredCheckpoint) : State :=
  let k := s.ckp p
  let live := (tried.filterMap (storedExtent s.package)).take 2
  let block := match live with
    | e :: _ => (e.1 + e.2) % max 1 Config.areaBlocks
    | [] => k.block
  s.setCkp p { k with roots := tried.map fun c => (c.slot, fieldNat c.root 8 8), live := live, block := block }

/-- The membership changes of the chosen job manifest, then those this unit knows and the manifest does not (R437). -/
def State.readMembers (s : State) (p : Nat) (job : List Byte) : State :=
  let k := s.ckp p
  let l := membersFrom (fieldNat job 40 4) (job.drop (64 + 64 * fieldNat job 32 4 + 32 * fieldNat job 36 4))
  s.setCkp p { k with members := l ++ k.members.filter fun m => !l.contains m }

/-- A restore (R432 to R434). -/
def State.restored (s : State) (p : Nat) (keys : List (List Byte)) (store : List StoredCheckpoint) : State :=
  let s0 := if store.any (fun c => !signedBy keys c.root) then s.ckpError p 0x10 0 else s
  let tried := triedInOrder keys store
  let r := (s0.readRoots p tried).choose p keys tried
  match r.2 with
  | none => r.1.ckpError p 0x16 0
  | some c =>
    let s1 := (c.shards.filterMap id).foldl (fun t b => t.restoreShard p b) (r.1.readMembers p (c.job.getD []))
    s1.set (LDG_STEP.step p) (fieldNat c.root 24 8)

/-! ## The rows -/

/-- The unit of pen p runs: no freeze stops it (R421, R498). -/
def State.ckpLive (s : State) (p state : Nat) : Bool := s.get (CKP_STAT.state p) == state && !s.penFrozen p

/-- DRAIN_PAGE_READ (R416). -/
def execDrainPageRead (p y : Fin 8) (s : State) : Host.Outcome State Fault Refusal :=
  s.yardStep fun s =>
    match s.pagesLeft p.val y.val with
    | pg :: _ => if s.ckpLive p.val 1 then .next (s.drainNext p.val y.val pg) else s.notDue
    | [] => s.notDue

/-- CKP_DRAIN_DONE (R420). -/
def execCkpDrainDone (p : Fin 8) (free : U64) (s : State) : Host.Outcome State Fault Refusal :=
  if s.ckpLive p.val 1 && (List.range 8).all (fun y => (s.pagesLeft p.val y).isEmpty) && (s.ckp p.val).nvme.isEmpty then
    .next (s.drainDone p.val free.toNat)
  else s.notDue

/-- JOB_MANIFEST_WRITE (R420, R426): one manifest a rank; the own rank's place is not looked at. -/
def execJobManifestWrite (p : JobWrite) (s : State) : Host.Outcome State Fault Refusal :=
  let q := p.pen.val
  if s.ckpLive q 2 && s.flag (CKP_STAT.coordinator q) && s.manifestsHeld q && p.members.length == (s.gdesc (s.get (CKP_CTL.group q))).n then
    .next (s.writeJob q p.runS.toNat p.fails.toNat p.members)
  else s.notDue

/-- CKP_PUBLISHED (R420, R430). -/
def execCkpPublished (p : Fin 8) (cMs : U32) (tUs : U64) (runS : U64) (fails : U32) (s : State) : Host.Outcome State Fault Refusal :=
  if s.ckpLive p.val 3 && (s.ckp p.val).rootStage == 5 then
    .next (s.published p.val cMs.toNat tUs.toNat runS.toNat fails.toNat)
  else s.notDue

/-- NVME_COMPLETION (R421, R429): a command completes, or it and its one retry have failed. -/
def execNvmeCompletion (p : Fin 8) (ok : Bool) (s : State) : Host.Outcome State Fault Refusal :=
  if !(s.ckp p.val).nvme.isEmpty && s.awake then .next (if ok then s.nvmeDone p.val else s.dropCkp p.val 1) else s.notDue

/-- CK_PARTIAL (R421): tmo_s have passed, and a member has not reported. -/
def execCkPartial (p : Fin 8) (s : State) : Host.Outcome State Fault Refusal :=
  let d := s.gdesc (s.get (CKP_CTL.group p.val))
  if (s.ckpLive p.val 1 || s.ckpLive p.val 2) && s.flag (CKP_STAT.coordinator p.val) &&
      (List.range d.n).any (fun i => i != d.rank && !(s.ckp p.val).held.contains i) then
    .next (s.abandonCkp p.val 5)
  else s.notDue

/-- RESTORE (R432): no context of the pen runs. -/
def execRestore (p : Fin 8) (keys : List (List Byte)) (store : List StoredCheckpoint) (s : State) : Host.Outcome State Fault Refusal :=
  s.yardStep fun s =>
    if s.penRunning p.val || s.penFrozen p.val then s.notDue else .next (s.restored p.val keys store)

end Sys2Proof.Machine
end

