-- ==== Sys2Proof/Machine/ControlDma.lean ====
section
/-!
DEFINITION. ControlDma.lean: the control die's DMA channels (R468 to R471): taking up a ring's head descriptor, its checks, COPY, IMPORT,
EXPORT, and completion. Operands on other packages (R535) are fetched line by line before the work and sent line by line after it.
-/

namespace Sys2Proof.Machine

/-! ## The descriptor (R469) -/

abbrev cdOp (c : List Byte) : Nat := fieldNat c 0 1
abbrev cdFlags (c : List Byte) : Nat := fieldNat c 1 1
abbrev cdRow0 (c : List Byte) : Nat := fieldNat c 4 4
abbrev cdSrc (c : List Byte) : Nat := fieldNat c 8 8
abbrev cdDst (c : List Byte) : Nat := fieldNat c 16 8
abbrev cdDescAt (c : List Byte) : Nat := fieldNat c 24 8
abbrev cdRows (c : List Byte) : Nat := fieldNat c 32 4 + 1
abbrev cdDone (c : List Byte) : Nat := fieldNat c 40 8
abbrev cdErr (c : List Byte) : Nat := fieldNat c 48 8
/-- The source, and the destination, is an offset into the shared SRAM. -/
abbrev cdSrcSram (c : List Byte) : Bool := bitOf (cdFlags c) 4
abbrev cdDstSram (c : List Byte) : Bool := bitOf (cdFlags c) 5
/-- Class P0. -/
abbrev cdExped (c : List Byte) : Bool := bitsOf (cdFlags c) 2 2 == 0

/-- The IEEE type (R238). -/
def cdIeee (c : List Byte) : Ieee :=
  match bitsOf (cdFlags c) 0 2 with
  | 0 => binary16
  | 1 => binary32
  | _ => binary64

/-- CD_OP: a reserved op, bit or field. -/
def cdBadOp (c : List Byte) : Bool :=
  decide (2 < cdOp c) || bitsOf (cdFlags c) 6 2 != 0 || fieldNat c 2 2 != 0 || fieldNat c 36 4 != 0 ||
    (cdOp c != 0 && bitsOf (cdFlags c) 0 2 == 3)

/-! ## The channel -/

/-- The entries of channel n's ring. -/
def State.cdEntries (s : State) (n : Nat) : Nat := 16 * 2 ^ s.get (CD_DMAQ.size n)

/-- The ring slot that the channel completes next; the ring wraps inside the shared SRAM. -/
def State.cdSlot (s : State) (n : Nat) : Nat :=
  sharedBase + (64 * s.get (CD_DMAQ.base n) + 64 * (s.get (CD_DMAQ.head n) % s.cdEntries n)) % 0x04000000

/-- The channel has a descriptor to work on: not stopped, its ring not empty, the control die running (R470, R498). -/
def State.cdReady (s : State) (n : Nat) : Bool :=
  s.awake && !bitOf (s.get CD_DMA_STAT.stopped) n && s.get (CD_DMAQ.head n) != s.get (CD_DMAQ.tail n)

/-- The head descriptor is taken up, unless it is. One with a reserved op, or in an SRAM slot that cannot be read, ends at once. -/
def State.cdTake (s : State) (n : Nat) : State :=
  if (s.cdrun n).desc.isEmpty then
    let c := s.read (s.cdSlot n) 64
    let st := if s.readUe (s.cdSlot n) 64 then 7 else if 2 < cdOp c then 1 else 0
    (s.setCdrun n { CdRun.idle with desc := c, status := st, worked := st != 0 }).set CD_DMA_STAT.busy
      (s.get CD_DMA_STAT.busy ||| 2 ^ n)
  else s

/-! ## Operands -/

/-- CD_ADDR: may the channel reach [g, g + len) (R13, R470, R471)? Another package judges its own addresses (R535). -/
def State.cdRange (s : State) (n : Nat) (sram : Bool) (g len : Nat) : Bool :=
  if sram then decide (g + len ≤ 0x04000000)
  else if !s.ownPackage g then true
  else
    let a := localOf g
    match s.cdPen n with
    | some p => s.penRange (some p) a len
    | none => s.rangeMapped a len || (inShared a && inShared (a + len - 1))

/-- Where the bytes of an operand stand while the work is done: their own place, or for another package's a place above every local
address, kept apart by `k`. -/
def State.cdPlace (s : State) (k : Nat) (sram : Bool) (g : Nat) : Nat :=
  if sram then sharedBase + g else if s.ownPackage g then localOf g else 2 ^ 46 * (k + 1) + g % 2 ^ 46

/-- [g, g + len) in lines. -/
def gLines (g len : Nat) : List (Nat × Nat) :=
  (List.range ((g % 256 + len + 255) / 256)).map fun i => (g + lineOffset g i, lineLen g len (lineOffset g i))

/-- The lines to be fetched of an operand: those of another package. -/
def State.cdFetchLines (s : State) (sram : Bool) (g len : Nat) : List (Nat × Nat) :=
  if sram || s.ownPackage g then [] else gLines g len

/-- The bytes that came for piece i, in pieces of 16. -/
def CdRun.piece (r : CdRun) (i : Nat) : List (List Byte × Bool) :=
  let g := Tab.get ([], 0) r.got i
  maskedPieces g.2 g.1

/-- Pieces come to stand at a place. -/
def State.cdPut (s : State) (a : Nat) (l : List (List Byte × Bool)) : State :=
  (pieceRun a l).foldl (fun t x => t.put x.1 x.2.1 x.2.2) s

/-- The fetched lines from number i on of an operand are put in their place. -/
def State.cdLoad (s : State) (r : CdRun) (i k g len : Nat) : State :=
  (gLines g len).zipIdx.foldl (fun t x => t.cdPut (t.cdPlace k false x.1.1) (r.piece (i + x.2))) s

/-- The places above every local address are emptied. -/
def State.cdClean (s : State) : State :=
  { s with mem := ⟨s.mem.cells.filter fun e => decide (e.1 < 2 ^ 46), s.mem.marks.filter fun e => decide (e.1 < 2 ^ 43)⟩ }

/-- A packet of the channel for one line; one that no port can take is answered at once (R358). -/
def State.cdPacket (s : State) (n : Nat) (k : Packet) : State :=
  let r := s.cdrun n
  let p := s.cdPen n
  if r.status ≠ 0 then s
  else
    let q := (s.setCdrun n { r with acks := r.acks + 1 }).route p 64 k 0
    if q.2.isNone then q.1.refuse p (p.elim 0 fun x => s.dieMap x k.dst.toNat) k 1 else q.1

/-- A line request of the channel, of any type. -/
def State.cdLine (s : State) (n i g : Nat) : Packet :=
  { ptype := .rdReq, exped := cdExped (s.cdrun n).desc, hops := 0, dst := BitVec.ofNat 16 (g / 2 ^ 48), src := BitVec.ofNat 16 s.package, group := 0,
    mask := 0, tag := BitVec.ofNat 32 (cdTag n i), wordA := BitVec.ofNat 64 (localOf g), wordB := 0, payload := [] }

/-- Lines are asked for. -/
def State.cdAsk (s : State) (n : Nat) (l : List (Nat × Nat)) : State :=
  l.foldl (fun t x =>
    let r := t.cdrun n
    let k := t.cdLine n r.asked.length x.1
    (t.setCdrun n { r with asked := r.asked ++ [x] }).cdPacket n { k with wordB := BitVec.ofNat 64 (x.2 - 1) }) s

/-- The bytes of a line at place a, and its poison mask. -/
def State.cdPayload (s : State) (a len : Nat) : List Byte × Nat :=
  (s.read a len, payloadMask (((List.range ((len + 15) / 16)).filter fun i => s.readBad (a + 16 * i) (min 16 (len - 16 * i))).map
    fun i => (16 * i, min 16 (len - 16 * i))))

/-- Bytes of an operand that lies on another package are sent there. -/
def State.cdSend (s : State) (n k : Nat) (sram : Bool) (g len : Nat) : State :=
  (s.cdFetchLines sram g len).foldl (fun t x =>
    let b := t.cdPayload (t.cdPlace k false x.1) x.2
    let q := t.cdLine n (2 ^ 25) x.1
    t.cdPacket n { q with ptype := .wr, payload := b.1, mask := BitVec.ofNat 16 b.2 }) s

/-! ## The tensor -/

/-- The lines of a tensor descriptor that lies on another package. -/
def State.cdDescLines (s : State) (c : List Byte) : List (Nat × Nat) := s.cdFetchLines false (cdDescAt c) 64

/-- The tensor descriptor's bytes, and whether one was uncorrectable; those of another package have come. -/
def State.cdDescBytes (s : State) (r : CdRun) : List Byte × Bool :=
  let g := cdDescAt r.desc
  if s.ownPackage g then (s.read (localOf g) 64, s.readUe (localOf g) 64)
  else
    let l := (List.range (s.cdDescLines r.desc).length).flatMap r.piece
    (l.flatMap (·.1), l.any (·.2))

/-- The bytes of the command's rows in the element plane and in the shift plane, as global address and length. -/
def Desc.rowsElem (d : Desc) (row0 n : Nat) : Nat × Nat := (d.elem + d.format.offset (row0 * d.cols), d.format.offset n)
def Desc.rowsShift (d : Desc) (row0 n : Nat) : Nat × Nat :=
  if d.format.block then (d.shift + row0 * (d.cols / d.format.len), n / d.format.len) else (d.shift, 0)

/-- The descriptor with its planes where their bytes stand. -/
def State.cdTensor (s : State) (d : Desc) : Desc :=
  { d with elem := s.cdPlace 0 false d.elem, shift := s.cdPlace 1 false d.shift }

/-- The IEEE buffer: whether it is an SRAM offset, its address. -/
def cdBuffer (c : List Byte) : Bool × Nat := if cdOp c = 1 then (cdSrcSram c, cdSrc c) else (cdDstSram c, cdDst c)

/-- The checks of an import or export, in R240's order: status and detail. -/
def State.cdCheck (s : State) (n : Nat) (c : List Byte) (d : Desc) (ue : Bool) : Nat × Nat :=
  let b := cdBuffer c
  if s.descFault d ≠ 0 then (2, s.descFault d)
  else if d.rows < cdRow0 c + cdRows c then (4, 0)
  else if !(d.planes.all fun r => s.cdRange n false r.1 r.2) || !s.cdRange n b.1 b.2 (cdRows c * d.cols * ((cdIeee c).bits / 8)) then (5, 0)
  else if ue then (7, 0)
  else (0, 0)

/-! ## The work -/

/-- Behind the accesses of channel n's descriptor c, in the class it names (R257, R469). -/
def State.cdVia (s : State) (n : Nat) (c : List Byte) : Via :=
  { pen := s.cdPen n, port := .control, cls := bitsOf (fieldNat c 1 1) 2 2, who := 200 + n }

/-- COPY's bytes of [o, o + l) from place a: pieces where 16-byte units of the source end (R270). -/
def State.copyPieces (s : State) (a o l : Nat) : List (List Byte × Bool) :=
  (codewordCuts 17 (a + o) o l).map fun x => (s.read (a + x.1) x.2, s.readBad (a + x.1) x.2)

/-- COPY (R469): the source is read, then the destination written. -/
def State.copyWork (s : State) (n : Nat) (r : CdRun) : State :=
  let c := r.desc
  let len := cdRows c
  let v := s.cdVia n c
  let a := s.cdPlace 0 (cdSrcSram c) (cdSrc c)
  let b := s.cdPlace 2 (cdDstSram c) (cdDst c)
  let s1 := if (s.cdFetchLines (cdSrcSram c) (cdSrc c) len).isEmpty then s.countRead v a len else s.cdLoad r 0 0 (cdSrc c) len
  let l := (gLines b len).map fun x => (x.1, s1.copyPieces a (x.1 - b) x.2)
  let s2 := l.foldl (fun t x => t.lineWrite v x.1 x.2) s1
  let s3 := s2.cdSend n 2 (cdDstSram c) (cdDst c) len
  s3.cdClean.setCdrun n { s3.cdrun n with worked := true, units := (len + 255) / 256, detail := if (s3.cdrun n).status = 0 then (l.any fun x => x.2.any (·.2)).toNat else (s3.cdrun n).detail }

/-- How many elements stand before the block of the first NaN of an import's rows. -/
def State.beforeNan (s : State) (buf row0 rows : Nat) (f : Ieee) (d : Desc) : Nat :=
  match (List.range (rows * d.cols)).find? fun e =>
      let v := s.ieeeAt buf row0 f d (row0 + e / d.cols) (e % d.cols)
      !v.2 && f.value v.1 == .nan with
  | some e => e / d.format.len * d.format.len
  | none => rows * d.cols

/-- IMPORT (R57 to R59, R62, R241, R316, R469): what is counted reaches the pen's step ledger. -/
def State.cdImport (s : State) (n : Nat) (r : CdRun) (d : Desc) (i : Nat) : State :=
  let c := r.desc
  let p := s.cdPen n
  let v := s.cdVia n c
  let f := cdIeee c
  let b := cdBuffer c
  let len := cdRows c * d.cols * (f.bits / 8)
  let buf := s.cdPlace 2 b.1 b.2
  let s1 := if (s.cdFetchLines b.1 b.2 len).isEmpty then s.countRead v buf len else s.cdLoad r i 2 b.2 len
  let m := s1.importRows Run.outside buf (cdRow0 c) (cdRows c) f (s.cdTensor d) (s.digestCtx 8 p)
  let done := if m.nan.isSome then s1.beforeNan buf (cdRow0 c) (cdRows c) f d else cdRows c * d.cols
  let e := d.rowsElem (cdRow0 c) done
  let h := d.rowsShift (cdRow0 c) done
  let w := (m.out.st.putPieces v false .write m.out.plane).putPieces v false .write m.out.shifts
  let s2 := ((w.countPen p m.cnt).cdSend n 0 false e.1 e.2).cdSend n 1 false h.1 h.2
  let q := s2.cdrun n
  s2.cdClean.setCdrun n { q with worked := true, units := m.out.run.rows, sat := m.cnt.sat, unf := m.cnt.unf, nan := m.nan,
                                 status := if q.status = 0 ∧ m.nan.isSome = true then 6 else q.status,
                                 detail := if q.status = 0 ∧ m.nan = none then m.out.run.poisoned.toNat else q.detail }

/-- EXPORT (R60 to R62, R469): what is counted reaches the pen's step ledger. -/
def State.cdExport (s : State) (n : Nat) (r : CdRun) (d : Desc) (i : Nat) : State :=
  let c := r.desc
  let p := s.cdPen n
  let v := s.cdVia n c
  let f := cdIeee c
  let b := cdBuffer c
  let e := d.rowsElem (cdRow0 c) (cdRows c * d.cols)
  let h := d.rowsShift (cdRow0 c) (cdRows c * d.cols)
  let le := (s.cdFetchLines false e.1 e.2).length
  let s1 := if le = 0 then s.countRead v (localOf e.1) e.2 else s.cdLoad r i 0 e.1 e.2
  let s2 := if h.2 = 0 then s1 else if s.ownPackage h.1 then s1.countRead v (localOf h.1) h.2 else s1.cdLoad r (i + le) 1 h.1 h.2
  let x := s2.exportRows (s.cdPlace 2 b.1 b.2) (cdRow0 c) (cdRows c) f (s.cdTensor d)
  let s3 := ((s2.putPieces v false .write x.1).countPen p x.2).cdSend n 2 b.1 b.2 (cdRows c * d.cols * (f.bits / 8))
  let q := s3.cdrun n
  s3.cdClean.setCdrun n { q with worked := true, units := cdRows c, sat := x.2.sat }

/-- The lines of other packages that the descriptor's work reads, beyond its tensor descriptor. -/
def State.cdNeeds (s : State) (c : List Byte) (d : Desc) : List (Nat × Nat) :=
  let e := d.rowsElem (cdRow0 c) (cdRows c * d.cols)
  let h := d.rowsShift (cdRow0 c) (cdRows c * d.cols)
  match cdOp c with
  | 0 => s.cdFetchLines (cdSrcSram c) (cdSrc c) (cdRows c)
  | 1 => s.cdFetchLines (cdSrcSram c) (cdSrc c) (cdRows c * d.cols * ((cdIeee c).bits / 8))
  | _ => s.cdFetchLines false e.1 e.2 ++ s.cdFetchLines false h.1 h.2

/-- One step of a COPY: its checks, then a request for the lines it lacks, or the work. -/
def State.copyStep (s : State) (n : Nat) : State :=
  let r := s.cdrun n
  let c := r.desc
  let needs := s.cdFetchLines (cdSrcSram c) (cdSrc c) (cdRows c)
  if cdBadOp c then s.cdEnd n 1 0
  else if !s.cdRange n (cdSrcSram c) (cdSrc c) (cdRows c) || !s.cdRange n (cdDstSram c) (cdDst c) (cdRows c) then s.cdEnd n 5 0
  else if r.asked.length < needs.length then s.cdAsk n (needs.drop r.asked.length)
  else s.copyWork n r

/-- The work of an import or export whose tensor descriptor is at hand. -/
def State.tensorStep (s : State) (n : Nat) (r : CdRun) (first : Nat) (b : List Byte × Bool) : State :=
  let d := descOf b.1
  let k := s.cdCheck n r.desc d b.2
  let needs := s.cdNeeds r.desc d
  let own := r.asked.length - first
  if k.1 ≠ 0 then s.cdEnd n k.1 k.2
  else if own < needs.length then s.cdAsk n (needs.drop own)
  else if cdOp r.desc = 1 then s.cdImport n r d first
  else s.cdExport n r d first

/-- One step of an import or export. -/
def State.convertStep (s : State) (n : Nat) : State :=
  let r := s.cdrun n
  let c := r.desc
  let dl := s.cdDescLines c
  if cdBadOp c then s.cdEnd n 1 0
  else if !s.cdRange n false (cdDescAt c) 64 then s.cdEnd n 5 0
  else if r.asked.length < dl.length then s.cdAsk n (dl.drop r.asked.length)
  else s.tensorStep n r dl.length (s.cdDescBytes r)

/-- The head descriptor of channel n, with this op, has work to do. -/
def State.cdWorks (s : State) (n op : Nat) : Bool :=
  s.cdReady n && cdOp ((s.cdTake n).cdrun n).desc == op && !((s.cdTake n).cdrun n).worked && ((s.cdTake n).cdrun n).acks == 0

/-! ## Completion (R470) -/

/-- The completion record. -/
def CdRun.record (r : CdRun) : List Byte :=
  leBytes 1 r.status ++ leBytes 1 r.detail ++ leBytes 2 0 ++ leBytes 4 r.units ++ leBytes 8 (r.nan.getD (2 ^ 64 - 1)) ++ leBytes 4 r.sat ++
    leBytes 4 r.unf ++ leBytes 8 0

/-- The descriptor in flight completes: record, head, and only then the bell; a status other than 0 stops the channel. -/
def State.cdComplete (s : State) (n : Nat) : State :=
  let r := s.cdrun n
  let busy := s.get CD_DMA_STAT.busy
  let s1 := s.localWrite (s.cdVia n r.desc) (s.cdSlot n) r.record false
  let s2 := (s1.set (CD_DMAQ.head n) ((s.get (CD_DMAQ.head n) + 1) % s.cdEntries n)).setCdrun n CdRun.idle
  let s3 := s2.set CD_DMA_STAT.busy (busy - (busy &&& 2 ^ n))
  let s4 := if r.status = 0 then s3 else s3.set CD_DMA_STAT.stopped (s.get CD_DMA_STAT.stopped ||| 2 ^ n)
  match s.cdPen n with
  | some p => s4.ringName (some p) (if r.status = 0 then cdDone r.desc else cdErr r.desc) 1 false
  | none => s4

/-! ## The rows -/

/-- COPY (R469, R471). -/
def execCopy (n : Fin 16) (s : State) : Host.Outcome State Fault Refusal :=
  s.yardStep fun s =>
    if s.cdWorks n.val 0 then .next ((s.cdTake n.val).copyStep n.val) else s.notDue

/-- IMPORT on the control die (R469). -/
def execDmaImport (n : Fin 16) (s : State) : Host.Outcome State Fault Refusal :=
  s.yardStep fun s =>
    if s.cdWorks n.val 1 then .next ((s.cdTake n.val).convertStep n.val) else s.notDue

/-- EXPORT on the control die (R469). -/
def execDmaExport (n : Fin 16) (s : State) : Host.Outcome State Fault Refusal :=
  s.yardStep fun s =>
    if s.cdWorks n.val 2 then .next ((s.cdTake n.val).convertStep n.val) else s.notDue

/-- CD_DMA_COMPLETE (R470). -/
def execCdDmaComplete (n : Fin 16) (s : State) : Host.Outcome State Fault Refusal :=
  s.yardStep fun s =>
    if s.cdReady n.val && ((s.cdTake n.val).cdrun n.val).worked && ((s.cdTake n.val).cdrun n.val).acks == 0 then
      .next ((s.cdTake n.val).cdComplete n.val)
    else s.notDue

end Sys2Proof.Machine
end

