-- ==== Sys2Proof/Machine/Watch.lean ====
section
/-!
DEFINITION. Watch.lean: bell watches (R472), scoring requests (R473), RoCE queue pairs (R477), PCIe (R478), and the root of trust (R482).
-/

namespace Sys2Proof.Machine

/-! ## Bell watches (R472) -/

/-- The die and the bell that watch n names. -/
def State.watchDie (s : State) (n : Nat) : Nat := bitsOf (s.get (CD_WATCH.bell n)) 12 2
def State.watchBell (s : State) (n : Nat) : Nat := bitsOf (s.get (CD_WATCH.bell n)) 0 12

/-- The enabled, not pending watch n would fire on its bell now: err, or the count has reached the threshold. A bell name whose die code is
no compute die names no bell. -/
def State.watchMet (s : State) (n : Nat) : Bool :=
  s.flag (CD_WATCH.enable n) && !s.flag (CD_WATCH.pending n) && !bitOf (s.get (CD_WATCH.bell n)) 14 &&
    (s.flag (BEL_VAL.err (s.watchDie n) (s.watchBell n)) ||
      decide (s.get (CD_WATCH.threshold n) ≤ s.get (BEL_VAL.count (s.watchDie n) (s.watchBell n))))

/-- A lower-numbered watch on the same bell comes first. -/
def State.watchBefore (s : State) (n : Nat) : Bool :=
  (List.range n).any fun m => s.get (CD_WATCH.bell m) == s.get (CD_WATCH.bell n) && s.watchMet m

/-- Context h of die d is held on an AWAIT of this bell that passes or faults now: it is tested before the watches (R146). -/
def State.awaitFirst (s : State) (d h bell : Nat) : Bool :=
  let n := s.dieWord d h (s.pc d h)
  s.cstate d h == 4 && s.get (SEQ_STATUS.held_reason d h) == 1 && s.ctxLive d h && dwBell n == bell &&
    s.awaitTest d h bell (dwCount n) != .wait

/-- The bell's die has cycles: no freeze gates both its halves (R498). -/
def State.dieLive (s : State) (d : Nat) : Bool := s.ctxLive d 0 || s.ctxLive d 1

/-- An interrupt to a core: a trap outside a vector memory instruction leaves TSTAT.elem at 0 (R466). -/
def State.interrupt (s : State) (core n : Nat) : State :=
  s.setHcore core { s.hcore core with irqs := (s.hcore core).irqs ++ [n], tElem := 0 }

/-- The audit trailer of the scoring response that the watch's interrupt leads to (R473, R474): the pen that owns the output bell, the step, and
the digest entry of its score tensor, with the watch's own error as flag 2. -/
def State.auditTrailer (s : State) (n : Nat) : List Byte :=
  let p := s.get (BEL_OWN.pen (s.watchDie n) (s.watchBell n))
  let e := Tab.get Dig.zero (s.penDigests p) (Config.scoreTensor n % 4096)
  leBytes 4 0x54445541 ++ leBytes 2 s.package ++ leBytes 1 p ++
    leBytes 1 (e.poison.toNat + 2 * e.conflict.toNat + 4 * (s.flag (CD_WATCH.error n)).toNat) ++
    leBytes 8 (s.get (LDG_STEP.step p)) ++ leBytes 16 e.sum.toNat ++ leBytes 8 e.count ++ leBytes 8 0

/-- The interrupted core reads the score's digest entry and answers with the trailer (R473, stages 5 to 7). -/
def State.sendTrailer (s : State) (core n : Nat) : State := s.setHcore core { s.hcore core with trailer := s.auditTrailer n }

/-- The watch fires: on err it subtracts nothing and sets error; otherwise it subtracts its threshold. It interrupts once. -/
def State.watchFire (s : State) (n : Nat) : State :=
  let v := BEL_VAL.count (s.watchDie n) (s.watchBell n)
  let s1 := if s.flag (BEL_VAL.err (s.watchDie n) (s.watchBell n)) then s.set (CD_WATCH.error n) 1
    else s.set v (s.get v - s.get (CD_WATCH.threshold n))
  let s2 := (s1.set (CD_WATCH.pending n) 1).interrupt (s.get (CD_WATCH.core n)) n
  s2.sendTrailer (s.get (CD_WATCH.core n)) n

/-- WATCH_FIRE (R472). -/
def execWatchFire (n : Fin 64) (s : State) : Host.Outcome State Fault Refusal :=
  let d := s.watchDie n.val
  let b := s.watchBell n.val
  if s.dieLive d && s.watchMet n.val && !s.watchBefore n.val && !s.awaitFirst d 0 b && !s.awaitFirst d 1 b then .next (s.watchFire n.val)
  else s.notDue

/-! ## The scoring path (R473, R476) -/

/-- SCORE_REQUEST: a frame on a port that carries requests. A UDP port equal to CD_SCORE.udp_port, which is not 0, steers it to a main core by its
flow (log entry 52); another frame is the firmware's, which gets it unsteered. -/
def execScoreRequest (n : Fin 4) (udpPort : U16) (flow : U32) (s : State) : Host.Outcome State Fault Refusal :=
  if !s.awake || !s.flag (CD_ETH.up n.val) then s.notDue
  else if s.get CD_SCORE.udp_port == udpPort.toNat && udpPort != 0 && bitOf (s.get (CD_ETH.role n.val)) 1 then
    let c := Config.flowHash flow % 32
    .next ((s.setHcore c { s.hcore c with frames := (s.hcore c).frames + 1 }).answer .accepted)
  else .next (s.answer .none)

/-! ## RoCE (R477) -/

/-- CNP_RECEIVE: the queue pair's rate is halved. -/
def execCnpReceive (qp : Nat) (s : State) : Host.Outcome State Fault Refusal :=
  if s.awake then .next (s.setQpair qp { s.qpair qp with halvings := (s.qpair qp).halvings + 1 }) else s.notDue

/-- One step of 5 % of full rate is regained; at full rate nothing is. -/
def QPair.regain (q : QPair) : QPair :=
  if 20 * 2 ^ q.halvings ≤ q.rate + 2 ^ q.halvings then { q with rate := 20, halvings := 0 } else { q with rate := q.rate + 2 ^ q.halvings }

/-- RATE_REGAIN_TIMER. -/
def execRateRegainTimer (qp : Nat) (s : State) : Host.Outcome State Fault Refusal :=
  if s.awake then .next (s.setQpair qp (s.qpair qp).regain) else s.notDue

/-- ECN_MARKED_RECEIVE: a CNP is sent. -/
def execEcnMarkedReceive (qp : Nat) (s : State) : Host.Outcome State Fault Refusal :=
  if s.awake then .next (s.setQpair qp { s.qpair qp with cnps := (s.qpair qp).cnps + 1 }) else s.notDue

/-- Does the buffer of the command in flight on the queue pair hold [a, a + n)? -/
def QPair.inBuffer (q : QPair) (a n : Nat) : Bool :=
  match q.buffer with
  | some (b, l) => decide (b ≤ a) && decide (a + n ≤ b + l)
  | none => false

/-- A read or write by the target in shared SRAM (R477). -/
def State.rdma (s : State) (write : Bool) (a n : Nat) (data : List Byte) : State :=
  if write then (s.put (sharedBase + a) data false).answer .accepted
  else s.answer (.data (s.read (sharedBase + a) n) ((List.range n).filter fun i => i % 8 == 0 && s.readBad (sharedBase + a + i) (min 8 (n - i))))

/-- RDMA_TARGET_ACCESS: only within the buffer of the command in flight; anything else is a remote access error. -/
def execRdmaTargetAccess (qp : Nat) (write : Bool) (addr : BitVec 26) (len : Nat) (data : List Byte) (s : State) : Host.Outcome State Fault Refusal :=
  let n := if write then data.length else len
  if !s.awake then s.notDue
  else if (s.qpair qp).inBuffer addr.toNat n && decide (addr.toNat + n ≤ 0x04000000) then .next (s.rdma write addr.toNat n data)
  else .next (s.answer .remoteError)

/-! ## PCIe (R478) -/

/-- The system range that CD_PCIE.window names, if the image has it: local address and length. -/
def State.pcieRange (s : State) : Option (Nat × Nat) :=
  ((s.lay.ranges.filter fun r => r.pen.isNone)[s.get CD_PCIE.window]?).map fun r => (stackBase r.stack + r.start, r.len)

/-- A host access of the window in memory. -/
def State.windowAccess (s : State) (a n : Nat) (write : Option (List Byte)) : State :=
  match write with
  | some bs => (s.localWrite (ctlVia 3 none) a bs false).answer .accepted
  | none => (s.countRead (ctlVia 3 none) a n).answer (.data (s.read a n) ((List.range n).filter fun i => i % 8 == 0 && s.readBad (a + i) (min 8 (n - i))))

/-- An access of BAR0: the mailbox and doorbells of the service cores, whose contents the spec does not give: reads return free bytes, and what a
write sets off is the firmware's. -/
def State.mailboxAccess (s : State) (n : Nat) (write : Option (List Byte)) : State :=
  match write with
  | some _ => s.answer .accepted
  | none => let r := s.drawBytes ((n + 7) / 8); r.1.answer (.data (r.2.take n) [])

/-- PCIE_HOST_ACCESS: BAR0, 16 MiB, and BAR2, 64 GiB, of the endpoint. -/
def execPcieHostAccess (bar : Nat) (off : U64) (len : Nat) (write : Option (List Byte)) (s : State) : Host.Outcome State Fault Refusal :=
  s.yardStep fun s =>
    let n := match write with | some bs => bs.length | none => len
    let o := off.toNat
    if !s.awake || s.pcieRole != 2 then s.notDue
    else if bar = 0 ∧ o + n ≤ 0x1000000 then .next (s.mailboxAccess n write)
    else if bar = 2 ∧ o + n ≤ 0x1000000000 then
      match s.pcieRange with
      | some r => .next (if o + n ≤ r.2 then s.windowAccess (r.1 + o) n write else s.answer .unsupported)
      | none => .next (s.answer .unsupported)
    else .next (s.answer .unsupported)

/-- PCIE_INBOUND_DMA: a write by the device below the root port, accepted only into the window's system range. -/
def execPcieInboundDma (addr : U64) (data : List Byte) (s : State) : Host.Outcome State Fault Refusal :=
  s.yardStep fun s =>
    let a := localOf addr.toNat
    if !s.awake || s.pcieRole != 1 then s.notDue
    else match s.pcieRange with
      | some r =>
        if s.ownPackage addr.toNat && decide (r.1 ≤ a) && decide (a + data.length ≤ r.1 + r.2) then .next (s.windowAccess a data.length (some data))
        else .next (s.answer .refused)
      | none => .next (s.answer .refused)

/-! ## The root of trust (R482) -/

/-- A command is refused and counted. -/
def State.rotRefuse (s : State) : State := (s.inc CD_BOOT.rot_refused 1).answer .refused

/-- The command's sequence number is above the last one accepted. -/
def State.rotFresh (s : State) (c : RotCmd) : Bool := decide (s.rot.lastSeq ≤ c.seq.toNat)

/-- The owner key signed the command. -/
def State.rotSigned (s : State) (c : RotCmd) : Bool :=
  match s.rot.owner with
  | some k => ecdsaVerify k c.msg c.sig
  | none => false

/-- ROT_ENROL: an owner key, the first of which needs no signature, or a layout key into one of 8 slots. `lastSeq` holds the last accepted
number plus 1, 0 for none. -/
def execRotEnrol (cmd : RotCmd) (s : State) : Host.Outcome State Fault Refusal :=
  if !s.awake then s.notDue
  else if !s.rotFresh cmd || !(s.rotSigned cmd || (cmd.owner && s.rot.owner.isNone)) then .next s.rotRefuse
  else if cmd.owner then .next ({ s with rot := { s.rot with owner := some cmd.key, lastSeq := cmd.seq.toNat + 1 } }.answer .accepted)
  else if 8 ≤ cmd.slot.val then .next (s.answer .refused)
  else .next ({ s with rot := { s.rot with layout := Tab.set [] s.rot.layout cmd.slot.val cmd.key, lastSeq := cmd.seq.toNat + 1 } }.answer .accepted)

/-- ROT_KEY_LOAD: an AES-256 key, signed by the owner, into one of 16 slots; its high-water mark stays. -/
def execRotKeyLoad (cmd : RotCmd) (s : State) : Host.Outcome State Fault Refusal :=
  if !s.awake then s.notDue
  else if !s.rotFresh cmd || !s.rotSigned cmd then .next s.rotRefuse
  else .next ({ s with rot := { s.rot with aes := Tab.set 0 s.rot.aes cmd.slot.val (s.rot.loads + 1), loads := s.rot.loads + 1,
                                           lastSeq := cmd.seq.toNat + 1 } }.answer .accepted)

end Sys2Proof.Machine
end

