-- ==== Sys2Proof/Machine/Hiold.lean ====
section
/-!
DEFINITION. Hiold.lean: the record loads and stores of the Hiold-64 cores' vector extension and their faults (R464 to R467).
-/

namespace Sys2Proof.Machine

/-! ## Records -/

/-- A main core's number is below 32; the others are the service cores (R463). -/
def serviceCore (c : Nat) : Bool := decide (32 ≤ c)

/-- The bytes of a vector register: 2,048 bits, or 256 on a service core (R463). -/
def vlenBytes (c : Nat) : Nat := if serviceCore c then 32 else 256

/-- The read-only capacity VCAPz of core c: the elements of z bytes a vector register holds (R464). -/
def vcap (c z : Nat) : Nat := vlenBytes c / z

/-- The records an instruction processes: min(count, capacity), the capacity taken at the field width (R464, R465). -/
def VecPending.records (v : VecPending) (c : Nat) : Nat := min v.count.toNat (vcap c v.z)

/-- The global address of record i, and its length. -/
def VecPending.recAddr (v : VecPending) (i : Nat) : Nat := (v.base.toNat + i * v.nf * v.z) % 2 ^ 64
def VecPending.recLen (v : VecPending) : Nat := v.nf * v.z

/-- The instruction is legal: a field width of 1, 2, 4 or 8 bytes, and nf distinct registers (R465). -/
def VecPending.legal (v : VecPending) : Bool :=
  (v.z == 1 || v.z == 2 || v.z == 4 || v.z == 8) && v.regs.length == v.nf && v.regs.eraseDups.length == v.nf

/-- Does a write of [a, a + n) meet the store region of a context that is not IDLE (R121)? -/
def State.closedAt (s : State) (a n : Nat) : Bool :=
  let d := (a - 0x020000000000) / 0x20000000
  let o := (a - 0x020000000000) % 0x20000000
  decide (0x020000000000 ≤ a) && decide (a < 0x020080000000) && decide (0x18000000 < o + n) &&
    s.storeClosed d (o - 0x18000000) (n - (0x18000000 - o))

/-- A control core may access [g, g + n) of this package's memory: stacks, SRAM apertures, shared SRAM; never CSR space (R12, R467). -/
def State.coreMay (s : State) (g n : Nat) (store : Bool) : Bool :=
  let a := localOf g
  s.ownPackage g && (s.rangeMapped a n || (inShared a && inShared (a + n - 1))) && !(store && s.closedAt a n)

/-- Record i's address or permission is refused. -/
def State.recDenied (s : State) (v : VecPending) (i : Nat) : Bool := !s.coreMay (v.recAddr i) v.recLen v.store

/-- A load finds record i poisoned. -/
def State.recPoisoned (s : State) (v : VecPending) (i : Nat) : Bool := !v.store && s.readBad (localOf (v.recAddr i)) v.recLen

/-- The exception record i takes (R466, R467). -/
def State.recFault (s : State) (v : VecPending) (i : Nat) : Option Exc :=
  if s.recDenied v i then some .access else if s.recPoisoned v i then some .poison else none

/-- Field f of a record, from a register's element i. -/
def HCore.element (h : HCore) (r z i : Nat) : List Byte := (List.range z).map fun k => (Tab.get [] h.vregs r).getD (i * z + k) 0

/-- Element i of a register replaced. -/
def HCore.setElement (h : HCore) (c r i : Nat) (bs : List Byte) : HCore :=
  { h with vregs := Tab.set [] h.vregs r (overlay (Tab.get [] h.vregs r) (vlenBytes c) (i * bs.length) bs) }

/-- Behind the accesses of control-die core c: reads in class P0 (R257, R467), writes in class P2 (log entry 109). -/
def coreVia (c : Nat) (store : Bool) : Via := { pen := none, port := .control, cls := if store then 2 else 0, who := 100 + c }

/-- Record i is loaded: field f goes to element i of the f-th register. -/
def State.loadRecord (s : State) (c : Nat) (v : VecPending) (i : Nat) : State :=
  let a := localOf (v.recAddr i)
  let b := s.read a v.recLen
  let s1 := s.countRead (coreVia c false) a v.recLen
  s1.setHcore c (v.regs.zipIdx.foldl (fun h x => h.setElement c x.1 i (fieldBytes b (x.2 * v.z) v.z)) (s1.hcore c))

/-- Record i is stored. -/
def State.storeRecord (s : State) (c : Nat) (v : VecPending) (i : Nat) : State :=
  s.localWrite (coreVia c true) (localOf (v.recAddr i)) (v.regs.flatMap fun r => (s.hcore c).element r v.z i) false

def State.doRecord (s : State) (c : Nat) (v : VecPending) (i : Nat) : State := if v.store then s.storeRecord c v i else s.loadRecord c v i

/-! ## Faults (R466) -/

/-- The exception of an element: TSTAT.elem is the element on a service core, 0 on a main core. -/
def State.recordFault (s : State) (c : Nat) (v : VecPending) (i : Nat) (e : Exc) : State :=
  s.setHcore c { s.hcore c with exc := e, tElem := if serviceCore c then i else 0, tAddr := BitVec.ofNat 64 (v.recAddr i), vec := some v }

/-- All records are done: VPROG holds their number. -/
def State.recordsDone (s : State) (c : Nat) (v : VecPending) : State :=
  s.setHcore c { s.hcore c with vprog := v.records c, vec := none }

/-- A service core performs record after record from i on, `n` of them, until one faults. -/
def State.recordsService (s : State) (c : Nat) (v : VecPending) : Nat → Nat → State
  | 0, _ => s.recordsDone c v
  | n + 1, i =>
    match s.recFault v i with
    | some e => s.recordFault c v i e
    | none => (s.doRecord c v i).recordsService c v n (i + 1)

/-- A main core checks every record's address and permission before it performs any; only then can poison be met (R466). -/
def State.recordsMain (s : State) (c : Nat) (v : VecPending) : State :=
  let l := List.range (v.records c)
  match l.find? (s.recDenied v), l.find? (s.recPoisoned v) with
  | some i, _ => s.recordFault c v i .access
  | none, some i => s.recordFault c v i .poison
  | none, none => (l.foldl (fun t i => t.doRecord c v i) s).recordsDone c v

/-- The instruction runs, on a service core from record i. -/
def State.recordRun (s : State) (c : Nat) (v : VecPending) (i : Nat) : State :=
  if serviceCore c then s.recordsService c v (v.records c - i) i else s.recordsMain c v

/-- A record load or store is executed; one with a repeated register takes the illegal-instruction exception (R465). -/
def State.recordExec (s : State) (c : Nat) (v : VecPending) : State :=
  if v.legal then s.recordRun c v 0 else s.setHcore c { s.hcore c with exc := .illegal, tElem := 0, vec := none }

/-- The trap-return instruction (R466): a faulted vector instruction goes on at TSTAT.elem on a service core and from its start on a main core;
without one, the core leaves its exception. -/
def State.trapReturn (s : State) (c : Nat) : State :=
  let h := s.hcore c
  let s1 := s.setHcore c { h with exc := .none }
  match h.vec with
  | some v => s1.recordRun c v h.tElem
  | none => s1

/-! ## The rows -/

/-- A record instruction on a core that runs. -/
def State.recordRow (s : State) (c nf : Nat) (store : Bool) (regs : List Nat) (base : U64) (z : Nat) (count : U64) : Host.Outcome State Fault Refusal :=
  s.yardStep fun s => if s.awake then .next (s.recordExec c { store := store, nf := nf, regs := regs, base := base, z := z, count := count }) else s.notDue

/-- VUNZ2, VUNZ3, VUNZ4 (R465). -/
def execVunz2 (core : Fin 36) (regs : List Nat) (base : U64) (z : Nat) (count : U64) (s : State) : Host.Outcome State Fault Refusal :=
  s.recordRow core.val 2 false regs base z count
def execVunz3 (core : Fin 36) (regs : List Nat) (base : U64) (z : Nat) (count : U64) (s : State) : Host.Outcome State Fault Refusal :=
  s.recordRow core.val 3 false regs base z count
def execVunz4 (core : Fin 36) (regs : List Nat) (base : U64) (z : Nat) (count : U64) (s : State) : Host.Outcome State Fault Refusal :=
  s.recordRow core.val 4 false regs base z count
/-- VZIP2, VZIP3, VZIP4 (R465). -/
def execVzip2 (core : Fin 36) (regs : List Nat) (base : U64) (z : Nat) (count : U64) (s : State) : Host.Outcome State Fault Refusal :=
  s.recordRow core.val 2 true regs base z count
def execVzip3 (core : Fin 36) (regs : List Nat) (base : U64) (z : Nat) (count : U64) (s : State) : Host.Outcome State Fault Refusal :=
  s.recordRow core.val 3 true regs base z count
def execVzip4 (core : Fin 36) (regs : List Nat) (base : U64) (z : Nat) (count : U64) (s : State) : Host.Outcome State Fault Refusal :=
  s.recordRow core.val 4 true regs base z count

/-- TRAP_RETURN (R466). -/
def execTrapReturn (core : Fin 36) (s : State) : Host.Outcome State Fault Refusal :=
  s.yardStep fun s =>
    if s.awake then .next (s.trapReturn core.val) else s.notDue

end Sys2Proof.Machine
end

