-- ==== Sys2Proof/Machine/Services.lean ====
section
/-!
DEFINITION. Services.lean: the service domain's outside interfaces: read-out of frozen state (R503, R504), the SMBus target (R528), the test
access port (R529).
-/

namespace Sys2Proof.Machine

/-! ## Read-out (R503) -/

/-- A compute die with gated clocks: by a package freeze, or one of its halves by a die-level freeze. -/
def State.dieFrozen (s : State) (d : Nat) : Bool := s.pkgFrozen || s.halfFrozen d 0 || s.halfFrozen d 1

/-- Read-out reaches the SRAM apertures of frozen dies and the shared SRAM. -/
def State.readoutSram (s : State) (a n : Nat) : Bool :=
  (decide (0x020000000000 ≤ a) && s.rangeMapped a n && s.dieFrozen ((a - 0x020000000000) / 0x20000000)) || (inShared a && inShared (a + n - 1))

/-- Read-out reaches mapped registers, in aligned 64-bit words (R14). -/
def readoutCsr (a n : Nat) : Bool := a % 8 == 0 && n % 8 == 0 && (List.range (n / 8)).all fun i => csrMapped (a + 8 * i)

/-- A read through read-out of n bytes. -/
def State.readoutRead (s : State) (a n : Nat) : Reply :=
  if s.readoutSram a n then .data (s.read a n) ((List.range (n / 8)).filter fun i => s.readBad (a + 8 * i) 8)
  else if readoutCsr a n then .data ((List.range (n / 8)).flatMap fun i => s.csrRead (a + 8 * i) 8) []
  else .refused

/-- A write through read-out, to FRZ_CTL and PKG_RST only. -/
def State.readoutWrite (s : State) (src : Source) (a n data : Nat) : State :=
  if readoutWritable a && a % 8 == 0 && n == 8 then s.csrWrite src a 8 data else s.answer .refused

/-- READOUT_REQUEST: while a freeze holds and FRZ_RO.enable is set, a datagram to FRZ_RO.udp_port with the magic is a request; another is not
answered. A reserved op, a length outside 8 to 1,024 in eights, and an access beyond the limits are answered with a nonzero status. -/
def execReadoutRequest (q : ReadoutReq) (s : State) : Host.Outcome State Fault Refusal :=
  let a := q.addr.toNat
  let n := q.len.toNat
  if !s.readoutOn false || q.port.toNat != s.get FRZ_RO.udp_port || q.magic != 0x5A524644#32 then .next (s.answer .none)
  else if n < 8 ∨ 1024 < n ∨ n % 8 ≠ 0 then .next (s.answer .refused)
  else if q.op = 1 then .next (s.answer (s.readoutRead a n))
  else if q.op = 2 then .next (s.readoutWrite .service a n q.data.toNat)
  else .next (s.answer .refused)

/-! ## The SMBus target (R528) -/

/-- The target answers from stage 2 of start-up onward, and during any freeze. -/
def State.smbusOn (s : State) : Bool := s.stage != .off && s.stage != .softStart

/-- A read of the SMBus target. -/
def State.smbusRead (s : State) (b : List Byte) : State := s.answer (if s.smbusOn then .data b [] else .nack)

/-- The temperature of sensor i as it stands in its register. -/
def State.sensor (s : State) (i : Nat) : Nat := s.get (PWR_THERM.temp i)

/-- The highest sensor, signed. -/
def State.tempMax (s : State) : Int := (List.range 15).foldl (fun m i => max m (sext 16 (s.sensor (i + 1)))) (sext 16 (s.sensor 0))

/-- The STATUS word. -/
def State.statusWord (s : State) : Nat :=
  s.pins.pwrOk.toNat + 2 * s.pins.ready.toNat + 4 * (s.get FRZ_STAT.state != 0).toNat + 8 * (s.flag PKG_FAULT.valid).toNat +
    16 * (s.flag PWR_STAT.therm_warn).toNat + 32 * (s.flag PWR_STAT.cap_miss).toNat + 64 * (decide (0 < s.get PWR_STRETCH.level)).toNat

/-- VIN, IIN, PIN. -/
def execVin (s : State) : Host.Outcome State Fault Refusal := .next (s.smbusRead (leBytes 2 (s.get PWR_IN.vin)))
def execIin (s : State) : Host.Outcome State Fault Refusal := .next (s.smbusRead (leBytes 2 (s.get PWR_IN.iin)))
def execPin (s : State) : Host.Outcome State Fault Refusal := .next (s.smbusRead (leBytes 2 (s.get PWR_IN.p10)))
/-- TEMP_MAX, TEMPS. -/
def execTempMax (s : State) : Host.Outcome State Fault Refusal := .next (s.smbusRead (leBytes 2 (uns 16 s.tempMax)))
def execTemps (s : State) : Host.Outcome State Fault Refusal :=
  .next (s.smbusRead ((List.range 16).flatMap fun i => leBytes 2 (s.sensor i)))
/-- STATUS. -/
def execStatus (s : State) : Host.Outcome State Fault Refusal := .next (s.smbusRead (leBytes 2 s.statusWord))
/-- STRETCH: events, then stretch time. -/
def execStretch (s : State) : Host.Outcome State Fault Refusal :=
  .next (s.smbusRead (leBytes 4 (s.get PWR_STRETCH.events) ++ leBytes 8 (s.get PWR_STRETCH_NS.ns)))
/-- CAP: 0 while no layout is active. -/
def execCap (s : State) : Host.Outcome State Fault Refusal :=
  .next (s.smbusRead (leBytes 2 (if s.layoutActive then s.get PWR_CAP.cap else 0)))
/-- FAULT, LAYOUT, IDENT. -/
def execFault (s : State) : Host.Outcome State Fault Refusal := .next (s.smbusRead (leBytes 1 (s.get PKG_FAULT.code)))
def execLayout (s : State) : Host.Outcome State Fault Refusal := .next (s.smbusRead (leBytes 8 (s.get LAY_ID.id)))
def execIdent (s : State) : Host.Outcome State Fault Refusal :=
  .next (s.smbusRead (leBytes 2 (s.get PKG_ID.part) ++ leBytes 1 (s.get PKG_ID.stepping) ++ leBytes 1 0 ++ leBytes 4 (s.get PKG_ID.serial)))

/-- ALERT_N rises. -/
def State.alertOff (s : State) : State := { s with pins := { s.pins with alertN := true } }

/-- CLEAR_ALERT: with a bad packet error code it is ignored. -/
def execClearAlert (pecOk : Bool) (s : State) : Host.Outcome State Fault Refusal :=
  if !s.smbusOn then .next (s.answer .nack)
  else if pecOk then .next (s.alertOff.answer .accepted)
  else .next (s.answer .none)

/-- ALERT_RESPONSE: only a target whose ALERT_N is low answers the alert-response address. -/
def execAlertResponse (s : State) : Host.Outcome State Fault Refusal :=
  if s.smbusOn && !s.pins.alertN then .next (s.alertOff.answer .accepted) else .next (s.answer .nack)

/-! ## The test access port (R529) -/

/-- The instruction register is loaded. -/
def State.jtagIr (s : State) (ir : Byte) : State := { s with jtag := { s.jtag with ir := ir } }

/-- What a data register of `n` bytes captured is shifted out. -/
def State.jtagOut (s : State) (n : Nat) (v : Nat) : State :=
  { s with jtag := { s.jtag with shift := BitVec.ofNat 64 v } }.answer (.data (leBytes n v) [])

/-- The boundary cells as captured: in the order of the lands of R524, FREEZE_N, RESET_N, PWR_OK, READY, FAULT_N, THERMTRIP_N, ALERT_N, SMB_CLK,
SMB_DAT, SMB_ADDR0, SMB_ADDR1 from cell 0. What stands on the pins that the package does not drive is a free value. -/
def State.boundary (s : State) : State × Nat :=
  let r := s.draw
  let inputs := r.1.toNat % 4 + bitsOf r.1.toNat 7 4 * 128
  (r.2, inputs + 4 * s.pins.pwrOk.toNat + 8 * s.pins.ready.toNat + 16 * (!s.flag PKG_FAULT.valid).toNat + 32 * s.pins.thermtripN.toNat +
    64 * s.pins.alertN.toNat)

/-- A boundary-scan instruction: the cells are captured and shifted out, new ones shifted in and latched. -/
def State.boundaryScan (s : State) (ir : Byte) (cells : BitVec 11) : State :=
  let r := s.boundary
  let t := r.1.jtagIr ir
  ({ t with jtag := { t.jtag with cells := cells } } : State).jtagOut 2 r.2

/-- EXTEST, SAMPLE/PRELOAD. -/
def execExtest (cells : BitVec 11) (s : State) : Host.Outcome State Fault Refusal := .next (s.boundaryScan 0x00#8 cells)
def execSamplePreload (cells : BitVec 11) (s : State) : Host.Outcome State Fault Refusal := .next (s.boundaryScan 0x02#8 cells)
/-- IDCODE. -/
def execIdcode (s : State) : Host.Outcome State Fault Refusal := .next ((s.jtagIr 0x01#8).jtagOut 4 0x1960894F)
/-- CLAMP, HIGHZ, BYPASS: the one-bit register captures 0. -/
def execClamp (s : State) : Host.Outcome State Fault Refusal := .next ((s.jtagIr 0x04#8).jtagOut 1 0)
def execHighz (s : State) : Host.Outcome State Fault Refusal := .next ((s.jtagIr 0x05#8).jtagOut 1 0)
def execBypass (s : State) : Host.Outcome State Fault Refusal := .next ((s.jtagIr 0xFF#8).jtagOut 1 0)

/-- READOUT_ADDR: write flag and address bits [47:3]. What this register captures the spec leaves open. -/
def execReadoutAddr (dr : U64) (s : State) : Host.Outcome State Fault Refusal :=
  let r := s.draw
  let t := (r.2.jtagIr 0x20#8).jtagOut 8 r.1.toNat
  .next { t with jtag := { t.jtag with addr := BitVec.ofNat 64 (bitsOf dr.toNat 3 45 * 8), write := bitOf dr.toNat 0 } }

/-- The word at the read-out address as Capture-DR reads it; where read-out does not reach, a free value, answered as refused. -/
def State.jtagRead (s : State) (a : Nat) : State :=
  match (if s.readoutOn true then s.readoutRead a 8 else .refused) with
  | .data b p => { s with jtag := { s.jtag with shift := BitVec.ofNat 64 (leNat b) } }.answer (.data b p)
  | r => ({ s.draw.2 with jtag := { s.jtag with shift := s.draw.1 } } : State).answer r

/-- READOUT_DATA: the word is read, then written when the write flag is set; the address advances by 8. -/
def execReadoutData (dr : U64) (s : State) : Host.Outcome State Fault Refusal :=
  let a := s.jtag.addr.toNat
  let s1 := (s.jtagIr 0x21#8).jtagRead a
  let s2 := if s1.jtag.write then (if s1.readoutOn true then s1.readoutWrite .jtag a 8 dr.toNat else s1.answer .refused) else s1
  .next { s2 with jtag := { s2.jtag with addr := BitVec.ofNat 64 (bitsOf (a + 8) 3 45 * 8) } }

/-- TEST_RESET (R524, R529): the port is reset; the identification register is selected. -/
def execTestReset (s : State) : Host.Outcome State Fault Refusal := .next (s.jtagIr 0x01#8)

end Sys2Proof.Machine
end

