-- ==== Sys2Proof/Machine/Dispatch.lean ====
section
/-! DEFINITION. Dispatch.lean: one arm per command: a direct call of its meaning. -/

namespace Sys2Proof.Machine

/-- The effect of a command on everything but the queue. -/
def exec (i : Instr) (s : State) : Host.Outcome State Fault Refusal :=
  match i with
  | .beatIssue d h => Sys2Proof.Machine.execBeatIssue d h s
  | .nop d h => Sys2Proof.Machine.execNop d h s
  | .loop d h lc count lend => Sys2Proof.Machine.execLoop d h lc count lend s
  | .br d h sset sm cond off => Sys2Proof.Machine.execBr d h sset sm cond off s
  | .jmp d h off => Sys2Proof.Machine.execJmp d h off s
  | .step d h => Sys2Proof.Machine.execStep d h s
  | .stepDrained d h => Sys2Proof.Machine.execStepDrained d h s
  | .stepBarrierPass p => Sys2Proof.Machine.execStepBarrierPass p s
  | .stepAction5 p => Sys2Proof.Machine.execStepAction5 p s
  | .rebaseDone p => Sys2Proof.Machine.execRebaseDone p s
  | .halt d h => Sys2Proof.Machine.execHalt d h s
  | .haltComplete d h => Sys2Proof.Machine.execHaltComplete d h s
  | .ring d h bell count => Sys2Proof.Machine.execRing d h bell count s
  | .await d h bell count => Sys2Proof.Machine.execAwait d h bell count s
  | .awaitPass d h => Sys2Proof.Machine.execAwaitPass d h s
  | .awaitTmo d h held => Sys2Proof.Machine.execAwaitTmo d h held s
  | .ringx d h rud count => Sys2Proof.Machine.execRingx d h rud count s
  | .dmaIssue d h rud cls => Sys2Proof.Machine.execDmaIssue d h rud cls s
  | .dmaQueueFree d h => Sys2Proof.Machine.execDmaQueueFree d h s
  | .dmaLineIssue d => Sys2Proof.Machine.execDmaLineIssue d s
  | .dmaTransferDone d h => Sys2Proof.Machine.execDmaTransferDone d h s
  | .chunk d c k slot r => Sys2Proof.Machine.execChunk d c k slot r s
  | .chunkc d c k slot r => Sys2Proof.Machine.execChunkc d c k slot r s
  | .accst d c k slot r => Sys2Proof.Machine.execAccst d c k slot r s
  | .accadd d c k slot r => Sys2Proof.Machine.execAccadd d c k slot r s
  | .accclr d c k slot => Sys2Proof.Machine.execAccclr d c k slot s
  | .vecAdd d c k r cv => Sys2Proof.Machine.execVecAdd d c k r cv s
  | .vecSub d c k r cv => Sys2Proof.Machine.execVecSub d c k r cv s
  | .vecAdds d c k r cv => Sys2Proof.Machine.execVecAdds d c k r cv s
  | .vecSubs d c k r cv => Sys2Proof.Machine.execVecSubs d c k r cv s
  | .vecNegs d c k r cv => Sys2Proof.Machine.execVecNegs d c k r cv s
  | .vecAbss d c k r cv => Sys2Proof.Machine.execVecAbss d c k r cv s
  | .vecMin d c k r cv => Sys2Proof.Machine.execVecMin d c k r cv s
  | .vecMax d c k r cv => Sys2Proof.Machine.execVecMax d c k r cv s
  | .vecAnd d c k r cv => Sys2Proof.Machine.execVecAnd d c k r cv s
  | .vecOr d c k r cv => Sys2Proof.Machine.execVecOr d c k r cv s
  | .vecXor d c k r cv => Sys2Proof.Machine.execVecXor d c k r cv s
  | .vecAndn d c k r cv => Sys2Proof.Machine.execVecAndn d c k r cv s
  | .vecNot d c k r cv => Sys2Proof.Machine.execVecNot d c k r cv s
  | .vecShl d c k r cv => Sys2Proof.Machine.execVecShl d c k r cv s
  | .vecShls d c k r cv => Sys2Proof.Machine.execVecShls d c k r cv s
  | .vecShra d c k r cv => Sys2Proof.Machine.execVecShra d c k r cv s
  | .vecShrl d c k r cv => Sys2Proof.Machine.execVecShrl d c k r cv s
  | .vecShrn d c k r cv => Sys2Proof.Machine.execVecShrn d c k r cv s
  | .vecClz d c k r cv => Sys2Proof.Machine.execVecClz d c k r cv s
  | .vecPopc d c k r cv => Sys2Proof.Machine.execVecPopc d c k r cv s
  | .vecCmpeq d c k r cv => Sys2Proof.Machine.execVecCmpeq d c k r cv s
  | .vecCmplt d c k r cv => Sys2Proof.Machine.execVecCmplt d c k r cv s
  | .vecCmple d c k r cv => Sys2Proof.Machine.execVecCmple d c k r cv s
  | .vecSel d c k r cv => Sys2Proof.Machine.execVecSel d c k r cv s
  | .vecClamp d c k r cv => Sys2Proof.Machine.execVecClamp d c k r cv s
  | .vecMul d c k r cv => Sys2Proof.Machine.execVecMul d c k r cv s
  | .vecMulw d c k r cv => Sys2Proof.Machine.execVecMulw d c k r cv s
  | .vecMulhs d c k r cv => Sys2Proof.Machine.execVecMulhs d c k r cv s
  | .vecRsum d c k r cv => Sys2Proof.Machine.execVecRsum d c k r cv s
  | .vecRmax d c k r cv => Sys2Proof.Machine.execVecRmax d c k r cv s
  | .vecRmin d c k r cv => Sys2Proof.Machine.execVecRmin d c k r cv s
  | .vecCsum d c k r cv => Sys2Proof.Machine.execVecCsum d c k r cv s
  | .vecCmax d c k r cv => Sys2Proof.Machine.execVecCmax d c k r cv s
  | .vecCmin d c k r cv => Sys2Proof.Machine.execVecCmin d c k r cv s
  | .vecExp2 d c k r cv => Sys2Proof.Machine.execVecExp2 d c k r cv s
  | .vecLog2 d c k r cv => Sys2Proof.Machine.execVecLog2 d c k r cv s
  | .vecRecip d c k r cv => Sys2Proof.Machine.execVecRecip d c k r cv s
  | .vecRsqrt d c k r cv => Sys2Proof.Machine.execVecRsqrt d c k r cv s
  | .vecSigm d c k r cv => Sys2Proof.Machine.execVecSigm d c k r cv s
  | .vecTanh d c k r cv => Sys2Proof.Machine.execVecTanh d c k r cv s
  | .smx1 d c k r cv => Sys2Proof.Machine.execSmx1 d c k r cv s
  | .smx2 d c k r cv => Sys2Proof.Machine.execSmx2 d c k r cv s
  | .smx3 d c k r cv => Sys2Proof.Machine.execSmx3 d c k r cv s
  | .nrm1 d c k r cv => Sys2Proof.Machine.execNrm1 d c k r cv s
  | .nrm2 d c k r cv => Sys2Proof.Machine.execNrm2 d c k r cv s
  | .vecMov d c k r cv => Sys2Proof.Machine.execVecMov d c k r cv s
  | .conv d c k r => Sys2Proof.Machine.execConv d c k r s
  | .chld d c k r => Sys2Proof.Machine.execChld d c k r s
  | .ld d c k r => Sys2Proof.Machine.execLd d c k r s
  | .st d c k r => Sys2Proof.Machine.execSt d c k r s
  | .ldt d c k r => Sys2Proof.Machine.execLdt d c k r s
  | .bcast d c r => Sys2Proof.Machine.execBcast d c r s
  | .begin d c r => Sys2Proof.Machine.execBegin d c r s
  | .run d c r => Sys2Proof.Machine.execRun d c r s
  | .dpt d c r => Sys2Proof.Machine.execDpt d c r s
  | .cnt d c r => Sys2Proof.Machine.execCnt d c r s
  | .seqLoadStart d h => Sys2Proof.Machine.execSeqLoadStart d h s
  | .scanComplete d h => Sys2Proof.Machine.execScanComplete d h s
  | .seqGo d h => Sys2Proof.Machine.execSeqGo d h s
  | .storeApertureWrite d off data => Sys2Proof.Machine.execStoreApertureWrite d off data s
  | .csrWrite src addr size data => Sys2Proof.Machine.execCsrWrite src addr size data s
  | .coreInjStallCe d c k => Sys2Proof.Machine.execCoreInjStallCe d c k s
  | .coreInjStallUe d c k => Sys2Proof.Machine.execCoreInjStallUe d c k s
  | .loftInjCe d c => Sys2Proof.Machine.execLoftInjCe d c s
  | .loftInjUe d c => Sys2Proof.Machine.execLoftInjUe d c s
  | .xcmdPost src y eng w last => Sys2Proof.Machine.execXcmdPost src y eng w last s
  | .windowRoom y eng w => Sys2Proof.Machine.execWindowRoom y eng w s
  | .yardCmdStart y eng => Sys2Proof.Machine.execYardCmdStart y eng s
  | .narrow y => Sys2Proof.Machine.execNarrow y s
  | .widen y => Sys2Proof.Machine.execWiden y s
  | .imp y => Sys2Proof.Machine.execImp y s
  | .exp y => Sys2Proof.Machine.execExp y s
  | .yardCmdComplete y eng => Sys2Proof.Machine.execYardCmdComplete y eng s
  | .spmv y => Sys2Proof.Machine.execSpmv y s
  | .resid y => Sys2Proof.Machine.execResid y s
  | .gather y => Sys2Proof.Machine.execGather y s
  | .reduce y => Sys2Proof.Machine.execReduce y s
  | .convert y => Sys2Proof.Machine.execConvert y s
  | .eqrow y => Sys2Proof.Machine.execEqrow y s
  | .eqcol y => Sys2Proof.Machine.execEqcol y s
  | .eqapply y => Sys2Proof.Machine.execEqapply y s
  | .digest y => Sys2Proof.Machine.execDigest y s
  | .atomList y => Sys2Proof.Machine.execAtomList y s
  | .atomAdd y off v => Sys2Proof.Machine.execAtomAdd y off v s
  | .atomMin y off v => Sys2Proof.Machine.execAtomMin y off v s
  | .atomMax y off v => Sys2Proof.Machine.execAtomMax y off v s
  | .atomAnd y off v => Sys2Proof.Machine.execAtomAnd y off v s
  | .atomOr y off v => Sys2Proof.Machine.execAtomOr y off v s
  | .atomXor y off v => Sys2Proof.Machine.execAtomXor y off v s
  | .fadd y off v => Sys2Proof.Machine.execFadd y off v s
  | .swap y off v => Sys2Proof.Machine.execSwap y off v s
  | .cas y off v cmp => Sys2Proof.Machine.execCas y off v cmp s
  | .fmin y off v => Sys2Proof.Machine.execFmin y off v s
  | .fmax y off v => Sys2Proof.Machine.execFmax y off v s
  | .yardRequest y q => Sys2Proof.Machine.execYardRequest y q s
  | .slotGrant y c => Sys2Proof.Machine.execSlotGrant y c s
  | .cowWriteResume y => Sys2Proof.Machine.execCowWriteResume y s
  | .refresh y c rank bank => Sys2Proof.Machine.execRefresh y c rank bank s
  | .targetedRefresh y c rank bank row => Sys2Proof.Machine.execTargetedRefresh y c rank bank row s
  | .scrubRead y => Sys2Proof.Machine.execScrubRead y s
  | .yrdInjCe y ch => Sys2Proof.Machine.execYrdInjCe y ch s
  | .yrdInjUe y ch => Sys2Proof.Machine.execYrdInjUe y ch s
  | .yrdInjPoison y ch => Sys2Proof.Machine.execYrdInjPoison y ch s
  | .rdReq n k => Sys2Proof.Machine.execRdReq n k s
  | .rdRsp n k => Sys2Proof.Machine.execRdRsp n k s
  | .wr n k => Sys2Proof.Machine.execWr n k s
  | .wrDone n k => Sys2Proof.Machine.execWrDone n k s
  | .atomPkt n k => Sys2Proof.Machine.execAtomPkt n k s
  | .atomRsp n k => Sys2Proof.Machine.execAtomRsp n k s
  | .bell n k => Sys2Proof.Machine.execBell n k s
  | .bellRing p name count err => Sys2Proof.Machine.execBellRing p name count err s
  | .team n k => Sys2Proof.Machine.execTeam n k s
  | .tmLost p => Sys2Proof.Machine.execTmLost p s
  | .ldgTailWrite p v => Sys2Proof.Machine.execLdgTailWrite p v s
  | .mgmtWrite n k => Sys2Proof.Machine.execMgmtWrite n k s
  | .mgmtRead n k => Sys2Proof.Machine.execMgmtRead n k s
  | .mgmtReadResponse n k => Sys2Proof.Machine.execMgmtReadResponse n k s
  | .checkpointReport n k => Sys2Proof.Machine.execCheckpointReport n k s
  | .errRsp n k => Sys2Proof.Machine.execErrRsp n k s
  | .codewordReceive n bytes => Sys2Proof.Machine.execCodewordReceive n bytes s
  | .linkControlEntry n entry => Sys2Proof.Machine.execLinkControlEntry n entry s
  | .retryTimeout n => Sys2Proof.Machine.execRetryTimeout n s
  | .codewordSend n => Sys2Proof.Machine.execCodewordSend n s
  | .linkDown n cause => Sys2Proof.Machine.execLinkDown n cause s
  | .lossOfSignal n => Sys2Proof.Machine.execLossOfSignal n s
  | .partnerTraining n => Sys2Proof.Machine.execPartnerTraining n s
  | .trainingDone n t => Sys2Proof.Machine.execTrainingDone n t s
  | .retrainTimer n => Sys2Proof.Machine.execRetrainTimer n s
  | .portEnableWrite n v => Sys2Proof.Machine.execPortEnableWrite n v s
  | .portDrain n => Sys2Proof.Machine.execPortDrain n s
  | .penEnableWrite p v => Sys2Proof.Machine.execPenEnableWrite p v s
  | .grpqEnableWrite f g v => Sys2Proof.Machine.execGrpqEnableWrite f g v s
  | .xchEnableWrite y v => Sys2Proof.Machine.execXchEnableWrite y v s
  | .engEnableWrite y v => Sys2Proof.Machine.execEngEnableWrite y v s
  | .optEnableWrite n v => Sys2Proof.Machine.execOptEnableWrite n v s
  | .drainComplete f => Sys2Proof.Machine.execDrainComplete f s
  | .grpCmdPost src f w last => Sys2Proof.Machine.execGrpCmdPost src f w last s
  | .collStart g => Sys2Proof.Machine.execCollStart g s
  | .collGatePass g => Sys2Proof.Machine.execCollGatePass g s
  | .barrier g => Sys2Proof.Machine.execBarrier g s
  | .collBcast g => Sys2Proof.Machine.execCollBcast g s
  | .collReduce g => Sys2Proof.Machine.execCollReduce g s
  | .allreduce g => Sys2Proof.Machine.execAllreduce g s
  | .send g => Sys2Proof.Machine.execSend g s
  | .collUp n k => Sys2Proof.Machine.execCollUp n k s
  | .collDown n k => Sys2Proof.Machine.execCollDown n k s
  | .collConfirm n k => Sys2Proof.Machine.execCollConfirm n k s
  | .collRelease n k => Sys2Proof.Machine.execCollRelease n k s
  | .collReject n k => Sys2Proof.Machine.execCollReject n k s
  | .collError n k => Sys2Proof.Machine.execCollError n k s
  | .collStatus n k => Sys2Proof.Machine.execCollStatus n k s
  | .gcTimeout g => Sys2Proof.Machine.execGcTimeout g s
  | .grpq n k => Sys2Proof.Machine.execGrpq n k s
  | .grpSwapArm f => Sys2Proof.Machine.execGrpSwapArm f s
  | .drainPageRead p y => Sys2Proof.Machine.execDrainPageRead p y s
  | .ckpDrainDone p free => Sys2Proof.Machine.execCkpDrainDone p free s
  | .jobManifestWrite p => Sys2Proof.Machine.execJobManifestWrite p s
  | .ckpPublished p cMs tUs runS fails => Sys2Proof.Machine.execCkpPublished p cMs tUs runS fails s
  | .nvmeCompletion p ok => Sys2Proof.Machine.execNvmeCompletion p ok s
  | .ckPartial p => Sys2Proof.Machine.execCkPartial p s
  | .restore p keys store => Sys2Proof.Machine.execRestore p keys store s
  | .layoutLoad => Sys2Proof.Machine.execLayoutLoad s
  | .layoutChecksDone => Sys2Proof.Machine.execLayoutChecksDone s
  | .layoutUnload => Sys2Proof.Machine.execLayoutUnload s
  | .unloadComplete => Sys2Proof.Machine.execUnloadComplete s
  | .layoutArm => Sys2Proof.Machine.execLayoutArm s
  | .armChecksDone => Sys2Proof.Machine.execArmChecksDone s
  | .layoutDisarm => Sys2Proof.Machine.execLayoutDisarm s
  | .copy n => Sys2Proof.Machine.execCopy n s
  | .dmaImport n => Sys2Proof.Machine.execDmaImport n s
  | .dmaExport n => Sys2Proof.Machine.execDmaExport n s
  | .cdDmaComplete n => Sys2Proof.Machine.execCdDmaComplete n s
  | .cdDmaqTailWrite n tail => Sys2Proof.Machine.execCdDmaqTailWrite n tail s
  | .watchFire n => Sys2Proof.Machine.execWatchFire n s
  | .watchPendingClear n => Sys2Proof.Machine.execWatchPendingClear n s
  | .scoreRequest n udpPort flow => Sys2Proof.Machine.execScoreRequest n udpPort flow s
  | .vunz2 core regs base z count => Sys2Proof.Machine.execVunz2 core regs base z count s
  | .vunz3 core regs base z count => Sys2Proof.Machine.execVunz3 core regs base z count s
  | .vunz4 core regs base z count => Sys2Proof.Machine.execVunz4 core regs base z count s
  | .vzip2 core regs base z count => Sys2Proof.Machine.execVzip2 core regs base z count s
  | .vzip3 core regs base z count => Sys2Proof.Machine.execVzip3 core regs base z count s
  | .vzip4 core regs base z count => Sys2Proof.Machine.execVzip4 core regs base z count s
  | .trapReturn core => Sys2Proof.Machine.execTrapReturn core s
  | .ptpMessage offsetNs domain udp => Sys2Proof.Machine.execPtpMessage offsetNs domain udp s
  | .rotEnrol cmd => Sys2Proof.Machine.execRotEnrol cmd s
  | .rotKeyLoad cmd => Sys2Proof.Machine.execRotKeyLoad cmd s
  | .cnpReceive qp => Sys2Proof.Machine.execCnpReceive qp s
  | .rateRegainTimer qp => Sys2Proof.Machine.execRateRegainTimer qp s
  | .ecnMarkedReceive qp => Sys2Proof.Machine.execEcnMarkedReceive qp s
  | .rdmaTargetAccess qp write addr len data => Sys2Proof.Machine.execRdmaTargetAccess qp write addr len data s
  | .pcieHostAccess bar off len write => Sys2Proof.Machine.execPcieHostAccess bar off len write s
  | .dieFault d code => Sys2Proof.Machine.execDieFault d code s
  | .packageFault code die => Sys2Proof.Machine.execPackageFault code die s
  | .freezePin => Sys2Proof.Machine.execFreezePin s
  | .freezeRequest pkg p atBoundary => Sys2Proof.Machine.execFreezeRequest pkg p atBoundary s
  | .freezeResume => Sys2Proof.Machine.execFreezeResume s
  | .readoutRequest q => Sys2Proof.Machine.execReadoutRequest q s
  | .powerOnReset => Sys2Proof.Machine.execPowerOnReset s
  | .pkgRstWarm => Sys2Proof.Machine.execPkgRstWarm s
  | .resetPin => Sys2Proof.Machine.execResetPin s
  | .pkgRstDie mask => Sys2Proof.Machine.execPkgRstDie mask s
  | .pkgRstPen mask => Sys2Proof.Machine.execPkgRstPen mask s
  | .powerSample vin iin pin => Sys2Proof.Machine.execPowerSample vin iin pin s
  | .inputOutOfRange vin iin => Sys2Proof.Machine.execInputOutOfRange vin iin s
  | .outOfRangeTimeout => Sys2Proof.Machine.execOutOfRangeTimeout s
  | .inputCollapse vin => Sys2Proof.Machine.execInputCollapse vin s
  | .tempWarning sen temp => Sys2Proof.Machine.execTempWarning sen temp s
  | .tempTrip sen temp => Sys2Proof.Machine.execTempTrip sen temp s
  | .hardwareThermtrip sen => Sys2Proof.Machine.execHardwareThermtrip sen s
  | .bootVerifyDone okA okB verA verB => Sys2Proof.Machine.execBootVerifyDone okA okB verA verB s
  | .railSequencingDone => Sys2Proof.Machine.execRailSequencingDone s
  | .memoryTrainingDone fails => Sys2Proof.Machine.execMemoryTrainingDone fails s
  | .bridgeTrainingDone ok eth => Sys2Proof.Machine.execBridgeTrainingDone ok eth s
  | .vin => Sys2Proof.Machine.execVin s
  | .iin => Sys2Proof.Machine.execIin s
  | .pin => Sys2Proof.Machine.execPin s
  | .tempMax => Sys2Proof.Machine.execTempMax s
  | .temps => Sys2Proof.Machine.execTemps s
  | .status => Sys2Proof.Machine.execStatus s
  | .stretch => Sys2Proof.Machine.execStretch s
  | .cap => Sys2Proof.Machine.execCap s
  | .fault => Sys2Proof.Machine.execFault s
  | .layout => Sys2Proof.Machine.execLayout s
  | .ident => Sys2Proof.Machine.execIdent s
  | .clearAlert pecOk => Sys2Proof.Machine.execClearAlert pecOk s
  | .alertResponse => Sys2Proof.Machine.execAlertResponse s
  | .extest cells => Sys2Proof.Machine.execExtest cells s
  | .idcode => Sys2Proof.Machine.execIdcode s
  | .samplePreload cells => Sys2Proof.Machine.execSamplePreload cells s
  | .clamp => Sys2Proof.Machine.execClamp s
  | .highz => Sys2Proof.Machine.execHighz s
  | .readoutAddr dr => Sys2Proof.Machine.execReadoutAddr dr s
  | .readoutData dr => Sys2Proof.Machine.execReadoutData dr s
  | .bypass => Sys2Proof.Machine.execBypass s
  | .clrPeak => Sys2Proof.Machine.execClrPeak s
  | .inputBackInRange vin iin => Sys2Proof.Machine.execInputBackInRange vin iin s
  | .tempBelowWarn sen temp => Sys2Proof.Machine.execTempBelowWarn sen temp s
  | .resetNRelease => Sys2Proof.Machine.execResetNRelease s
  | .softStartDone => Sys2Proof.Machine.execSoftStartDone s
  | .pcieTrainingDone width speed => Sys2Proof.Machine.execPcieTrainingDone width speed s
  | .pcieInboundDma addr data => Sys2Proof.Machine.execPcieInboundDma addr data s
  | .ethLinkDown n => Sys2Proof.Machine.execEthLinkDown n s
  | .ethLinkUp n => Sys2Proof.Machine.execEthLinkUp n s
  | .ptpTransmitterLost => Sys2Proof.Machine.execPtpTransmitterLost s
  | .refreshDone y c rank bank ns => Sys2Proof.Machine.execRefreshDone y c rank bank ns s
  | .testReset => Sys2Proof.Machine.execTestReset s

end Sys2Proof.Machine
end

