-- ==== Sys2Proof/Safety.lean ====
section
/-!
DEFINITION. Safety.lean: the forms every state of the package has, in the terms the statements use: the canonical form of the memory and of the
register table, and the states a run reaches.
-/

namespace Sys2Proof.Machine

/-- Keys strictly rising: a table lists each key at most once, in order. -/
abbrev Tab.Rising {α : Type} (t : Tab α) : Prop := t.Pairwise fun a b => a.1 < b.1

/-- No listed entry is the table's default. -/
abbrev Tab.NoDefault {α : Type} (d : α) (t : Tab α) : Prop := ∀ e ∈ t, e.2 ≠ d

/-- The canonical form of a memory: addresses strictly rising, no listed byte that an unlisted address reads as, and the same of the marks. Equal
memories are then equal data. -/
abbrev Memory.wf (m : Memory) : Prop :=
  Tab.Rising m.cells ∧ Tab.NoDefault 0 m.cells ∧ Tab.Rising m.marks ∧ Tab.NoDefault Mark.clean m.marks

/-- The invariant of the package: the memory and the register table are in canonical form. -/
def State.Inv (s : State) : Prop := s.mem.wf ∧ Tab.Rising s.regs

/-- The states a run from `s` reaches, whatever commands its queue holds. -/
inductive Reaches (s : State) : State → Prop where
  | start : Reaches s s
  | next {t u : State} : Reaches s t → step t = .next u → Reaches s u

end Sys2Proof.Machine
end

