-- ==== Sys2Proof/Certificates/Slice0/Obligations.lean ====
section
/-!
DEFINITION. Obligations.lean: the statements about the package, each a numbered rule of spec/ or drawn from one. A statement that some command
completes has `exec … = .next …` as its conclusion, under conditions on the state and the operands alone.
-/

open Sys2Proof Sys2Proof.Machine

/-! ## Accesses of a command to the stacks

A command that reaches stacks is one step of the model: a yard takes all of its accesses in it, or the whole command waits (log entry 108). -/

/-- No access is noted as waiting. That is so at reset and after every step. -/
def noWait (s : State) : Prop := s.yardHold = none

/-- Nothing stands before an access at any yard: its channels are live, nothing waits in its FIFOs and queues, no refresh blocks a bank. -/
def idleYards (s : State) : Prop :=
  noWait s ∧ ∀ y, y < 8 → s.yardLive y = true ∧ (s.yard y).fifo = [] ∧ (s.yard y).waiting = [] ∧ (s.yard y).chq = [] ∧ (s.yard y).blocked = []

/-- Every yard takes every access at once: its yards are idle, and no snapshot holds or has redirected a page. -/
def calm (s : State) : Prop := idleYards s ∧ ∀ y, y < 8 → (s.yard y).pages = []

/-- The yards take every access of the command whose effect on s is t. -/
def allTaken (s t : State) : Prop := noWait s ∧ noWait t

/-! ## The queue, reset and the invariant -/

/-- The command at the front of the queue runs on the state with the queue's rest, and nothing else happens in that step; with no command waiting
the package idles (the model's choice, log entry 10). No command reorders, drops or adds a waiting command. -/
def Obligations.StepRunsTheFrontCommand : Prop :=
  (∀ (c : Instr) (s : State), step { s with pending := c :: s.pending } = exec c s) ∧ (∀ s : State, s.pending = [] → step s = .next s) ∧
    ∀ (c : Instr) (s t : State), s.Inv → exec c s = .next t → t.pending = s.pending

/-- Right after power-on reset every register field reads its reset value, every byte of memory reads 0 with valid check bits, no context is
loaded, no function is enabled, no layout is active, the root of trust holds no key, and start-up is in its first stage. -/
def Obligations.ResetLeavesResetValues : Prop :=
  State.reset.Inv ∧ State.reset.pending = [] ∧ (∀ f : Fld, State.reset.get f = f.rst) ∧
    (∀ a, State.reset.mem.byte a = 0 ∧ State.reset.mem.mark a = Mark.clean) ∧
    (∀ d h, d < 4 → h < 2 → State.reset.get (SEQ_STATUS.state d h) = 0) ∧
    State.reset.layoutActive = false ∧ State.reset.rot.owner = none ∧ State.reset.stage = .softStart ∧ State.reset.pins.ready = false

/-- From every state in canonical form, not only those a run reaches, a step answers a state in canonical form; and where no access is noted as
waiting, none is after the step (the note lives within one step only: the model's choice, log entry 108). -/
def Obligations.EveryStepKeepsCanonicalForm : Prop :=
  (∀ s t : State, s.Inv → step s = .next t → t.Inv) ∧ noWait State.reset ∧ ∀ s t : State, noWait s → step s = .next t → noWait t

/-- Keys come into the root of trust only by its enrolment and key-load commands; every other command, and every reset, leaves them. The high-water
generation of no key slot ever falls, whatever step is taken: not in a reset, not in a power cycle. -/
def Obligations.KeysComeOnlyFromTheirCommands : Prop :=
  (∀ (c : Instr) (s t : State), s.Inv → (∀ k, c ≠ .rotEnrol k) → (∀ k, c ≠ .rotKeyLoad k) → exec c s = .next t →
    t.rot.owner = s.rot.owner ∧ t.rot.layout = s.rot.layout ∧ t.rot.aes = s.rot.aes ∧ t.rot.lastSeq = s.rot.lastSeq) ∧
  ∀ (s t : State) (k : Nat), s.Inv → step s = .next t → Tab.get 0 s.rot.high k ≤ Tab.get 0 t.rot.high k

/-! ## Resets, start-up, power, temperatures, time -/

/-- What holds after a warm reset of s (R506). DRAM is kept as it stands unless a checkpoint was running, whose shed pages go home (R417). -/
def warmed (s t : State) : Prop :=
  t.rot = s.rot ∧ t.cores = [] ∧ t.clusters = [] ∧ t.ctxs = [] ∧ t.lay = Layout.none ∧ t.pins.ready = false ∧
    t.stage = (if s.stage = .softStart then .softStart else .boot) ∧
    (∀ d h, d < 4 → h < 2 → t.get (SEQ_STATUS.state d h) = 0) ∧
    (∀ b j, b < 6 → j < 4096 → t.get (BEL_VAL.count b j) = 0 ∧ t.get (BEL_VAL.err b j) = 0) ∧
    t.get LAY_STATUS.state = 0 ∧ (∀ p, p < 8 → t.get (CKP_STAT.state p) = 0) ∧
    (∀ a, apertureBase 0 ≤ a → a < apertureBase 4 → t.mem.byte a = 0) ∧
    t.get CD_TIME.ns = s.get CD_TIME.ns ∧ t.get PKG_FAULT.code = s.get PKG_FAULT.code ∧ t.get PKG_FAULT.valid = s.get PKG_FAULT.valid ∧
    t.get FRZ_STAT.cause = s.get FRZ_STAT.cause ∧ (∀ p, p < 8 → t.get (LDG_STAT.lost p) = s.get (LDG_STAT.lost p)) ∧
    (∀ d c, d < 4 → c < 8 → t.get (CORE_LOFT_ECC.quarantine_pending d c) = s.get (CORE_LOFT_ECC.quarantine_pending d c)) ∧
    ((∀ p, p < 8 → s.get (CKP_STAT.state p) = 0) →
      ∀ a, ¬ (apertureBase 0 ≤ a ∧ a < apertureBase 4) → t.mem.byte a = s.mem.byte a)

/-- A warm reset, by its register or by its pin, clears contexts, cores, lofts, stalls, cadence stores, bells and the layout, and keeps package time,
the error records, the root of trust and DRAM. The pin also holds the package in reset. While the input is out of range a warm reset by the
register is refused: nothing is cleared. Completes: PKG_RST_WARM, RESET_PIN. -/
def Obligations.WarmResetClearsAndKeeps : Prop :=
  (∀ s : State, s.power.badIn = false → s.stage ≠ .off →
    (∃ t, exec .pkgRstWarm s = .next t ∧ warmed s t) ∧ (∃ t, exec .resetPin s = .next t ∧ warmed s t ∧ t.power.resetLow = true)) ∧
  ∀ s : State, s.power.badIn = true → exec .pkgRstWarm s = .next s

/-- Power coming up puts every register, byte of memory, core and context at its reset value, and keeps the root of trust. Completes: POWER_ON_RESET. -/
def Obligations.PowerOnResetsAllButTheRootOfTrust : Prop :=
  ∀ s : State, ∃ t, exec .powerOnReset s = .next t ∧ t.rot = s.rot ∧ (∀ f : Fld, t.get f = f.rst) ∧ (∀ a, t.mem.byte a = 0) ∧
    t.cores = [] ∧ t.ctxs = [] ∧ t.pens = [] ∧ t.yards = [] ∧ t.lay = Layout.none ∧ t.stage = .softStart

/-- A die reset of die d: refused, with PKG_RST.refused set, while a pen that holds a half of the die runs; otherwise the die's contexts, cores,
cadence store and bells are cleared. The other dies' contexts stay. A pen reset of a mask completes while no package freeze holds; a mask of no
pen changes nothing, and a pen's checkpoint unit is left IDLE. Completes: PKG_RST_DIE, PKG_RST_PEN. -/
def Obligations.DieAndPenResetsClear : Prop :=
  (∀ (s : State) (d : Fin 4), s.awake = true →
    ((s.diePens d.val).any s.penRunning = true → exec (.pkgRstDie (BitVec.ofNat 4 (2 ^ d.val))) s = .next (s.set PKG_RST.refused 1)) ∧
    ((s.diePens d.val).any s.penRunning = false → ∃ t, exec (.pkgRstDie (BitVec.ofNat 4 (2 ^ d.val))) s = .next t ∧
      (∀ h, h < 2 → t.ctx d.val h = Ctx.clear ∧ t.get (SEQ_STATUS.state d.val h) = 0) ∧
      (∀ c k, c < 8 → k < 16 → t.core d.val c k = Core.clear) ∧
      (∀ j, j < 4096 → t.get (BEL_VAL.count d.val j) = 0) ∧
      (∀ a, apertureBase d.val ≤ a → a < apertureBase d.val + 0x1A000000 → t.mem.byte a = 0) ∧
      (∀ e h, e < 4 → e ≠ d.val → h < 2 → t.ctx e h = s.ctx e h) ∧ t.rot = s.rot)) ∧
  ((∀ s : State, s.awake = true → exec (.pkgRstPen 0) s = .next s) ∧
  ∀ (s : State) (p : Fin 8), s.awake = true → ∃ t, exec (.pkgRstPen (BitVec.ofNat 8 (2 ^ p.val))) s = .next t ∧ t.get (CKP_STAT.state p.val) = 0)

/-- The stages of start-up follow one another: soft start, the boot ROM's choice of a slot, rails, memory training, bridges, READY. The reset pin
released lets the boot ROM run. The boot ROM takes the preferred slot if it passes, else the other; with neither passing start-up stops and
CD_BOOT.fail is set. A slot passes with a good signature and a version not below the fused rollback counter. Completes: BOOT_VERIFY_DONE,
BRIDGE_TRAINING_DONE, MEMORY_TRAINING_DONE, RAIL_SEQUENCING_DONE, RESET_N_RELEASE, SOFT_START_DONE. -/
def Obligations.StartUpStagesFollow : Prop :=
  (∀ s : State, s.stage = .softStart → exec .softStartDone s = .next { s with stage := .boot }) ∧
  (∀ s : State, s.power.resetLow = true → exec .resetNRelease s = .next { s with power := { s.power with resetLow := false } }) ∧
  (∀ s : State, s.stage = .rails → exec .railSequencingDone s = .next { s with stage := .memory, pins := { s.pins with pwrOk := true } }) ∧
  (∀ (s : State) (fails : List U64), s.stage = .memory → ∃ t, exec (.memoryTrainingDone fails) s = .next t ∧ t.stage = .bridges ∧
    ∀ y, y < 8 → t.get (YRD_STATUS.trained y) = 1 ∧ t.get (YRD_TRFAIL.mask y) = (fails.getD y 0).toNat) ∧
  (∀ (s : State) (eth : BitVec 5), s.stage = .bridges → ∃ t, exec (.bridgeTrainingDone true eth) s = .next t ∧ t.stage = .ready ∧
    t.pins.ready = true ∧ ∀ n, n < 5 → t.flag (CD_ETH.up n) = bitOf eth.toNat n) ∧
  ∀ (s : State) (okA okB : Bool) (verA verB : U16), s.stage = .boot → s.power.resetLow = false →
    let a := okA && decide (Config.rollback.toNat ≤ verA.toNat)
    let b := okB && decide (Config.rollback.toNat ≤ verB.toNat)
    ∃ t, exec (.bootVerifyDone okA okB verA verB) s = .next t ∧
      (a = true → b = false → t.get CD_BOOT.slot = 0 ∧ t.get CD_BOOT.fail = 0) ∧
      (b = true → a = false → t.get CD_BOOT.slot = 1 ∧ t.get CD_BOOT.fail = 0) ∧
      (a = true → b = true → t.get CD_BOOT.slot = (if s.flag CD_BOOT.prefer then 1 else 0) ∧ t.get CD_BOOT.fail = 0) ∧
      (a = false → b = false → t.get CD_BOOT.fail = 1 ∧ t.stage = .failed) ∧ t.mem = s.mem

/-- What R513 makes of level, low_us and over_us in one microsecond, p10 being sum / n. -/
def nextLevel (cap sum n level low past : Nat) : Nat × Nat × Nat :=
  if cap * n < sum then
    (min (level + 1) 8, 0, if level < 7 then 0 else past + 1)
  else if sum + 50 * n ≤ cap * n then (if low + 1 = 100 ∧ 0 < level then (level - 1, 0, 0) else (level, low + 1, 0))
  else (level, 0, 0)

/-- Once per microsecond the power manager forms p10 over the trailing 10 samples and moves the stretch level by at most one, by R513: up when p10 is
above the cap (2,500 W while no layout is active), down after 100 microseconds at 50 W or more below it. Before rail sequencing the sample is only
taken: the level stays. Completes: POWER_SAMPLE. -/
def Obligations.StretchLevelFollowsR513 : Prop :=
  (∀ (s : State) (vin iin pin : U16), s.stage ≠ .off → s.managed = false → ∃ t, exec (.powerSample vin iin pin) s = .next t ∧
    t.get PWR_STRETCH.level = s.get PWR_STRETCH.level ∧ t.get PWR_IN.vin = vin.toNat ∧ t.get PWR_IN.iin = iin.toNat ∧ t.mem = s.mem) ∧
  ∀ (s : State) (vin iin pin : U16), s.managed = true → s.get PWR_STRETCH.level ≤ 8 →
    let l := (pin.toNat :: s.power.samples).take 10
    let cap := if s.layoutActive then s.get PWR_CAP.cap else 2500
    let r := nextLevel cap l.sum l.length (s.get PWR_STRETCH.level) s.power.lowUs s.power.overUs
    ∃ t, exec (.powerSample vin iin pin) s = .next t ∧ t.get PWR_STRETCH.level = r.1 ∧ t.power.lowUs = r.2.1 ∧ t.power.overUs = r.2.2 ∧
      t.get PWR_IN.vin = vin.toNat ∧ t.get PWR_IN.iin = iin.toNat ∧ t.get PWR_IN.p10 = l.sum / l.length % 2 ^ 16 ∧ t.mem = s.mem

/-- Input out of range: short, it only sets PWR_STAT.uv or ov; back in range, it is seen so; long, it is a package fault with a package freeze; a
collapse turns the converters off and loses DRAM, with the root of trust kept. Completes: CLR_PEAK, INPUT_BACK_IN_RANGE, INPUT_COLLAPSE,
INPUT_OUT_OF_RANGE, OUT_OF_RANGE_TIMEOUT. -/
def Obligations.InputOutOfRangeActsByDuration : Prop :=
  (∀ (s : State) (vin iin : U16), s.stage ≠ .off → 36000 ≤ vin.toNat → vin.toNat < 40000 →
    ∃ t, exec (.inputOutOfRange vin iin) s = .next t ∧ t.get PWR_STAT.uv = 1 ∧ t.power.badIn = true ∧ t.mem = s.mem ∧ t.ctxs = s.ctxs) ∧
  (∀ (s : State) (vin iin : U16), s.stage ≠ .off → 58000 < vin.toNat → vin.toNat ≤ 60000 →
    ∃ t, exec (.inputOutOfRange vin iin) s = .next t ∧ t.get PWR_STAT.ov = 1 ∧ t.power.badIn = true ∧ t.mem = s.mem ∧ t.ctxs = s.ctxs) ∧
  (∀ (s : State) (vin iin : U16), s.power.badIn = true → 40000 ≤ vin.toNat → vin.toNat ≤ 58000 → iin.toNat ≤ 6500 →
    ∃ t, exec (.inputBackInRange vin iin) s = .next t ∧ t.power.badIn = false ∧ t.mem = s.mem ∧ t.ctxs = s.ctxs) ∧
  (∀ s : State, s.power.badIn = true → exec .outOfRangeTimeout s = .next (s.packageFault 0x7A 7)) ∧
  (∀ (s : State) (vin : U16), (vin.toNat < 36000 ∨ 60000 < vin.toNat) →
    ∃ t, exec (.inputCollapse vin) s = .next t ∧ t.stage = .off ∧ t.power.on = false ∧ (∀ a, t.mem.byte a = 0) ∧ t.rot = s.rot) ∧
  (∀ s : State, s.awake = true → exec .clrPeak s = .next (s.set PWR_IN.peak (s.get PWR_IN.p10)))

/-- A sensor at or above its warning temperature sets its over bit, PWR_STAT.therm_warn and ALERT_N low; below it again, its over bit clears. At its
trip temperature a compute die takes the die fault DF_THERM, any other sensor the package fault PF_THERM; the hardware trip turns the converters
off with THERMTRIP_N low. Completes: HARDWARE_THERMTRIP, TEMP_BELOW_WARN, TEMP_TRIP, TEMP_WARNING. -/
def Obligations.TemperaturesWarnAndTrip : Prop :=
  (∀ (s : State) (i : Fin 16) (temp : BitVec 16), s.stage ≠ .off → 16 * (s.get (PWR_THERM.warn i.val) : Int) ≤ temp.toInt →
    ∃ t, exec (.tempWarning i temp) s = .next t ∧ t.get (PWR_THERM.over i.val) = 1 ∧ t.get PWR_STAT.therm_warn = 1 ∧ t.pins.alertN = false ∧
      t.get (PWR_THERM.temp i.val) = temp.toNat ∧ t.mem = s.mem ∧ t.ctxs = s.ctxs) ∧
  (∀ (s : State) (i : Fin 16) (temp : BitVec 16), s.get (PWR_THERM.over i.val) = 1 → temp.toInt < 16 * (s.get (PWR_THERM.warn i.val) : Int) →
    ∃ t, exec (.tempBelowWarn i temp) s = .next t ∧ t.get (PWR_THERM.over i.val) = 0 ∧ t.get (PWR_THERM.temp i.val) = temp.toNat ∧
      t.mem = s.mem ∧ t.ctxs = s.ctxs) ∧
  (∀ (s : State) (i : Fin 16) (temp : BitVec 16), s.stage ≠ .off → s.pkgFrozen = false → 4 ≤ i.val → 16 * (tripOf i.val : Int) ≤ temp.toInt →
    ∃ u : State, u.mem = s.mem ∧ u.get (PWR_THERM.temp i.val) = temp.toNat ∧
      exec (.tempTrip i temp) s = .next (u.packageFault 0x7B (if i.val < 7 then i.val else 7))) ∧
  (∀ (s : State) (i : Fin 16) (temp : BitVec 16), s.stage ≠ .off → s.pkgFrozen = false → i.val < 4 → 16 * (tripOf i.val : Int) ≤ temp.toInt →
    ∃ u : State, u.mem = s.mem ∧ u.get (PWR_THERM.temp i.val) = temp.toNat ∧ exec (.tempTrip i temp) s = .next (u.dieFault i.val 0x72)) ∧
  (∀ (s : State) (i : Fin 16), ∃ t, exec (.hardwareThermtrip i) s = .next t ∧ t.pins.thermtripN = false ∧ t.power.on = false ∧ t.stage = .off ∧
    t.rot = s.rot)

/-- A time message of the configured domain and transport, with discipline on: an offset up to step_us is slewed away and leaves package time at once
as it is; a larger one, behind, steps package time forward by it. Without discipline it changes nothing. When the transmitter is lost, package
time runs free. Completes: PTP_MESSAGE, PTP_TRANSMITTER_LOST. -/
def Obligations.PackageTimeStepsForwardOnly : Prop :=
  (∀ (s : State) (o : BitVec 32) (dom : Byte) (udp : Bool), s.flag CD_PTP_CTL.enable = false → exec (.ptpMessage o dom udp) s = .next s) ∧
  (∀ (s : State) (o : BitVec 32) (dom : Byte) (udp : Bool), s.flag CD_PTP_CTL.enable = true → s.get CD_PTP_CTL.domain = dom.toNat →
    s.flag CD_PTP_CTL.udp = udp →
    ∃ t, exec (.ptpMessage o dom udp) s = .next t ∧
      t.get CD_TIME.ns = (if (s.get CD_PTP_CTL.step_us : Int) * 1000 < o.toInt then (s.get CD_TIME.ns + o.toInt.toNat) % 2 ^ 64
        else s.get CD_TIME.ns) ∧
      t.get CD_PTP_STAT.locked = (if (o.toInt.natAbs : Int) ≤ (s.get CD_PTP_CTL.step_us : Int) * 1000 then 1 else 0) ∧ t.mem = s.mem) ∧
  (∀ s : State, ∃ t, exec .ptpTransmitterLost s = .next t ∧ t.get CD_PTP_STAT.locked = 0 ∧ t.ptpSlew = 0 ∧
    t.get CD_TIME.ns = s.get CD_TIME.ns ∧ t.mem = s.mem)

/-- Links come up and go down: an Ethernet port (the service port through every freeze), and the PCIe port, which trains to a width and speed within
the layout's caps in the role CD_PCIE gives it. Nothing but the link's own register bits changes. Completes: ETH_LINK_DOWN, ETH_LINK_UP,
PCIE_TRAINING_DONE. -/
def Obligations.LinksTrainWithinTheirCaps : Prop :=
  (∀ (s : State) (n : Fin 5), s.get (CD_ETH.up n.val) = 1 → s.ethLive n.val = true →
    exec (.ethLinkDown n) s = .next (s.set (CD_ETH.up n.val) 0)) ∧
  (∀ (s : State) (n : Fin 5), s.get (CD_ETH.up n.val) = 0 → s.ethLive n.val = true → s.stage = .ready →
    exec (.ethLinkUp n) s = .next (s.set (CD_ETH.up n.val) 1)) ∧
  (∀ (s : State) (w : BitVec 5) (speed : BitVec 3), s.awake = true → s.get CD_PCIE.role = 1 ∨ s.get CD_PCIE.role = 2 → s.pcieRole = 0 →
    (∃ k, k ≤ 4 ∧ k ≤ s.lay.pcieWidth ∧ w.toNat = 2 ^ k) → speed.toNat ≤ s.lay.pcieSpeed →
    ∃ t, exec (.pcieTrainingDone w speed) s = .next t ∧ t.get CD_PCIE.width = w.toNat ∧ t.get CD_PCIE.speed = speed.toNat ∧
      t.pcieRole = s.get CD_PCIE.role ∧ t.mem = s.mem)

/-! ## The service domain: SMBus, test port, read-out -/

/-- The SMBus reads, each with the bytes it answers (R528). -/
def smbusReads (s : State) : List (Instr × List Byte) :=
  [(.vin, leBytes 2 (s.get PWR_IN.vin)), (.iin, leBytes 2 (s.get PWR_IN.iin)), (.pin, leBytes 2 (s.get PWR_IN.p10)),
   (.tempMax, leBytes 2 (uns 16 s.tempMax)), (.temps, (List.range 16).flatMap fun i => leBytes 2 (s.get (PWR_THERM.temp i))),
   (.status, leBytes 2 s.statusWord),
   (.stretch, leBytes 4 (s.get PWR_STRETCH.events) ++ leBytes 8 (s.get PWR_STRETCH_NS.ns)),
   (.cap, leBytes 2 (if s.layoutActive then s.get PWR_CAP.cap else 0)), (.fault, leBytes 1 (s.get PKG_FAULT.code)),
   (.layout, leBytes 8 (s.get LAY_ID.id)),
   (.ident, leBytes 2 (s.get PKG_ID.part) ++ leBytes 1 (s.get PKG_ID.stepping) ++ leBytes 1 0 ++ leBytes 4 (s.get PKG_ID.serial))]

/-- From stage 2 of start-up on, and during any freeze, the SMBus target answers each read with the bytes of its table; before, it does not
acknowledge. A read changes nothing else. TEMP_MAX is the highest of the 16 sensors: one of them, and none is above it. CLEAR_ALERT with a good
packet error code, and ALERT_RESPONSE while ALERT_N is low, drive ALERT_N high and change nothing else. Completes: ALERT_RESPONSE, CAP,
CLEAR_ALERT, FAULT, IDENT, IIN, LAYOUT, PIN, STATUS, STRETCH, TEMP_MAX, TEMPS, VIN. -/
def Obligations.SmbusAnswersAndClearsItsAlert : Prop :=
  (∀ (s : State) (x : Instr × List Byte), x ∈ smbusReads s →
    (s.stage ≠ .off → s.stage ≠ .softStart → exec x.1 s = .next { s with reply := .data x.2 [] }) ∧
    (s.stage = .off ∨ s.stage = .softStart → exec x.1 s = .next { s with reply := .nack }) ∧
    (∃ i, i < 16 ∧ s.tempMax = sext 16 (s.get (PWR_THERM.temp i))) ∧ ∀ i, i < 16 → sext 16 (s.get (PWR_THERM.temp i)) ≤ s.tempMax) ∧
  (∀ s : State, s.stage ≠ .off → s.stage ≠ .softStart →
    exec (.clearAlert true) s = .next { s with pins := { s.pins with alertN := true }, reply := .accepted } ∧
    exec (.clearAlert false) s = .next { s with reply := .none } ∧
    (s.pins.alertN = false → exec .alertResponse s = .next { s with pins := { s.pins with alertN := true }, reply := .accepted }) ∧
    (s.pins.alertN = true → exec .alertResponse s = .next { s with reply := .nack }))

/-- The test port's instructions: each loads its code into the instruction register and shifts out what its data register captures: the identification
code 0x1960894F, one bit of bypass, the boundary cells, which then latch the ones shifted in. The test reset selects the identification register.
None of them touches the rest of the package; READOUT_ADDR takes bits [47:3] of the address and the write flag. READOUT_DATA advances the address
by 8, bits [47:3] of it wrapping, whatever the access is answered with; with the write flag clear and read-out on, what it shifts out of a
reachable register is the register's value, and nothing in memory or registers changes. Completes: BYPASS, CLAMP, EXTEST, HIGHZ, IDCODE,
READOUT_ADDR, READOUT_DATA, SAMPLE_PRELOAD, TEST_RESET. -/
def Obligations.TestPortShiftsItsRegisters : Prop :=
  ((∀ s : State, ∃ t, exec .idcode s = .next t ∧ t.jtag.ir = 0x01 ∧ t.jtag.shift = 0x1960894F ∧ t.mem = s.mem ∧ t.regs = s.regs ∧ t.jtag.cells = s.jtag.cells) ∧
  (∀ (s : State) (x : Instr × Byte), x ∈ ([(.clamp, 0x04), (.highz, 0x05), (.bypass, 0xFF)] : List (Instr × Byte)) →
    ∃ t, exec x.1 s = .next t ∧ t.jtag.ir = x.2 ∧ t.jtag.shift = 0 ∧ t.mem = s.mem ∧ t.regs = s.regs ∧ t.jtag.cells = s.jtag.cells) ∧
  (∀ (s : State) (cells : BitVec 11), ∃ t, exec (.extest cells) s = .next t ∧ t.jtag.ir = 0x00 ∧ t.jtag.cells = cells ∧
    bitOf t.jtag.shift.toNat 2 = s.pins.pwrOk ∧ bitOf t.jtag.shift.toNat 3 = s.pins.ready ∧ t.mem = s.mem ∧ t.regs = s.regs) ∧
  (∀ (s : State) (cells : BitVec 11), ∃ t, exec (.samplePreload cells) s = .next t ∧ t.jtag.ir = 0x02 ∧ t.jtag.cells = cells ∧
    t.mem = s.mem ∧ t.regs = s.regs ∧ t.pins = s.pins) ∧
  (∀ (s : State) (dr : U64), ∃ t, exec (.readoutAddr dr) s = .next t ∧ t.jtag.ir = 0x20 ∧
    t.jtag.addr = (dr &&& 0x0000FFFFFFFFFFF8) ∧ t.jtag.write = dr.getLsbD 0 ∧ t.mem = s.mem ∧ t.regs = s.regs) ∧
  (∀ s : State, exec .testReset s = .next { s with jtag := { s.jtag with ir := 0x01 } })) ∧
  ((∀ (s : State) (dr : U64), ∃ t, exec (.readoutData dr) s = .next t ∧
    t.jtag.addr = BitVec.ofNat 64 ((s.jtag.addr.toNat + 8) / 8 % 2 ^ 45 * 8)) ∧
  (∀ (s : State) (dr : U64), s.jtag.write = false → ∃ t, exec (.readoutData dr) s = .next t ∧ t.mem = s.mem ∧ t.regs = s.regs) ∧
  (∀ (s : State) (dr : U64), s.jtag.write = false → s.readoutOn true = true → s.readoutSram s.jtag.addr.toNat 8 = false →
    readoutCsr s.jtag.addr.toNat 8 = true →
    ∃ t, exec (.readoutData dr) s = .next t ∧ t.jtag.shift = BitVec.ofNat 64 (leNat (s.csrRead s.jtag.addr.toNat 8))))

/-- A read-out request with the port, the magic, op 1 and a length of 8 to 1,024 in eights is answered with the bytes at its address, as the frozen
package holds them; a reserved op or a bad length is refused, and a datagram to another port or with another magic gets no answer. A read changes
nothing. Completes: READOUT_REQUEST. -/
def Obligations.ReadoutAnswersFrozenState : Prop :=
  ∀ (s : State) (q : ReadoutReq), s.readoutOn false = true →
    ((q.port.toNat ≠ s.get FRZ_RO.udp_port ∨ q.magic ≠ 0x5A524644#32) → exec (.readoutRequest q) s = .next { s with reply := .none }) ∧
    (q.port.toNat = s.get FRZ_RO.udp_port → q.magic = 0x5A524644#32 →
      ((q.len.toNat < 8 ∨ 1024 < q.len.toNat ∨ q.len.toNat % 8 ≠ 0) → exec (.readoutRequest q) s = .next { s with reply := .refused }) ∧
      (8 ≤ q.len.toNat → q.len.toNat ≤ 1024 → q.len.toNat % 8 = 0 →
        (q.op ≠ 1 → q.op ≠ 2 → exec (.readoutRequest q) s = .next { s with reply := .refused }) ∧
        (q.op = 1 → exec (.readoutRequest q) s = .next { s with reply := s.readoutRead q.addr.toNat q.len.toNat }) ∧
        (q.op = 2 → (readoutWritable q.addr.toNat && q.addr.toNat % 8 == 0 && q.len.toNat == 8) = false →
          exec (.readoutRequest q) s = .next { s with reply := .refused })))

/-! ## Registers, injections, faults and freezes -/

/-- What a write leaves in a field, by its access code: RW takes the written bits, RWL too but while a layout is active keeps its value, RO and WO keep
theirs, a 1 clears a bit of a W1C field and sets one of a W1S field, a 0 leaves it. Bits the access does not write stay. -/
def Obligations.AccessCodesSayWhatAWriteDoes : Prop :=
  ∀ (s : State) (f : Fld) (data : Nat), s.get f < 2 ^ f.w → 0 < f.w → f.lo + f.w ≤ 64 → 
    let v := data / 2 ^ f.lo % 2 ^ f.w
    (f.acc = .RW → (s.writeFld (2 ^ 64 - 1) data f).get f = v) ∧
    (f.acc = .RWL → (s.writeFld (2 ^ 64 - 1) data f).get f = if s.layoutActive then s.get f else v) ∧
    ((f.acc = .RO ∨ f.acc = .WO) → s.writeFld (2 ^ 64 - 1) data f = s) ∧
    (f.acc = .W1C → ∀ i, ((s.writeFld (2 ^ 64 - 1) data f).get f).testBit i = ((s.get f).testBit i && !v.testBit i)) ∧
    (f.acc = .W1S → ∀ i, ((s.writeFld (2 ^ 64 - 1) data f).get f).testBit i = ((s.get f).testBit i || v.testBit i)) ∧
    s.writeFld 0 data f = s ∧ (∀ g : Fld, g.key ≠ f.key → (s.writeFld (2 ^ 64 - 1) data f).get g = s.get g)

/-- A register access of a size other than 4 or 8 bytes, misaligned, or to an unmapped address faults and changes nothing; the control die's write of
SEQ_AWAIT_TMO sets its limit (in whole mode the block of context 1 ignores it), and a write of the read-only SEQ_PC is accepted and ignored.
Completes: CSR_WRITE. -/
def Obligations.CsrWritesFaultOrAct : Prop :=
  (∀ a size : Nat, csrOk a size = true → (size = 8 ∧ a % 8 = 0 ∨ size = 4 ∧ a % 4 = 0) ∧ 0x010000000000 ≤ a ∧ a < 0x010020000000) ∧
  (∀ (s : State) (a : BitVec 48) (size : Nat) (v : U64), noWait s → s.awake = true → csrOk a.toNat size = false →
    exec (.csrWrite .controlDie a size v) s = .next { s with reply := .accessFault }) ∧
  (∀ (s : State) (d : Fin 4) (h : Fin 2) (v : U64), noWait s → s.awake = true → (h = 0 ∨ s.split d.val = true) →
    ∃ t, exec (.csrWrite .controlDie (BitVec.ofNat 48 (ctxBlk d.val h.val + 0x28)) 8 v) s = .next t ∧
      t.get (SEQ_AWAIT_TMO.cycles d.val h.val) = v.toNat % 2 ^ 48 ∧ t.mem = s.mem ∧ t.ctxs = s.ctxs ∧ t.reply = .accepted ∧
      ∀ g : Fld, g.key ≠ (SEQ_AWAIT_TMO.cycles d.val h.val).key → t.get g = s.get g) ∧
  (∀ (s : State) (d : Fin 4) (v : U64), noWait s → s.awake = true → s.split d.val = false →
    exec (.csrWrite .controlDie (BitVec.ofNat 48 (ctxBlk d.val 1 + 0x28)) 8 v) s = .next { s with reply := .accepted }) ∧
  (∀ (s : State) (d : Fin 4) (h : Fin 2) (v : U64), noWait s → s.awake = true →
    exec (.csrWrite .controlDie (BitVec.ofNat 48 (ctxBlk d.val h.val + 0x10)) 8 v) s = .next { s with reply := .accepted })

/-- Each arming row sets its own injection bit, at the channel named, and nothing else. Completes: CORE_INJ_STALL_CE, CORE_INJ_STALL_UE, LOFT_INJ_CE,
LOFT_INJ_UE, YRD_INJ_POISON, YRD_INJ_UE, YRD_INJ_CE. -/
def Obligations.InjectionsArmTheirBit : Prop :=
  (∀ (s : State) (d : Fin 4) (c : Fin 8) (k : Fin 16),
    exec (.coreInjStallCe d c k) s = .next (s.set (CORE_INJ.stall_ce d.val c.val k.val) 1) ∧
    exec (.coreInjStallUe d c k) s = .next (s.set (CORE_INJ.stall_ue d.val c.val k.val) 1) ∧
    exec (.loftInjCe d c) s = .next (s.set (CORE_LOFT_INJ.ce d.val c.val) 1) ∧
    exec (.loftInjUe d c) s = .next (s.set (CORE_LOFT_INJ.ue d.val c.val) 1)) ∧
  (∀ (s : State) (y : Fin 8) (ch : BitVec 6) (x : Instr × Fld),
    x ∈ [(Instr.yrdInjCe y ch, YRD_INJ.ce y.val), (.yrdInjUe y ch, YRD_INJ.ue y.val), (.yrdInjPoison y ch, YRD_INJ.poison y.val)] →
    ∃ t, exec x.1 s = .next t ∧ t.get x.2 = 1 ∧ t.get (YRD_INJ.ch y.val) = ch.toNat ∧ t.mem = s.mem ∧
      ∀ g : Fld, g.key ≠ x.2.key → g.key ≠ (YRD_INJ.ch y.val).key → t.get g = s.get g)

/-- A package fault freezes the package: every half-die, with cause 7, never resumable, every stack in self-refresh and ALERT_N low; the first fault's
code and die are recorded, a later one only sets FRZ_STAT.more. A die fault takes the die out of service until a reset, whatever runs on it; where
no pen of the die runs and no freeze holds, it freezes both halves for good and is recorded. Completes: DIE_FAULT, PACKAGE_FAULT. -/
def Obligations.FaultsFreezePackageOrDie : Prop :=
  ((∀ (s : State) (code : PkgFaultCode) (die : Fin 8), s.pkgFrozen = false →
    ∃ t, exec (.packageFault code die) s = .next t ∧ t.get FRZ_STAT.state = 2 ∧ t.get FRZ_STAT.halves = 255 ∧ t.get FRZ_STAT.cause = 7 ∧
      t.get FRZ_STAT.resumable = 0 ∧ (∀ y, y < 8 → t.get (YRD_STATUS.self_refresh y) = 1) ∧ t.pins.alertN = false ∧ t.get PKG_FAULT.valid = 1 ∧
      (s.get PKG_FAULT.valid = 0 → t.get PKG_FAULT.code = pkgCode code ∧ t.get PKG_FAULT.die = die.val) ∧
      (s.get PKG_FAULT.valid = 1 → t.get PKG_FAULT.code = s.get PKG_FAULT.code ∧ t.get PKG_FAULT.die = s.get PKG_FAULT.die) ∧
      t.ctxs = s.ctxs ∧ t.cores = s.cores) ∧
  (∀ (s : State) (code : PkgFaultCode) (die : Fin 8), s.pkgFrozen = true → s.get PKG_FAULT.valid = 1 →
    exec (.packageFault code die) s = .next (s.set FRZ_STAT.more 1))) ∧
  ((∀ (s : State) (d : Fin 4) (code : DieFaultCode), s.pkgFrozen = false → ∃ t, exec (.dieFault d code) s = .next t ∧ bitOf t.deadDies d.val = true) ∧
  (∀ (s : State) (d : Fin 4) (code : DieFaultCode), s.get FRZ_STAT.state = 0 → s.get PKG_FAULT.valid = 0 →
    (∀ p, p ∈ s.diePens d.val → s.penRunning p = false) →
    ∃ t, exec (.dieFault d code) s = .next t ∧ t.get FRZ_STAT.state = 1 ∧ t.get FRZ_STAT.halves = 3 * 4 ^ d.val ∧ t.get FRZ_STAT.cause = 6 ∧
      t.get FRZ_STAT.resumable = 0 ∧ t.get PKG_FAULT.code = dieCode code ∧ t.get PKG_FAULT.die = d.val ∧ t.get PKG_FAULT.valid = 1 ∧
      t.mem = s.mem ∧ t.ctxs = s.ctxs))

/-- The freeze pin and a package-wide request freeze the package with causes 1 and 2; the pin is ignored before READY. A request at the boundary of a
running pen only waits for it. A resume ends a resumable die-level freeze: its half-dies leave it; where the freeze is not resumable, or is the
package's, the write does nothing. Completes: FREEZE_PIN, FREEZE_REQUEST, FREEZE_RESUME. -/
def Obligations.FreezeRequestsFreeze : Prop :=
  (∀ s : State, s.pins.ready = false → exec .freezePin s = .next s) ∧
  (∀ s : State, s.pins.ready = true → s.pkgFrozen = false → ∃ t, exec .freezePin s = .next t ∧ t.get FRZ_STAT.state = 2 ∧
    t.get FRZ_STAT.halves = 255 ∧ t.get FRZ_STAT.cause = 1 ∧ t.get FRZ_STAT.resumable = 0 ∧ t.ctxs = s.ctxs) ∧
  (∀ (s : State) (p : Fin 8) (b : Bool), s.pkgFrozen = false → ∃ t, exec (.freezeRequest true p b) s = .next t ∧ t.get FRZ_STAT.state = 2 ∧
    t.get FRZ_STAT.halves = 255 ∧ t.get FRZ_STAT.cause = 2 ∧ t.get FRZ_STAT.resumable = 0 ∧ t.ctxs = s.ctxs) ∧
  (∀ (s : State) (p : Fin 8), s.penRunning p.val = true → ∃ t, exec (.freezeRequest false p true) s = .next t ∧ t.get FRZ_CTL.req = 1 ∧
    (t.pen p.val).atBound = true ∧ t.get FRZ_STAT.state = s.get FRZ_STAT.state ∧ t.ctxs = s.ctxs ∧ t.mem = s.mem) ∧
  (∀ (s : State) (p : Fin 8), s.penRunning p.val = false → s.penInFlight p.val = false → s.get FRZ_STAT.state = 0 → s.get FRZ_STAT.halves = 0 →
    ∃ t, exec (.freezeRequest false p false) s = .next t ∧ t.get FRZ_STAT.state = 1 ∧ t.get FRZ_STAT.halves = s.get (PEN_INFO.halves p.val) % 256 ∧
      t.get FRZ_STAT.cause = 2 ∧ t.get FRZ_STAT.resumable = 1 ∧ t.ctxs = s.ctxs ∧ t.mem = s.mem) ∧
  ((∀ s : State, noWait s → (s.get FRZ_STAT.state ≠ 1 ∨ s.get FRZ_STAT.resumable ≠ 1) → exec .freezeResume s = .next s) ∧
    (∀ s : State, s.get FRZ_STAT.state = 1 → s.get FRZ_STAT.resumable = 1 → (∀ p, p < 8 → s.pen p = Pen.clear) →
      ∃ t, exec .freezeResume s = .next t ∧ t.get FRZ_STAT.state = 0 ∧ t.get FRZ_STAT.halves = 0 ∧ t.get FRZ_STAT.more = 0 ∧ t.mem = s.mem ∧
        t.ctxs = s.ctxs))

/-! ## The sequencer -/

/-- The beat of context h of die d is over: it counts, and the cadence cycles before cycle e have passed. -/
def beatOver (r : State) (d h e : Nat) : State :=
  (r.setCtx d h { r.ctx d h with beats := (r.ctx d h).beats + 1, phase := .none }).atCycle d h e

/-- The cycle in which the beat after the one at SEQ_PC issues, with `bubbles` of a taken branch (R125, R143). -/
def nextCycle (s : State) (d h bubbles : Nat) : Nat :=
  s.get (SEQ_CYC.cycles d h) + 1 + dwRest (s.dieWord d h (s.pc d h)) + bubbles

/-- What a beat leaves behind when it goes on to unit w with `bubbles`: SEQ_PC there, its cycles counted, one more beat counted, no byte of memory
changed. -/
def wentOn (s t : State) (d h w bubbles : Nat) : Prop :=
  t.get (SEQ_PC.record d h) = w % 2 ^ 21 ∧ t.get (SEQ_CYC.cycles d h) = nextCycle s d h bubbles % 2 ^ 64 ∧
    (t.ctx d h).beats = (s.ctx d h).beats + 1 ∧ t.mem = s.mem

/-- No engine of context h of die d has an operation of a beat in flight. -/
def enginesIdle (s : State) (d h : Nat) : Prop := s.busyCores d h = [] ∧ s.busyPivs d h = []

/-- A context that issues, with no operation in flight and no accesses of its cores clashing meanwhile: NOP goes on to the record that follows, JMP to
its target with 4 bubble cycles; a target outside the region raises SEQ_RANGE. With no active loop the record that follows is the next in the region.
Completes: NOP, JMP. -/
def Obligations.NopAndJmpMoveThePc : Prop :=
  ∀ (s : State) (d : Fin 4) (h : Fin 2), s.issues d.val h.val = true →
    let u := s.pc d.val h.val
    let t := s.get (SEQ_CYC.cycles d.val h.val)
    (enginesIdle s d.val h.val → s.clash d.val h.val t (nextCycle s d.val h.val 0) = none →
      exec (.nop d h) s = .next (beatOver (s.follow d.val h.val u (s.pcLen d.val h.val)) d.val h.val (nextCycle s d.val h.val 0)) ∧
      (s.activeLoops d.val h.val = [] → ∃ r, exec (.nop d h) s = .next r ∧ wentOn s r d.val h.val (u + s.pcLen d.val h.val) 0)) ∧
    (∀ off w, s.target d.val h.val u off.toNat = some w → enginesIdle s d.val h.val →
      s.clash d.val h.val t (nextCycle s d.val h.val 4) = none →
      exec (.jmp d h off) s = .next (beatOver (s.jumpTo d.val h.val w) d.val h.val (nextCycle s d.val h.val 4)) ∧
      ∃ r, exec (.jmp d h off) s = .next r ∧ wentOn s r d.val h.val w 4) ∧
    (∀ off, s.target d.val h.val u off.toNat = none → exec (.jmp d h off) s = .next (s.contextFault d.val h.val 0x34 0 0)) ∧
    (s.activeLoops d.val h.val = [] →
      (s.follow d.val h.val u (s.pcLen d.val h.val)).get (SEQ_PC.record d.val h.val) = (u + s.pcLen d.val h.val) % 2 ^ 21) ∧
    (∀ w, (s.jumpTo d.val h.val w).get (SEQ_PC.record d.val h.val) = w % 2 ^ 21)

/-- LOOP starts its counter at 0 with the count given and enters its body; a count of 0 skips the body; where the model's test of nesting fails
(`nestBad`: an active counter, or a body that does not end on a record) it raises SEQ_NEST. Completes: LOOP. -/
def Obligations.LoopStartsItsCounter : Prop :=
  ∀ (s : State) (d : Fin 4) (h : Fin 2) (lc : BitVec 4) (count : BitVec 24) (lend : U16), s.issues d.val h.val = true →
    let u := s.pc d.val h.val
    let len := s.pcLen d.val h.val
    let t := s.get (SEQ_CYC.cycles d.val h.val)
    let p := s.physCtr d.val h.val lc.toNat
    let r := s.seqLoop d.val h.val u len lc.toNat count.toNat lend.toNat
    (s.nestBad d.val h.val u len lc.toNat lend.toNat = true → exec (.loop d h lc count lend) s = .next (s.contextFault d.val h.val 0x31 0 0)) ∧
    (s.nestBad d.val h.val u len lc.toNat lend.toNat = false → enginesIdle s d.val h.val →
      s.clash d.val h.val t (nextCycle s d.val h.val 0) = none →
      exec (.loop d h lc count lend) s = .next (beatOver r d.val h.val (nextCycle s d.val h.val 0))) ∧
    (count.toNat ≠ 0 → r.get (SEQ_LC.value d.val (p / 8) (p % 8)) = 0 ∧ r.get (SEQ_LC.count d.val (p / 8) (p % 8)) = count.toNat ∧
      r.get (SEQ_LC.active d.val (p / 8) (p % 8)) = 1 ∧ r.get (SEQ_PC.record d.val h.val) = (u + len) % 2 ^ 21) ∧
    (count.toNat = 0 → s.activeLoops d.val h.val = [] → r.get (SEQ_PC.record d.val h.val) = (u + len + lend.toNat) % 2 ^ 21)

/-- The value a BR branches on, by the kind its core set's summaries have in common (R144). -/
def combined (kind : Nat) (vs : List Int) : Int :=
  match kind with
  | 0 => if vs.any (· != 0) then 1 else 0
  | 1 => if vs.all (· != 0) then 1 else 0
  | 2 => vs.foldl max (vs.headD 0)
  | 3 => vs.foldl min (vs.headD 0)
  | _ => max (-(2 ^ 63 - 1)) (min vs.sum (2 ^ 63 - 1))

/-- The condition of a BR (R123): 0 is value = 0, 1 is value ≠ 0, 2 is value < 0, 3 is value ≥ 0. -/
def brTaken (cond : BitVec 2) (v : Int) : Prop := cond = 0 ∧ v = 0 ∨ cond = 1 ∧ v ≠ 0 ∨ cond = 2 ∧ v < 0 ∨ cond = 3 ∧ 0 ≤ v

/-- BR combines its core set's summaries: two of different kinds raise SUM_KIND; with one kind, the first poisoned one raises SUM_POISON at its core.
Otherwise, when the combined value meets the condition, BR goes to its target with 4 bubble cycles, or raises SEQ_RANGE when that lies outside the
region; when it does not, BR goes on to the record that follows and costs nothing. A BR over no core at all completes too, its value being a free one
(log entry 36). Completes: BR. -/
def Obligations.BranchFollowsItsSummary : Prop :=
  ∀ (s : State) (d : Fin 4) (h : Fin 2) (sset : BitVec 4) (sm cond : BitVec 2) (off : BitVec 24), s.issues d.val h.val = true →
    let u := s.pc d.val h.val
    let t := s.get (SEQ_CYC.cycles d.val h.val)
    let l := s.coreSet d.val h.val sset.toNat
    let kind := fun x : Nat × Nat => s.get (CORE_SMCTL.kind d.val x.1 x.2 sm.toNat)
    let bad := fun x : Nat × Nat => s.get (CORE_SMCTL.poison d.val x.1 x.2 sm.toNat) == 1
    let vs := l.map fun x => sext 64 (s.get (CORE_SM.value d.val x.1 x.2 sm.toNat))
    let free := fun b : Nat => enginesIdle s d.val h.val ∧ s.clash d.val h.val t (nextCycle s d.val h.val b) = none
    let same := ∀ x ∈ l, ∀ y ∈ l, kind x = kind y
    (¬ same → exec (.br d h sset sm cond off) s = .next (s.contextFault d.val h.val 0x33 0 0)) ∧
    (∀ x, same → l.find? bad = some x → exec (.br d h sset sm cond off) s = .next (s.coreFault d.val h.val 0x24 x.1 x.2)) ∧
    (∀ x l', same → l.find? bad = none → l = x :: l' → brTaken cond (combined (kind x) vs) →
      (s.target d.val h.val u off.toNat = none → exec (.br d h sset sm cond off) s = .next (s.contextFault d.val h.val 0x34 0 0)) ∧
      (∀ w, s.target d.val h.val u off.toNat = some w → free 4 →
        exec (.br d h sset sm cond off) s = .next (beatOver (s.jumpTo d.val h.val w) d.val h.val (nextCycle s d.val h.val 4)) ∧
        ∃ r, exec (.br d h sset sm cond off) s = .next r ∧ wentOn s r d.val h.val w 4)) ∧
    (∀ x l', same → l.find? bad = none → l = x :: l' → ¬ brTaken cond (combined (kind x) vs) → free 0 →
      exec (.br d h sset sm cond off) s =
        .next (beatOver (s.follow d.val h.val u (s.pcLen d.val h.val)) d.val h.val (nextCycle s d.val h.val 0)) ∧
      (s.activeLoops d.val h.val = [] →
        ∃ r, exec (.br d h sset sm cond off) s = .next r ∧ wentOn s r d.val h.val (u + s.pcLen d.val h.val) 0)) ∧
    (∀ w, l = [] → s.target d.val h.val u off.toNat = some w → free 0 → free 4 →
      ∃ r, exec (.br d h sset sm cond off) s = .next r ∧ r.mem = s.mem ∧
        (r.ctx d.val h.val).beats = (s.ctx d.val h.val).beats + 1)

/-- The beat at SEQ_PC is fetched, waits for nothing, has no fault at issue and only operations the spec defines; `taken` says that its AWAIT has
passed. -/
def beatReady (s : State) (d h : Nat) (taken : Bool) : Prop :=
  let u := s.pc d h
  let n := s.dieWord d h u
  s.fetchFault d h u = 0 ∧ (dwSeq n = 4 → (s.ctx d h).phase = .resumed) ∧
    (dwBop n = 2 → taken = true ∨ s.awaitTest d h (dwBell n) (dwCount n) = .pass) ∧
    (dwDop n = 1 → s.dmaFull d h = false ∧ s.dmaDefined d h (dwDrud n) = true) ∧ (s.issueFault d h u).1 = 0 ∧
    (s.beatOps d h u).all (s.opDefined d) = true

/-- The state with the beat's AWAIT, if it has one, taken. -/
def awaitTaken (s : State) (d h : Nat) : State :=
  let n := s.dieWord d h (s.pc d h)
  if dwBop n = 2 then s.awaitTake d (dwBell n) (dwCount n) else s

/-- The beat's patterns and the start of its engine operations, from s1; with the cluster of a pivot operation that missed its slot. A chunk that
another will follow without a gap begins to read the other's header. -/
def beatWork (s s1 : State) (d h : Nat) : State × Option Nat :=
  let u := s.pc d h
  let n := s.dieWord d h u
  let r := ((s1.beatReads d h u).setPatterns d h u).opsStart d (s.beatOps d h u)
  (r.1.lookAheads d h u n (s.seqValue d h n).1 (s.beatOps d h u), r.2)

/-- The whole effect of the beat at SEQ_PC of s, from s1. -/
def beatDone (s s1 : State) (d h : Nat) : State :=
  let n := s.dieWord d h (s.pc d h)
  let s2 := (beatWork s s1 d h).1
  let s3 := if dwDop n = 1 then s2.dmaPush d h (dwDrud n) (dwCls n) else s2
  if dwSeq n = 5 then s3.haltStart d h else (s3.beatBell d h n).beatNext d h (s.pc d h) n

/-- The whole beat at SEQ_PC issues when it is ready: its AWAIT, patterns, operations, DMA issue, bell and sequencer operation take effect. A held
AWAIT that can pass, and a full DMA queue with room again, let the held beat issue so. A beat whose AWAIT cannot pass holds the context with reason
1, one whose DMA queue is full with reason 2, a STEP beat before its boundary begins action 1. Completes: BEAT_ISSUE, AWAIT_PASS, DMA_QUEUE_FREE. -/
def Obligations.BeatIssuesOrHolds : Prop :=
  ∀ (s : State) (d : Fin 4) (h : Fin 2),
    let n := s.dieWord d.val h.val (s.pc d.val h.val)
    let t := s.get (SEQ_CYC.cycles d.val h.val)
    let w := s.unhold d.val h.val
    (s.issues d.val h.val = true → beatReady s d.val h.val false →
      (beatWork s (awaitTaken s d.val h.val) d.val h.val).2 = none →
      (beatWork s (awaitTaken s d.val h.val) d.val h.val).1.clash d.val h.val t (t + 1) = none →
      exec (.beatIssue d h) s = .next (beatDone s (awaitTaken s d.val h.val) d.val h.val)) ∧
    (s.issues d.val h.val = true → s.fetchFault d.val h.val (s.pc d.val h.val) = 0 → dwSeq n ≠ 4 → dwBop n = 2 →
      s.awaitTest d.val h.val (dwBell n) (dwCount n) = .wait → exec (.beatIssue d h) s = .next (s.hold d.val h.val 1)) ∧
    (s.issues d.val h.val = true → s.fetchFault d.val h.val (s.pc d.val h.val) = 0 → dwSeq n ≠ 4 → dwBop n ≠ 2 → dwDop n = 1 →
      s.dmaFull d.val h.val = true → exec (.beatIssue d h) s = .next (s.hold d.val h.val 2)) ∧
    (s.issues d.val h.val = true → s.fetchFault d.val h.val (s.pc d.val h.val) = 0 → dwSeq n = 4 → (s.ctx d.val h.val).phase ≠ .resumed →
      exec (.beatIssue d h) s = .next (s.stepStart d.val h.val (bitOf (dwImm n) 0))) ∧
    (s.cstate d.val h.val = 4 → s.get (SEQ_STATUS.held_reason d.val h.val) = 1 → s.ctxLive d.val h.val = true →
      s.awaitTest d.val h.val (dwBell n) (dwCount n) ≠ .wait → beatReady w d.val h.val false →
      (beatWork w (awaitTaken w d.val h.val) d.val h.val).2 = none →
      (beatWork w (awaitTaken w d.val h.val) d.val h.val).1.clash d.val h.val (w.get (SEQ_CYC.cycles d.val h.val))
        (w.get (SEQ_CYC.cycles d.val h.val) + 1) = none →
      exec (.awaitPass d h) s = .next (beatDone w (awaitTaken w d.val h.val) d.val h.val)) ∧
    (s.cstate d.val h.val = 4 → s.get (SEQ_STATUS.held_reason d.val h.val) = 2 → s.ctxLive d.val h.val = true → s.dmaFull d.val h.val = false →
      beatReady w d.val h.val true →
      (beatWork w w d.val h.val).2 = none →
      (beatWork w w d.val h.val).1.clash d.val h.val (w.get (SEQ_CYC.cycles d.val h.val)) (w.get (SEQ_CYC.cycles d.val h.val) + 1) = none →
      exec (.dmaQueueFree d h) s = .next (beatDone w w d.val h.val))

/-- No armed shadow waits for a pen to take its share of it. -/
def noShare (s : State) : Prop := s.get LAY_STATUS.shadow ≠ 2 ∧ ∀ f, f < 2 → s.get (GRP_SWAP.armed f) ≠ 1

/-- STEP (action 1): with no operation in flight the context is HELD at the step barrier, reason 3, at its beat. STEP_DRAINED: once its DMA queue is
empty and it has no yard command and no collective in flight, it has arrived. HALT: the context waits in its beat. HALT_COMPLETE: with its DMA queue
empty it is HALTED; a HALT beat without bell operation changes no other register, one with RING rings its bell. Completes: STEP, STEP_DRAINED, HALT,
HALT_COMPLETE. -/
def Obligations.StepAndHaltWaitForWorkInFlight : Prop :=
  ∀ (s : State) (d : Fin 4) (h : Fin 2),
    let e := s.drainedAt d.val h.val
    let n := s.dieWord d.val h.val (s.pc d.val h.val)
    let cyc := s.get (SEQ_CYC.cycles d.val h.val)
    (s.issues d.val h.val = true → (s.ctx d.val h.val).phase ≠ .resumed →
      exec (.step d h) s = .next (s.stepStart d.val h.val (bitOf (dwImm n) 0)) ∧
      (enginesIdle s d.val h.val → s.clash d.val h.val cyc e = none →
        ∃ t, exec (.step d h) s = .next t ∧ t.get (SEQ_STATUS.state d.val h.val) = 4 ∧ t.get (SEQ_STATUS.held_reason d.val h.val) = 3 ∧
          t.get (SEQ_PC.record d.val h.val) = s.pc d.val h.val ∧ (t.ctx d.val h.val).phase = .draining ∧
          (t.ctx d.val h.val).snap = bitOf (dwImm n) 0 ∧ t.mem = s.mem)) ∧
    (s.ctxLive d.val h.val = true → (s.ctx d.val h.val).phase = .draining → (s.ctx d.val h.val).dmaq = [] → s.ctxCommands d.val h.val = false →
      s.ctxColls (2 * d.val + h.val) = false →
      exec (.stepDrained d h) s = .next (s.setCtx d.val h.val { s.ctx d.val h.val with phase := .arrived })) ∧
    (s.issues d.val h.val = true → exec (.halt d h) s = .next (s.haltStart d.val h.val) ∧
      (enginesIdle s d.val h.val → s.clash d.val h.val cyc (max (cyc + 1) e) = none →
        ∃ t, exec (.halt d h) s = .next t ∧ (t.ctx d.val h.val).phase = .halting ∧
          t.get (SEQ_PC.record d.val h.val) = s.pc d.val h.val ∧ t.get (SEQ_STATUS.state d.val h.val) = 3 ∧ t.mem = s.mem)) ∧
    (s.runs d.val h.val = true → (s.ctx d.val h.val).phase = .halting → (s.ctx d.val h.val).dmaq = [] →
      ∃ t, exec (.haltComplete d h) s = .next t ∧ t.get (SEQ_STATUS.state d.val h.val) = 5 ∧ (t.ctx d.val h.val).phase = .none ∧
        (dwBop n = 0 → noShare s → t.mem = s.mem ∧ ∀ f : Fld, f.key ≠ (SEQ_STATUS.state d.val h.val).key → t.get f = s.get f) ∧
        (dwSeq n = 5 → dwBop n = 1 → dwCount n ≠ 0 → 2 ≤ s.get LAY_STATUS.state → dwBell n < bellsOf d.val →
          s.ctxPen d.val h.val = some (s.get (BEL_OWN.pen d.val (dwBell n))) → s.get (BEL_VAL.count d.val (dwBell n)) < 2 ^ 32 →
          t.get (BEL_VAL.count d.val (dwBell n)) = min (s.get (BEL_VAL.count d.val (dwBell n)) + dwCount n) (2 ^ 32 - 1)))

/-- A beat only starts its engine operations: in the cycle of its issue none of them changes a byte of memory, an accumulator element, a lane
register or a channel-cache entry. An LD of at most 64 bytes that a beat starts in an otherwise idle context reads in its first cycle, changes no
byte in it, and has written them after the second. The k's of a chunk change its slot in no cycle but those from which they are visible (the model's
reading of what is in flight, log entry 9).  -/
def Obligations.BeatOperationsActInTheirCycles : Prop :=
  (∀ (s : State) (d : Nat) (o : BeatOp), (∀ c op r, o ≠ .piv c op r) →
    (s.opStart d o).2 = none ∧ (s.opStart d o).1.mem = s.mem ∧
      ∀ e x k, ((s.opStart d o).1.core e x k).lanes = (s.core e x k).lanes ∧ ((s.opStart d o).1.core e x k).chans = (s.core e x k).chans ∧
        ∀ n, ((s.opStart d o).1.slotAt e x k n).elems = (s.slotAt e x k n).elems) ∧
  (∀ (s : State) (d : Fin 4) (c : Fin 8) (k : Fin 16) (r : MoveRud),
    let h := s.hOf d.val c.val
    let t := s.cycOf d.val c.val
    let la := loftBase d.val c.val + s.loftAddr d.val h k.val r.agL
    let sa := stallBase d.val c.val k.val + s.stallAddr d.val h k.val r.agS
    let u := (s.opStart d.val (.move c.val k.val 1 r)).1
    enginesIdle s d.val h → r.len ≤ 64 →
      (u.enginesRun d.val h 1 t).1.mem = s.mem ∧ (u.enginesRun d.val h 1 t).2.2 = none ∧ (u.enginesRun d.val h 2 t).2.2 = none ∧
        ∀ a, (u.enginesRun d.val h 2 t).1.mem.byte a = if sa ≤ a ∧ a < sa + r.len then s.mem.byte (la + (a - sa)) else s.mem.byte a) ∧
  (∀ (s : State) (d c k y : Nat) (w : ChunkWork), (∀ t ∈ w.ks, t.vis ≠ y) → s.chunkLand d c k y w = (s, w))

/-- While a layout is active, RING adds its count to a bell that its context's pen owns, to at most 2^32 − 1; any other bell, and every bell without
a layout, is left, and the refusal counted. A count of 0 changes nothing. RINGX rings the bell its rudiment names: a bell of this package like RING, one
of another package by a BELL packet. Completes: RING, RINGX. -/
def Obligations.RingAddsToItsOwnBell : Prop :=
  ∀ (s : State) (d : Fin 4) (h : Fin 2) (bell : BitVec 12) (count : U16), s.get (BEL_VAL.count d.val bell.toNat) < 2 ^ 32 →
    let own := 2 ≤ s.get LAY_STATUS.state ∧ bell.toNat < bellsOf d.val ∧ s.ctxPen d.val h.val = some (s.get (BEL_OWN.pen d.val bell.toNat))
    (count = 0 → exec (.ring d h bell count) s = .next s) ∧
    (count ≠ 0 → own → ∃ t, exec (.ring d h bell count) s = .next t ∧
        t.get (BEL_VAL.count d.val bell.toNat) = min (s.get (BEL_VAL.count d.val bell.toNat) + count.toNat) (2 ^ 32 - 1) ∧
        t.get (BEL_VAL.err d.val bell.toNat) = s.get (BEL_VAL.err d.val bell.toNat) ∧ t.mem = s.mem ∧ t.ctxs = s.ctxs) ∧
    (count ≠ 0 → ¬ own → exec (.ring d h bell count) s = .next (s.inc (BEL_CNT.refused d.val) 1)) ∧
    (∀ rud : BitVec 12, count = 0 → exec (.ringx d h rud count) s = .next s) ∧
    (∀ rud : BitVec 12, count ≠ 0 →
      let name := s.readNat (s.rudPlace d.val h.val rud.toNat + 8) 8
      (bellPackage name = s.package → bellDie name = d.val → bellReserved name = false → bellIndex name = bell.toNat → own →
        ∃ t, exec (.ringx d h rud count) s = .next t ∧
          t.get (BEL_VAL.count d.val bell.toNat) = min (s.get (BEL_VAL.count d.val bell.toNat) + count.toNat) (2 ^ 32 - 1) ∧ t.mem = s.mem) ∧
      (bellPackage name ≠ s.package →
        exec (.ringx d h rud count) s = .next (s.emit (s.ctxPen d.val h.val) (bellPacket s name count.toNat false))))

/-- AWAIT takes its count from the bell when the bell has as much, and else holds the context with reason 1; where the bell's count is enough for only
one of a die's two contexts, context 0, which waits for it, is served and context 1 holds; a bell with err set faults. A hold that reaches
SEQ_AWAIT_TMO raises AWAIT_TMO. Completes: AWAIT, AWAIT_TMO. -/
def Obligations.AwaitTakesItsCountOrHolds : Prop :=
  ∀ (s : State) (d : Fin 4) (h : Fin 2) (bell : BitVec 12) (count : U16),
    let v := s.get (BEL_VAL.count d.val bell.toNat)
    (s.issues d.val h.val = true → s.get (BEL_VAL.err d.val bell.toNat) ≠ 1 → count.toNat ≤ v → v < 2 ^ 32 → (h = 0 ∨ s.cstate d.val 0 ≠ 4) →
      ∃ t, exec (.await d h bell count) s = .next t ∧ t.get (BEL_VAL.count d.val bell.toNat) = v - count.toNat ∧ t.mem = s.mem ∧
        t.ctxs = s.ctxs ∧ ∀ g : Fld, g.key ≠ (BEL_VAL.count d.val bell.toNat).key → t.get g = s.get g) ∧
    (s.issues d.val h.val = true → s.get (BEL_VAL.err d.val bell.toNat) ≠ 1 →
      v < count.toNat ∨ h = 1 ∧ (∃ n, s.zeroAwaits d.val bell.toNat = some n ∧ v < n + count.toNat) →
      exec (.await d h bell count) s = .next (s.hold d.val h.val 1) ∧ (s.hold d.val h.val 1).get (SEQ_STATUS.state d.val h.val) = 4 ∧
        (s.hold d.val h.val 1).get (SEQ_STATUS.held_reason d.val h.val) = 1) ∧
    (s.issues d.val h.val = true → s.get (BEL_VAL.err d.val bell.toNat) = 1 →
      exec (.await d h bell count) s = .next (s.contextFault d.val h.val 0x36 0 0)) ∧
    (∀ held : BitVec 48, s.cstate d.val h.val = 4 → s.get (SEQ_STATUS.held_reason d.val h.val) = 1 → s.ctxLive d.val h.val = true →
      s.get (SEQ_AWAIT_TMO.cycles d.val h.val) ≠ 0 → s.get (SEQ_AWAIT_TMO.cycles d.val h.val) ≤ held.toNat →
      exec (.awaitTmo d h held) s = .next (((s.inc (SEQ_HELD.cycles d.val h.val) held.toNat).set
        (SEQ_STATUS.state d.val h.val) 3).contextFault d.val h.val 0x35 0 0))

/-! ## Step boundaries, die DMA, loading a cadence -/

/-- When every context of a pen has arrived and its barrier may pass, STEP_BARRIER_PASS closes the step: LDG_STEP moves on by one, and without team
comparison and freezes that wait for the boundary the pen stands latched; a full ring in hold mode holds the pen instead, with full_hold set.
STEP_ACTION5 and, after rewrites, REBASE_DONE end the boundary of a pen without governor and snapshots: every context of it runs again, its STEP beat
still to issue. STEP_ACTION5 also goes on after a hold of the checkpoint unit has ended. Completes: STEP_BARRIER_PASS, STEP_ACTION5, REBASE_DONE. -/
def Obligations.StepBoundaryRunsItsActions : Prop :=
  (∀ (s : State) (p : Fin 8), s.barrierReady p.val = true → s.ringHolds p.val = false →
    (allTaken s (s.latch p.val) → exec (.stepBarrierPass p) s = .next (s.latch p.val)) ∧
    (calm s → ∃ t, exec (.stepBarrierPass p) s = .next t ∧ t.get (LDG_STEP.step p.val) = (s.get (LDG_STEP.step p.val) + 1) % 2 ^ 64 ∧
      (s.teamOn p.val = false → (s.pen p.val).failed = none → (s.pen p.val).atBound = false → s.ledgerTrigger p.val = false →
        (t.pen p.val).boundary = .latched ∧ ∀ d h, d < 4 → h < 2 → (d, h) ∈ s.penCtxs p.val → (t.ctx d h).phase = .latched))) ∧
  (∀ (s : State) (p : Fin 8), noWait s → s.barrierReady p.val = true → s.ringHolds p.val = true →
    ∃ t, exec (.stepBarrierPass p) s = .next t ∧ t.get (LDG_STAT.full_hold p.val) = 1 ∧ t.mem = s.mem ∧ t.ctxs = s.ctxs ∧
      t.get (LDG_STEP.step p.val) = s.get (LDG_STEP.step p.val)) ∧
  (∀ (s : State) (p : Fin 8), s.penFrozen p.val = false → (s.pen p.val).boundary = .latched → s.teamPending p.val = false →
    allTaken s (s.runAction5 p.val false) → exec (.stepAction5 p) s = .next (s.runAction5 p.val false)) ∧
  (∀ (s : State) (p : Fin 8), s.penFrozen p.val = false → (s.pen p.val).boundary = .rebasing → allTaken s (s.runAction5 p.val true) →
    exec (.rebaseDone p) s = .next (s.runAction5 p.val true)) ∧
  (∀ (s : State) (p : Fin 8) (x : Instr × Boundary), x ∈ ([(.stepAction5 p, .latched), (.rebaseDone p, .rebasing)] : List (Instr × Boundary)) →
    noWait s → s.penFrozen p.val = false → (s.pen p.val).boundary = x.2 → s.teamPending p.val = false →
    (∀ c ∈ s.penCtxs p.val, s.get (SEQ_GOV_PARAM.enable c.1 c.2) = 0) → s.get (CKP_CTL.enable p.val) = 0 →
    ∃ t, exec x.1 s = .next t ∧ (t.pen p.val).boundary = .none ∧ t.mem = s.mem ∧
      ∀ d h, d < 4 → h < 2 → (d, h) ∈ s.penCtxs p.val → (t.ctx d h).phase = .resumed ∧ t.get (SEQ_STATUS.state d h) = 3 ∧
        t.get (SEQ_STATUS.held_reason d h) = 0) ∧
  (∀ (s : State) (p : Fin 8), noWait s → s.penFrozen p.val = false →
    ((s.pen p.val).boundary = .allstop → s.manifestDue p.val = false →
      exec (.stepAction5 p) s = .next ((s.holdEnds p.val).resumePen p.val)) ∧
    ((s.pen p.val).boundary = .allstop → s.manifestDue p.val = true → exec (.stepAction5 p) s = .next s) ∧
    ((s.pen p.val).boundary = .unitBusy → s.get (CKP_STAT.state p.val) = 0 → noWait ((s.holdEnds p.val).markAndGo p.val) →
      exec (.stepAction5 p) s = .next ((s.holdEnds p.val).markAndGo p.val)) ∧
    ((s.pen p.val).boundary = .unitBusy → s.get (CKP_STAT.state p.val) ≠ 0 → exec (.stepAction5 p) s = .next s)) ∧
  (∀ (s : State) (p d h : Nat), p < 8 → d < 4 → h < 2 → (d, h) ∈ s.penCtxs p →
    let t := s.resumePen p
    (t.pen p).boundary = .none ∧ (t.ctx d h).phase = .resumed ∧ (t.ctx d h).snap = false ∧ t.get (SEQ_STATUS.state d h) = 3 ∧
      t.get (SEQ_STATUS.held_reason d h) = 0 ∧ t.mem = s.mem ∧ t.cores = s.cores)

/-- A DMA issue puts its rudiment, resolved at issue, at the end of the context's queue of 64; with the queue full the context holds with reason 2. The
next line of the head transfer, on this package and of the context's pen, moves between memory and the loft, and counts as issued. The transfer at the
head is done when its last byte has landed: it leaves the queue and rings its completion bell. The die DMA serves the two contexts of a die in turn:
after one was served, the other is served next when it has a line ready. Completes: DMA_ISSUE, DMA_LINE_ISSUE, DMA_TRANSFER_DONE. -/
def Obligations.DmaQueueIsFirstInFirstOut : Prop :=
  (∀ (s : State) (d : Fin 4) (h : Fin 2) (rud : U16) (cls : BitVec 2), s.dmaDefined d.val h.val rud.toNat = true →
    ((s.ctx d.val h.val).dmaq.length < 64 → ∃ t e, exec (.dmaIssue d h rud cls) s = .next t ∧
      (t.ctx d.val h.val).dmaq = (s.ctx d.val h.val).dmaq ++ [e] ∧ e.rud = rud ∧ e.cls = cls.toNat ∧ e.issued = 0 ∧
      e.len = (dmaOf (s.rudBytes d.val h.val rud.toNat 64)).len ∧ t.regs = s.regs ∧ t.mem = s.mem ∧ t.cores = s.cores) ∧
    (64 ≤ (s.ctx d.val h.val).dmaq.length → exec (.dmaIssue d h rud cls) s = .next (s.hold d.val h.val 2))) ∧
  (∀ (s : State) (d : Fin 4) (h : Fin 2) (e : DmaEntry) (q : List DmaEntry), (s.ctx d.val h.val).dmaq = e :: q → s.ctxLive d.val h.val = true →
    e.issued = e.len → e.waiting = 0 → e.failed = none → s.postHeld d.val h.val = false →
    ∃ t, exec (.dmaTransferDone d h) s = .next t ∧ (t.ctx d.val h.val).dmaq = q ∧ t.mem = s.mem ∧
      (2 ≤ s.get LAY_STATUS.state → e.done < bellsOf d.val → s.ctxPen d.val h.val = some (s.get (BEL_OWN.pen d.val e.done)) →
        s.get (BEL_VAL.count d.val e.done) < 2 ^ 32 - 1 →
        t.get (BEL_VAL.count d.val e.done) = s.get (BEL_VAL.count d.val e.done) + 1)) ∧
  (∀ (s : State) (d : Fin 4) (h : Nat) (e : DmaEntry) (q : List DmaEntry), s.lineTurn d.val = some h → (s.ctx d.val h).dmaq = e :: q →
    let u := { s with dmaLast := Tab.set 1 s.dmaLast d.val h }
    (allTaken s (u.nextLine d.val h e) → exec (.dmaLineIssue d) s = .next (u.nextLine d.val h e)) ∧
    (let n := lineLen e.gaddr.toNat e.len e.issued
     let g := (e.gaddr.toNat + e.issued) % 2 ^ 64
     let a := localOf g
     let la := loftBase d.val e.cluster + (e.laddr + e.issued)
     calm s → h < 2 → s.ownPackage g = true → s.penRange (s.ctxPen d.val h) a n = true →
       s.dmaSlots d.val e.cluster (e.laddr + e.issued) n = true → s.get (YRD_RETIRE.mask (a / 0x2000000000)) = 0 →
       ∃ t, exec (.dmaLineIssue d) s = .next t ∧ (t.ctx d.val h).dmaq = { e with issued := e.issued + n } :: q ∧ t.cores = s.cores ∧
         (e.toMem = true → t.read a n = s.read la n ∧ t.read la n = s.read la n) ∧
         (e.toMem = false → t.read la n = s.read a n ∧ ∀ b, b < dramTop → t.mem.byte b = s.mem.byte b))) ∧
  (∀ (s : State) (d h : Nat), h < 2 → Tab.get 1 s.dmaLast d = 1 - h → s.lineReady d h = true → s.lineTurn d = some h)

/-- A write of 1 to SEQ_CTL.load of an IDLE context begins the scan; a scan that finds nothing leaves the context LOADED, any other leaves it IDLE with
reason, detail and index; go starts a LOADED context at its entry record with the cycle counts at 0, and is ignored in every other state. Completes: SEQ_LOAD_START, SCAN_COMPLETE,
SEQ_GO. -/
def Obligations.LoadScanAndGo : Prop :=
  (∀ (s : State) (d : Fin 4) (h : Fin 2), s.get (SEQ_STATUS.state d.val h.val) = 0 → s.takesLoad d.val h.val = true →
    exec (.seqLoadStart d h) s = .next (s.set (SEQ_STATUS.state d.val h.val) 1)) ∧
  (∀ (s : State) (d : Fin 4) (h : Fin 2), s.get (SEQ_STATUS.state d.val h.val) ≠ 0 → exec (.seqLoadStart d h) s = .next s) ∧
  (∀ (s : State) (d : Fin 4) (h : Fin 2), s.get (SEQ_STATUS.state d.val h.val) = 1 → s.ctxLive d.val h.val = true →
    let r := s.scan d.val h.val
    ∃ t, exec (.scanComplete d h) s = .next t ∧ t.get (SEQ_STATUS.state d.val h.val) = (if r.1 = 0 then 2 else 0) ∧
      t.get (SEQ_LOAD.reason d.val h.val) = r.1 % 256 ∧ t.mem = s.mem ∧ t.ctxs = s.ctxs) ∧
  (∀ (s : State) (d : Fin 4) (h : Fin 2), s.get (SEQ_STATUS.state d.val h.val) = 2 → s.takesLoad d.val h.val = true →
    ∃ t, exec (.seqGo d h) s = .next t ∧ t.get (SEQ_STATUS.state d.val h.val) = 3 ∧ t.get (SEQ_CYC.cycles d.val h.val) = 0 ∧
      t.get (SEQ_HELD.cycles d.val h.val) = 0 ∧ t.get (SEQ_PC.record d.val h.val) = s.imgEntry d.val h.val % 2 ^ 21 ∧
      (t.ctx d.val h.val).beats = 0 ∧ t.mem = s.mem) ∧
  (∀ (s : State) (d : Fin 4) (h : Fin 2), s.get (SEQ_STATUS.state d.val h.val) ≠ 2 → exec (.seqGo d h) s = .next s)

/-- A write into the cadence store outside the region of every context that is not IDLE puts its bytes there and changes no other byte; any other is
answered with an access fault and changes nothing. Completes:
STORE_APERTURE_WRITE. -/
def Obligations.StoreWritesOnlyItsBytes : Prop :=
  ∀ (s : State) (d : Fin 4) (off : BitVec 25) (bs : List Byte),
    (off.toNat + bs.length ≤ 0x2000000 → s.storeClosed d.val off.toNat bs.length = false →
      ∃ t, exec (.storeApertureWrite d off bs) s = .next t ∧ t.regs = s.regs ∧ t.reply = .accepted ∧
        ∀ a, t.mem.byte a = if storeBase d.val + off.toNat ≤ a ∧ a < storeBase d.val + off.toNat + bs.length then
          bs.getD (a - (storeBase d.val + off.toNat)) 0 else s.mem.byte a) ∧
    (0x2000000 < off.toNat + bs.length ∨ s.storeClosed d.val off.toNat bs.length = true →
      exec (.storeApertureWrite d off bs) s = .next { s with reply := .accessFault })

/-! ## The cluster's engines -/

/-- What an operation of the engines of cluster c of die d leaves as it was: every register outside the cluster's block, all DRAM, every core of
every other cluster, the layout, the root of trust, yards, ports and pins. -/
def clusterOnly (s t : State) (d c : Nat) : Prop :=
  (∀ f : Fld, f.key < 8 * clusterBlk d c ∨ 8 * (clusterBlk d c + 0x20000) ≤ f.key → t.get f = s.get f) ∧
    (∀ a, a < dramTop → t.mem.byte a = s.mem.byte a) ∧
    (∀ e x k, e < 4 → x < 8 → k < 16 → e ≠ d ∨ x ≠ c → t.core e x k = s.core e x k) ∧
    t.lay = s.lay ∧ t.rot = s.rot ∧ t.yards = s.yards ∧ t.ports = s.ports ∧ t.pins = s.pins

/-- The matrix rows with their codes (R126). -/
def matrixRows : List ((Fin 4 → Fin 8 → Fin 16 → BitVec 4 → MatRud → Instr) × Nat) :=
  [(.chunk, 1), (.chunkc, 2), (.accst, 3), (.accadd, 4)]

/-- A slot with this format tag may be used with format f under this half (R75): cleared or of that format, and half 1 only of formats that leave a
half free. -/
def slotTakes (sl : Slot) (f : Fmt) (half : Nat) : Prop := (sl.tag = none ∨ sl.tag = some f) ∧ (half = 0 ∨ f ≠ .a48 ∧ f ≠ .a192)

/-- The format codes that a matrix operation uses are operand formats (R131): a chunk uses both, an ACCADD into a cleared slot both, ACCST none. -/
def matCodesOk (s : State) (d c k mop slot : Nat) (r : MatRud) : Prop :=
  r.fmta ≤ 4 ∧ r.fmtb ≤ 4 ∨ mop = 3 ∨ mop = 4 ∧ (s.slotAt d c k slot).tag ≠ none

/-- A matrix operation whose format codes are operand formats has its effect when its engine is free and its slot's format allows it, and touches its
own cluster alone; otherwise it raises the core fault that the model's `matFault` gives for that core; a reserved slot code raises SEQ_OPCODE. One with
a format code R131 does not give stops. ACCST puts every container of its slot's tile into the stall in row-major order; ACCADD adds every container to
its element exactly where the accumulator's width holds the sum; ACCCLR clears its whole slot and nothing else of memory or registers. Completes:
CHUNK, CHUNKC, ACCST, ACCADD, ACCCLR. -/
def Obligations.MatrixOperationsRunOrFault : Prop :=
  (∀ x ∈ matrixRows, ∀ (s : State) (d : Fin 4) (c : Fin 8) (k : Fin 16) (slot : BitVec 4) (r : MatRud),
    (¬ matCodesOk s d.val c.val k.val x.2 slot.toNat r → exec (x.1 d c k slot r) s = .fault .reservedCode) ∧
    (matCodesOk s d.val c.val k.val x.2 slot.toNat r →
      (slot.toNat < 12 → s.matFault d.val c.val k.val x.2 slot.toNat r = 0 →
        exec (x.1 d c k slot r) s = .next (s.matRun d.val c.val k.val x.2 slot.toNat r) ∧
          clusterOnly s (s.matRun d.val c.val k.val x.2 slot.toNat r) d.val c.val) ∧
      (slot.toNat < 12 → s.matFault d.val c.val k.val x.2 slot.toNat r ≠ 0 →
        exec (x.1 d c k slot r) s =
          .next (s.coreFault d.val (s.hOf d.val c.val) (s.matFault d.val c.val k.val x.2 slot.toNat r) c.val k.val)) ∧
      (12 ≤ slot.toNat → exec (x.1 d c k slot r) s = .next (s.contextFault d.val (s.hOf d.val c.val) 0x30 0 0)))) ∧
  (∀ (s : State) (d : Fin 4) (c : Fin 8) (k : Fin 16) (slot : BitVec 4) (r : MatRud), slot.toNat < 12 →
    (s.core d.val c.val k.val).mBusy ≤ s.cycOf d.val c.val →
    let sl := s.slotAt d.val c.val k.val slot.toNat
    let a := stallBase d.val c.val k.val + s.stallAddr d.val (s.hOf d.val c.val) k.val r.agA
    let key := fun (f : Fmt) (x : Nat) => accKey f (halfOf slot.toNat) (x / f.accEdge) (x % f.accEdge)
    (∀ f, sl.tag = some f → slotTakes sl f (halfOf slot.toNat) → ∃ t, exec (.accst d c k slot r) s = .next t ∧ clusterOnly s t d.val c.val ∧
      ∀ x i, x < f.accEdge * f.accEdge → i < f.bits / 8 →
        t.mem.byte (a + x * (f.bits / 8) + i) = (leBytes (f.bits / 8) (uns f.bits (sl.at (key f x)).val)).getD i 0) ∧
    (∀ f, (sl.tag = some f ∨ sl.tag = none ∧ f = (wideOf r).acc ∧ r.fmta ≤ 4 ∧ r.fmtb ≤ 4) → slotTakes sl f (halfOf slot.toNat) →
      ∃ t, exec (.accadd d c k slot r) s = .next t ∧ t.mem = s.mem ∧ clusterOnly s t d.val c.val ∧
      ∀ x, x < f.accEdge * f.accEdge →
        let sum := (sl.at (key f x)).val + sext (f.accW + 8) (s.readNat (a + x * (f.bits / 8)) (f.bits / 8))
        sum < 2 ^ (f.accW + 7) → -2 ^ (f.accW + 7) ≤ sum → ((t.slotAt d.val c.val k.val slot.toNat).at (key f x)).val = sum)) ∧
  (∀ (s : State) (d : Fin 4) (c : Fin 8) (k : Fin 16) (slot : BitVec 4), slot.toNat < 12 → (s.core d.val c.val k.val).mBusy ≤ s.cycOf d.val c.val →
    (∀ f, (s.slotAt d.val c.val k.val slot.toNat).tag = some f → halfOf slot.toNat = 0 ∨ f ≠ .a48 ∧ f ≠ .a192) →
    ∃ t, exec (.accclr d c k slot) s = .next t ∧ t.slotAt d.val c.val k.val slot.toNat = Slot.clear ∧ t.mem = s.mem ∧ t.regs = s.regs ∧
      ∀ n : BitVec 4, n.toNat / 2 ≠ slot.toNat / 2 → t.slotAt d.val c.val k.val n.toNat = s.slotAt d.val c.val k.val n.toNat)

/-- A chunk adds to each element of its tile the exact sum of the products of its row of A and column of B, each aligned by the shifts of its blocks;
with the clear flag it stores the sum instead and clears the saturation flag. The sum is the element's value wherever the accumulator's extended width
holds it; R40 rules out any other, of which the model leaves the value open (`heldAcc`, log entry 53). No byte of memory changes. Completes: CHUNK,
CHUNKC. -/
def Obligations.ChunkSumsItsProductsExactly : Prop :=
  ∀ (s : State) (d : Fin 4) (c : Fin 8) (k : Fin 16) (slot : BitVec 4) (r : MatRud), r.fmta ≤ 4 → r.fmtb ≤ 4 → slot.toNat < 12 →
    (s.core d.val c.val k.val).mBusy ≤ s.cycOf d.val c.val → slotTakes (s.slotAt d.val c.val k.val slot.toNat) (wideOf r).acc (halfOf slot.toNat) →
    let w := wideOf r
    let e := w.tile.1
    let base := stallBase d.val c.val k.val
    let a := base + s.stallAddr d.val (s.hOf d.val c.val) k.val r.agA
    let b := base + s.stallAddr d.val (s.hOf d.val c.val) k.val r.agB
    let sum := fun i j => ((List.range w.tile.2).map fun n =>
      chunkTerm w.guard (s.opA a (matFmt r.fmta) e w.tile.2 i n) (s.opB b (matFmt r.fmtb) e n j)).sum
    let key := fun i j => accKey w.acc (halfOf slot.toNat) i j
    let old := s.slotAt d.val c.val k.val slot.toNat
    let fits := fun v : Int => -2 ^ (w.acc.accW + 7) ≤ v ∧ v < 2 ^ (w.acc.accW + 7)
    (∃ t, exec (.chunk d c k slot r) s = .next t ∧ t.mem = s.mem ∧
      ∀ i j, i < e → j < e → let x := (t.slotAt d.val c.val k.val slot.toNat).at (key i j)
        x.val = heldAcc w.acc.accW ((old.at (key i j)).val + sum i j) ∧
        (fits ((old.at (key i j)).val + sum i j) → x.val = (old.at (key i j)).val + sum i j) ∧ x.sat = (old.at (key i j)).sat) ∧
    (∃ t, exec (.chunkc d c k slot r) s = .next t ∧ t.mem = s.mem ∧
      ∀ i j, i < e → j < e → let x := (t.slotAt d.val c.val k.val slot.toNat).at (key i j)
        x.val = heldAcc w.acc.accW (sum i j) ∧ (fits (sum i j) → x.val = sum i j) ∧ x.sat = false)

/-- The vector rows with their opcodes (R82, R134). -/
def vectorRows : List ((Fin 4 → Fin 8 → Fin 16 → VecRud → Option ConvRud → Instr) × Nat) :=
  [(.vecAdd, 0x00), (.vecSub, 0x01), (.vecAdds, 0x02), (.vecSubs, 0x03), (.vecNegs, 0x04), (.vecAbss, 0x05), (.vecMin, 0x06), (.vecMax, 0x07),
   (.vecAnd, 0x08), (.vecOr, 0x09), (.vecXor, 0x0A), (.vecAndn, 0x0B), (.vecNot, 0x0C), (.vecShl, 0x10), (.vecShls, 0x11), (.vecShra, 0x12),
   (.vecShrl, 0x13), (.vecShrn, 0x14), (.vecClz, 0x15), (.vecPopc, 0x16), (.vecCmpeq, 0x18), (.vecCmplt, 0x19), (.vecCmple, 0x1A),
   (.vecSel, 0x1B), (.vecClamp, 0x1C), (.vecMul, 0x20), (.vecMulw, 0x21), (.vecMulhs, 0x22)] ++
  [(.vecRsum, 0x28), (.vecRmax, 0x29), (.vecRmin, 0x2A), (.vecCsum, 0x2B), (.vecCmax, 0x2C), (.vecCmin, 0x2D), (.vecExp2, 0x30),
   (.vecLog2, 0x31), (.vecRecip, 0x32), (.vecRsqrt, 0x33), (.vecSigm, 0x34), (.vecTanh, 0x35), (.smx1, 0x38), (.smx2, 0x39), (.smx3, 0x3A),
   (.nrm1, 0x3C), (.nrm2, 0x3D), (.vecMov, 0x3F)]

/-- A vector operation whose operand codes the spec lists has its effect when its lanes are free and its sources may be read, and otherwise raises the
fault that the model's `vecFault` gives, at that core; one with a code R132 or R134 does not list stops. Whatever the operation, it completes with free
lanes on sources that are no accumulator slots, for every stall or lane destination it may have: it touches its own cluster alone, no other core of it,
no context, and with a lane register as destination no byte of memory. Completes: every VEC row, SMX1, SMX2, SMX3, NRM1, NRM2. -/
def Obligations.VectorOperationsRunOrFault : Prop :=
  ∀ x ∈ vectorRows, ∀ (s : State) (d : Fin 4) (c : Fin 8) (k : Fin 16) (r : VecRud) (cv : Option ConvRud),
    (s.vecDefined d.val c.val x.2 r cv = false → exec (x.1 d c k r cv) s = .fault .reservedCode) ∧
    (s.vecDefined d.val c.val x.2 r cv = true →
      (s.vecFault d.val c.val k.val x.2 r cv = 0 → exec (x.1 d c k r cv) s = .next (s.vecRun d.val c.val k.val x.2 r cv) ∧
        (cv = none → clusterOnly s (s.vecRun d.val c.val k.val x.2 r cv) d.val c.val)) ∧
      (s.vecFault d.val c.val k.val x.2 r cv ≠ 0 →
        exec (x.1 d c k r cv) s = .next (s.raise d.val (s.hOf d.val c.val) (s.vecFault d.val c.val k.val x.2 r cv) c.val k.val))) ∧
    ((s.core d.val c.val k.val).vBusy ≤ s.cycOf d.val c.val → r.forma ≤ 4 → r.formb ≤ 4 → (r.forma ≤ 2 → r.fmta < 0xB) →
      (r.formb ≤ 2 → r.fmtb < 0xB) → (r.dest ≤ 1 ∨ r.dest = 2 ∧ x.2 ≠ 0x39 ∧ x.2 ≠ 0x3C) →
      ∃ t, exec (x.1 d c k r none) s = .next t ∧ clusterOnly s t d.val c.val ∧ t.ctxs = s.ctxs ∧
        s.cycOf d.val c.val ≤ (t.core d.val c.val k.val).vBusy ∧ (r.dest = 2 → t.mem = s.mem) ∧
        ∀ n, n < 16 → n ≠ k.val → t.core d.val c.val n = s.core d.val c.val n)

/-- A scalar operand: the lane register a generator names, or the immediate (R132). -/
def scalarOf (s : State) (d c k form base : Nat) (imm : U16) : U64 :=
  if form = 4 then imm.signExtend 64 else (Tab.get LaneReg.zero (s.core d c k).lanes (base % 16)).val

/-- A function unit's two parts in one lane register (R538): the first in the low 32 bits, the second, if there is one, clamped in the high 32. -/
def fuLane (fst : Int) (snd : Option Int) : U64 :=
  match snd with
  | none => BitVec.ofInt 64 fst
  | some j => BitVec.ofNat 64 (uns 32 fst + 2 ^ 32 * uns 32 (max (-(2 ^ 31 - 1)) (min j (2 ^ 31 - 1))))

/-- What each row of one or two operands makes of two 64-bit lane values (R82 to R85, R89, R96): the count of a shift is the low 7 bits of b. -/
def twoRows : List ((Fin 4 → Fin 8 → Fin 16 → VecRud → Option ConvRud → Instr) × (U64 → U64 → U64)) :=
  let sat := fun v : Int => BitVec.ofInt 64 (max (-(2 ^ 63 - 1)) (min v (2 ^ 63 - 1)))
  let count := fun b : U64 => b.toNat % 128
  [(.vecAdd, fun a b => a + b), (.vecSub, fun a b => a - b), (.vecAdds, fun a b => sat (a.toInt + b.toInt)),
   (.vecSubs, fun a b => sat (a.toInt - b.toInt)), (.vecNegs, fun a _ => sat (-a.toInt)), (.vecAbss, fun a _ => sat a.toInt.natAbs),
   (.vecMin, fun a b => if a.toInt ≤ b.toInt then a else b), (.vecMax, fun a b => if a.toInt ≤ b.toInt then b else a),
   (.vecAnd, fun a b => a &&& b), (.vecOr, fun a b => a ||| b), (.vecXor, fun a b => a ^^^ b), (.vecAndn, fun a b => a &&& ~~~b),
   (.vecNot, fun a _ => ~~~a), (.vecShl, fun a b => a <<< count b), (.vecShls, fun a b => sat (a.toInt * 2 ^ count b)),
   (.vecShra, fun a b => a.sshiftRight (count b)), (.vecShrl, fun a b => a >>> count b), (.vecCmpeq, fun a b => if a = b then 1 else 0),
   (.vecCmplt, fun a b => if a.toInt < b.toInt then 1 else 0), (.vecCmple, fun a b => if a.toInt ≤ b.toInt then 1 else 0),
   (.vecMul, fun a b => (a.setWidth 32).signExtend 64 * (b.setWidth 32).signExtend 64), (.vecMulw, fun a b => a * b),
   (.vecMulhs, fun a b => BitVec.ofInt 64 (a.toInt * b.toInt / 2 ^ 64)),
   (.vecShrn, fun a b => if 64 ≤ count b then 0 else BitVec.ofInt 64 (roundNe a.toInt (count b))),
   (.vecClz, fun a _ => if a = 0 then 64 else BitVec.ofNat 64 (63 - Nat.log2 a.toNat)),
   (.vecPopc, fun a _ => BitVec.ofNat 64 ((List.range 64).filter fun i => a.getLsbD i).length)] ++
  [(.vecRsum, fun a _ => a), (.vecRmax, fun a _ => a), (.vecRmin, fun a _ => a), (.vecCsum, fun a _ => a), (.vecCmax, fun a _ => a),
   (.vecCmin, fun a _ => a), (.smx1, fun a _ => a), (.vecMov, fun a _ => a),
   (.vecExp2, fun a _ => fuLane (fuExp2 a.toInt).1 (some (fuExp2 a.toInt).2)),
   (.vecRecip, fun a _ => fuLane (fuRecip a.toInt).fst (fuRecip a.toInt).snd),
   (.vecRsqrt, fun a _ => fuLane (fuRsqrt a.toInt).fst (fuRsqrt a.toInt).snd), (.vecSigm, fun a _ => fuLane (fuSigm a.toInt) none),
   (.vecTanh, fun a _ => fuLane (fuTanh a.toInt).fst (fuTanh a.toInt).snd),
   (.smx3, fun a b => BitVec.ofInt 64 (a.toInt * (fuRecip b.toInt).fst))]

/-- With them the rows that take more than two operands: SEL and CLAMP the lane registers of the rudiment, lo and hi, LOG2 its F from the
immediate (R82, R538). -/
def laneRows : List ((Fin 4 → Fin 8 → Fin 16 → VecRud → Option ConvRud → Instr) × (U64 → U64 → U64 → U64 → U16 → U64)) :=
  (twoRows.map fun x => (x.1, fun a b _ _ _ => x.2 a b)) ++
    [(.vecSel, fun a b lo _ _ => if lo = 0 then a else b), (.vecClamp, fun a _ lo hi _ => BitVec.ofInt 64 (min (max a.toInt lo.toInt) hi.toInt)),
     (.vecLog2, fun a _ _ _ imm => fuLane (fuLog2 a.toInt (imm.toNat % 128)).fst (fuLog2 a.toInt (imm.toNat % 128)).snd)]

/-- A vector operation on one element that comes from scalar operands (lane registers or the immediate) writes its result into the lane register named
and changes no other lane register of lane 0, no byte of memory, and no register field but the core's flags. What the function units compute is the model's FuncUnit
text. Completes so: every VEC row, SMX1, SMX3 (SMX2, NRM1 and NRM2 have no such form). -/
def Obligations.LaneOperationsComputeTheirResult : Prop :=
  ∀ x ∈ laneRows, ∀ (s : State) (d : Fin 4) (c : Fin 8) (k : Fin 16) (r : VecRud), (r.forma = 3 ∨ r.forma = 4) → (r.formb = 3 ∨ r.formb = 4) →
    r.dest = 2 → r.m = 1 → r.n = 1 → r.skind = 15 → r.var = false → (s.core d.val c.val k.val).vBusy ≤ s.cycOf d.val c.val →
    let a := scalarOf s d.val c.val k.val r.forma r.agA.base r.imm
    let b := scalarOf s d.val c.val k.val r.formb r.agB.base r.imm
    let lane := fun n : Nat => (Tab.get LaneReg.zero (s.core d.val c.val k.val).lanes n).val
    ∃ t, exec (x.1 d c k r none) s = .next t ∧
      (Tab.get LaneReg.zero (t.core d.val c.val k.val).lanes (r.agD.base % 16)).val = x.2 a b (lane r.rlo) (lane r.rhi) r.imm ∧
      (∀ n, n < 16 → n ≠ r.agD.base % 16 →
        Tab.get LaneReg.zero (t.core d.val c.val k.val).lanes n = Tab.get LaneReg.zero (s.core d.val c.val k.val).lanes n) ∧
      t.mem = s.mem ∧
      ∀ f : Fld, f.key ≠ (CORE_STATUS.lane_sat d.val c.val k.val).key → f.key ≠ (CORE_STATUS.fu_domain d.val c.val k.val).key →
        f.key ≠ (CORE_STATUS.poison_seen d.val c.val k.val).key → t.get f = s.get f

/-- LD copies its bytes from the loft to the stall, ST from the stall to the loft, BCAST to a set of one core from the loft to its stall; no
other byte of memory changes. LDT with efmt 0xF is LD; with an element format of R137 it, as BCAST to any set, changes its own cluster alone. A busy move
engine raises ENG_BUSY, an LDT of a reserved format or an odd I4 row length SEQ_OPCODE. Completes: LD, ST, LDT, BCAST. -/
def Obligations.MovesCopyTheirBytes : Prop :=
  ∀ (s : State) (d : Fin 4) (c : Fin 8) (k : Fin 16) (r : MoveRud),
    let h := s.hOf d.val c.val
    let la := loftBase d.val c.val + s.loftAddr d.val h k.val r.agL
    let sa := stallBase d.val c.val k.val + s.stallAddr d.val h k.val r.agS
    let ld := fun (t : State) (src : Nat) => ∀ a, t.mem.byte a =
      if sa ≤ a ∧ a < sa + r.len then s.mem.byte (src + (a - sa)) else s.mem.byte a
    let busy := decide (s.cycOf d.val c.val < (s.core d.val c.val k.val).lBusy)
    (busy = false → ∃ t, exec (.ld d c k r) s = .next t ∧ ld t la ∧ clusterOnly s t d.val c.val ∧ t.ctxs = s.ctxs) ∧
    (busy = false → ∃ t, exec (.st d c k r) s = .next t ∧ clusterOnly s t d.val c.val ∧ t.ctxs = s.ctxs ∧
      ∀ a, t.mem.byte a = if la ≤ a ∧ a < la + r.len then s.mem.byte (sa + (a - la)) else s.mem.byte a) ∧
    (busy = false → r.efmt = 15 → ∃ t, exec (.ldt d c k r) s = .next t ∧ ld t la ∧ clusterOnly s t d.val c.val ∧ t.ctxs = s.ctxs) ∧
    (busy = false → r.efmt ≤ 4 → (r.efmt = 0 → r.rowlen % 2 = 0) →
      ∃ t, exec (.ldt d c k r) s = .next t ∧ clusterOnly s t d.val c.val ∧ t.ctxs = s.ctxs) ∧
    (∀ x ∈ ([.ld, .st] : List (Fin 4 → Fin 8 → Fin 16 → MoveRud → Instr)), busy = true →
      exec (x d c k r) s = .next (s.raise d.val h 0x25 c.val k.val)) ∧
    (r.efmt ≠ 15 → (4 < r.efmt ∨ r.efmt = 0 ∧ r.rowlen % 2 = 1) → exec (.ldt d c k r) s = .next (s.raise d.val h 0x30 c.val k.val)) ∧
    (∀ m, s.bcastBusy d.val c.val r = some m → exec (.bcast d c r) s = .next (s.raise d.val h 0x25 c.val m)) ∧
    (s.bcastBusy d.val c.val r = none → bcastCores r = [k.val] →
      ∃ t, exec (.bcast d c r) s = .next t ∧ ld t la ∧ clusterOnly s t d.val c.val ∧ t.ctxs = s.ctxs) ∧
    (s.bcastBusy d.val c.val r = none → ∃ t, exec (.bcast d c r) s = .next t ∧ clusterOnly s t d.val c.val ∧ t.ctxs = s.ctxs)

/-- CONV of an accumulator slot writes its output descriptor's format and touches its own cluster alone, or raises at that core the fault that the
model's `convFault` gives; with no vector operation in its beat, src 0xF raises SEQ_OPCODE; an output format R27 does not give stops. A CONV to an
accumulator format writes of every element the value that stages 1 to 3 make of its visible value, extended to the container (R56). CHLD fills the
channel cache from the stall, entry (col0 + j) mod (chn + 1) into place j, and writes no memory. Completes: CONV, CHLD. -/
def Obligations.ConversionsRunOrFault : Prop :=
  ∀ (s : State) (d : Fin 4) (c : Fin 8) (k : Fin 16) (r : ConvRud),
    let h := s.hOf d.val c.val
    let v := s.descRead d.val c.val r
    let f := s.convFault d.val c.val k.val r false
    let desc := s.ctxDesc d.val h r.desc
    (f = 0 → (Fmt.ofCode desc.fmt).isSome = true →
      exec (.conv d c k r) s = .next (v.convSlot d.val c.val k.val r) ∧
        clusterOnly v (v.convSlot d.val c.val k.val r) d.val c.val ∧ v.mem = s.mem ∧ v.cores = s.cores ∧ v.ctxs = s.ctxs) ∧
    (f = 0 → Fmt.ofCode desc.fmt = none → exec (.conv d c k r) s = .fault .reservedCode) ∧
    (f ≠ 0 → exec (.conv d c k r) s = .next (v.raise d.val h f c.val k.val)) ∧ (r.src = 15 → f = 0x30) ∧
    (∀ g sf, Fmt.ofCode desc.fmt = some g → g.block = false → r.src < 12 → (s.slotAt d.val c.val k.val r.src).tag = some sf →
      slotTakes (s.slotAt d.val c.val k.val r.src) sf (halfOf r.src) → r.rows ≤ sf.accEdge → r.cols ≤ sf.accEdge →
      s.descBad d.val h r.desc = false → (s.core d.val c.val k.val).cBusy ≤ s.cycOf d.val c.val →
      ∃ t, exec (.conv d c k r) s = .next t ∧ ∀ i j n, i < r.rows → j < r.cols → n < g.bits / 8 →
        let ch := Tab.get Channel.identity (s.core d.val c.val k.val).chans j
        let old := ((s.slotAt d.val c.val k.val r.src).at (accKey sf (halfOf r.src) i j)).val
        let out := extended g.accW (stage123 ch r.eb (convClip r) (visible sf.accW old))
        t.mem.byte (stallBase d.val c.val k.val + s.stallAddr d.val h k.val r.agD + (i * r.cols + j) * (g.bits / 8) + n) =
          (leBytes (g.bits / 8) (uns g.bits out)).getD n 0) ∧
    (s.cycOf d.val c.val < (s.core d.val c.val k.val).cBusy → exec (.chld d c k r) s = .next (s.raise d.val h 0x25 c.val k.val)) ∧
    ((s.core d.val c.val k.val).cBusy ≤ s.cycOf d.val c.val →
      ∃ t, exec (.chld d c k r) s = .next t ∧ t.mem = s.mem ∧ clusterOnly s t d.val c.val ∧ t.ctxs = s.ctxs ∧
        ∀ j, j < r.cols →
          let a := stallBase d.val c.val k.val +
            (s.stallAddr d.val h k.val r.agC + 16 * ((s.idx d.val h k.val r.col + j) % (r.chn : Int)).toNat) % 0x200000
          Tab.get Channel.identity (t.core d.val c.val k.val).chans j = { channelEntry (s.read a 16) with poison := s.readBad a 16 })

/-- A pivot operation issued to a busy engine raises ENG_BUSY. Else, with its loft slots owned, BEGIN latches the threshold from its 16 bytes and
clears the engine's status and counts; CNT writes the counts and the first perturbed column; DPT writes the point's number and what has expired,
and counts the point; a RUN of no entry only takes its 8 cycles, and every RUN of a free engine answers a next state. A CNT without its slots raises
CORE_PIV_STATUS.slot_fault and LOFT_SLOT. Completes: BEGIN, RUN, DPT, CNT. -/
def Obligations.PivotOperationsRunOrFault : Prop :=
  ∀ (s : State) (d : Fin 4) (c : Fin 8) (r : PivRud),
    let h := s.hOf d.val c.val
    let t := s.cycOf d.val c.val
    let a := s.loftAddr d.val h 0 r.ag
    (∀ x ∈ ([.begin, .run, .dpt, .cnt] : List (Fin 4 → Fin 8 → PivRud → Instr)), s.pivBusy d.val c.val = true →
      exec (x d c r) s = .next (s.raise d.val h 0x25 c.val 0)) ∧
    (s.pivBusy d.val c.val = false → s.pivOwned d.val c.val t 12 (groupsOf a 16) = some true → r.dl = false →
      let m := s.readNat (loftBase d.val c.val + a) 8
      let e := sext 16 (s.readNat (loftBase d.val c.val + a + 8) 2)
      ∃ u, exec (.begin d c r) s = .next u ∧ u.mem = s.mem ∧ (u.cluster d.val c.val).tauM = (if m = 0 then 1 else m) ∧
        (u.cluster d.val c.val).tauE = e - s.get (CORE_PIV_CFG.t d.val c.val) ∧ u.get (CORE_PIV_STATUS.bad_entry d.val c.val) = 0 ∧
        u.get (CORE_PIV_STATUS.poison d.val c.val) = 0 ∧ u.get (CORE_PIV_CNT.pert d.val c.val) = 0 ∧ u.get (CORE_PIV_CNT.neg d.val c.val) = 0 ∧
        u.get (CORE_PIV_CNT.sat d.val c.val) = 0 ∧ u.get (CORE_PIV_FIRST.valid d.val c.val) = 0 ∧ (u.cluster d.val c.val).pBusy = t + 12 ∧
        u.ctxs = s.ctxs ∧ u.cores = s.cores) ∧
    (s.pivBusy d.val c.val = false → r.count = 0 →
      ∃ u, exec (.run d c r) s = .next u ∧ u.mem = s.mem ∧ (u.cluster d.val c.val).pBusy = t + 8 ∧ u.ctxs = s.ctxs ∧ u.cores = s.cores) ∧
    (s.pivBusy d.val c.val = false → ∃ u, exec (.run d c r) s = .next u) ∧
    (s.pivBusy d.val c.val = false → s.pivOwned d.val c.val t 5 (groupsOf a 16) = some true →
      ∃ u, exec (.cnt d c r) s = .next u ∧ u.ctxs = s.ctxs ∧ u.cores = s.cores ∧ ∀ b, u.mem.byte b =
        if loftBase d.val c.val + a ≤ b ∧ b < loftBase d.val c.val + a + 16 then
          (leBytes 8 (s.csrWord (CORE_PIV_CNT.pert d.val c.val).addr) ++ leBytes 8 (s.csrWord (CORE_PIV_FIRST.col d.val c.val).addr)).getD
            (b - (loftBase d.val c.val + a)) 0
        else s.mem.byte b) ∧
    (s.pivBusy d.val c.val = false → s.pivOwned d.val c.val t 7 (groupsOf a 8) = some true →
      let n := min (s.get (SEQ_DL_POINT.point d.val h) + 1) (2 ^ (SEQ_DL_POINT.point d.val h).w - 1)
      let budget := bitOf (s.get (SEQ_DL_CTL.mode d.val h)) 0 && decide (s.get (SEQ_DL_CTL.budget d.val h) ≤ n)
      let wall := bitOf (s.get (SEQ_DL_CTL.mode d.val h)) 1 && decide (s.get (SEQ_DL_TIME.time d.val h) ≤ s.get CD_TIME.ns)
      let word := (budget || wall).toNat + 2 * budget.toNat + 4 * wall.toNat + 2 ^ 32 * n
      ∃ u, exec (.dpt d c r) s = .next u ∧ u.ctxs = s.ctxs ∧ u.cores = s.cores ∧ u.get (SEQ_DL_POINT.point d.val h) = n ∧
        ∀ b, u.mem.byte b = if loftBase d.val c.val + a ≤ b ∧ b < loftBase d.val c.val + a + 8 then
          (leBytes 8 word).getD (b - (loftBase d.val c.val + a)) 0 else s.mem.byte b) ∧
    (s.pivBusy d.val c.val = false → s.pivOwned d.val c.val t 5 (groupsOf a 16) = some false →
      exec (.cnt d c r) s = .next ((s.set (CORE_PIV_STATUS.slot_fault d.val c.val) 1).coreFault d.val h 0x21 c.val 0))

/-! ## Yards: commands, atomics, the memory itself -/

/-- A command posted into its own window of a function that is ON joins the window's queue of 8, with full queue it waits, and takes its place when
there is room; a writer other than the window's, and a function that is not ON, post nothing. The next window round-robin gives the next command: it is
checked, and a failed check has ended it with its status. Completing it frees the converter, and its record is in memory where its address lies in the
stack; no other byte changes. Completes: XCMD_POST, WINDOW_ROOM, YARD_CMD_START, YARD_CMD_COMPLETE. -/
def Obligations.YardCommandsQueueInOrder : Prop :=
  ∀ (s : State) (y : Fin 8) (eng : Bool) (w : Fin 9),
    let e := s.engine y.val eng
    (∀ (src : Source) (last : U64), s.windowOk src y.val eng w.val = false → ∃ t, exec (.xcmdPost src y eng w last) s = .next t ∧
      t.engine y.val eng = e ∧ t.mem = s.mem ∧ t.regs = s.regs) ∧
    (∀ (src : Source) (last : U64), s.windowOk src y.val eng w.val = true → (Tab.get [] e.staged w.val).length = 128 →
      let cmd := (Tab.get [] e.staged w.val).take 120 ++ leBytes 8 last.toNat
      ((e.queueOf w.val).length < 8 → ∃ t, exec (.xcmdPost src y eng w last) s = .next t ∧ t.reply = .accepted ∧ t.mem = s.mem ∧
        (t.engine y.val eng).queueOf w.val = e.queueOf w.val ++ [cmd] ∧
        ∀ v, v < 9 → v ≠ w.val → (t.engine y.val eng).queueOf v = e.queueOf v) ∧
      (8 ≤ (e.queueOf w.val).length → ∃ t, exec (.xcmdPost src y eng w last) s = .next t ∧ t.reply = .held ∧ t.mem = s.mem ∧ t.regs = s.regs ∧
        Tab.get [] (t.engine y.val eng).held w.val = cmd ∧ ∀ v, v < 9 → (t.engine y.val eng).queueOf v = e.queueOf v)) ∧
    (Tab.get [] e.held w.val ≠ [] → (e.queueOf w.val).length < 8 → ∃ t, exec (.windowRoom y eng w) s = .next t ∧ t.reply = .accepted ∧
      t.mem = s.mem ∧ Tab.get [] (t.engine y.val eng).held w.val = [] ∧
      (t.engine y.val eng).queueOf w.val = e.queueOf w.val ++ [Tab.get [] e.held w.val]) ∧
    (∀ v, calm s → e.run = none → s.nextWindow y.val eng = some v →
      let cmd := (e.queueOf v).headD []
      let pen := s.windowPen y.val eng v
      let chk := if eng then s.engCheck pen y.val cmd else s.xchCheck pen y.val cmd
      ∃ t r, exec (.yardCmdStart y eng) s = .next t ∧ (t.engine y.val eng).run = some r ∧ r.w = v ∧ r.cmd = cmd ∧ r.status = chk.1 ∧
        r.detail = chk.2 ∧ (r.finished = true ↔ chk.1 ≠ 0) ∧ (t.engine y.val eng).queueOf v = (e.queueOf v).drop 1 ∧
        (t.engine y.val eng).last = v ∧ ∀ b, t.mem.byte b = s.mem.byte b) ∧
    (∀ r, e.run = some r → r.finished = true → s.yardLive y.val = true →
      let inside := s.inStack (s.windowPen y.val eng r.w) y.val (cmdRec r.cmd) 32
      let a := localOf (cmdRec r.cmd)
      (allTaken s (s.completeRun y.val eng r) → exec (.yardCmdComplete y eng) s = .next (s.completeRun y.val eng r)) ∧
      (calm s → s.get (YRD_RETIRE.mask y.val) = 0 → ∃ t, exec (.yardCmdComplete y eng) s = .next t ∧ (t.engine y.val eng).run = none ∧
        t.get (xBusyF y.val eng) = 0 ∧ ∀ b, t.mem.byte b = if inside = true ∧ a ≤ b ∧ b < a + 32 then r.record.getD (b - a) 0 else s.mem.byte b))

/-- The exchange and engine rows with the op of R230 and R281 each runs. -/
def runRows : List ((Fin 8 → Instr) × Bool × Nat) :=
  [(.narrow, false, 1), (.widen, false, 2), (.imp, false, 4), (.exp, false, 5), (.spmv, true, 0x10), (.resid, true, 0x11), (.gather, true, 0x12),
   (.reduce, true, 0x13), (.convert, true, 0x14), (.eqrow, true, 0x15), (.eqcol, true, 0x16), (.eqapply, true, 0x17), (.digest, true, 0x18),
   (.atomList, true, 0x19)]

/-- A running command of its op runs to the end of its elements: it is then finished, still in its window, and every queue, every core, the layout
and the root of trust are as they were; no byte changes outside the blocks and containers that the command's own work (`engWork`, `xchWork`) stores. The
list of atomics stores word by word and is left out of this last clause (its entries are the yard atomics). Completes: NARROW, WIDEN, IMPORT, EXPORT,
SPMV, RESID, GATHER, REDUCE, CONVERT, EQROW, EQCOL, EQAPPLY, DIGEST, ATOM. -/
def Obligations.RunningCommandsFinish : Prop :=
  ∀ x ∈ runRows, ∀ (s : State) (y : Fin 8) (r : Run), (s.engine y.val x.2.1).run = some r → cmdOp r.cmd = x.2.2 → r.finished = false → calm s →
    let w := if x.2.1 then s.engWork y.val r else s.xchWork y.val r
    ∃ t q, exec (x.1 y) s = .next t ∧ (t.engine y.val x.2.1).run = some q ∧ q.finished = true ∧ q.w = r.w ∧ q.cmd = r.cmd ∧
      (∀ v, (t.engine y.val x.2.1).queueOf v = (s.engine y.val x.2.1).queueOf v) ∧ t.cores = s.cores ∧ t.lay = s.lay ∧ t.rot = s.rot ∧
      (x.2.2 ≠ 0x19 → (∀ z, z < 8 → s.get (YRD_RETIRE.mask z) = 0) →
        ∀ b, (∀ p ∈ w.plane ++ w.shifts, b < p.1 ∨ p.1 + p.2.1.length ≤ b) → t.mem.byte b = s.mem.byte b)

/-- The atomic rows: the command with an operand and a compare value, the new word it makes (R292, R294), and whether it returns the old one. -/
def atomRows : List ((Fin 8 → BitVec 37 → U64 → U64 → Instr) × (U64 → U64 → U64 → U64) × Bool) :=
  [(fun y o v _ => .atomAdd y o v, fun old v _ => old + v, false),
   (fun y o v _ => .atomMin y o v, fun old v _ => if v.toInt < old.toInt then v else old, false),
   (fun y o v _ => .atomMax y o v, fun old v _ => if old.toInt < v.toInt then v else old, false),
   (fun y o v _ => .atomAnd y o v, fun old v _ => old &&& v, false), (fun y o v _ => .atomOr y o v, fun old v _ => old ||| v, false),
   (fun y o v _ => .atomXor y o v, fun old v _ => old ^^^ v, false), (fun y o v _ => .fadd y o v, fun old v _ => old + v, true),
   (fun y o v _ => .swap y o v, fun _ v _ => v, true), (.cas, fun old v cmp => if old = cmp then v else old, true),
   (fun y o v _ => .fmin y o v, fun old v _ => if v.toInt < old.toInt then v else old, true),
   (fun y o v _ => .fmax y o v, fun old v _ => if old.toInt < v.toInt then v else old, true)]

/-- An atomic on an aligned word of a stack with no page held by a snapshot and no channel retired puts its new word there and changes no other byte;
a returning one answers the old word. A word outside the stack, in a shed page, or not aligned, is an access fault and nothing changes. Where the yard
does not take the access (R259), the command waits: nothing changes but that (the model's reading, log entry 108). Completes: ATOM_ADD, ATOM_MIN,
ATOM_MAX, ATOM_AND, ATOM_OR, ATOM_XOR, FADD, SWAP, CAS, FMIN, FMAX. -/
def Obligations.AtomicsUpdateOneWord : Prop :=
  ∀ x ∈ atomRows, ∀ (s : State) (y : Fin 8) (off : BitVec 37) (v cmp : U64), noWait s →
    let a := stackBase y.val + off.toNat
    let old := BitVec.ofNat 64 (s.readNat a 8)
    let takes := s.takes atomVia y.val (off.toNat / 256 * 256)
    (s.atomOk y.val off.toNat = false → exec (x.1 y off v cmp) s = .next { s with reply := .accessFault }) ∧
    (s.atomOk y.val off.toNat = true → (s.yard y.val).pages = [] → takes = false → exec (x.1 y off v cmp) s = .next s) ∧
    (s.atomOk y.val off.toNat = true → (s.yard y.val).pages = [] → takes = true → s.get (YRD_RETIRE.mask y.val) = 0 →
      ∃ t, exec (x.1 y off v cmp) s = .next t ∧ BitVec.ofNat 64 (t.readNat a 8) = x.2.1 old v cmp ∧
        (∀ b, b < a ∨ a + 8 ≤ b → t.mem.byte b = s.mem.byte b) ∧
        (s.mem.bad a = false → t.reply = (if x.2.2 then .data (leBytes 8 old.toNat) [] else .accepted)) ∧ t.cores = s.cores ∧ t.ctxs = s.ctxs)

/-- A request to a stack: outside it, in a shed page, or in memory of another pen than its own, it faults and changes nothing. A write that nothing
holds puts its bytes there and changes no other; a read changes no byte, and in the cache is answered at once. Behind another request of its port and
class it waits its turn. Completes: YARD_REQUEST. -/
def Obligations.RequestsReachTheirStack : Prop :=
  ∀ (s : State) (y : Fin 8) (q : YReq), s.yardLive y.val = true →
    let a := stackBase y.val + q.off.toNat
    let out := decide (s.stackSize y.val < q.off.toNat + q.len) || s.inShed y.val q.off.toNat || q.pen.any fun p => !s.penReach (some p.val) a q.len
    let line := Tab.get [] (s.yard y.val).fifo (fifoKey q)
    let free := line.isEmpty && !s.heldByCow y.val q && !s.stuck y.val q
    (out = true → exec (.yardRequest y q) s = .next { s with reply := .accessFault }) ∧
    (out = false → free = false → ∃ t, exec (.yardRequest y q) s = .next t ∧ t.reply = .held ∧ t.mem = s.mem ∧ t.regs = s.regs ∧
      Tab.get [] (t.yard y.val).fifo (fifoKey q) = line ++ [q]) ∧
    (∀ bs, out = false → free = true → q.write = some bs → q.len = bs.length → (s.yard y.val).pages = [] → s.get (YRD_RETIRE.mask y.val) = 0 →
      ∃ t, exec (.yardRequest y q) s = .next t ∧ t.reply = .accepted ∧ t.cores = s.cores ∧ t.ctxs = s.ctxs ∧
        ∀ b, t.mem.byte b = if a ≤ b ∧ b < a + bs.length then bs.getD (b - a) 0 else s.mem.byte b) ∧
    (out = false → free = true → q.write = none → ∃ t, exec (.yardRequest y q) s = .next t ∧ t.mem = s.mem ∧ t.cores = s.cores ∧ t.ctxs = s.ctxs ∧
      t.reply = (if s.cached y.val q.off.toNat then s.dataReply a q.len else .accepted))

/-- The channels' own steps: a granted slot counts for its class, and the last unit of a read answers with the data the read had when it was accepted;
a held write goes on when its page can take it, and puts its bytes there; a refresh blocks its bank and changes no data, and gives it back with the
waiting time counted; a row at the threshold gets its targeted refresh, counted on its channel; the scrubber reads one codeword after the other, round
the mapped stack, changing no data. Completes: SLOT_GRANT, COW_WRITE_RESUME, REFRESH, REFRESH_DONE, TARGETED_REFRESH, SCRUB_READ. -/
def Obligations.ChannelsKeepTheirSteps : Prop :=
  (∀ (s : State) (y : Fin 8) (c : Fin 64) (k : Nat), s.yardLive y.val = true → s.slotClass y.val c.val = some k →
    ∃ t, exec (.slotGrant y c) s = .next t ∧
      Tab.get 0 (t.yard y.val).slots (4 * c.val + k) = Tab.get 0 (s.yard y.val).slots (4 * c.val + k) + 1 ∧
      ∀ i q d bad, k < 3 → (s.yard y.val).firstReady c.val k = some (i, q) → q.kind = .read d bad → q.len ≤ 64 - q.pos % 64 →
        (s.yard y.val).fifo = [] → t.reply = .data d bad ∧ t.mem = s.mem) ∧
  (∀ (s : State) (y : Fin 8) (w : CowWait × YReq), s.yardLive y.val = true → s.cowReadyWrite y.val = some w →
    let a := stackBase y.val + w.2.off.toNat
    ∃ t, exec (.cowWriteResume y) s = .next t ∧ t.cores = s.cores ∧ t.ctxs = s.ctxs ∧
      ∀ bs, w.2.write = some bs → w.2.len = bs.length → Tab.get Page.home (s.yard y.val).pages (w.2.off.toNat / 65536) = .home →
        s.get (YRD_RETIRE.mask y.val) = 0 → (s.yard y.val).fifo = [] → t.reply = .accepted ∧
        ∀ b, t.mem.byte b = if a ≤ b ∧ b < a + bs.length then bs.getD (b - a) 0 else s.mem.byte b) ∧
  (∀ (s : State) (y : Fin 8) (c : Fin 64) (rank : Fin 3) (bank : Fin 16),
    let b := bankIx c.val rank.val bank.val
    ((s.yard y.val).blocked.contains b = false → ∃ t, exec (.refresh y c rank bank) s = .next t ∧ t.mem = s.mem ∧ t.regs = s.regs ∧
      (t.yard y.val).blocked = b :: (s.yard y.val).blocked) ∧
    (∀ ns, (s.yard y.val).blocked.contains b = true → ∃ t, exec (.refreshDone y c rank bank ns) s = .next t ∧ t.mem = s.mem ∧
      (t.yard y.val).blocked = (s.yard y.val).blocked.erase b ∧
      t.get (YRD_REFSTALL.ns y.val) = min (s.get (YRD_REFSTALL.ns y.val) + ns) (2 ^ 40 - 1)) ∧
    (∀ row : BitVec 13, 0 < s.get (YRD_CTL.trr_thresh y.val) → (s.yard y.val).blocked.contains b = false →
      s.get (YRD_CTL.trr_thresh y.val) ≤ Tab.get 0 (s.yard y.val).acts (b * 8192 + row.toNat) →
      ∃ t, exec (.targetedRefresh y c rank bank row) s = .next t ∧ t.mem = s.mem ∧
        Tab.get 0 (t.yard y.val).acts (b * 8192 + row.toNat) = 0 ∧
        t.get (MCH_ECC.trr y.val c.val) = min (s.get (MCH_ECC.trr y.val c.val) + 1) (2 ^ (MCH_ECC.trr y.val c.val).w - 1))) ∧
  (∀ (s : State) (y : Fin 8), s.yardLive y.val = true → s.get (YRD_CTL.scrub_en y.val) = 1 →
    (s.yard y.val).queueFull (channelOf (s.fold y.val (s.yard y.val).scrub)) 3 = false →
    ∃ t, exec (.scrubRead y) s = .next t ∧ t.mem = s.mem ∧ (t.yard y.val).scrub = ((s.yard y.val).scrub + 16) % s.stackSize y.val)

/-! ## The fabric: packets, bells, frames, links, enables -/

/-- The packet rows, each with the packets it brings (R347, R355, R396, R483). -/
def packetRows : List ((Fin 64 → Packet → Instr) × (Packet → Bool)) :=
  [(.rdReq, fun k => k.ptype == .rdReq), (.rdRsp, fun k => k.ptype == .rdRsp), (.wr, fun k => k.ptype == .wr),
   (.wrDone, fun k => k.ptype == .wrDone), (.atomPkt, fun k => k.ptype == .atom), (.atomRsp, fun k => k.ptype == .atomRsp),
   (.bell, fun k => k.ptype == .bell), (.team, fun k => k.ptype == .team), (.mgmtWrite, fun k => k.ptype == .mgmt && mgOp k == 1),
   (.mgmtRead, fun k => k.ptype == .mgmt && mgOp k == 2), (.mgmtReadResponse, fun k => k.ptype == .mgmt && mgOp k == 3),
   (.checkpointReport, fun k => k.ptype == .mgmt && mgOp k == 4), (.errRsp, fun k => k.ptype == .errRsp)] ++
  [(.collUp, fun k => k.ptype == .coll && cpPhase k == 0), (.collDown, fun k => k.ptype == .coll && cpPhase k == 1),
   (.collConfirm, fun k => k.ptype == .coll && cpPhase k == 2), (.collRelease, fun k => k.ptype == .coll && cpPhase k == 3),
   (.collReject, fun k => k.ptype == .coll && cpPhase k == 4), (.collError, fun k => k.ptype == .coll && cpPhase k == 5),
   (.collStatus, fun k => k.ptype == .coll && cpPhase k == 6), (.grpq, fun k => k.ptype == .grpq)]

/-- A packet on a live link: for another package it passes through by the table of the port's pen, or is discarded, and nothing of memory, contexts
or cores changes; for this package it returns its credit and takes effect at the endpoint, or waits as long as a yard does not take it. There a response
answers the transfer or descriptor that its tag names, or whoever asked; a team frame that is expected is kept; a management access writes its register,
or is answered with the register's value; a report is noted by the coordinator; the first ERR_RSP is recorded. Completes: RD_RSP, WR_DONE, ATOM_RSP, TEAM,
MGMT_WRITE, MGMT_READ, MGMT_READ_RESPONSE, CHECKPOINT_REPORT, ERR_RSP. -/
def Obligations.PacketsGoWhereTheyAreAddressed : Prop :=
  (∀ x ∈ packetRows, ∀ (s : State) (n : Fin 64) (k : Packet), s.linkUp n.val = true → s.awake = true → x.2 k = true →
    (k.dst.toNat = s.package → allTaken s ((s.returnCredit n.val ⟨k, 0⟩).deliver n.val k) →
      exec (x.1 n k) s = .next ((s.returnCredit n.val ⟨k, 0⟩).deliver n.val k)) ∧
    (k.dst.toNat ≠ s.package → k.src.toNat ≠ s.package → ∃ t, exec (x.1 n k) s = .next t ∧ t.mem = s.mem ∧ t.ctxs = s.ctxs ∧ t.cores = s.cores ∧
      (s.get (FAB_CTL.max_hops (n.val / 32)) < k.hops.toNat + 1 → t.get (FAB_CNT.hops (n.val / 32)) =
        min (s.get (FAB_CNT.hops (n.val / 32)) + 1) (2 ^ (FAB_CNT.hops (n.val / 32)).w - 1)))) ∧
  ∀ (s : State) (n : Fin 64) (k : Packet), s.linkUp n.val = true → s.awake = true → k.dst.toNat = s.package →
    let tag := k.tag.toNat
    let d := tagDie tag
    let h := tagHalf tag
    let r := s.cdrun (tagChannel tag)
    (∀ e q, tagCd tag = false → (s.ctx d h).dmaq = e :: q → 2 ≤ e.waiting → e.failed = none →
      let la := e.laddr + lineOffset e.gaddr.toNat (tagLine tag)
      let a := loftBase d e.cluster + la
      (k.ptype = .rdRsp → k.mask = 0 → s.dmaSlots d e.cluster la k.payload.length = true → la + k.payload.length ≤ 0x01000000 →
        ∃ t, exec (.rdRsp n k) s = .next t ∧ (t.ctx d h).dmaq = { e with waiting := e.waiting - 1 } :: q ∧
          ∀ b, t.mem.byte b = if a ≤ b ∧ b < a + k.payload.length then k.payload.getD (b - a) 0 else s.mem.byte b) ∧
      (k.ptype = .wrDone → ∃ t, exec (.wrDone n k) s = .next t ∧ (t.ctx d h).dmaq = { e with waiting := e.waiting - 1 } :: q ∧ t.mem = s.mem)) ∧
    (tagCd tag = true → k.ptype = .rdRsp → ∃ t, exec (.rdRsp n k) s = .next t ∧ t.mem = s.mem ∧
      Tab.get ([], 0) (t.cdrun (tagChannel tag)).got (tagLine tag) = (k.payload, k.mask.toNat) ∧ (t.cdrun (tagChannel tag)).acks = r.acks - 1) ∧
    (tagCd tag = true → k.ptype = .wrDone → ∃ t, exec (.wrDone n k) s = .next t ∧ t.mem = s.mem ∧ (t.cdrun (tagChannel tag)).acks = r.acks - 1) ∧
    (k.ptype = .atomRsp → ∃ t, exec (.atomRsp n k) s = .next t ∧ t.mem = s.mem ∧
      t.reply = (if k.payload.isEmpty then .accepted else .data k.payload (if k.mask = 0 then [] else [0]))) ∧
    (∀ p, k.ptype = .team → s.portPen n.val = some p → fieldNat k.payload 0 4 = 0x4D414554 → s.get (LDG_TEAM.enable p) = 1 →
      s.get (LDG_TEAM_STAT.solo_active p) = 0 → s.penFrozen p = false →
      let f := teamOf k.payload
      (s.pen p).own.find? (fun o => o.step == f.step) = none → s.teamPending p = false → s.get (LDG_STEP.step p) ≤ f.step.toNat →
      f.step.toNat ≤ s.get (LDG_STEP.step p) + s.teamLag p → (s.pen p).partner.any (fun v => v.step == f.step) = false →
      (s.pen p).partner.length < s.teamLag p + 1 → ∃ t, exec (.team n k) s = .next t ∧ (t.pen p).partner = (s.pen p).partner ++ [f] ∧
        t.mem = s.mem ∧ t.regs = s.regs ∧ t.ctxs = s.ctxs) ∧
    (∀ p, k.ptype = .mgmt → s.portPen n.val = some p →
      (mgOp k = 1 → mgAddr k = ckpBlk p + 0x18 → s.get (CKP_STAT.state p) ≠ 2 → s.get (LDG_STEP.step p) + 1 < k.wordB.toNat →
        ∃ t, exec (.mgmtWrite n k) s = .next t ∧ t.get (CKP_NEXT.step p) = k.wordB.toNat ∧ t.reply = .accepted ∧ t.mem = s.mem ∧ t.ctxs = s.ctxs) ∧
      (mgOp k = 2 → mgmtTarget (some p) (mgAddr k) = true → noWait s →
        let w := s.csrVal (mgAddr k / 8 * 8)
        exec (.mgmtRead n k) s = .next ((s.returnCredit n.val ⟨k, 0⟩).emit (some p) { response k s.package .mgmt [] 0 with
          exped := true, wordA := BitVec.ofNat 64 (3 + mgAddr k * 2 ^ 16), wordB := BitVec.ofNat 64 w })) ∧
      (mgOp k = 3 → ∃ t, exec (.mgmtReadResponse n k) s = .next t ∧ t.reply = .data (leBytes 8 k.wordB.toNat) [] ∧ t.mem = s.mem ∧ t.regs = s.regs) ∧
      (∀ m, mgOp k = 4 → mgmtTarget (some p) (mgAddr k) = true → s.get (CKP_STAT.coordinator p) = 1 → s.get (CKP_STAT.state p) = 2 →
        k.wordB.toNat % 8 = 2 → (List.range (s.gdesc (s.get (CKP_CTL.group p))).n).find? (fun i =>
          s.memberAt (s.gdesc (s.get (CKP_CTL.group p))) i == k.src.toNat) = some m →
        ∃ t, exec (.checkpointReport n k) s = .next t ∧ m ∈ (t.ckp p).held ∧ (∀ i ∈ (s.ckp p).held, i ∈ (t.ckp p).held) ∧ t.mem = s.mem ∧
          t.regs = s.regs)) ∧
    (k.ptype = .errRsp → k.group.toNat = 0 → tag ≠ groupTag → mgmtTag 0 ≤ tag → s.penRunning (tag % 8) = false →
      s.get (FAB_ERR.valid (n.val / 32)) = 0 → ∃ t, exec (.errRsp n k) s = .next t ∧ t.get (FAB_ERR.valid (n.val / 32)) = 1 ∧
        t.get (FAB_ERR.reason (n.val / 32)) = k.wordB.toNat % 256 ∧ t.get (FAB_ERR.pen (n.val / 32)) = tag % 8 ∧
        t.get (FAB_ERR.package (n.val / 32)) = k.src.toNat ∧ t.mem = s.mem ∧ t.ctxs = s.ctxs)

/-- Requests to this package: a WR into a range of the port's pen puts its payload there and changes no other byte; an RD_REQ is answered with an RD_RSP
of the bytes at its address; an ATOM_PKT makes its word's new value; one that crosses a line or leaves the ranges is counted in FAB_CNT.addr and changes
no memory. A BELL packet rings a bell its port's pen owns, in an active layout. A GRPQ packet of a usable group appends its message to the ring, while
that has room. Completes: RD_REQ, WR, ATOM_PKT, BELL, GRPQ. -/
def Obligations.RequestsAreServedInRange : Prop :=
  ∀ (s : State) (n : Fin 64) (k : Packet), s.linkUp n.val = true → s.awake = true → k.dst.toNat = s.package → k.src.toNat ≠ s.package → calm s →
    let a := localOf k.wordA.toNat
    let y := a / 0x2000000000
    (k.ptype = .wr → s.requestOk n.val a k.payload.length = true → k.mask = 0 → s.get (YRD_RETIRE.mask y) = 0 →
      ∃ t, exec (.wr n k) s = .next t ∧ t.ctxs = s.ctxs ∧ t.cores = s.cores ∧
        ∀ b, t.mem.byte b = if a ≤ b ∧ b < a + k.payload.length then k.payload.getD (b - a) 0 else s.mem.byte b) ∧
    (k.ptype = .wr → s.requestOk n.val a k.payload.length = false → ∃ t, exec (.wr n k) s = .next t ∧ t.mem = s.mem ∧ t.ctxs = s.ctxs ∧
      t.get (FAB_CNT.addr (n.val / 32)) = min (s.get (FAB_CNT.addr (n.val / 32)) + 1) (2 ^ (FAB_CNT.addr (n.val / 32)).w - 1)) ∧
    (k.ptype = .rdReq → s.requestOk n.val a (readLen k) = true → ∃ (u : State) (mask : Nat), (∀ b, u.mem.byte b = s.mem.byte b) ∧ u.ctxs = s.ctxs ∧
      exec (.rdReq n k) s = .next (u.emit (s.portPen n.val) (response k s.package .rdRsp (s.read a (readLen k)) mask))) ∧
    (k.ptype = .atom → s.requestOk n.val a 8 = true → a % 8 = 0 → atomKind (k.wordB.toNat % 16) = true → s.get (YRD_RETIRE.mask y) = 0 →
      let new := atomNew (k.wordB.toNat % 16) (BitVec.ofNat 64 (s.readNat a 8)) (BitVec.ofNat 64 (fieldNat k.payload 0 8))
        (BitVec.ofNat 64 (fieldNat k.payload 8 8))
      ∃ t, exec (.atomPkt n k) s = .next t ∧ t.ctxs = s.ctxs ∧ t.cores = s.cores ∧
        ∀ b, t.mem.byte b = if a ≤ b ∧ b < a + 8 then (leBytes 8 new.toNat).getD (b - a) 0 else s.mem.byte b) ∧
    (k.ptype = .bell → bellPackage k.wordA.toNat = s.package → 2 ≤ s.get LAY_STATUS.state →
      let b := bellDie k.wordA.toNat
      let j := bellIndex k.wordA.toNat
      let count := k.wordB.toNat % 65536
      b < 6 → bellReserved k.wordA.toNat = false → j < bellsOf b → s.portPen n.val = some (s.get (BEL_OWN.pen b j)) → count ≠ 0 →
      s.get (BEL_VAL.count b j) < 2 ^ 32 → ∃ t, exec (.bell n k) s = .next t ∧ t.mem = s.mem ∧ t.ctxs = s.ctxs ∧
        t.get (BEL_VAL.count b j) = min (s.get (BEL_VAL.count b j) + count) (2 ^ 32 - 1) ∧
        (bitOf k.wordB.toNat 16 = true → t.get (BEL_VAL.err b j) = 1)) ∧
    (k.ptype = .grpq → (∀ z, z < 8 → s.get (YRD_RETIRE.mask z) = 0) →
      let g := k.group.toNat
      let d := s.gdesc g
      let r := localOf d.ring
      let head := s.readNat r 8
      s.groupUsable d (s.portPen n.val) = true → r + 64 + 64 * 2 ^ d.ringLog ≤ dramTop →
      (head + 2 ^ 64 - s.readNat (r + 8) 8) % 2 ^ 64 < 2 ^ d.ringLog → ∃ t, exec (.grpq n k) s = .next t ∧ t.readNat r 8 = (head + 1) % 2 ^ 64 ∧
        t.read (r + 64 + 64 * (head % 2 ^ d.ringLog)) 64 = messageEntry k.src.toNat (k.wordB.toNat % 65536)
          ((s.group g).lostNext.toNat + 2 * (k.mask != 0).toNat) k.wordA.toNat k.payload ∧
        (t.group g).lostNext = false ∧ t.ctxs = s.ctxs ∧ t.cores = s.cores)

/-- A unit's ring for pen p: with an active layout a bell of the pen on this package takes the count, and err if set; a ring of count 0 without err
changes nothing; a bell of another owner, or without a layout, is refused and counted; a name of another package leaves as a BELL packet. When the
partner's frame is lost, a pen set for solo goes on alone, and the loss is a failed comparison otherwise. The ring's tail moves as written. Completes:
BELL_RING, TM_LOST, LDG_TAIL_WRITE. -/
def Obligations.BellsRingAndFramesExpire : Prop :=
  ∀ (s : State) (p : Fin 8), s.awake = true →
    (∀ name count, count = 0 → exec (.bellRing p name count false) s = .next s) ∧
    (∀ (name : U64) (count : U16) (err : Bool), bellPackage name.toNat = s.package →
      let b := bellDie name.toNat
      let j := bellIndex name.toNat
      b < 6 → bellReserved name.toNat = false → (count ≠ 0 ∨ err = true) →
      (2 ≤ s.get LAY_STATUS.state → j < bellsOf b → s.get (BEL_OWN.pen b j) = p.val → s.get (BEL_VAL.count b j) < 2 ^ 32 → ∃ t, exec (.bellRing p name count err) s = .next t ∧
        t.get (BEL_VAL.count b j) = min (s.get (BEL_VAL.count b j) + count.toNat) (2 ^ 32 - 1) ∧
        t.get (BEL_VAL.err b j) = (if err then 1 else s.get (BEL_VAL.err b j)) ∧ t.mem = s.mem ∧ t.ctxs = s.ctxs) ∧
      (s.get (BEL_OWN.pen b j) ≠ p.val ∨ s.get LAY_STATUS.state < 2 →
        exec (.bellRing p name count err) s = .next (s.inc (BEL_CNT.refused b) 1))) ∧
    (∀ (name : U64) (count : U16) (err : Bool), bellPackage name.toNat ≠ s.package → (count ≠ 0 ∨ err = true) →
      exec (.bellRing p name count err) s = .next (s.emit (some p.val) (bellPacket s name.toNat count.toNat err))) ∧
    (∀ o, s.teamOn p.val = true → s.penFrozen p.val = false → (s.pen p.val).own.find? (fun v => !v.void) = some o →
      (s.get (LDG_TEAM.solo p.val) = 1 → calm s → ∃ t, exec (.tmLost p) s = .next t ∧ t.get (LDG_TEAM_STAT.solo_active p.val) = 1 ∧
        (t.pen p.val).own = [] ∧ (t.pen p.val).partner = [] ∧ t.ctxs = s.ctxs) ∧
      (s.get (LDG_TEAM.solo p.val) = 0 → s.teamPending p.val = false → (s.pen p.val).failed = none →
        ∃ t, exec (.tmLost p) s = .next t ∧ (t.pen p.val).failed = some (7, o, TeamVal.none) ∧ t.mem = s.mem ∧ t.ctxs = s.ctxs)) ∧
    (∀ v : BitVec 44, s.get (LDG_STAT.full_hold p.val) = 0 → noWait s → exec (.ldgTailWrite p v) s = .next (s.set (LDG_TAIL.offset p.val) v.toNat))

/-- The stages of a link: training ends UP with the partner's numbers and the round trip, or FAILED with its reason; a FAILED port that may train retrains
by its timer, a PARKED one when its partner trains; a link with nothing in flight that goes down counts it with the reason, and retrains if it may; a port
written off drains, at once where its link never left training, and once drained is OFF; a port written on trains if it has an owner and a layout is loaded.
Completes: TRAINING_DONE, RETRAIN_TIMER, PARTNER_TRAINING, LINK_DOWN, LOSS_OF_SIGNAL, PORT_ENABLE_WRITE, PORT_DRAIN. -/
def Obligations.LinksChangeStage : Prop :=
  ∀ (s : State) (n : Fin 64), s.awake = true →
    let p := n.val
    (∀ t : Training, s.get (PRT_LINK.link p) = 1 → s.get (PRT_CTL.state p) = 2 →
      (s.trainFault p t = 0 → ∃ u, exec (.trainingDone n t) s = .next u ∧ u.get (PRT_LINK.link p) = 2 ∧
        u.get (PRT_PEER.package p) = t.package.toNat ∧ u.get (PRT_PEER.port p) = t.port.toNat ∧ u.get (PRT_LINK.rtt_ns p) = t.rttNs.toNat ∧
        u.mem = s.mem ∧ u.ctxs = s.ctxs) ∧
      (s.trainFault p t ≠ 0 → ∃ u, exec (.trainingDone n t) s = .next u ∧ u.get (PRT_LINK.link p) = 4 ∧
        u.get (PRT_LINK.reason p) = s.trainFault p t ∧ u.mem = s.mem ∧ u.ctxs = s.ctxs)) ∧
    (s.get (PRT_LINK.link p) = 4 → s.get (PRT_CTL.state p) = 2 → s.get (PRT_CTL.auto_retrain p) = 1 → s.mayTrain p = true →
      exec (.retrainTimer n) s = .next (s.set (PRT_LINK.link p) 1)) ∧
    (s.get (PRT_LINK.link p) = 3 → s.get (PRT_CTL.state p) = 2 → (s.port p).inFlight = [] →
      (∃ u, exec (.partnerTraining n) s = .next u ∧ u.get (PRT_LINK.link p) = 1 ∧ u.mem = s.mem) ∧
      (∃ u, exec (.lossOfSignal n) s = .next u ∧ u.get (PRT_LINK.link p) = 3 ∧ u.regs = s.regs ∧ u.mem = s.mem)) ∧
    (s.get (PRT_LINK.link p) = 2 → s.get (PRT_CTL.state p) = 2 → (s.port p).inFlight = [] →
      ∀ x ∈ ([(.linkDown n .retryLimit, 6), (.linkDown n .lossOfSignal, 1), (.linkDown n .protocol, 7), (.lossOfSignal n, 1)] : List (Instr × Nat)),
      ∃ u, exec x.1 s = .next u ∧ u.get (PRT_LINK.reason p) = x.2 ∧
        u.get (PRT_LINK.link p) = (if s.get (PRT_CTL.auto_retrain p) = 1 ∧ s.mayTrain p = true then 1 else 0) ∧
        u.get (PRT_CNT.down p) = min (s.get (PRT_CNT.down p) + 1) (2 ^ (PRT_CNT.down p).w - 1) ∧ u.mem = s.mem ∧ u.ctxs = s.ctxs) ∧
    (∀ v : Bool, s.get (PRT_CTL.state p) = 1 → exec (.portEnableWrite n v) s = .next ((s.setB (PRT_CTL.enable p) v).setB (PRT_CTL.rearm p) v)) ∧
    (s.get (PRT_CTL.state p) = 0 → exec (.portEnableWrite n false) s = .next (s.setB (PRT_CTL.enable p) false)) ∧
    (s.get (PRT_CTL.state p) = 2 → exec (.portEnableWrite n true) s = .next (s.setB (PRT_CTL.enable p) true)) ∧
    (s.get (PRT_CTL.state p) = 2 → (s.get (PRT_LINK.link p) ≠ 1 ∨ (s.port p).left = true) →
      exec (.portEnableWrite n false) s = .next ((s.setB (PRT_CTL.enable p) false).set (PRT_CTL.state p) 1)) ∧
    (s.get (PRT_CTL.state p) = 0 → s.portFree p = true → ∃ u, exec (.portEnableWrite n true) s = .next u ∧ u.get (PRT_CTL.state p) = 2 ∧
      u.get (PRT_LINK.link p) = (if s.mayTrain p then 1 else s.get (PRT_LINK.link p)) ∧ u.get (PRT_CNT.down p) = 0 ∧ u.mem = s.mem) ∧
    (s.get (PRT_CTL.state p) = 1 → s.get (PRT_CTL.rearm p) = 0 → (s.port p).inFlight = [] → (s.port p).queues = [] →
      ∃ u, exec (.portDrain n) s = .next u ∧ u.get (PRT_CTL.state p) = 0 ∧ u.get (PRT_LINK.link p) = 0 ∧ u.port p = Port.clear ∧ u.mem = s.mem) ∧
    (s.get (PRT_CTL.state p) = 1 → ∃ u, exec (.portDrain n) s = .next u)

/-- A live link's codewords: one that cannot be decoded counts as a failed check and changes nothing in memory; a link-control entry takes the
partner's quiet bit; a retry resends every stored cell, the seventeenth takes the link down; a cell to be resent leaves scrambled, as stored, and where
nothing is to be sent an idle cell does, changing only the port. Completes: CODEWORD_RECEIVE, LINK_CONTROL_ENTRY, RETRY_TIMEOUT, CODEWORD_SEND. -/
def Obligations.CodewordsKeepTheirLink : Prop :=
  ∀ (s : State) (n : Fin 64), s.awake = true → s.linkUp n.val = true →
    let q := s.port n.val
    (∀ bytes,
      (allTaken s (s.codewordIn n.val bytes) → exec (.codewordReceive n bytes) s = .next (s.codewordIn n.val bytes)) ∧
      (rsDecode (scramble bytes q.scrRx).1 = none → ∃ t, exec (.codewordReceive n bytes) s = .next t ∧ t.mem = s.mem ∧ t.ctxs = s.ctxs ∧
        (t.port n.val).scrRx = (scramble bytes q.scrRx).2 ∧ (q.nakOut = false → (t.port n.val).nakDue = true) ∧
        t.get (PRT_CNT.crc_fail n.val) = min (s.get (PRT_CNT.crc_fail n.val) + 1) (2 ^ (PRT_CNT.crc_fail n.val).w - 1))) ∧
    (∀ entry, bitOf (fieldNat entry 1 1) 0 = false → ∃ t, exec (.linkControlEntry n entry) s = .next t ∧
      (t.port n.val).quiet = bitOf (fieldNat entry 1 1) 2 ∧ t.mem = s.mem ∧ t.ctxs = s.ctxs ∧ t.cores = s.cores) ∧
    (∀ entry, ∃ t, exec (.linkControlEntry n entry) s = .next t) ∧
    (q.unacked ≠ [] → q.resends < 16 → ∃ t, exec (.retryTimeout n) s = .next t ∧
      (t.port n.val).again = q.unacked ∧ (t.port n.val).resends = q.resends + 1 ∧
      t.get (PRT_CNT.retries n.val) = min (s.get (PRT_CNT.retries n.val) + 1) (2 ^ 16 - 1) ∧ t.mem = s.mem ∧ t.ctxs = s.ctxs) ∧
    (q.unacked ≠ [] → 16 ≤ q.resends → exec (.retryTimeout n) s = .next (s.linkDown n.val 6)) ∧
    (∀ c rest, s.entryOwed n.val = false → q.again = c :: rest → ∃ t, exec (.codewordSend n) s = .next t ∧ (t.port n.val).again = rest ∧
      t.reply = .data (scramble (codeword c.seq c.exped.toNat c.data) q.scrTx).1 [] ∧ t.mem = s.mem ∧ t.ctxs = s.ctxs ∧ t.cores = s.cores ∧
      t.lay = s.lay ∧ t.regs = s.regs) ∧
    (s.entryOwed n.val = false → q.again = [] → q.ready n.val true = false → q.ready n.val false = false → ∃ t, exec (.codewordSend n) s = .next t ∧
      t.reply = .data (scramble (codeword q.seq 2 (padCell [])) q.scrTx).1 [] ∧ t.mem = s.mem ∧ t.ctxs = s.ctxs ∧ t.cores = s.cores ∧
      t.lay = s.lay ∧ t.regs = s.regs)

/-- The enable writes of the functions other than the ports, each with its function (R455). -/
def enableRows (p y : Fin 8) (f : Fin 2) (g : BitVec 12) (o : Fin 4) : List ((Bool → Instr) × Func) :=
  [(.penEnableWrite p, .pen p), (.grpqEnableWrite f g, .grpq f g), (.xchEnableWrite y, .xch y), (.engEnableWrite y, .eng y),
   (.optEnableWrite o, .opt o)]

/-- An enable written: an OFF function written 1 comes ON with its counters at 0; an ON one written 0 drains; while it drains the write sets rearm;
any other write only stores the bit. A met drain condition takes a draining function OFF, and ON again when rearm is set. Completes:
DRAIN_COMPLETE, ENG_ENABLE_WRITE, GRPQ_ENABLE_WRITE, OPT_ENABLE_WRITE, PEN_ENABLE_WRITE, XCH_ENABLE_WRITE. -/
def Obligations.EnablesTurnFunctionsOnAndOff : Prop :=
  ∀ (s : State) (p y : Fin 8) (f : Fin 2) (g : BitVec 12) (o : Fin 4), ∀ x ∈ enableRows p y f g o,
    let e := (funcFlds x.2).1
    let st := (funcFlds x.2).2.1
    let re := (funcFlds x.2).2.2
    (s.awake = true → s.get st = 0 → exec (x.1 false) s = .next (s.setB e false)) ∧
    (s.awake = true → s.get st = 0 → ∃ t, exec (x.1 true) s = .next t ∧ t.get st = 2 ∧ t.get re = 0 ∧ t.get e = 1 ∧ t.mem = s.mem ∧ t.ctxs = s.ctxs ∧
      ∀ c ∈ funcCounters x.2, t.get c = 0) ∧
    (s.awake = true → s.get st = 2 → exec (x.1 true) s = .next (s.setB e true)) ∧
    (s.awake = true → s.get st = 2 → (∀ i, i < 64 → s.get (PRT_LINK.link i) ≠ 1) → ∃ t, exec (x.1 false) s = .next t ∧ t.get st = 1 ∧ t.get e = 0 ∧
      t.mem = s.mem) ∧
    (s.awake = true → s.get st = 2 → ∃ t, exec (x.1 false) s = .next t) ∧
    (∀ v, s.awake = true → s.get st = 1 → exec (x.1 v) s = .next ((s.setB e v).setB re v)) ∧
    (s.get st = 1 → s.drainMet x.2 = true → s.funcFrozen x.2 = false → ∃ t, exec (.drainComplete x.2) s = .next t ∧
      t.get st = (if s.get re = 1 then 2 else 0) ∧ t.get re = 0 ∧ t.mem = s.mem ∧ t.ctxs = s.ctxs)

/-! ## Collectives -/

/-- The collective rows with the op of R386 each runs. -/
def collRows : List ((BitVec 12 → Instr) × Nat) := [(.barrier, 1), (.collBcast, 2), (.collReduce, 3), (.allreduce, 4)]

/-- The collective packet rows with their phase (R400). -/
def collPackets : List ((Fin 64 → Packet → Instr) × Nat) :=
  [(.collUp, 0), (.collDown, 1), (.collConfirm, 2), (.collRelease, 3), (.collReject, 4), (.collError, 5), (.collStatus, 6)]

/-- A COLL packet of a phase for a group usable to the pen of the live port it arrives on, its collective number being m. -/
def collFor (s : State) (n : Fin 64) (k : Packet) (phase m : Nat) : Prop :=
  s.linkUp n.val = true ∧ s.awake = true ∧ k.dst.toNat = s.package ∧ k.ptype = .coll ∧ cpPhase k = phase ∧
    s.groupUsable (s.gdesc k.group.toNat) (s.portPen n.val) = true ∧ cpNumber k = m ∧ (s.group k.group.toNat).failed.contains m = false

/-- A collective command: posted into its pen's own window of a group that is ON it is accepted or held, by another writer it is not; the first of its
group's queue is checked and starts, or waits until its gate bell has a count, of which it takes 1; then the member does its part once: its elements join
the trees and its step the comparison. A SEND's message leaves, or is appended here; a member that waits too long ends the collective with GC_TIMEOUT.
Packets of the next collective are kept; those of the running one join elements, land, confirm, release, reject or end it; a STATUS is kept. Completes:
GRP_CMD_POST, COLL_START, COLL_GATE_PASS, BARRIER, COLL_BCAST, COLL_REDUCE, ALLREDUCE, SEND, GC_TIMEOUT, GRP_SWAP_ARM, COLL_UP, COLL_DOWN, COLL_CONFIRM,
COLL_RELEASE, COLL_REJECT, COLL_ERROR, COLL_STATUS. -/
def Obligations.CollectivesRunTheirPart : Prop :=
  (∀ (s : State) (src : Source) (f : Fin 2) (w : Fin 9) (last : U64), s.awake = true →
    ((windowOf src ≠ some w.val ∨ s.gwinPen w.val = none) → ∃ t, exec (.grpCmdPost src f w last) s = .next t ∧ t.groups = s.groups ∧
      t.gwins = s.gwins ∧ t.regs = s.regs ∧ t.mem = s.mem) ∧
    (windowOf src = some w.val → s.gwinPen w.val ≠ none →
      let cmd := overlay (Tab.get [] (s.gwin f.val).staged w.val) 128 120 (leBytes 8 last.toNat)
      s.get (GRP_QCTL.state (s.homeOf (gcGroup cmd)) (gcGroup cmd)) = 2 → ∃ t, exec (.grpCmdPost src f w last) s = .next t ∧ t.mem = s.mem ∧
        t.reply = (if (Tab.get [] (s.gwin f.val).queue w.val).length < 8 then .accepted else .held))) ∧
  (∀ (s : State) (g : BitVec 12) (w : Nat) (cmd : List Byte) (q : List (Nat × List Byte)), (s.group g.toNat).queue = (w, cmd) :: q →
    (s.group g.toNat).coll = none → s.groupLive g.toNat = true →
    ((s.group g.toNat).gated = false → gcBad cmd = true → allTaken s (s.collRefuse g.toNat w cmd 1) →
      exec (.collStart g) s = .next (s.collRefuse g.toNat w cmd 1)) ∧
    ((s.group g.toNat).gated = false → gcBad cmd = false → w / 16 = s.homeOf g.toNat →
      s.groupUsable (s.gdesc g.toNat) (s.gwinPen (w % 16)) = true → (rankNamed (gcOp cmd) = true → gcRank cmd < (s.gdesc g.toNat).n) →
      (∀ b, gcGate cmd = none ∨ gcGate cmd = some b ∧ s.gatePasses g.toNat b = true → ∃ t c, exec (.collStart g) s = .next t ∧
        (t.group g.toNat).coll = some c ∧ c.cmd = cmd ∧ c.w = w ∧ c.done = false ∧ t.mem = s.mem ∧ (gcGate cmd ≠ none →
          t.get (BEL_VAL.count (4 + s.homeOf g.toNat) b) = s.get (BEL_VAL.count (4 + s.homeOf g.toNat) b) - 1)) ∧
      (∀ b, gcGate cmd = some b → s.gatePasses g.toNat b = false → noWait s →
        exec (.collStart g) s = .next (s.setGroup g.toNat { s.group g.toNat with gated := true }))) ∧
    (∀ b, (s.group g.toNat).gated = true → gcGate cmd = some b → s.gatePasses g.toNat b = true →
      ∃ t c, exec (.collGatePass g) s = .next t ∧ (t.group g.toNat).coll = some c ∧ c.cmd = cmd ∧ c.done = false ∧ t.mem = s.mem ∧
        t.get (BEL_VAL.count (4 + s.homeOf g.toNat) b) = s.get (BEL_VAL.count (4 + s.homeOf g.toNat) b) - 1)) ∧
  (∀ x ∈ collRows, ∀ (s : State) (g : BitVec 12) (c : Coll), (s.group g.toNat).coll = some c → gcOp c.cmd = x.2 → s.groupLive g.toNat = true →
    let d := s.gdesc g.toNat
    (c.done = false → ∃ t, s.ownPart g.toNat x.2 = some t ∧ (allTaken s t → exec (x.1 g) s = .next t)) ∧
    (c.done = false → calm s → d.root 0 = false → d.root 1 = false → (s.group g.toNat).early = [] → c.stepFrom.contains 3 = false →
      (c.chunk 0).releaseIn = false →
      (∀ k, k < chunkCount d c.cmd → s.groupReach d (gcSrc c.cmd + k * d.size) (chunkLen d c.cmd k) = true) →
      ∃ t c', exec (x.1 g) s = .next t ∧ (t.group g.toNat).coll = some c' ∧ c'.done = true ∧ c'.cmd = c.cmd ∧
        (x.2 ≠ 2 → c'.stepFrom.contains 0 = true ∧
          ∀ k i, k < chunkCount d c.cmd → i < chunkElems d c.cmd k → (c'.chunk k).from_.contains (4 * i) = true) ∧
        ∀ b, t.mem.byte b = s.mem.byte b) ∧
    (c.done = true → noWait s → exec (x.1 g) s = .next s)) ∧
  (∀ (s : State) (g : BitVec 12) (c : Coll), (s.group g.toNat).coll = some c → s.groupLive g.toNat = true →
    let here := s.memberAt (s.gdesc g.toNat) (gcRank c.cmd) = s.package
    (gcOp c.cmd = 5 → c.done = false →
      (¬ here → ∃ t, exec (.send g) s = .next t ∧ (t.group g.toNat).sends = (s.group g.toNat).sends + 1 ∧
        (t.group g.toNat).coll = some { c with done := true } ∧ t.mem = s.mem ∧ t.ctxs = s.ctxs) ∧
      (here → calm s → ∃ t, exec (.send g) s = .next t ∧ (t.group g.toNat).sends = (s.group g.toNat).sends + 1 ∧ (t.group g.toNat).coll = none)) ∧
    (c.done = true → gcOp c.cmd ≠ 5 → gcOp c.cmd ≠ 2 → allTaken s (s.failColl g.toNat 7 0 (s.gdesc g.toNat).rank) →
      exec (.gcTimeout g) s = .next (s.failColl g.toNat 7 0 (s.gdesc g.toNat).rank)) ∧
    (c.done = true → gcOp c.cmd ≠ 5 → calm s → ∃ t, exec (.gcTimeout g) s = .next t ∧ (t.group g.toNat).coll = none)) ∧
  (∀ (s : State) (f : Fin 2), s.awake = true → exec (.grpSwapArm f) s = .next (s.armTable f.val) ∧
    (s.penList = [] → Tab.get 0 s.lay.grpTaken f.val = 0 → ∃ t, exec (.grpSwapArm f) s = .next t ∧
      t.get (GRP_TBL.base f.val) = s.get (GRP_TBL_S.base f.val) % 2 ^ (GRP_TBL.base f.val).w ∧ t.get (GRP_SWAP.armed f.val) = 0)) ∧
  (∀ x ∈ collPackets, ∀ (s : State) (n : Fin 64) (k : Packet) (m : Nat), collFor s n k x.2 m →
    let g := k.group.toNat
    let d := s.gdesc g
    let cur := s.get (GRP_QCTL.number (s.homeOf g) g)
    let ch := cpChunk k
    (x.2 = 6 → ∃ t, exec (x.1 n k) s = .next t ∧ (t.group g).status = (s.group g).status ++ [(k.src.toNat, k.payload)] ∧ t.mem = s.mem) ∧
    (x.2 ≠ 6 → m ≠ cur → m = (cur + 1) % 2 ^ 32 → ∃ t, exec (x.1 n k) s = .next t ∧ (t.group g).early = (s.group g).early ++ [(n.val, k)] ∧
      (t.group g).coll = (s.group g).coll ∧ t.mem = s.mem) ∧
    (∀ c, (s.group g).coll = some c → c.done = true → s.groupLive g = true → x.2 ≠ 6 → m = cur →
      let t := (s.returnCredit n.val ⟨k, 0⟩).collAct g c k
      let e := cmdElem c.cmd
      (allTaken s t → exec (x.1 n k) s = .next t) ∧
      (x.2 = 0 → gcOp c.cmd = 4 → ch ≠ 0xFFFFFFFF → cpEtype k = gcElem c.cmd → cpX k = gcX c.cmd → cpTree k = ch % 2 → c.stepSent = true →
        c.stepFrom.contains 3 = false → 0 < chunkElems d c.cmd ch →
        ∀ q r, s.childOf d (cpTree k) k = some q → r ∈ (d.children (cpTree k)).map (·.1) → r ≠ q → (∀ i, (c.chunk ch).from_.contains (4 * i + r) = false) →
        ∃ u c', exec (x.1 n k) s = .next u ∧ (u.group g).coll = some c' ∧ (∀ b, u.mem.byte b = s.mem.byte b) ∧
          ∀ i, i < k.payload.length / e → (c.chunk ch).from_.contains (4 * (cpOff k / e + i) + q) = false →
            let old := Tab.get [] (c.chunk ch).parts (cpOff k / e + i)
            let new := fieldBytes k.payload (e * i) e
            Tab.get [] (c'.chunk ch).parts (cpOff k / e + i) = if old = [] then new else (combine (gcElem c.cmd) (gcCombine c.cmd) old new).1) ∧
      (x.2 = 1 → calm s → (∀ z, z < 8 → s.get (YRD_RETIRE.mask z) = 0) → cpOff k + k.payload.length ≠ chunkLen d c.cmd ch + 20 →
        k.payload.length % e = 0 → s.lands d c ch = true →
        s.groupReach d (gcDst c.cmd + ch * d.size + cpOff k / e * e) k.payload.length = true →
        let a := localOf (gcDst c.cmd + ch * d.size + cpOff k / e * e)
        ∃ u, exec (x.1 n k) s = .next u ∧ u.ctxs = s.ctxs ∧ u.cores = s.cores ∧
          ∀ b, u.mem.byte b = if a ≤ b ∧ b < a + k.payload.length then k.payload.getD (b - a) 0 else s.mem.byte b) ∧
      (x.2 = 2 → gcOp c.cmd = 4 → c.stepFrom.contains 3 = false → (c.chunk ch).landed = false → ∀ q, s.childOf d (cpTree k) k = some q →
        ∃ u c', exec (x.1 n k) s = .next u ∧ (u.group g).coll = some c' ∧ (c'.chunk ch).confirms.contains q = true ∧
          (c'.chunk ch).mismatch = ((c.chunk ch).mismatch || fieldNat k.payload 0 1 != 0) ∧ u.mem = s.mem) ∧
      (x.2 = 3 → gcOp c.cmd = 4 → c.stepFrom.contains 3 = false → ch ≠ 0xFFFFFFFF → ∃ u c', exec (x.1 n k) s = .next u ∧
        (u.group g).coll = some c' ∧ (c'.chunk ch).releaseIn = true ∧ (c'.chunk ch).counted = true ∧ u.mem = s.mem) ∧
      (x.2 = 4 → gcEager c.cmd = false → (c.chunk ch).rejects = 0 → ∃ u c', exec (x.1 n k) s = .next u ∧ (u.group g).coll = some c' ∧
        (c'.chunk ch).rejects = 1 ∧ (c'.chunk ch).landed = false ∧ (c'.chunk ch).mismatch = false ∧ u.mem = s.mem) ∧
      (x.2 = 5 → calm s → ∃ u, exec (x.1 n k) s = .next u ∧ (u.group g).coll = none)))

/-! ## Checkpoints -/

/-- The checkpoint unit: a clean page drained is in the unit's stream, its command in flight, and a poisoned one abandons the checkpoint; with every page
drained and nothing in flight the unit writes its manifest, or abandons for want of room; the manifest written, it is held or reported; the coordinator
with every manifest publishes, Write, Flush, root Write, Flush in order; published, it is IDLE with the step kept and the next generation; a failed command
or a missing member drops the checkpoint. A restore from an empty store changes nothing but the recorded error, and one from a stored checkpoint that
passes every check sets the step to its step. Completes: DRAIN_PAGE_READ, CKP_DRAIN_DONE, JOB_MANIFEST_WRITE, NVME_COMPLETION, CKP_PUBLISHED, CK_PARTIAL,
RESTORE. -/
def Obligations.CheckpointUnitFollowsItsStages : Prop :=
  ∀ (s : State) (p : Fin 8),
    let st := CKP_STAT.state p.val
    let k := s.ckp p.val
    let d := s.gdesc (s.get (CKP_CTL.group p.val))
    let recorded := fun (t : State) (code : Nat) => s.get (CKP_ERR.valid p.val) = 0 → t.get (CKP_ERR.reason p.val) = code ∧ t.get (CKP_ERR.valid p.val) = 1
    (∀ (y : Fin 8) (pg : Nat) (l : List Nat), idleYards s → s.ckpLive p.val 1 = true → s.pagesLeft p.val y.val = pg :: l →
      (s.homeBad y.val pg = false → ∃ t, exec (.drainPageRead p y) s = .next t ∧ (t.ckp p.val).nvme = k.nvme ++ [.write] ∧
        Tab.get 0 (t.ckp p.val).drained (pageKey y.val pg) = 1 ∧ (Tab.get [] (t.ckp p.val).bytes (pageKey y.val pg)).length = 65536 ∧
        Tab.get Page.home (t.yard y.val).pages pg = .home ∧ t.cores = s.cores ∧ t.ctxs = s.ctxs) ∧
      (s.homeBad y.val pg = true → ∃ t, exec (.drainPageRead p y) s = .next t ∧ t.get st = 0 ∧ recorded t 4)) ∧
    (∀ free : U64, s.ckpLive p.val 1 = true → (∀ y, y < 8 → s.pagesLeft p.val y = []) → k.nvme = [] →
      ∃ t, exec (.ckpDrainDone p free) s = .next t ∧
        (t.get st = 2 ∧ (t.ckp p.val).nvme = [.write] ∧ (t.ckp p.val).used ≤ free.toNat ∧ (t.ckp p.val).left = free.toNat - (t.ckp p.val).used ∨
          t.get st = 0 ∧ recorded t 2)) ∧
    (∀ (runS : U64) (fails : U32) (members : List MemberManifest), s.ckpLive p.val 2 = true → s.get (CKP_STAT.coordinator p.val) = 1 →
      s.manifestsHeld p.val = true → members.length = d.n →
      let j := s.jobManifest p.val runS.toNat fails.toNat members
      let n := (j.length + 4095) / 4096
      (n ≤ k.left → n ≤ k.room → ∃ t, exec (.jobManifestWrite ⟨p, runS, fails, members⟩) s = .next t ∧ t.get st = 3 ∧ (t.ckp p.val).rootStage = 1 ∧
        (t.ckp p.val).job = j ∧ (t.ckp p.val).nvme = k.nvme ++ [.write] ∧ t.mem = s.mem ∧ t.ctxs = s.ctxs) ∧
      (k.left < n ∨ k.room < n → ∃ t, exec (.jobManifestWrite ⟨p, runS, fails, members⟩) s = .next t ∧ t.get st = 0 ∧ recorded t 2)) ∧
    (k.nvme ≠ [] → s.awake = true →
      (s.get st = 2 → ∃ t, exec (.nvmeCompletion p true) s = .next t ∧ (t.ckp p.val).nvme = k.nvme.drop 1 ∧ t.mem = s.mem ∧
        (s.get (CKP_STAT.coordinator p.val) = 1 → d.rank ∈ (t.ckp p.val).held)) ∧
      (s.get st ≠ 2 → s.get st ≠ 3 → ∃ t, exec (.nvmeCompletion p true) s = .next t ∧ (t.ckp p.val).nvme = k.nvme.drop 1 ∧ t.mem = s.mem ∧
        t.regs = s.regs) ∧
      (s.get st = 3 → ∀ x ∈ ([(1, [.flush]), (2, [.write]), (3, [.flush]), (4, [])] : List (Nat × List NvmeCmd)), k.rootStage = x.1 →
        ∃ t, exec (.nvmeCompletion p true) s = .next t ∧ (t.ckp p.val).rootStage = k.rootStage + 1 ∧ (t.ckp p.val).nvme = k.nvme.drop 1 ++ x.2 ∧
          (k.rootStage = 2 → (t.ckp p.val).root = s.rootBlock p.val k.block) ∧ t.mem = s.mem ∧ t.regs = s.regs) ∧
      (∃ t, exec (.nvmeCompletion p false) s = .next t ∧ t.get st = 0 ∧ recorded t 1)) ∧
    (∀ (cMs : U32) (tUs runS : U64) (fails : U32), s.ckpLive p.val 3 = true → k.rootStage = 5 →
      ∃ t, exec (.ckpPublished p cMs tUs runS fails) s = .next t ∧ t.get st = 0 ∧
        t.get (CKP_LAST.step p.val) = k.step.toNat % 2 ^ (CKP_LAST.step p.val).w ∧
        t.get (CKP_GEN.gen p.val) = (k.gen.toNat + 1) % 2 ^ (CKP_GEN.gen p.val).w ∧ t.mem = s.mem ∧ t.ctxs = s.ctxs) ∧
    (∀ r : Nat, (s.ckpLive p.val 1 = true ∨ s.ckpLive p.val 2 = true) → s.get (CKP_STAT.coordinator p.val) = 1 → r < d.n → r ≠ d.rank →
      k.held.contains r = false → ∃ t, exec (.ckPartial p) s = .next t ∧ t.get st = 0 ∧ recorded t 5) ∧
    (∀ keys store, s.penRunning p.val = false → s.penFrozen p.val = false → ∃ t, exec (.restore p keys store) s = .next t) ∧
    (∀ keys, s.penRunning p.val = false → s.penFrozen p.val = false →
      (∃ t, exec (.restore p keys []) s = .next t ∧ t.mem = s.mem ∧ t.get (LDG_STEP.step p.val) = s.get (LDG_STEP.step p.val) ∧ recorded t 0x16) ∧
      (∀ c, calm s → signedBy keys c.root = true → s.checkStored p.val keys c = 0 → ∃ t, exec (.restore p keys [c]) s = .next t ∧
        t.get (LDG_STEP.step p.val) = fieldNat c.root 24 8))

/-! ## The layout -/

/-- The layout's states: a load with none active begins the checks, else it is refused with LR_STATE; checks that fail leave no layout and record code,
section and index; ones that pass apply the image; an unload is refused while a context runs, else every function drains; when all are OFF nothing is
active and contexts are IDLE. A shadow is armed only when one is active and none is there; one that differs is refused; one that passes waits for every
running pen; it is disarmed only while no pen has taken its share. Completes: LAYOUT_LOAD, LAYOUT_CHECKS_DONE, LAYOUT_UNLOAD, UNLOAD_COMPLETE, LAYOUT_ARM,
ARM_CHECKS_DONE, LAYOUT_DISARM. -/
def Obligations.LayoutFollowsItsStates : Prop :=
  ∀ s : State, s.awake = true →
    let refused := fun (u t : State) (c sec i : Nat) => t.get LAY_STATUS.reason = c % 256 ∧ t.get LAY_STATUS.section = sec % 2 ^ LAY_STATUS.section.w ∧
      t.get LAY_STATUS.index = i % 2 ^ LAY_STATUS.index.w ∧ t.mem = u.mem ∧ t.ctxs = u.ctxs
    (s.get LAY_STATUS.state = 0 → calm s → ∃ t, exec .layoutLoad s = .next t ∧ t.get LAY_STATUS.state = 1 ∧
      t.lay.checking = s.imageAt (s.get LAY_IMAGE.base) ∧ (∀ b, t.mem.byte b = s.mem.byte b) ∧ t.ctxs = s.ctxs ∧ t.cores = s.cores) ∧
    (s.get LAY_STATUS.state ≠ 0 → ∃ t, exec .layoutLoad s = .next t ∧ refused s t 0x50 0 0 ∧ t.get LAY_STATUS.state = s.get LAY_STATUS.state) ∧
    (s.get LAY_STATUS.state = 1 →
      let v := s.imageFault s.lay.checking (s.imageClean (s.get LAY_IMAGE.base) s.lay.checking.length)
      (∀ c sec i, v = some (c, sec, i) → ∃ t, exec .layoutChecksDone s = .next t ∧ refused s t c sec i ∧ t.get LAY_STATUS.state = 0) ∧
      (allTaken s (s.applyImage s.lay.checking) → ∃ t, exec .layoutChecksDone s = .next t ∧ (v = none → t = s.applyImage s.lay.checking)) ∧
      (calm s → ∃ t, exec .layoutChecksDone s = .next t ∧ match v with
        | none => t.get LAY_STATUS.state = 2 ∧ t.lay.image = s.lay.checking ∧ t.get LAY_ID.id = fieldNat s.lay.checking 16 8 % 2 ^ LAY_ID.id.w
        | some _ => t.get LAY_STATUS.state = 0)) ∧
    (s.get LAY_STATUS.state ≠ 2 → exec .layoutUnload s = .next s) ∧
    (s.get LAY_STATUS.state = 2 → s.anyRunning = true → ∃ t, exec .layoutUnload s = .next t ∧ refused s t 0x50 0 0 ∧ t.get LAY_STATUS.state = 2) ∧
    (s.get LAY_STATUS.state = 2 → s.anyRunning = false → ∃ t, exec .layoutUnload s = .next t ∧ t.get LAY_STATUS.state = 3) ∧
    (s.get LAY_STATUS.state = 3 → (∀ f ∈ allFuncs, s.get (funcFlds f).2.1 = 0) → ∃ t, exec .unloadComplete s = .next t ∧
      t.get LAY_STATUS.state = 0 ∧ t.get LAY_ID.id = 0 ∧ t.lay = Layout.none ∧ t.layoutActive = false ∧ t.mem = s.mem ∧
      ∀ d h, d < 4 → h < 2 → t.ctx d h = Ctx.clear ∧ t.get (SEQ_STATUS.state d h) = 0) ∧
    (s.get LAY_STATUS.state = 2 → s.get LAY_STATUS.shadow = 0 → calm s → ∃ t, exec .layoutArm s = .next t ∧ t.get LAY_STATUS.shadow = 1 ∧
      t.lay.checking = s.imageAt (s.get LAY_SHADOW.base) ∧ ∀ b, t.mem.byte b = s.mem.byte b) ∧
    (s.get LAY_STATUS.state ≠ 2 ∨ s.get LAY_STATUS.shadow ≠ 0 → ∃ t, exec .layoutArm s = .next t ∧ refused s t 0x50 0 0 ∧
      t.get LAY_STATUS.shadow = s.get LAY_STATUS.shadow) ∧
    (s.get LAY_STATUS.shadow = 1 →
      let v := s.imageFault s.lay.checking (s.imageClean (s.get LAY_SHADOW.base) s.lay.checking.length)
      (∃ t, exec .armChecksDone s = .next t) ∧
      (∀ c sec i, v = some (c, sec, i) → ∃ t, exec .armChecksDone s = .next t ∧ refused s t c sec i ∧ t.get LAY_STATUS.shadow = 0) ∧
      (calm s → ∃ t, exec .armChecksDone s = .next t ∧ match v, armDiff s.lay.image s.lay.checking with
        | none, none => s.penList ≠ [] → (∀ p ∈ s.penList, s.penRunning p = true) → t.get LAY_STATUS.shadow = 2 ∧
            t.get LAY_STATUS.pending = maskOf s.penList ∧ t.lay.shadow = s.lay.checking
        | none, some k => refused s t 0x51 k 0 ∧ t.get LAY_STATUS.shadow = 0
        | some _, _ => t.get LAY_STATUS.shadow = 0)) ∧
    (s.get LAY_STATUS.shadow = 2 → s.get LAY_STATUS.pending = maskOf s.penList → ∃ t, exec .layoutDisarm s = .next t ∧
      t.get LAY_STATUS.shadow = 0 ∧ t.get LAY_STATUS.pending = 0 ∧ t.lay.shadow = [] ∧ t.mem = s.mem) ∧
    (s.get LAY_STATUS.shadow ≠ 2 ∨ s.get LAY_STATUS.pending ≠ maskOf s.penList → exec .layoutDisarm s = .next s)

/-! ## The control die -/

/-- A DMA channel works on its head descriptor by its op: a COPY within the package puts its source's bytes at its destination, all of them read before any
is written (the spec names no order: the model's choice, log entry 120), an import or export whose checks pass does its rows; a descriptor whose work is
done completes: its record is in its ring slot, its head advances in the ring, and a nonzero status stops the channel, which a write of its tail starts
again. A watch whose bell has its threshold takes it, or on err only records it, and interrupts its core once, until its pending bit is cleared; the core
has the audit trailer of its answer. Completes: COPY, DMA_IMPORT, DMA_EXPORT, CD_DMA_COMPLETE, CD_DMAQ_TAIL_WRITE, WATCH_FIRE, WATCH_PENDING_CLEAR. -/
def Obligations.ControlDieDmaAndWatches : Prop :=
  (∀ (s : State) (n : Fin 16), calm s → (∀ z, z < 8 → s.get (YRD_RETIRE.mask z) = 0) →
    let r := (s.cdTake n.val).cdrun n.val
    let c := r.desc
    let a := localOf (cdSrc c)
    let b := localOf (cdDst c)
    let len := cdRows c
    (s.cdWorks n.val 0 = true → cdBadOp c = false → cdSrcSram c = false → cdDstSram c = false → s.ownPackage (cdSrc c) = true →
      s.ownPackage (cdDst c) = true → s.cdRange n.val false (cdSrc c) len = true → s.cdRange n.val false (cdDst c) len = true →
      ∃ t, exec (.copy n) s = .next t ∧ (t.cdrun n.val).worked = true ∧ (t.cdrun n.val).units = (len + 255) / 256 ∧ t.cores = s.cores ∧
        ∀ x, x < 2 ^ 46 → t.mem.byte x = if b ≤ x ∧ x < b + len then s.mem.byte (a + (x - b)) else s.mem.byte x) ∧
    (∀ x ∈ ([(.dmaImport n, 1), (.dmaExport n, 2)] : List (Instr × Nat)), s.cdWorks n.val x.2 = true → cdBadOp c = false →
      s.ownPackage (cdDescAt c) = true → s.cdRange n.val false (cdDescAt c) 64 = true →
      let e := (s.cdTake n.val).cdDescBytes r
      s.cdCheck n.val c (descOf e.1) e.2 = (0, 0) → s.cdNeeds c (descOf e.1) = [] → ∃ t, exec x.1 s = .next t ∧ (t.cdrun n.val).worked = true ∧
        ((t.cdrun n.val).nan = none → (t.cdrun n.val).units = cdRows c) ∧ t.cores = s.cores ∧ t.ctxs = s.ctxs ∧
        t.get (CD_DMAQ.head n.val) = s.get (CD_DMAQ.head n.val))) ∧
  (∀ (s : State) (n : Fin 16), s.cdReady n.val = true → ((s.cdTake n.val).cdrun n.val).worked = true → ((s.cdTake n.val).cdrun n.val).acks = 0 →
    let r := (s.cdTake n.val).cdrun n.val
    ∃ t, exec (.cdDmaComplete n) s = .next t ∧ t.cdrun n.val = CdRun.idle ∧
      t.get (CD_DMAQ.head n.val) = (s.get (CD_DMAQ.head n.val) + 1) % s.cdEntries n.val % 2 ^ (CD_DMAQ.head n.val).w ∧
      (r.status ≠ 0 → bitOf (t.get CD_DMA_STAT.stopped) n.val = true) ∧ t.ctxs = s.ctxs ∧ t.cores = s.cores ∧
      ∀ i, i < 32 → t.mem.byte (s.cdSlot n.val + i) = r.record.getD i 0) ∧
  (∀ (s : State) (n : Fin 16) (tail : U16), s.awake = true → ∃ t, exec (.cdDmaqTailWrite n tail) s = .next t ∧
    t.get (CD_DMAQ.tail n.val) = tail.toNat ∧ bitOf (t.get CD_DMA_STAT.stopped) n.val = false ∧ t.mem = s.mem ∧ t.cddma = s.cddma) ∧
  (∀ (s : State) (n : Fin 64), s.dieLive (s.watchDie n.val) = true → s.watchMet n.val = true → s.watchBefore n.val = false →
    s.awaitFirst (s.watchDie n.val) 0 (s.watchBell n.val) = false → s.awaitFirst (s.watchDie n.val) 1 (s.watchBell n.val) = false →
    let v := BEL_VAL.count (s.watchDie n.val) (s.watchBell n.val)
    ∃ t, exec (.watchFire n) s = .next t ∧ t.get (CD_WATCH.pending n.val) = 1 ∧ t.mem = s.mem ∧ t.ctxs = s.ctxs ∧
      n.val ∈ (t.hcore (s.get (CD_WATCH.core n.val))).irqs ∧
      (t.hcore (s.get (CD_WATCH.core n.val))).trailer.length = 48 ∧ fieldNat (t.hcore (s.get (CD_WATCH.core n.val))).trailer 0 4 = 0x54445541 ∧
      fieldNat (t.hcore (s.get (CD_WATCH.core n.val))).trailer 8 8 =
        s.get (LDG_STEP.step (s.get (BEL_OWN.pen (s.watchDie n.val) (s.watchBell n.val)))) % 2 ^ 64 ∧
      (s.get (BEL_VAL.err (s.watchDie n.val) (s.watchBell n.val)) = 1 → t.get (CD_WATCH.error n.val) = 1 ∧ t.get v = s.get v) ∧
      (s.get (BEL_VAL.err (s.watchDie n.val) (s.watchBell n.val)) = 0 → s.get v < 2 ^ 32 → t.get v = s.get v - s.get (CD_WATCH.threshold n.val))) ∧
  (∀ (s : State) (n : Fin 64), s.awake = true → exec (.watchPendingClear n) s = .next (s.set (CD_WATCH.pending n.val) 0))

/-- Requests from outside: a scoring frame on a live request port with the scoring UDP port goes to one main core, any other is not steered; the RoCE
queue pairs halve their rate on a CNP, regain it by a twentieth of full rate up to full rate, answer marked packets, and reach only the buffer of the
command in flight; the PCIe windows answer by role and reach only the image's window range. Completes: SCORE_REQUEST, CNP_RECEIVE, ECN_MARKED_RECEIVE, RATE_REGAIN_TIMER,
RDMA_TARGET_ACCESS, PCIE_HOST_ACCESS, PCIE_INBOUND_DMA. -/
def Obligations.OutsideRequestsReachTheirTargets : Prop :=
  ∀ s : State, s.awake = true →
    (∀ (n : Fin 4) (u : U16) (flow : U32), s.get (CD_ETH.up n.val) = 1 →
      (s.get CD_SCORE.udp_port = u.toNat → u ≠ 0 → bitOf (s.get (CD_ETH.role n.val)) 1 = true → ∃ t c, exec (.scoreRequest n u flow) s = .next t ∧ c < 32 ∧
        (t.hcore c).frames = (s.hcore c).frames + 1 ∧ (∀ e, e ≠ c → t.hcore e = s.hcore e) ∧ t.mem = s.mem ∧ t.regs = s.regs) ∧
      ((s.get CD_SCORE.udp_port ≠ u.toNat ∨ u = 0) → exec (.scoreRequest n u flow) s = .next { s with reply := .none })) ∧
    (∀ qp : Nat, (∃ t, exec (.cnpReceive qp) s = .next t ∧ (t.qpair qp).halvings = (s.qpair qp).halvings + 1 ∧ (t.qpair qp).rate = (s.qpair qp).rate ∧
        t.mem = s.mem ∧ t.regs = s.regs) ∧
      (∃ t, exec (.ecnMarkedReceive qp) s = .next t ∧ (t.qpair qp).cnps = (s.qpair qp).cnps + 1 ∧ t.mem = s.mem ∧ t.regs = s.regs) ∧
      (∃ t, exec (.rateRegainTimer qp) s = .next t ∧ t.mem = s.mem ∧ t.regs = s.regs ∧
        ((s.qpair qp).rate ≤ 20 * 2 ^ (s.qpair qp).halvings → (t.qpair qp).rate * 2 ^ (s.qpair qp).halvings =
          min ((s.qpair qp).rate + 2 ^ (s.qpair qp).halvings) (20 * 2 ^ (s.qpair qp).halvings) * 2 ^ (t.qpair qp).halvings))) ∧
    (∀ (qp : Nat) (write : Bool) (a : BitVec 26) (len : Nat) (data : List Byte),
      let n := if write then data.length else len
      ((s.qpair qp).inBuffer a.toNat n = false → exec (.rdmaTargetAccess qp write a len data) s = .next { s with reply := .remoteError }) ∧
      ((s.qpair qp).inBuffer a.toNat n = true → a.toNat + n ≤ 0x04000000 → ∃ t, exec (.rdmaTargetAccess qp write a len data) s = .next t ∧
        t.ctxs = s.ctxs ∧ ∀ b, t.mem.byte b = if write = true ∧ sharedBase + a.toNat ≤ b ∧ b < sharedBase + a.toNat + n then
          data.getD (b - (sharedBase + a.toNat)) 0 else s.mem.byte b)) ∧
    (∀ (bar : Nat) (o : U64) (len : Nat) (w : Option (List Byte)), s.pcieRole = 2 →
      let n := match w with | some bs => bs.length | none => len
      (bar ≠ 0 → bar ≠ 2 → noWait s → exec (.pcieHostAccess bar o len w) s = .next { s with reply := .unsupported }) ∧
      (bar = 0 → o.toNat + n ≤ 0x1000000 → ∃ t, exec (.pcieHostAccess bar o len w) s = .next t ∧ t.mem = s.mem ∧ t.regs = s.regs ∧ t.ctxs = s.ctxs ∧
        (w ≠ none → t.reply = .accepted)) ∧
      (∀ r, bar = 2 → s.pcieRange = some r → r.2 ≤ 0x1000000000 →
        (o.toNat + n ≤ r.2 → calm s → (∀ z, z < 8 → s.get (YRD_RETIRE.mask z) = 0) → r.1 + r.2 ≤ dramTop →
          ∃ t, exec (.pcieHostAccess bar o len w) s = .next t ∧ t.ctxs = s.ctxs ∧ t.cores = s.cores ∧
            (∀ b, t.mem.byte b = match w with
              | some bs => if r.1 + o.toNat ≤ b ∧ b < r.1 + o.toNat + n then bs.getD (b - (r.1 + o.toNat)) 0 else s.mem.byte b
              | none => s.mem.byte b) ∧
            (w = none → ∃ bad, t.reply = .data (s.read (r.1 + o.toNat) n) bad) ∧ (w ≠ none → t.reply = .accepted)) ∧
        (r.2 < o.toNat + n → noWait s → exec (.pcieHostAccess bar o len w) s = .next { s with reply := .unsupported }))) ∧
    (∀ (a : U64) (data : List Byte), s.pcieRole = 1 →
      (∀ r, s.pcieRange = some r → s.ownPackage a.toNat = true → r.1 ≤ localOf a.toNat → localOf a.toNat + data.length ≤ r.1 + r.2 → calm s →
        (∀ z, z < 8 → s.get (YRD_RETIRE.mask z) = 0) → r.1 + r.2 ≤ dramTop →
        ∃ t, exec (.pcieInboundDma a data) s = .next t ∧ t.reply = .accepted ∧ t.ctxs = s.ctxs ∧ t.cores = s.cores ∧
          ∀ b, t.mem.byte b = if localOf a.toNat ≤ b ∧ b < localOf a.toNat + data.length then data.getD (b - localOf a.toNat) 0 else s.mem.byte b) ∧
      (s.ownPackage a.toNat = false → noWait s → exec (.pcieInboundDma a data) s = .next { s with reply := .refused }))

/-- The record rows, with the fields of a record, and whether they store (R465). -/
def recordRows : List ((Fin 36 → List Nat → U64 → Nat → U64 → Instr) × Nat × Bool) :=
  [(.vunz2, 2, false), (.vunz3, 3, false), (.vunz4, 4, false), (.vzip2, 2, true), (.vzip3, 3, true), (.vzip4, 4, true)]

/-- A record load puts field f of record i into element i of the f-th register of its list, a record store takes them from there, and VPROG says how many
records were done; a list with a repeated register is an illegal instruction; a first record that may not be accessed changes nothing but the core's
exception, with the faulting address saved; on a main core so does any record that may not be accessed, whatever earlier record is poisoned. The root of
trust takes a key with a good signature and a sequence number that was not used, and counts any
other. A core that returns from a trap taken outside a vector instruction only leaves its exception. Completes: VUNZ2, VUNZ3, VUNZ4, VZIP2, VZIP3, VZIP4, ROT_ENROL, ROT_KEY_LOAD, TRAP_RETURN. -/
def Obligations.RecordsKeysAndTraps : Prop :=
  (∀ x ∈ recordRows, ∀ (s : State) (c : Fin 36) (regs : List Nat) (base : U64) (z : Nat) (count : U64), s.awake = true →
    let v : VecPending := { store := x.2.2, nf := x.2.1, regs := regs, base := base, z := z, count := count }
    (v.legal = false → ∃ t, exec (x.1 c regs base z count) s = .next t ∧ (t.hcore c.val).exc = .illegal ∧ t.mem = s.mem ∧ t.regs = s.regs ∧
      (t.hcore c.val).vregs = (s.hcore c.val).vregs) ∧
    (∀ e, v.legal = true → 0 < v.records c.val → s.recFault v 0 = some e →
      (32 ≤ c.val ∨ e = .access ∨ ∀ i, i < v.records c.val → s.recDenied v i = false) → ∃ t, exec (x.1 c regs base z count) s = .next t ∧
      (t.hcore c.val).exc = e ∧ (t.hcore c.val).tElem = 0 ∧ (t.hcore c.val).tAddr = base ∧ t.mem = s.mem ∧ t.regs = s.regs ∧
      (t.hcore c.val).vregs = (s.hcore c.val).vregs) ∧
    (∀ i, v.legal = true → c.val < 32 → i < v.records c.val → s.recDenied v i = true → (∀ j, j < i → s.recDenied v j = false) →
      ∃ t, exec (x.1 c regs base z count) s = .next t ∧ (t.hcore c.val).exc = .access ∧ (t.hcore c.val).tElem = 0 ∧
        (t.hcore c.val).tAddr.toNat = v.recAddr i ∧ t.mem = s.mem ∧ t.regs = s.regs ∧ (t.hcore c.val).vregs = (s.hcore c.val).vregs) ∧
    (v.legal = true → x.2.2 = false → (∀ i, i < v.records c.val → s.recFault v i = none) → calm s → ∃ t, exec (x.1 c regs base z count) s = .next t ∧
      (t.hcore c.val).vprog = v.records c.val ∧ (∀ b, t.mem.byte b = s.mem.byte b) ∧ ∀ f i, f < x.2.1 → i < v.records c.val →
        (t.hcore c.val).element (regs.getD f 0) z i =
          (List.range z).map fun k => s.mem.byte (s.loc (localOf (v.recAddr i) + f * z + k))) ∧
    (v.legal = true → x.2.2 = true → v.records c.val = 1 → s.recFault v 0 = none → dramTop ≤ localOf base.toNat →
      ∃ t, exec (x.1 c regs base z count) s = .next t ∧ (t.hcore c.val).vprog = 1 ∧ (t.hcore c.val).vregs = (s.hcore c.val).vregs ∧
        ∀ f k, f < x.2.1 → k < z → t.mem.byte (localOf base.toNat + f * z + k) = ((s.hcore c.val).element (regs.getD f 0) z 0).getD k 0)) ∧
  (∀ (s : State) (cmd : RotCmd), s.awake = true →
    ((s.rotFresh cmd = false ∨ s.rotSigned cmd = false ∧ (cmd.owner = false ∨ s.rot.owner ≠ none)) →
      exec (.rotEnrol cmd) s = .next { s.inc CD_BOOT.rot_refused 1 with reply := .refused }) ∧
    (s.rotFresh cmd = true → cmd.owner = true → s.rotSigned cmd = true ∨ s.rot.owner = none → ∃ t, exec (.rotEnrol cmd) s = .next t ∧
      t.rot.owner = some cmd.key ∧ t.rot.lastSeq = cmd.seq.toNat + 1 ∧ t.rot.aes = s.rot.aes ∧ t.rot.layout = s.rot.layout ∧ t.mem = s.mem) ∧
    (s.rotFresh cmd = true → cmd.owner = false → s.rotSigned cmd = true → cmd.slot.val < 8 → ∃ t, exec (.rotEnrol cmd) s = .next t ∧
      Tab.get [] t.rot.layout cmd.slot.val = cmd.key ∧ t.rot.owner = s.rot.owner ∧ t.rot.aes = s.rot.aes ∧ t.mem = s.mem) ∧
    ((s.rotFresh cmd = false ∨ s.rotSigned cmd = false) → exec (.rotKeyLoad cmd) s = .next { s.inc CD_BOOT.rot_refused 1 with reply := .refused }) ∧
    (s.rotFresh cmd = true → s.rotSigned cmd = true → ∃ t, exec (.rotKeyLoad cmd) s = .next t ∧ t.rot.high = s.rot.high ∧ t.rot.owner = s.rot.owner ∧
      Tab.get 0 t.rot.aes cmd.slot.val = s.rot.loads + 1 ∧ t.rot.lastSeq = cmd.seq.toNat + 1 ∧ t.mem = s.mem)) ∧
  (∀ (s : State) (c : Fin 36), s.awake = true → noWait s →
    (noWait (s.trapReturn c.val) → exec (.trapReturn c) s = .next (s.trapReturn c.val)) ∧
    ((s.hcore c.val).vec = none → exec (.trapReturn c) s = .next (s.setHcore c.val { s.hcore c.val with exc := .none })))

/-! ## Arithmetic and the stack hash -/

/-- RECIP of a nonzero a and RSQRT of a positive a (R92, R93): q is the floor of 2^(31 + j) / |a| or 2^(31 + j) / √a, where j is the one integer that
puts q into [2^30, 2^31). The reciprocal has the sign of a and is never larger in magnitude than 1/|a|. The pivot engine's rcp and rsq are the same
floors with 63-bit results (R202). -/
def Obligations.ReciprocalsAreFloors : Prop :=
  (∀ a : Int, a ≠ 0 → ∃ (q : Nat) (j : Int), (fuRecip a).snd = some j ∧ (fuRecip a).fst = (if a < 0 then -(q : Int) else q) ∧ 0 ≤ 31 + j ∧
    2 ^ 30 ≤ q ∧ q < 2 ^ 31 ∧ q * a.natAbs ≤ 2 ^ (31 + j).toNat ∧ 2 ^ (31 + j).toNat < (q + 1) * a.natAbs ∧
    ∀ i : Int, 0 ≤ 31 + i → 2 ^ 30 ≤ 2 ^ (31 + i).toNat / a.natAbs → 2 ^ (31 + i).toNat / a.natAbs < 2 ^ 31 → i = j) ∧
  (∀ a : Int, 0 < a → ∃ (q : Nat) (j : Int), (fuRsqrt a).snd = some j ∧ (fuRsqrt a).fst = q ∧ 0 ≤ 31 + j ∧ 2 ^ 30 ≤ q ∧ q < 2 ^ 31 ∧
    q * q * a.natAbs ≤ 4 ^ (31 + j).toNat ∧ 4 ^ (31 + j).toNat < (q + 1) * (q + 1) * a.natAbs ∧
    ∀ i : Int, 0 ≤ 31 + i → 2 ^ 60 * a.natAbs ≤ 4 ^ (31 + i).toNat → 4 ^ (31 + i).toNat < 2 ^ 62 * a.natAbs → i = j) ∧
  (∀ p : Dy, p.m ≠ 0 → ∃ q u : Nat, p.rcp = ⟨if p.m < 0 then -(q : Int) else q, -(u + p.e)⟩ ∧ 2 ^ 62 ≤ q ∧ q < 2 ^ 63 ∧
    q * p.m.natAbs ≤ 2 ^ u ∧ 2 ^ u < (q + 1) * p.m.natAbs) ∧
  (∀ p : Dy, 0 < p.m → ∃ (q : Nat) (u : Int), p.rsq = ⟨q, -u⟩ ∧ 2 ^ 62 ≤ q ∧ q < 2 ^ 63 ∧ 0 ≤ 2 * u - p.e ∧
    q * q * p.m.natAbs ≤ 2 ^ (2 * u - p.e).toNat ∧ 2 ^ (2 * u - p.e).toNat < (q + 1) * (q + 1) * p.m.natAbs)

/-- Rounding to nearest even at 2^d (R51): exact for d ≤ 0; for d > 0 the quotient's floor, one more above the half or at the half of an odd quotient. So
the result is a nearest multiple of 2^d, and an even one where two are nearest. Stochastic rounding (R52) gives one of the two neighbours, and an exact
multiple itself. -/
def Obligations.RoundingIsToNearestEven : Prop :=
  (∀ v d : Int, d ≤ 0 → roundNe v d = v * 2 ^ (-d).toNat) ∧
  (∀ (v : Int) (e : Nat), 0 < e →
    let m := roundNe v e
    let q := v / 2 ^ e
    let r := v - q * 2 ^ e
    (2 ^ (e - 1) < r ∨ r = 2 ^ (e - 1) ∧ q % 2 = 1 → m = q + 1) ∧ (¬ (2 ^ (e - 1) < r ∨ r = 2 ^ (e - 1) ∧ q % 2 = 1) → m = q) ∧
      2 * (m * 2 ^ e - v).natAbs ≤ 2 ^ e ∧ (2 * (m * 2 ^ e - v).natAbs = 2 ^ e → m % 2 = 0)) ∧
  (∀ (u : Nat) (v : Int) (e : Nat), u < 65536 → 0 < e →
    (roundSr u v e = v / 2 ^ e ∨ roundSr u v e = v / 2 ^ e + 1) ∧ (v % 2 ^ e = 0 → roundSr u v e * 2 ^ e = v))

/-- The stack hash (R253): the channel is the XOR of the fields of the offset, the channel line bits [36:14]. It is one to one: an offset is known from
channel, line and byte, and every channel, line and byte is that of its offset. -/
def Obligations.StackHashIsOneToOne : Prop :=
  (∀ o, o < 0x1800000000 →
    channelOf o = (o / 2 ^ 8 % 64) ^^^ (o / 2 ^ 14 % 64) ^^^ (o / 2 ^ 20 % 64) ^^^ (o / 2 ^ 26 % 64) ^^^ (o / 2 ^ 32 % 32) ∧
    channelLine o = o / 2 ^ 14 ∧ channelLine o ≤ 6291455 ∧ channelOf o < 64 ∧ offsetOf (channelOf o) (channelLine o) (o % 256) = o) ∧
  (∀ c q b, c < 64 → q ≤ 6291455 → b < 256 → offsetOf c q b < 0x1800000000 ∧ channelOf (offsetOf c q b) = c ∧ channelLine (offsetOf c q b) = q ∧
    offsetOf c q b % 256 = b)
end

