-- ==== Sys2Proof/Laws/Tab.lean ====
section
/-! SUPPORT. Laws/Tab.lean: the laws of sparse tables: what a set does to a get, and that the canonical form is kept. -/

namespace Sys2Proof.Machine

variable {α : Type}

@[simp] theorem Tab.get_nil (d : α) (k : Nat) : Tab.get d [] k = d := rfl

theorem Tab.get_erase_self (d : α) (t : Tab α) (k : Nat) : Tab.get d (Tab.erase t k) k = d := by
  induction t with
  | nil => rfl
  | cons e t ih =>
    by_cases h : e.1 = k
    · simpa [Tab.erase, List.filter_cons, h] using ih
    · simpa [Tab.erase, List.filter_cons, h, Tab.get] using ih

theorem Tab.get_erase_other (d : α) (t : Tab α) (k j : Nat) (h : j ≠ k) : Tab.get d (Tab.erase t k) j = Tab.get d t j := by
  induction t with
  | nil => rfl
  | cons e t ih =>
    by_cases hk : e.1 = k
    · have hj : ¬ e.1 = j := fun x => h (x.symm.trans hk)
      simpa [Tab.erase, List.filter_cons, hk, Tab.get, hj, Ne.symm h] using ih
    · by_cases hj : e.1 = j
      · have hjk : ¬ j = k := h
        simp [Tab.erase, Tab.get, hj, hjk]
      · simpa [Tab.erase, List.filter_cons, hk, Tab.get, hj] using ih

theorem Tab.get_ins_self (d : α) (t : Tab α) (k : Nat) (v : α) (h : ∀ e ∈ t, e.1 ≠ k) : Tab.get d (Tab.ins t k v) k = v := by
  induction t with
  | nil => simp [Tab.ins, Tab.get]
  | cons e t ih =>
    unfold Tab.ins
    split
    · simp [Tab.get]
    · have he : e.1 ≠ k := h e (by simp)
      simpa [Tab.get, he] using ih fun x hx => h x (by simp [hx])

theorem Tab.get_ins_other (d : α) (t : Tab α) (k j : Nat) (v : α) (h : j ≠ k) : Tab.get d (Tab.ins t k v) j = Tab.get d t j := by
  induction t with
  | nil => simp [Tab.ins, Tab.get, Ne.symm h]
  | cons e t ih =>
    unfold Tab.ins
    split
    · simp [Tab.get, Ne.symm h]
    · by_cases he : e.1 = j
      · simp [Tab.get, he]
      · simpa [Tab.get, he] using ih

theorem Tab.erase_no_key (t : Tab α) (k : Nat) : ∀ e ∈ Tab.erase t k, e.1 ≠ k := by
  intro e he
  simpa using (List.mem_filter.mp he).2

@[simp] theorem Tab.get_set_self [DecidableEq α] (d : α) (t : Tab α) (k : Nat) (v : α) : Tab.get d (Tab.set d t k v) k = v := by
  unfold Tab.set
  split
  · next h => rw [Tab.get_erase_self, h]
  · exact Tab.get_ins_self d _ k v (Tab.erase_no_key t k)

theorem Tab.get_set_other [DecidableEq α] (d d' : α) (t : Tab α) (k j : Nat) (v : α) (h : j ≠ k) :
    Tab.get d' (Tab.set d t k v) j = Tab.get d' t j := by
  unfold Tab.set
  split
  · exact Tab.get_erase_other d' t k j h
  · rw [Tab.get_ins_other d' _ k j v h, Tab.get_erase_other d' t k j h]

theorem Tab.get_set [DecidableEq α] (d : α) (t : Tab α) (k j : Nat) (v : α) : Tab.get d (Tab.set d t k v) j = if j = k then v else Tab.get d t j := by
  split
  · next h => rw [h, Tab.get_set_self]
  · next h => exact Tab.get_set_other d d t k j v h

/-! ## The canonical form -/

theorem Tab.erase_rising {t : Tab α} (k : Nat) (h : Tab.Rising t) : Tab.Rising (Tab.erase t k) := List.Pairwise.filter _ h

theorem Tab.mem_ins {t : Tab α} {k : Nat} {v : α} {e : Nat × α} (h : e ∈ Tab.ins t k v) : e = (k, v) ∨ e ∈ t := by
  induction t with
  | nil => simpa [Tab.ins] using h
  | cons x t ih =>
    unfold Tab.ins at h
    split at h
    · simpa using h
    · rcases List.mem_cons.mp h with h | h
      · exact .inr (by simp [h])
      · rcases ih h with h | h
        · exact .inl h
        · exact .inr (by simp [h])

theorem Tab.ins_rising {t : Tab α} {k : Nat} (v : α) (h : Tab.Rising t) (hk : ∀ e ∈ t, e.1 ≠ k) : Tab.Rising (Tab.ins t k v) := by
  induction t with
  | nil => simp [Tab.ins, Tab.Rising]
  | cons x t ih =>
    have ht := List.pairwise_cons.mp h
    unfold Tab.ins
    split
    · next hlt =>
      refine List.pairwise_cons.mpr ⟨?_, h⟩
      intro a ha
      rcases List.mem_cons.mp ha with rfl | ha
      · exact hlt
      · exact Nat.lt_trans hlt (ht.1 a ha)
    · next hge =>
      refine List.pairwise_cons.mpr ⟨?_, ih ht.2 fun e he => hk e (by simp [he])⟩
      intro a ha
      rcases Tab.mem_ins ha with rfl | ha
      · have := hk x (by simp)
        simp only
        omega
      · exact ht.1 a ha

theorem Tab.set_rising [DecidableEq α] {t : Tab α} (d : α) (k : Nat) (v : α) (h : Tab.Rising t) : Tab.Rising (Tab.set d t k v) := by
  unfold Tab.set
  split
  · exact Tab.erase_rising k h
  · exact Tab.ins_rising v (Tab.erase_rising k h) (Tab.erase_no_key t k)

theorem Tab.set_noDefault [DecidableEq α] {t : Tab α} (d : α) (k : Nat) (v : α) (h : Tab.NoDefault d t) : Tab.NoDefault d (Tab.set d t k v) := by
  unfold Tab.set
  split
  · exact fun e he => h e (List.mem_filter.mp he).1
  · next hv =>
    intro e he
    rcases Tab.mem_ins he with rfl | he
    · exact hv
    · exact h e (List.mem_filter.mp he).1

theorem Tab.filter_rising {t : Tab α} (p : Nat × α → Bool) (h : Tab.Rising t) : Tab.Rising (t.filter p) := List.Pairwise.filter _ h

theorem Tab.filter_noDefault {t : Tab α} {d : α} (p : Nat × α → Bool) (h : Tab.NoDefault d t) : Tab.NoDefault d (t.filter p) :=
  fun e he => h e (List.mem_filter.mp he).1

/-- A table from which some keys were dropped. -/
theorem Tab.get_filter (d : α) (t : Tab α) (p : Nat → Bool) (k : Nat) :
    Tab.get d (t.filter fun e => p e.1) k = if p k then Tab.get d t k else d := by
  induction t with
  | nil => cases p k <;> rfl
  | cons e t ih =>
    by_cases he : e.1 = k
    · subst he
      cases hp : p e.1
      · rw [List.filter_cons_of_neg (by simp [hp]), ih, hp]
        rfl
      · rw [List.filter_cons_of_pos (by simp [hp])]
        simp [Tab.get]
    · cases hp : p e.1
      · rw [List.filter_cons_of_neg (by simp [hp]), ih]
        simp [Tab.get, he]
      · rw [List.filter_cons_of_pos (by simp [hp])]
        simp only [Tab.get, he, if_false, ih]

end Sys2Proof.Machine
end

