-- ==== Sys2Proof/Laws/Memory.lean ====
section
/-! SUPPORT. Laws/Memory.lean: the memory keeps its canonical form, and a read after a write of bytes. -/

namespace Sys2Proof.Machine

theorem Memory.empty_wf : Memory.wf Memory.empty := by
  simp [Memory.wf, Memory.empty, Tab.NoDefault]

theorem Memory.setByte_wf {m : Memory} (a : Nat) (b : Byte) (h : m.wf) : (m.setByte a b).wf :=
  ⟨Tab.set_rising _ _ _ h.1, Tab.set_noDefault _ _ _ h.2.1, h.2.2.1, h.2.2.2⟩

theorem Memory.setMark_wf {m : Memory} (a : Nat) (v : Mark) (h : m.wf) : (m.setMark a v).wf :=
  ⟨h.1, h.2.1, Tab.set_rising _ _ _ h.2.2.1, Tab.set_noDefault _ _ _ h.2.2.2⟩

theorem Memory.setBytes_wf {m : Memory} (a : Nat) (bs : List Byte) (h : m.wf) : (m.setBytes a bs).wf := by
  induction bs generalizing m a with
  | nil => exact h
  | cons b t ih => exact ih (a + 1) (Memory.setByte_wf a b h)

theorem Memory.write_wf {m : Memory} (a : Nat) (bs : List Byte) (p : Bool) (h : m.wf) : (m.write a bs p).wf := by
  unfold Memory.write
  have h0 := Memory.setBytes_wf a bs h
  generalize m.setBytes a bs = m0 at h0 ⊢
  induction granules a bs.length generalizing m0 with
  | nil => exact h0
  | cons g l ih => exact ih _ (Memory.setMark_wf _ _ h0)

theorem Memory.writePieces_wf {m : Memory} (a : Nat) (l : List (List Byte × Bool)) (h : m.wf) : (m.writePieces a l).wf := by
  unfold Memory.writePieces
  dsimp only
  have h0 := Memory.setBytes_wf a (l.flatMap (·.1)) h
  generalize m.setBytes a (l.flatMap (·.1)) = m0 at h0 ⊢
  induction granules a (l.flatMap (·.1)).length generalizing m0 with
  | nil => exact h0
  | cons g l ih => exact ih _ (Memory.setMark_wf _ _ h0)

/-- A byte written is read back, and every other byte is as before. -/
theorem Memory.setByte_byte (m : Memory) (a j : Nat) (b : Byte) : (m.setByte a b).byte j = if j = a then b else m.byte j :=
  Tab.get_set 0 m.cells a j b

theorem Memory.setMark_byte (m : Memory) (a j : Nat) (v : Mark) : (m.setMark a v).byte j = m.byte j := rfl

theorem Memory.setBytes_byte (m : Memory) (a j : Nat) (bs : List Byte) :
    (m.setBytes a bs).byte j = if a ≤ j ∧ j < a + bs.length then bs.getD (j - a) 0 else m.byte j := by
  induction bs generalizing m a with
  | nil =>
    have h0 : ¬ (a ≤ j ∧ j < a + ([] : List Byte).length) := by simp only [List.length_nil]; omega
    rw [if_neg h0, Memory.setBytes]
  | cons b t ih =>
    rw [Memory.setBytes, ih, Memory.setByte_byte]
    simp only [List.length_cons]
    by_cases h1 : j = a
    · subst h1
      have e1 : ¬ (j + 1 ≤ j ∧ j < j + 1 + t.length) := by omega
      have e2 : j ≤ j ∧ j < j + (t.length + 1) := by omega
      rw [if_neg e1, if_pos e2, Nat.sub_self, List.getD_cons_zero, if_pos rfl]
    · by_cases h2 : a + 1 ≤ j ∧ j < a + 1 + t.length
      · have e2 : a ≤ j ∧ j < a + (t.length + 1) := by omega
        have e3 : j - a = (j - (a + 1)) + 1 := by omega
        simp [h2, e2, e3]
      · have e2 : ¬ (a ≤ j ∧ j < a + (t.length + 1)) := by omega
        rw [if_neg h2, if_neg h1, if_neg e2]

theorem Memory.write_byte (m : Memory) (a j : Nat) (bs : List Byte) (p : Bool) :
    (m.write a bs p).byte j = if a ≤ j ∧ j < a + bs.length then bs.getD (j - a) 0 else m.byte j := by
  rw [← Memory.setBytes_byte]
  unfold Memory.write
  generalize m.setBytes a bs = m0
  generalize granules a bs.length = l
  suffices h : ∀ (l : List Nat) (m0 : Memory), (l.foldl (fun acc g => acc.setMark g (m.mergeMark a bs.length p g)) m0).byte j = m0.byte j from h l m0
  intro l
  induction l with
  | nil => intro m0; rfl
  | cons g l ih => intro m0; exact ih _

end Sys2Proof.Machine
end

