-- ==== Sys2Proof/Laws/State.lean ====
section
/-!
SUPPORT. Laws/State.lean: one lemma per field of the state per named update, so that no proof unfolds a record update; reading a register or a
unit back after it is written.
-/

namespace Sys2Proof.Machine

@[simp] theorem State.set_mem (s : State) (f : Fld) (v : Nat) : (s.set f v).mem = s.mem := rfl
@[simp] theorem State.set_cores (s : State) (f : Fld) (v : Nat) : (s.set f v).cores = s.cores := rfl
@[simp] theorem State.set_clusters (s : State) (f : Fld) (v : Nat) : (s.set f v).clusters = s.clusters := rfl
@[simp] theorem State.set_ctxs (s : State) (f : Fld) (v : Nat) : (s.set f v).ctxs = s.ctxs := rfl
@[simp] theorem State.set_dmaLast (s : State) (f : Fld) (v : Nat) : (s.set f v).dmaLast = s.dmaLast := rfl
@[simp] theorem State.set_pens (s : State) (f : Fld) (v : Nat) : (s.set f v).pens = s.pens := rfl
@[simp] theorem State.set_yards (s : State) (f : Fld) (v : Nat) : (s.set f v).yards = s.yards := rfl
@[simp] theorem State.set_ports (s : State) (f : Fld) (v : Nat) : (s.set f v).ports = s.ports := rfl
@[simp] theorem State.set_routes (s : State) (f : Fld) (v : Nat) : (s.set f v).routes = s.routes := rfl
@[simp] theorem State.set_shadowRoutes (s : State) (f : Fld) (v : Nat) : (s.set f v).shadowRoutes = s.shadowRoutes := rfl
@[simp] theorem State.set_groups (s : State) (f : Fld) (v : Nat) : (s.set f v).groups = s.groups := rfl
@[simp] theorem State.set_gwins (s : State) (f : Fld) (v : Nat) : (s.set f v).gwins = s.gwins := rfl
@[simp] theorem State.set_ckps (s : State) (f : Fld) (v : Nat) : (s.set f v).ckps = s.ckps := rfl
@[simp] theorem State.set_lay (s : State) (f : Fld) (v : Nat) : (s.set f v).lay = s.lay := rfl
@[simp] theorem State.set_cddma (s : State) (f : Fld) (v : Nat) : (s.set f v).cddma = s.cddma := rfl
@[simp] theorem State.set_hcores (s : State) (f : Fld) (v : Nat) : (s.set f v).hcores = s.hcores := rfl
@[simp] theorem State.set_rot (s : State) (f : Fld) (v : Nat) : (s.set f v).rot = s.rot := rfl
@[simp] theorem State.set_qps (s : State) (f : Fld) (v : Nat) : (s.set f v).qps = s.qps := rfl
@[simp] theorem State.set_deadDies (s : State) (f : Fld) (v : Nat) : (s.set f v).deadDies = s.deadDies := rfl
@[simp] theorem State.set_pcieRole (s : State) (f : Fld) (v : Nat) : (s.set f v).pcieRole = s.pcieRole := rfl
@[simp] theorem State.set_ptpSlew (s : State) (f : Fld) (v : Nat) : (s.set f v).ptpSlew = s.ptpSlew := rfl
@[simp] theorem State.set_timeFrac (s : State) (f : Fld) (v : Nat) : (s.set f v).timeFrac = s.timeFrac := rfl
@[simp] theorem State.set_stage (s : State) (f : Fld) (v : Nat) : (s.set f v).stage = s.stage := rfl
@[simp] theorem State.set_power (s : State) (f : Fld) (v : Nat) : (s.set f v).power = s.power := rfl
@[simp] theorem State.set_pins (s : State) (f : Fld) (v : Nat) : (s.set f v).pins = s.pins := rfl
@[simp] theorem State.set_jtag (s : State) (f : Fld) (v : Nat) : (s.set f v).jtag = s.jtag := rfl
@[simp] theorem State.set_fresh (s : State) (f : Fld) (v : Nat) : (s.set f v).fresh = s.fresh := rfl
@[simp] theorem State.set_reply (s : State) (f : Fld) (v : Nat) : (s.set f v).reply = s.reply := rfl
@[simp] theorem State.set_yardHold (s : State) (f : Fld) (v : Nat) : (s.set f v).yardHold = s.yardHold := rfl
@[simp] theorem State.set_pending (s : State) (f : Fld) (v : Nat) : (s.set f v).pending = s.pending := rfl

@[simp] theorem State.setB_mem (s : State) (f : Fld) (b : Bool) : (s.setB f b).mem = s.mem := rfl
@[simp] theorem State.setB_cores (s : State) (f : Fld) (b : Bool) : (s.setB f b).cores = s.cores := rfl
@[simp] theorem State.setB_clusters (s : State) (f : Fld) (b : Bool) : (s.setB f b).clusters = s.clusters := rfl
@[simp] theorem State.setB_ctxs (s : State) (f : Fld) (b : Bool) : (s.setB f b).ctxs = s.ctxs := rfl
@[simp] theorem State.setB_dmaLast (s : State) (f : Fld) (b : Bool) : (s.setB f b).dmaLast = s.dmaLast := rfl
@[simp] theorem State.setB_pens (s : State) (f : Fld) (b : Bool) : (s.setB f b).pens = s.pens := rfl
@[simp] theorem State.setB_yards (s : State) (f : Fld) (b : Bool) : (s.setB f b).yards = s.yards := rfl
@[simp] theorem State.setB_ports (s : State) (f : Fld) (b : Bool) : (s.setB f b).ports = s.ports := rfl
@[simp] theorem State.setB_routes (s : State) (f : Fld) (b : Bool) : (s.setB f b).routes = s.routes := rfl
@[simp] theorem State.setB_shadowRoutes (s : State) (f : Fld) (b : Bool) : (s.setB f b).shadowRoutes = s.shadowRoutes := rfl
@[simp] theorem State.setB_groups (s : State) (f : Fld) (b : Bool) : (s.setB f b).groups = s.groups := rfl
@[simp] theorem State.setB_gwins (s : State) (f : Fld) (b : Bool) : (s.setB f b).gwins = s.gwins := rfl
@[simp] theorem State.setB_ckps (s : State) (f : Fld) (b : Bool) : (s.setB f b).ckps = s.ckps := rfl
@[simp] theorem State.setB_lay (s : State) (f : Fld) (b : Bool) : (s.setB f b).lay = s.lay := rfl
@[simp] theorem State.setB_cddma (s : State) (f : Fld) (b : Bool) : (s.setB f b).cddma = s.cddma := rfl
@[simp] theorem State.setB_hcores (s : State) (f : Fld) (b : Bool) : (s.setB f b).hcores = s.hcores := rfl
@[simp] theorem State.setB_rot (s : State) (f : Fld) (b : Bool) : (s.setB f b).rot = s.rot := rfl
@[simp] theorem State.setB_qps (s : State) (f : Fld) (b : Bool) : (s.setB f b).qps = s.qps := rfl
@[simp] theorem State.setB_deadDies (s : State) (f : Fld) (b : Bool) : (s.setB f b).deadDies = s.deadDies := rfl
@[simp] theorem State.setB_pcieRole (s : State) (f : Fld) (b : Bool) : (s.setB f b).pcieRole = s.pcieRole := rfl
@[simp] theorem State.setB_ptpSlew (s : State) (f : Fld) (b : Bool) : (s.setB f b).ptpSlew = s.ptpSlew := rfl
@[simp] theorem State.setB_timeFrac (s : State) (f : Fld) (b : Bool) : (s.setB f b).timeFrac = s.timeFrac := rfl
@[simp] theorem State.setB_stage (s : State) (f : Fld) (b : Bool) : (s.setB f b).stage = s.stage := rfl
@[simp] theorem State.setB_power (s : State) (f : Fld) (b : Bool) : (s.setB f b).power = s.power := rfl
@[simp] theorem State.setB_pins (s : State) (f : Fld) (b : Bool) : (s.setB f b).pins = s.pins := rfl
@[simp] theorem State.setB_jtag (s : State) (f : Fld) (b : Bool) : (s.setB f b).jtag = s.jtag := rfl
@[simp] theorem State.setB_fresh (s : State) (f : Fld) (b : Bool) : (s.setB f b).fresh = s.fresh := rfl
@[simp] theorem State.setB_reply (s : State) (f : Fld) (b : Bool) : (s.setB f b).reply = s.reply := rfl
@[simp] theorem State.setB_yardHold (s : State) (f : Fld) (b : Bool) : (s.setB f b).yardHold = s.yardHold := rfl
@[simp] theorem State.setB_pending (s : State) (f : Fld) (b : Bool) : (s.setB f b).pending = s.pending := rfl

@[simp] theorem State.inc_mem (s : State) (f : Fld) (n : Nat) : (s.inc f n).mem = s.mem := rfl
@[simp] theorem State.inc_cores (s : State) (f : Fld) (n : Nat) : (s.inc f n).cores = s.cores := rfl
@[simp] theorem State.inc_clusters (s : State) (f : Fld) (n : Nat) : (s.inc f n).clusters = s.clusters := rfl
@[simp] theorem State.inc_ctxs (s : State) (f : Fld) (n : Nat) : (s.inc f n).ctxs = s.ctxs := rfl
@[simp] theorem State.inc_dmaLast (s : State) (f : Fld) (n : Nat) : (s.inc f n).dmaLast = s.dmaLast := rfl
@[simp] theorem State.inc_pens (s : State) (f : Fld) (n : Nat) : (s.inc f n).pens = s.pens := rfl
@[simp] theorem State.inc_yards (s : State) (f : Fld) (n : Nat) : (s.inc f n).yards = s.yards := rfl
@[simp] theorem State.inc_ports (s : State) (f : Fld) (n : Nat) : (s.inc f n).ports = s.ports := rfl
@[simp] theorem State.inc_routes (s : State) (f : Fld) (n : Nat) : (s.inc f n).routes = s.routes := rfl
@[simp] theorem State.inc_shadowRoutes (s : State) (f : Fld) (n : Nat) : (s.inc f n).shadowRoutes = s.shadowRoutes := rfl
@[simp] theorem State.inc_groups (s : State) (f : Fld) (n : Nat) : (s.inc f n).groups = s.groups := rfl
@[simp] theorem State.inc_gwins (s : State) (f : Fld) (n : Nat) : (s.inc f n).gwins = s.gwins := rfl
@[simp] theorem State.inc_ckps (s : State) (f : Fld) (n : Nat) : (s.inc f n).ckps = s.ckps := rfl
@[simp] theorem State.inc_lay (s : State) (f : Fld) (n : Nat) : (s.inc f n).lay = s.lay := rfl
@[simp] theorem State.inc_cddma (s : State) (f : Fld) (n : Nat) : (s.inc f n).cddma = s.cddma := rfl
@[simp] theorem State.inc_hcores (s : State) (f : Fld) (n : Nat) : (s.inc f n).hcores = s.hcores := rfl
@[simp] theorem State.inc_rot (s : State) (f : Fld) (n : Nat) : (s.inc f n).rot = s.rot := rfl
@[simp] theorem State.inc_qps (s : State) (f : Fld) (n : Nat) : (s.inc f n).qps = s.qps := rfl
@[simp] theorem State.inc_deadDies (s : State) (f : Fld) (n : Nat) : (s.inc f n).deadDies = s.deadDies := rfl
@[simp] theorem State.inc_pcieRole (s : State) (f : Fld) (n : Nat) : (s.inc f n).pcieRole = s.pcieRole := rfl
@[simp] theorem State.inc_ptpSlew (s : State) (f : Fld) (n : Nat) : (s.inc f n).ptpSlew = s.ptpSlew := rfl
@[simp] theorem State.inc_timeFrac (s : State) (f : Fld) (n : Nat) : (s.inc f n).timeFrac = s.timeFrac := rfl
@[simp] theorem State.inc_stage (s : State) (f : Fld) (n : Nat) : (s.inc f n).stage = s.stage := rfl
@[simp] theorem State.inc_power (s : State) (f : Fld) (n : Nat) : (s.inc f n).power = s.power := rfl
@[simp] theorem State.inc_pins (s : State) (f : Fld) (n : Nat) : (s.inc f n).pins = s.pins := rfl
@[simp] theorem State.inc_jtag (s : State) (f : Fld) (n : Nat) : (s.inc f n).jtag = s.jtag := rfl
@[simp] theorem State.inc_fresh (s : State) (f : Fld) (n : Nat) : (s.inc f n).fresh = s.fresh := rfl
@[simp] theorem State.inc_reply (s : State) (f : Fld) (n : Nat) : (s.inc f n).reply = s.reply := rfl
@[simp] theorem State.inc_yardHold (s : State) (f : Fld) (n : Nat) : (s.inc f n).yardHold = s.yardHold := rfl
@[simp] theorem State.inc_pending (s : State) (f : Fld) (n : Nat) : (s.inc f n).pending = s.pending := rfl

@[simp] theorem State.setCore_regs (s : State) (d c k : Nat) (v : Core) : (s.setCore d c k v).regs = s.regs := rfl
@[simp] theorem State.setCore_mem (s : State) (d c k : Nat) (v : Core) : (s.setCore d c k v).mem = s.mem := rfl
@[simp] theorem State.setCore_clusters (s : State) (d c k : Nat) (v : Core) : (s.setCore d c k v).clusters = s.clusters := rfl
@[simp] theorem State.setCore_ctxs (s : State) (d c k : Nat) (v : Core) : (s.setCore d c k v).ctxs = s.ctxs := rfl
@[simp] theorem State.setCore_dmaLast (s : State) (d c k : Nat) (v : Core) : (s.setCore d c k v).dmaLast = s.dmaLast := rfl
@[simp] theorem State.setCore_pens (s : State) (d c k : Nat) (v : Core) : (s.setCore d c k v).pens = s.pens := rfl
@[simp] theorem State.setCore_yards (s : State) (d c k : Nat) (v : Core) : (s.setCore d c k v).yards = s.yards := rfl
@[simp] theorem State.setCore_ports (s : State) (d c k : Nat) (v : Core) : (s.setCore d c k v).ports = s.ports := rfl
@[simp] theorem State.setCore_routes (s : State) (d c k : Nat) (v : Core) : (s.setCore d c k v).routes = s.routes := rfl
@[simp] theorem State.setCore_shadowRoutes (s : State) (d c k : Nat) (v : Core) : (s.setCore d c k v).shadowRoutes = s.shadowRoutes := rfl
@[simp] theorem State.setCore_groups (s : State) (d c k : Nat) (v : Core) : (s.setCore d c k v).groups = s.groups := rfl
@[simp] theorem State.setCore_gwins (s : State) (d c k : Nat) (v : Core) : (s.setCore d c k v).gwins = s.gwins := rfl
@[simp] theorem State.setCore_ckps (s : State) (d c k : Nat) (v : Core) : (s.setCore d c k v).ckps = s.ckps := rfl
@[simp] theorem State.setCore_lay (s : State) (d c k : Nat) (v : Core) : (s.setCore d c k v).lay = s.lay := rfl
@[simp] theorem State.setCore_cddma (s : State) (d c k : Nat) (v : Core) : (s.setCore d c k v).cddma = s.cddma := rfl
@[simp] theorem State.setCore_hcores (s : State) (d c k : Nat) (v : Core) : (s.setCore d c k v).hcores = s.hcores := rfl
@[simp] theorem State.setCore_rot (s : State) (d c k : Nat) (v : Core) : (s.setCore d c k v).rot = s.rot := rfl
@[simp] theorem State.setCore_qps (s : State) (d c k : Nat) (v : Core) : (s.setCore d c k v).qps = s.qps := rfl
@[simp] theorem State.setCore_deadDies (s : State) (d c k : Nat) (v : Core) : (s.setCore d c k v).deadDies = s.deadDies := rfl
@[simp] theorem State.setCore_pcieRole (s : State) (d c k : Nat) (v : Core) : (s.setCore d c k v).pcieRole = s.pcieRole := rfl
@[simp] theorem State.setCore_ptpSlew (s : State) (d c k : Nat) (v : Core) : (s.setCore d c k v).ptpSlew = s.ptpSlew := rfl
@[simp] theorem State.setCore_timeFrac (s : State) (d c k : Nat) (v : Core) : (s.setCore d c k v).timeFrac = s.timeFrac := rfl
@[simp] theorem State.setCore_stage (s : State) (d c k : Nat) (v : Core) : (s.setCore d c k v).stage = s.stage := rfl
@[simp] theorem State.setCore_power (s : State) (d c k : Nat) (v : Core) : (s.setCore d c k v).power = s.power := rfl
@[simp] theorem State.setCore_pins (s : State) (d c k : Nat) (v : Core) : (s.setCore d c k v).pins = s.pins := rfl
@[simp] theorem State.setCore_jtag (s : State) (d c k : Nat) (v : Core) : (s.setCore d c k v).jtag = s.jtag := rfl
@[simp] theorem State.setCore_fresh (s : State) (d c k : Nat) (v : Core) : (s.setCore d c k v).fresh = s.fresh := rfl
@[simp] theorem State.setCore_reply (s : State) (d c k : Nat) (v : Core) : (s.setCore d c k v).reply = s.reply := rfl
@[simp] theorem State.setCore_yardHold (s : State) (d c k : Nat) (v : Core) : (s.setCore d c k v).yardHold = s.yardHold := rfl
@[simp] theorem State.setCore_pending (s : State) (d c k : Nat) (v : Core) : (s.setCore d c k v).pending = s.pending := rfl

@[simp] theorem State.setCluster_regs (s : State) (d c : Nat) (v : Cluster) : (s.setCluster d c v).regs = s.regs := rfl
@[simp] theorem State.setCluster_mem (s : State) (d c : Nat) (v : Cluster) : (s.setCluster d c v).mem = s.mem := rfl
@[simp] theorem State.setCluster_cores (s : State) (d c : Nat) (v : Cluster) : (s.setCluster d c v).cores = s.cores := rfl
@[simp] theorem State.setCluster_ctxs (s : State) (d c : Nat) (v : Cluster) : (s.setCluster d c v).ctxs = s.ctxs := rfl
@[simp] theorem State.setCluster_dmaLast (s : State) (d c : Nat) (v : Cluster) : (s.setCluster d c v).dmaLast = s.dmaLast := rfl
@[simp] theorem State.setCluster_pens (s : State) (d c : Nat) (v : Cluster) : (s.setCluster d c v).pens = s.pens := rfl
@[simp] theorem State.setCluster_yards (s : State) (d c : Nat) (v : Cluster) : (s.setCluster d c v).yards = s.yards := rfl
@[simp] theorem State.setCluster_ports (s : State) (d c : Nat) (v : Cluster) : (s.setCluster d c v).ports = s.ports := rfl
@[simp] theorem State.setCluster_routes (s : State) (d c : Nat) (v : Cluster) : (s.setCluster d c v).routes = s.routes := rfl
@[simp] theorem State.setCluster_shadowRoutes (s : State) (d c : Nat) (v : Cluster) : (s.setCluster d c v).shadowRoutes = s.shadowRoutes := rfl
@[simp] theorem State.setCluster_groups (s : State) (d c : Nat) (v : Cluster) : (s.setCluster d c v).groups = s.groups := rfl
@[simp] theorem State.setCluster_gwins (s : State) (d c : Nat) (v : Cluster) : (s.setCluster d c v).gwins = s.gwins := rfl
@[simp] theorem State.setCluster_ckps (s : State) (d c : Nat) (v : Cluster) : (s.setCluster d c v).ckps = s.ckps := rfl
@[simp] theorem State.setCluster_lay (s : State) (d c : Nat) (v : Cluster) : (s.setCluster d c v).lay = s.lay := rfl
@[simp] theorem State.setCluster_cddma (s : State) (d c : Nat) (v : Cluster) : (s.setCluster d c v).cddma = s.cddma := rfl
@[simp] theorem State.setCluster_hcores (s : State) (d c : Nat) (v : Cluster) : (s.setCluster d c v).hcores = s.hcores := rfl
@[simp] theorem State.setCluster_rot (s : State) (d c : Nat) (v : Cluster) : (s.setCluster d c v).rot = s.rot := rfl
@[simp] theorem State.setCluster_qps (s : State) (d c : Nat) (v : Cluster) : (s.setCluster d c v).qps = s.qps := rfl
@[simp] theorem State.setCluster_deadDies (s : State) (d c : Nat) (v : Cluster) : (s.setCluster d c v).deadDies = s.deadDies := rfl
@[simp] theorem State.setCluster_pcieRole (s : State) (d c : Nat) (v : Cluster) : (s.setCluster d c v).pcieRole = s.pcieRole := rfl
@[simp] theorem State.setCluster_ptpSlew (s : State) (d c : Nat) (v : Cluster) : (s.setCluster d c v).ptpSlew = s.ptpSlew := rfl
@[simp] theorem State.setCluster_timeFrac (s : State) (d c : Nat) (v : Cluster) : (s.setCluster d c v).timeFrac = s.timeFrac := rfl
@[simp] theorem State.setCluster_stage (s : State) (d c : Nat) (v : Cluster) : (s.setCluster d c v).stage = s.stage := rfl
@[simp] theorem State.setCluster_power (s : State) (d c : Nat) (v : Cluster) : (s.setCluster d c v).power = s.power := rfl
@[simp] theorem State.setCluster_pins (s : State) (d c : Nat) (v : Cluster) : (s.setCluster d c v).pins = s.pins := rfl
@[simp] theorem State.setCluster_jtag (s : State) (d c : Nat) (v : Cluster) : (s.setCluster d c v).jtag = s.jtag := rfl
@[simp] theorem State.setCluster_fresh (s : State) (d c : Nat) (v : Cluster) : (s.setCluster d c v).fresh = s.fresh := rfl
@[simp] theorem State.setCluster_reply (s : State) (d c : Nat) (v : Cluster) : (s.setCluster d c v).reply = s.reply := rfl
@[simp] theorem State.setCluster_yardHold (s : State) (d c : Nat) (v : Cluster) : (s.setCluster d c v).yardHold = s.yardHold := rfl
@[simp] theorem State.setCluster_pending (s : State) (d c : Nat) (v : Cluster) : (s.setCluster d c v).pending = s.pending := rfl

@[simp] theorem State.setCtx_regs (s : State) (d h : Nat) (v : Ctx) : (s.setCtx d h v).regs = s.regs := rfl
@[simp] theorem State.setCtx_mem (s : State) (d h : Nat) (v : Ctx) : (s.setCtx d h v).mem = s.mem := rfl
@[simp] theorem State.setCtx_cores (s : State) (d h : Nat) (v : Ctx) : (s.setCtx d h v).cores = s.cores := rfl
@[simp] theorem State.setCtx_clusters (s : State) (d h : Nat) (v : Ctx) : (s.setCtx d h v).clusters = s.clusters := rfl
@[simp] theorem State.setCtx_dmaLast (s : State) (d h : Nat) (v : Ctx) : (s.setCtx d h v).dmaLast = s.dmaLast := rfl
@[simp] theorem State.setCtx_pens (s : State) (d h : Nat) (v : Ctx) : (s.setCtx d h v).pens = s.pens := rfl
@[simp] theorem State.setCtx_yards (s : State) (d h : Nat) (v : Ctx) : (s.setCtx d h v).yards = s.yards := rfl
@[simp] theorem State.setCtx_ports (s : State) (d h : Nat) (v : Ctx) : (s.setCtx d h v).ports = s.ports := rfl
@[simp] theorem State.setCtx_routes (s : State) (d h : Nat) (v : Ctx) : (s.setCtx d h v).routes = s.routes := rfl
@[simp] theorem State.setCtx_shadowRoutes (s : State) (d h : Nat) (v : Ctx) : (s.setCtx d h v).shadowRoutes = s.shadowRoutes := rfl
@[simp] theorem State.setCtx_groups (s : State) (d h : Nat) (v : Ctx) : (s.setCtx d h v).groups = s.groups := rfl
@[simp] theorem State.setCtx_gwins (s : State) (d h : Nat) (v : Ctx) : (s.setCtx d h v).gwins = s.gwins := rfl
@[simp] theorem State.setCtx_ckps (s : State) (d h : Nat) (v : Ctx) : (s.setCtx d h v).ckps = s.ckps := rfl
@[simp] theorem State.setCtx_lay (s : State) (d h : Nat) (v : Ctx) : (s.setCtx d h v).lay = s.lay := rfl
@[simp] theorem State.setCtx_cddma (s : State) (d h : Nat) (v : Ctx) : (s.setCtx d h v).cddma = s.cddma := rfl
@[simp] theorem State.setCtx_hcores (s : State) (d h : Nat) (v : Ctx) : (s.setCtx d h v).hcores = s.hcores := rfl
@[simp] theorem State.setCtx_rot (s : State) (d h : Nat) (v : Ctx) : (s.setCtx d h v).rot = s.rot := rfl
@[simp] theorem State.setCtx_qps (s : State) (d h : Nat) (v : Ctx) : (s.setCtx d h v).qps = s.qps := rfl
@[simp] theorem State.setCtx_deadDies (s : State) (d h : Nat) (v : Ctx) : (s.setCtx d h v).deadDies = s.deadDies := rfl
@[simp] theorem State.setCtx_pcieRole (s : State) (d h : Nat) (v : Ctx) : (s.setCtx d h v).pcieRole = s.pcieRole := rfl
@[simp] theorem State.setCtx_ptpSlew (s : State) (d h : Nat) (v : Ctx) : (s.setCtx d h v).ptpSlew = s.ptpSlew := rfl
@[simp] theorem State.setCtx_timeFrac (s : State) (d h : Nat) (v : Ctx) : (s.setCtx d h v).timeFrac = s.timeFrac := rfl
@[simp] theorem State.setCtx_stage (s : State) (d h : Nat) (v : Ctx) : (s.setCtx d h v).stage = s.stage := rfl
@[simp] theorem State.setCtx_power (s : State) (d h : Nat) (v : Ctx) : (s.setCtx d h v).power = s.power := rfl
@[simp] theorem State.setCtx_pins (s : State) (d h : Nat) (v : Ctx) : (s.setCtx d h v).pins = s.pins := rfl
@[simp] theorem State.setCtx_jtag (s : State) (d h : Nat) (v : Ctx) : (s.setCtx d h v).jtag = s.jtag := rfl
@[simp] theorem State.setCtx_fresh (s : State) (d h : Nat) (v : Ctx) : (s.setCtx d h v).fresh = s.fresh := rfl
@[simp] theorem State.setCtx_reply (s : State) (d h : Nat) (v : Ctx) : (s.setCtx d h v).reply = s.reply := rfl
@[simp] theorem State.setCtx_yardHold (s : State) (d h : Nat) (v : Ctx) : (s.setCtx d h v).yardHold = s.yardHold := rfl
@[simp] theorem State.setCtx_pending (s : State) (d h : Nat) (v : Ctx) : (s.setCtx d h v).pending = s.pending := rfl

@[simp] theorem State.setPen_regs (s : State) (p : Nat) (v : Pen) : (s.setPen p v).regs = s.regs := rfl
@[simp] theorem State.setPen_mem (s : State) (p : Nat) (v : Pen) : (s.setPen p v).mem = s.mem := rfl
@[simp] theorem State.setPen_cores (s : State) (p : Nat) (v : Pen) : (s.setPen p v).cores = s.cores := rfl
@[simp] theorem State.setPen_clusters (s : State) (p : Nat) (v : Pen) : (s.setPen p v).clusters = s.clusters := rfl
@[simp] theorem State.setPen_ctxs (s : State) (p : Nat) (v : Pen) : (s.setPen p v).ctxs = s.ctxs := rfl
@[simp] theorem State.setPen_dmaLast (s : State) (p : Nat) (v : Pen) : (s.setPen p v).dmaLast = s.dmaLast := rfl
@[simp] theorem State.setPen_yards (s : State) (p : Nat) (v : Pen) : (s.setPen p v).yards = s.yards := rfl
@[simp] theorem State.setPen_ports (s : State) (p : Nat) (v : Pen) : (s.setPen p v).ports = s.ports := rfl
@[simp] theorem State.setPen_routes (s : State) (p : Nat) (v : Pen) : (s.setPen p v).routes = s.routes := rfl
@[simp] theorem State.setPen_shadowRoutes (s : State) (p : Nat) (v : Pen) : (s.setPen p v).shadowRoutes = s.shadowRoutes := rfl
@[simp] theorem State.setPen_groups (s : State) (p : Nat) (v : Pen) : (s.setPen p v).groups = s.groups := rfl
@[simp] theorem State.setPen_gwins (s : State) (p : Nat) (v : Pen) : (s.setPen p v).gwins = s.gwins := rfl
@[simp] theorem State.setPen_ckps (s : State) (p : Nat) (v : Pen) : (s.setPen p v).ckps = s.ckps := rfl
@[simp] theorem State.setPen_lay (s : State) (p : Nat) (v : Pen) : (s.setPen p v).lay = s.lay := rfl
@[simp] theorem State.setPen_cddma (s : State) (p : Nat) (v : Pen) : (s.setPen p v).cddma = s.cddma := rfl
@[simp] theorem State.setPen_hcores (s : State) (p : Nat) (v : Pen) : (s.setPen p v).hcores = s.hcores := rfl
@[simp] theorem State.setPen_rot (s : State) (p : Nat) (v : Pen) : (s.setPen p v).rot = s.rot := rfl
@[simp] theorem State.setPen_qps (s : State) (p : Nat) (v : Pen) : (s.setPen p v).qps = s.qps := rfl
@[simp] theorem State.setPen_deadDies (s : State) (p : Nat) (v : Pen) : (s.setPen p v).deadDies = s.deadDies := rfl
@[simp] theorem State.setPen_pcieRole (s : State) (p : Nat) (v : Pen) : (s.setPen p v).pcieRole = s.pcieRole := rfl
@[simp] theorem State.setPen_ptpSlew (s : State) (p : Nat) (v : Pen) : (s.setPen p v).ptpSlew = s.ptpSlew := rfl
@[simp] theorem State.setPen_timeFrac (s : State) (p : Nat) (v : Pen) : (s.setPen p v).timeFrac = s.timeFrac := rfl
@[simp] theorem State.setPen_stage (s : State) (p : Nat) (v : Pen) : (s.setPen p v).stage = s.stage := rfl
@[simp] theorem State.setPen_power (s : State) (p : Nat) (v : Pen) : (s.setPen p v).power = s.power := rfl
@[simp] theorem State.setPen_pins (s : State) (p : Nat) (v : Pen) : (s.setPen p v).pins = s.pins := rfl
@[simp] theorem State.setPen_jtag (s : State) (p : Nat) (v : Pen) : (s.setPen p v).jtag = s.jtag := rfl
@[simp] theorem State.setPen_fresh (s : State) (p : Nat) (v : Pen) : (s.setPen p v).fresh = s.fresh := rfl
@[simp] theorem State.setPen_reply (s : State) (p : Nat) (v : Pen) : (s.setPen p v).reply = s.reply := rfl
@[simp] theorem State.setPen_yardHold (s : State) (p : Nat) (v : Pen) : (s.setPen p v).yardHold = s.yardHold := rfl
@[simp] theorem State.setPen_pending (s : State) (p : Nat) (v : Pen) : (s.setPen p v).pending = s.pending := rfl

@[simp] theorem State.setYard_regs (s : State) (y : Nat) (v : Yard) : (s.setYard y v).regs = s.regs := rfl
@[simp] theorem State.setYard_mem (s : State) (y : Nat) (v : Yard) : (s.setYard y v).mem = s.mem := rfl
@[simp] theorem State.setYard_cores (s : State) (y : Nat) (v : Yard) : (s.setYard y v).cores = s.cores := rfl
@[simp] theorem State.setYard_clusters (s : State) (y : Nat) (v : Yard) : (s.setYard y v).clusters = s.clusters := rfl
@[simp] theorem State.setYard_ctxs (s : State) (y : Nat) (v : Yard) : (s.setYard y v).ctxs = s.ctxs := rfl
@[simp] theorem State.setYard_dmaLast (s : State) (y : Nat) (v : Yard) : (s.setYard y v).dmaLast = s.dmaLast := rfl
@[simp] theorem State.setYard_pens (s : State) (y : Nat) (v : Yard) : (s.setYard y v).pens = s.pens := rfl
@[simp] theorem State.setYard_ports (s : State) (y : Nat) (v : Yard) : (s.setYard y v).ports = s.ports := rfl
@[simp] theorem State.setYard_routes (s : State) (y : Nat) (v : Yard) : (s.setYard y v).routes = s.routes := rfl
@[simp] theorem State.setYard_shadowRoutes (s : State) (y : Nat) (v : Yard) : (s.setYard y v).shadowRoutes = s.shadowRoutes := rfl
@[simp] theorem State.setYard_groups (s : State) (y : Nat) (v : Yard) : (s.setYard y v).groups = s.groups := rfl
@[simp] theorem State.setYard_gwins (s : State) (y : Nat) (v : Yard) : (s.setYard y v).gwins = s.gwins := rfl
@[simp] theorem State.setYard_ckps (s : State) (y : Nat) (v : Yard) : (s.setYard y v).ckps = s.ckps := rfl
@[simp] theorem State.setYard_lay (s : State) (y : Nat) (v : Yard) : (s.setYard y v).lay = s.lay := rfl
@[simp] theorem State.setYard_cddma (s : State) (y : Nat) (v : Yard) : (s.setYard y v).cddma = s.cddma := rfl
@[simp] theorem State.setYard_hcores (s : State) (y : Nat) (v : Yard) : (s.setYard y v).hcores = s.hcores := rfl
@[simp] theorem State.setYard_rot (s : State) (y : Nat) (v : Yard) : (s.setYard y v).rot = s.rot := rfl
@[simp] theorem State.setYard_qps (s : State) (y : Nat) (v : Yard) : (s.setYard y v).qps = s.qps := rfl
@[simp] theorem State.setYard_deadDies (s : State) (y : Nat) (v : Yard) : (s.setYard y v).deadDies = s.deadDies := rfl
@[simp] theorem State.setYard_pcieRole (s : State) (y : Nat) (v : Yard) : (s.setYard y v).pcieRole = s.pcieRole := rfl
@[simp] theorem State.setYard_ptpSlew (s : State) (y : Nat) (v : Yard) : (s.setYard y v).ptpSlew = s.ptpSlew := rfl
@[simp] theorem State.setYard_timeFrac (s : State) (y : Nat) (v : Yard) : (s.setYard y v).timeFrac = s.timeFrac := rfl
@[simp] theorem State.setYard_stage (s : State) (y : Nat) (v : Yard) : (s.setYard y v).stage = s.stage := rfl
@[simp] theorem State.setYard_power (s : State) (y : Nat) (v : Yard) : (s.setYard y v).power = s.power := rfl
@[simp] theorem State.setYard_pins (s : State) (y : Nat) (v : Yard) : (s.setYard y v).pins = s.pins := rfl
@[simp] theorem State.setYard_jtag (s : State) (y : Nat) (v : Yard) : (s.setYard y v).jtag = s.jtag := rfl
@[simp] theorem State.setYard_fresh (s : State) (y : Nat) (v : Yard) : (s.setYard y v).fresh = s.fresh := rfl
@[simp] theorem State.setYard_reply (s : State) (y : Nat) (v : Yard) : (s.setYard y v).reply = s.reply := rfl
@[simp] theorem State.setYard_yardHold (s : State) (y : Nat) (v : Yard) : (s.setYard y v).yardHold = s.yardHold := rfl
@[simp] theorem State.setYard_pending (s : State) (y : Nat) (v : Yard) : (s.setYard y v).pending = s.pending := rfl

@[simp] theorem State.setPort_regs (s : State) (n : Nat) (v : Port) : (s.setPort n v).regs = s.regs := rfl
@[simp] theorem State.setPort_mem (s : State) (n : Nat) (v : Port) : (s.setPort n v).mem = s.mem := rfl
@[simp] theorem State.setPort_cores (s : State) (n : Nat) (v : Port) : (s.setPort n v).cores = s.cores := rfl
@[simp] theorem State.setPort_clusters (s : State) (n : Nat) (v : Port) : (s.setPort n v).clusters = s.clusters := rfl
@[simp] theorem State.setPort_ctxs (s : State) (n : Nat) (v : Port) : (s.setPort n v).ctxs = s.ctxs := rfl
@[simp] theorem State.setPort_dmaLast (s : State) (n : Nat) (v : Port) : (s.setPort n v).dmaLast = s.dmaLast := rfl
@[simp] theorem State.setPort_pens (s : State) (n : Nat) (v : Port) : (s.setPort n v).pens = s.pens := rfl
@[simp] theorem State.setPort_yards (s : State) (n : Nat) (v : Port) : (s.setPort n v).yards = s.yards := rfl
@[simp] theorem State.setPort_routes (s : State) (n : Nat) (v : Port) : (s.setPort n v).routes = s.routes := rfl
@[simp] theorem State.setPort_shadowRoutes (s : State) (n : Nat) (v : Port) : (s.setPort n v).shadowRoutes = s.shadowRoutes := rfl
@[simp] theorem State.setPort_groups (s : State) (n : Nat) (v : Port) : (s.setPort n v).groups = s.groups := rfl
@[simp] theorem State.setPort_gwins (s : State) (n : Nat) (v : Port) : (s.setPort n v).gwins = s.gwins := rfl
@[simp] theorem State.setPort_ckps (s : State) (n : Nat) (v : Port) : (s.setPort n v).ckps = s.ckps := rfl
@[simp] theorem State.setPort_lay (s : State) (n : Nat) (v : Port) : (s.setPort n v).lay = s.lay := rfl
@[simp] theorem State.setPort_cddma (s : State) (n : Nat) (v : Port) : (s.setPort n v).cddma = s.cddma := rfl
@[simp] theorem State.setPort_hcores (s : State) (n : Nat) (v : Port) : (s.setPort n v).hcores = s.hcores := rfl
@[simp] theorem State.setPort_rot (s : State) (n : Nat) (v : Port) : (s.setPort n v).rot = s.rot := rfl
@[simp] theorem State.setPort_qps (s : State) (n : Nat) (v : Port) : (s.setPort n v).qps = s.qps := rfl
@[simp] theorem State.setPort_deadDies (s : State) (n : Nat) (v : Port) : (s.setPort n v).deadDies = s.deadDies := rfl
@[simp] theorem State.setPort_pcieRole (s : State) (n : Nat) (v : Port) : (s.setPort n v).pcieRole = s.pcieRole := rfl
@[simp] theorem State.setPort_ptpSlew (s : State) (n : Nat) (v : Port) : (s.setPort n v).ptpSlew = s.ptpSlew := rfl
@[simp] theorem State.setPort_timeFrac (s : State) (n : Nat) (v : Port) : (s.setPort n v).timeFrac = s.timeFrac := rfl
@[simp] theorem State.setPort_stage (s : State) (n : Nat) (v : Port) : (s.setPort n v).stage = s.stage := rfl
@[simp] theorem State.setPort_power (s : State) (n : Nat) (v : Port) : (s.setPort n v).power = s.power := rfl
@[simp] theorem State.setPort_pins (s : State) (n : Nat) (v : Port) : (s.setPort n v).pins = s.pins := rfl
@[simp] theorem State.setPort_jtag (s : State) (n : Nat) (v : Port) : (s.setPort n v).jtag = s.jtag := rfl
@[simp] theorem State.setPort_fresh (s : State) (n : Nat) (v : Port) : (s.setPort n v).fresh = s.fresh := rfl
@[simp] theorem State.setPort_reply (s : State) (n : Nat) (v : Port) : (s.setPort n v).reply = s.reply := rfl
@[simp] theorem State.setPort_yardHold (s : State) (n : Nat) (v : Port) : (s.setPort n v).yardHold = s.yardHold := rfl
@[simp] theorem State.setPort_pending (s : State) (n : Nat) (v : Port) : (s.setPort n v).pending = s.pending := rfl

@[simp] theorem State.setGroup_regs (s : State) (g : Nat) (v : Group) : (s.setGroup g v).regs = s.regs := rfl
@[simp] theorem State.setGroup_mem (s : State) (g : Nat) (v : Group) : (s.setGroup g v).mem = s.mem := rfl
@[simp] theorem State.setGroup_cores (s : State) (g : Nat) (v : Group) : (s.setGroup g v).cores = s.cores := rfl
@[simp] theorem State.setGroup_clusters (s : State) (g : Nat) (v : Group) : (s.setGroup g v).clusters = s.clusters := rfl
@[simp] theorem State.setGroup_ctxs (s : State) (g : Nat) (v : Group) : (s.setGroup g v).ctxs = s.ctxs := rfl
@[simp] theorem State.setGroup_dmaLast (s : State) (g : Nat) (v : Group) : (s.setGroup g v).dmaLast = s.dmaLast := rfl
@[simp] theorem State.setGroup_pens (s : State) (g : Nat) (v : Group) : (s.setGroup g v).pens = s.pens := rfl
@[simp] theorem State.setGroup_yards (s : State) (g : Nat) (v : Group) : (s.setGroup g v).yards = s.yards := rfl
@[simp] theorem State.setGroup_ports (s : State) (g : Nat) (v : Group) : (s.setGroup g v).ports = s.ports := rfl
@[simp] theorem State.setGroup_routes (s : State) (g : Nat) (v : Group) : (s.setGroup g v).routes = s.routes := rfl
@[simp] theorem State.setGroup_shadowRoutes (s : State) (g : Nat) (v : Group) : (s.setGroup g v).shadowRoutes = s.shadowRoutes := rfl
@[simp] theorem State.setGroup_gwins (s : State) (g : Nat) (v : Group) : (s.setGroup g v).gwins = s.gwins := rfl
@[simp] theorem State.setGroup_ckps (s : State) (g : Nat) (v : Group) : (s.setGroup g v).ckps = s.ckps := rfl
@[simp] theorem State.setGroup_lay (s : State) (g : Nat) (v : Group) : (s.setGroup g v).lay = s.lay := rfl
@[simp] theorem State.setGroup_cddma (s : State) (g : Nat) (v : Group) : (s.setGroup g v).cddma = s.cddma := rfl
@[simp] theorem State.setGroup_hcores (s : State) (g : Nat) (v : Group) : (s.setGroup g v).hcores = s.hcores := rfl
@[simp] theorem State.setGroup_rot (s : State) (g : Nat) (v : Group) : (s.setGroup g v).rot = s.rot := rfl
@[simp] theorem State.setGroup_qps (s : State) (g : Nat) (v : Group) : (s.setGroup g v).qps = s.qps := rfl
@[simp] theorem State.setGroup_deadDies (s : State) (g : Nat) (v : Group) : (s.setGroup g v).deadDies = s.deadDies := rfl
@[simp] theorem State.setGroup_pcieRole (s : State) (g : Nat) (v : Group) : (s.setGroup g v).pcieRole = s.pcieRole := rfl
@[simp] theorem State.setGroup_ptpSlew (s : State) (g : Nat) (v : Group) : (s.setGroup g v).ptpSlew = s.ptpSlew := rfl
@[simp] theorem State.setGroup_timeFrac (s : State) (g : Nat) (v : Group) : (s.setGroup g v).timeFrac = s.timeFrac := rfl
@[simp] theorem State.setGroup_stage (s : State) (g : Nat) (v : Group) : (s.setGroup g v).stage = s.stage := rfl
@[simp] theorem State.setGroup_power (s : State) (g : Nat) (v : Group) : (s.setGroup g v).power = s.power := rfl
@[simp] theorem State.setGroup_pins (s : State) (g : Nat) (v : Group) : (s.setGroup g v).pins = s.pins := rfl
@[simp] theorem State.setGroup_jtag (s : State) (g : Nat) (v : Group) : (s.setGroup g v).jtag = s.jtag := rfl
@[simp] theorem State.setGroup_fresh (s : State) (g : Nat) (v : Group) : (s.setGroup g v).fresh = s.fresh := rfl
@[simp] theorem State.setGroup_reply (s : State) (g : Nat) (v : Group) : (s.setGroup g v).reply = s.reply := rfl
@[simp] theorem State.setGroup_yardHold (s : State) (g : Nat) (v : Group) : (s.setGroup g v).yardHold = s.yardHold := rfl
@[simp] theorem State.setGroup_pending (s : State) (g : Nat) (v : Group) : (s.setGroup g v).pending = s.pending := rfl

@[simp] theorem State.setGwin_regs (s : State) (f : Nat) (v : GroupWindows) : (s.setGwin f v).regs = s.regs := rfl
@[simp] theorem State.setGwin_mem (s : State) (f : Nat) (v : GroupWindows) : (s.setGwin f v).mem = s.mem := rfl
@[simp] theorem State.setGwin_cores (s : State) (f : Nat) (v : GroupWindows) : (s.setGwin f v).cores = s.cores := rfl
@[simp] theorem State.setGwin_clusters (s : State) (f : Nat) (v : GroupWindows) : (s.setGwin f v).clusters = s.clusters := rfl
@[simp] theorem State.setGwin_ctxs (s : State) (f : Nat) (v : GroupWindows) : (s.setGwin f v).ctxs = s.ctxs := rfl
@[simp] theorem State.setGwin_dmaLast (s : State) (f : Nat) (v : GroupWindows) : (s.setGwin f v).dmaLast = s.dmaLast := rfl
@[simp] theorem State.setGwin_pens (s : State) (f : Nat) (v : GroupWindows) : (s.setGwin f v).pens = s.pens := rfl
@[simp] theorem State.setGwin_yards (s : State) (f : Nat) (v : GroupWindows) : (s.setGwin f v).yards = s.yards := rfl
@[simp] theorem State.setGwin_ports (s : State) (f : Nat) (v : GroupWindows) : (s.setGwin f v).ports = s.ports := rfl
@[simp] theorem State.setGwin_routes (s : State) (f : Nat) (v : GroupWindows) : (s.setGwin f v).routes = s.routes := rfl
@[simp] theorem State.setGwin_shadowRoutes (s : State) (f : Nat) (v : GroupWindows) : (s.setGwin f v).shadowRoutes = s.shadowRoutes := rfl
@[simp] theorem State.setGwin_groups (s : State) (f : Nat) (v : GroupWindows) : (s.setGwin f v).groups = s.groups := rfl
@[simp] theorem State.setGwin_ckps (s : State) (f : Nat) (v : GroupWindows) : (s.setGwin f v).ckps = s.ckps := rfl
@[simp] theorem State.setGwin_lay (s : State) (f : Nat) (v : GroupWindows) : (s.setGwin f v).lay = s.lay := rfl
@[simp] theorem State.setGwin_cddma (s : State) (f : Nat) (v : GroupWindows) : (s.setGwin f v).cddma = s.cddma := rfl
@[simp] theorem State.setGwin_hcores (s : State) (f : Nat) (v : GroupWindows) : (s.setGwin f v).hcores = s.hcores := rfl
@[simp] theorem State.setGwin_rot (s : State) (f : Nat) (v : GroupWindows) : (s.setGwin f v).rot = s.rot := rfl
@[simp] theorem State.setGwin_qps (s : State) (f : Nat) (v : GroupWindows) : (s.setGwin f v).qps = s.qps := rfl
@[simp] theorem State.setGwin_deadDies (s : State) (f : Nat) (v : GroupWindows) : (s.setGwin f v).deadDies = s.deadDies := rfl
@[simp] theorem State.setGwin_pcieRole (s : State) (f : Nat) (v : GroupWindows) : (s.setGwin f v).pcieRole = s.pcieRole := rfl
@[simp] theorem State.setGwin_ptpSlew (s : State) (f : Nat) (v : GroupWindows) : (s.setGwin f v).ptpSlew = s.ptpSlew := rfl
@[simp] theorem State.setGwin_timeFrac (s : State) (f : Nat) (v : GroupWindows) : (s.setGwin f v).timeFrac = s.timeFrac := rfl
@[simp] theorem State.setGwin_stage (s : State) (f : Nat) (v : GroupWindows) : (s.setGwin f v).stage = s.stage := rfl
@[simp] theorem State.setGwin_power (s : State) (f : Nat) (v : GroupWindows) : (s.setGwin f v).power = s.power := rfl
@[simp] theorem State.setGwin_pins (s : State) (f : Nat) (v : GroupWindows) : (s.setGwin f v).pins = s.pins := rfl
@[simp] theorem State.setGwin_jtag (s : State) (f : Nat) (v : GroupWindows) : (s.setGwin f v).jtag = s.jtag := rfl
@[simp] theorem State.setGwin_fresh (s : State) (f : Nat) (v : GroupWindows) : (s.setGwin f v).fresh = s.fresh := rfl
@[simp] theorem State.setGwin_reply (s : State) (f : Nat) (v : GroupWindows) : (s.setGwin f v).reply = s.reply := rfl
@[simp] theorem State.setGwin_yardHold (s : State) (f : Nat) (v : GroupWindows) : (s.setGwin f v).yardHold = s.yardHold := rfl
@[simp] theorem State.setGwin_pending (s : State) (f : Nat) (v : GroupWindows) : (s.setGwin f v).pending = s.pending := rfl

@[simp] theorem State.setCkp_regs (s : State) (p : Nat) (v : Ckp) : (s.setCkp p v).regs = s.regs := rfl
@[simp] theorem State.setCkp_mem (s : State) (p : Nat) (v : Ckp) : (s.setCkp p v).mem = s.mem := rfl
@[simp] theorem State.setCkp_cores (s : State) (p : Nat) (v : Ckp) : (s.setCkp p v).cores = s.cores := rfl
@[simp] theorem State.setCkp_clusters (s : State) (p : Nat) (v : Ckp) : (s.setCkp p v).clusters = s.clusters := rfl
@[simp] theorem State.setCkp_ctxs (s : State) (p : Nat) (v : Ckp) : (s.setCkp p v).ctxs = s.ctxs := rfl
@[simp] theorem State.setCkp_dmaLast (s : State) (p : Nat) (v : Ckp) : (s.setCkp p v).dmaLast = s.dmaLast := rfl
@[simp] theorem State.setCkp_pens (s : State) (p : Nat) (v : Ckp) : (s.setCkp p v).pens = s.pens := rfl
@[simp] theorem State.setCkp_yards (s : State) (p : Nat) (v : Ckp) : (s.setCkp p v).yards = s.yards := rfl
@[simp] theorem State.setCkp_ports (s : State) (p : Nat) (v : Ckp) : (s.setCkp p v).ports = s.ports := rfl
@[simp] theorem State.setCkp_routes (s : State) (p : Nat) (v : Ckp) : (s.setCkp p v).routes = s.routes := rfl
@[simp] theorem State.setCkp_shadowRoutes (s : State) (p : Nat) (v : Ckp) : (s.setCkp p v).shadowRoutes = s.shadowRoutes := rfl
@[simp] theorem State.setCkp_groups (s : State) (p : Nat) (v : Ckp) : (s.setCkp p v).groups = s.groups := rfl
@[simp] theorem State.setCkp_gwins (s : State) (p : Nat) (v : Ckp) : (s.setCkp p v).gwins = s.gwins := rfl
@[simp] theorem State.setCkp_lay (s : State) (p : Nat) (v : Ckp) : (s.setCkp p v).lay = s.lay := rfl
@[simp] theorem State.setCkp_cddma (s : State) (p : Nat) (v : Ckp) : (s.setCkp p v).cddma = s.cddma := rfl
@[simp] theorem State.setCkp_hcores (s : State) (p : Nat) (v : Ckp) : (s.setCkp p v).hcores = s.hcores := rfl
@[simp] theorem State.setCkp_rot (s : State) (p : Nat) (v : Ckp) : (s.setCkp p v).rot = s.rot := rfl
@[simp] theorem State.setCkp_qps (s : State) (p : Nat) (v : Ckp) : (s.setCkp p v).qps = s.qps := rfl
@[simp] theorem State.setCkp_deadDies (s : State) (p : Nat) (v : Ckp) : (s.setCkp p v).deadDies = s.deadDies := rfl
@[simp] theorem State.setCkp_pcieRole (s : State) (p : Nat) (v : Ckp) : (s.setCkp p v).pcieRole = s.pcieRole := rfl
@[simp] theorem State.setCkp_ptpSlew (s : State) (p : Nat) (v : Ckp) : (s.setCkp p v).ptpSlew = s.ptpSlew := rfl
@[simp] theorem State.setCkp_timeFrac (s : State) (p : Nat) (v : Ckp) : (s.setCkp p v).timeFrac = s.timeFrac := rfl
@[simp] theorem State.setCkp_stage (s : State) (p : Nat) (v : Ckp) : (s.setCkp p v).stage = s.stage := rfl
@[simp] theorem State.setCkp_power (s : State) (p : Nat) (v : Ckp) : (s.setCkp p v).power = s.power := rfl
@[simp] theorem State.setCkp_pins (s : State) (p : Nat) (v : Ckp) : (s.setCkp p v).pins = s.pins := rfl
@[simp] theorem State.setCkp_jtag (s : State) (p : Nat) (v : Ckp) : (s.setCkp p v).jtag = s.jtag := rfl
@[simp] theorem State.setCkp_fresh (s : State) (p : Nat) (v : Ckp) : (s.setCkp p v).fresh = s.fresh := rfl
@[simp] theorem State.setCkp_reply (s : State) (p : Nat) (v : Ckp) : (s.setCkp p v).reply = s.reply := rfl
@[simp] theorem State.setCkp_yardHold (s : State) (p : Nat) (v : Ckp) : (s.setCkp p v).yardHold = s.yardHold := rfl
@[simp] theorem State.setCkp_pending (s : State) (p : Nat) (v : Ckp) : (s.setCkp p v).pending = s.pending := rfl

@[simp] theorem State.setHcore_regs (s : State) (i : Nat) (v : HCore) : (s.setHcore i v).regs = s.regs := rfl
@[simp] theorem State.setHcore_mem (s : State) (i : Nat) (v : HCore) : (s.setHcore i v).mem = s.mem := rfl
@[simp] theorem State.setHcore_cores (s : State) (i : Nat) (v : HCore) : (s.setHcore i v).cores = s.cores := rfl
@[simp] theorem State.setHcore_clusters (s : State) (i : Nat) (v : HCore) : (s.setHcore i v).clusters = s.clusters := rfl
@[simp] theorem State.setHcore_ctxs (s : State) (i : Nat) (v : HCore) : (s.setHcore i v).ctxs = s.ctxs := rfl
@[simp] theorem State.setHcore_dmaLast (s : State) (i : Nat) (v : HCore) : (s.setHcore i v).dmaLast = s.dmaLast := rfl
@[simp] theorem State.setHcore_pens (s : State) (i : Nat) (v : HCore) : (s.setHcore i v).pens = s.pens := rfl
@[simp] theorem State.setHcore_yards (s : State) (i : Nat) (v : HCore) : (s.setHcore i v).yards = s.yards := rfl
@[simp] theorem State.setHcore_ports (s : State) (i : Nat) (v : HCore) : (s.setHcore i v).ports = s.ports := rfl
@[simp] theorem State.setHcore_routes (s : State) (i : Nat) (v : HCore) : (s.setHcore i v).routes = s.routes := rfl
@[simp] theorem State.setHcore_shadowRoutes (s : State) (i : Nat) (v : HCore) : (s.setHcore i v).shadowRoutes = s.shadowRoutes := rfl
@[simp] theorem State.setHcore_groups (s : State) (i : Nat) (v : HCore) : (s.setHcore i v).groups = s.groups := rfl
@[simp] theorem State.setHcore_gwins (s : State) (i : Nat) (v : HCore) : (s.setHcore i v).gwins = s.gwins := rfl
@[simp] theorem State.setHcore_ckps (s : State) (i : Nat) (v : HCore) : (s.setHcore i v).ckps = s.ckps := rfl
@[simp] theorem State.setHcore_lay (s : State) (i : Nat) (v : HCore) : (s.setHcore i v).lay = s.lay := rfl
@[simp] theorem State.setHcore_cddma (s : State) (i : Nat) (v : HCore) : (s.setHcore i v).cddma = s.cddma := rfl
@[simp] theorem State.setHcore_rot (s : State) (i : Nat) (v : HCore) : (s.setHcore i v).rot = s.rot := rfl
@[simp] theorem State.setHcore_qps (s : State) (i : Nat) (v : HCore) : (s.setHcore i v).qps = s.qps := rfl
@[simp] theorem State.setHcore_deadDies (s : State) (i : Nat) (v : HCore) : (s.setHcore i v).deadDies = s.deadDies := rfl
@[simp] theorem State.setHcore_pcieRole (s : State) (i : Nat) (v : HCore) : (s.setHcore i v).pcieRole = s.pcieRole := rfl
@[simp] theorem State.setHcore_ptpSlew (s : State) (i : Nat) (v : HCore) : (s.setHcore i v).ptpSlew = s.ptpSlew := rfl
@[simp] theorem State.setHcore_timeFrac (s : State) (i : Nat) (v : HCore) : (s.setHcore i v).timeFrac = s.timeFrac := rfl
@[simp] theorem State.setHcore_stage (s : State) (i : Nat) (v : HCore) : (s.setHcore i v).stage = s.stage := rfl
@[simp] theorem State.setHcore_power (s : State) (i : Nat) (v : HCore) : (s.setHcore i v).power = s.power := rfl
@[simp] theorem State.setHcore_pins (s : State) (i : Nat) (v : HCore) : (s.setHcore i v).pins = s.pins := rfl
@[simp] theorem State.setHcore_jtag (s : State) (i : Nat) (v : HCore) : (s.setHcore i v).jtag = s.jtag := rfl
@[simp] theorem State.setHcore_fresh (s : State) (i : Nat) (v : HCore) : (s.setHcore i v).fresh = s.fresh := rfl
@[simp] theorem State.setHcore_reply (s : State) (i : Nat) (v : HCore) : (s.setHcore i v).reply = s.reply := rfl
@[simp] theorem State.setHcore_yardHold (s : State) (i : Nat) (v : HCore) : (s.setHcore i v).yardHold = s.yardHold := rfl
@[simp] theorem State.setHcore_pending (s : State) (i : Nat) (v : HCore) : (s.setHcore i v).pending = s.pending := rfl

@[simp] theorem State.setCdrun_regs (s : State) (n : Nat) (v : CdRun) : (s.setCdrun n v).regs = s.regs := rfl
@[simp] theorem State.setCdrun_mem (s : State) (n : Nat) (v : CdRun) : (s.setCdrun n v).mem = s.mem := rfl
@[simp] theorem State.setCdrun_cores (s : State) (n : Nat) (v : CdRun) : (s.setCdrun n v).cores = s.cores := rfl
@[simp] theorem State.setCdrun_clusters (s : State) (n : Nat) (v : CdRun) : (s.setCdrun n v).clusters = s.clusters := rfl
@[simp] theorem State.setCdrun_ctxs (s : State) (n : Nat) (v : CdRun) : (s.setCdrun n v).ctxs = s.ctxs := rfl
@[simp] theorem State.setCdrun_dmaLast (s : State) (n : Nat) (v : CdRun) : (s.setCdrun n v).dmaLast = s.dmaLast := rfl
@[simp] theorem State.setCdrun_pens (s : State) (n : Nat) (v : CdRun) : (s.setCdrun n v).pens = s.pens := rfl
@[simp] theorem State.setCdrun_yards (s : State) (n : Nat) (v : CdRun) : (s.setCdrun n v).yards = s.yards := rfl
@[simp] theorem State.setCdrun_ports (s : State) (n : Nat) (v : CdRun) : (s.setCdrun n v).ports = s.ports := rfl
@[simp] theorem State.setCdrun_routes (s : State) (n : Nat) (v : CdRun) : (s.setCdrun n v).routes = s.routes := rfl
@[simp] theorem State.setCdrun_shadowRoutes (s : State) (n : Nat) (v : CdRun) : (s.setCdrun n v).shadowRoutes = s.shadowRoutes := rfl
@[simp] theorem State.setCdrun_groups (s : State) (n : Nat) (v : CdRun) : (s.setCdrun n v).groups = s.groups := rfl
@[simp] theorem State.setCdrun_gwins (s : State) (n : Nat) (v : CdRun) : (s.setCdrun n v).gwins = s.gwins := rfl
@[simp] theorem State.setCdrun_ckps (s : State) (n : Nat) (v : CdRun) : (s.setCdrun n v).ckps = s.ckps := rfl
@[simp] theorem State.setCdrun_lay (s : State) (n : Nat) (v : CdRun) : (s.setCdrun n v).lay = s.lay := rfl
@[simp] theorem State.setCdrun_hcores (s : State) (n : Nat) (v : CdRun) : (s.setCdrun n v).hcores = s.hcores := rfl
@[simp] theorem State.setCdrun_rot (s : State) (n : Nat) (v : CdRun) : (s.setCdrun n v).rot = s.rot := rfl
@[simp] theorem State.setCdrun_qps (s : State) (n : Nat) (v : CdRun) : (s.setCdrun n v).qps = s.qps := rfl
@[simp] theorem State.setCdrun_deadDies (s : State) (n : Nat) (v : CdRun) : (s.setCdrun n v).deadDies = s.deadDies := rfl
@[simp] theorem State.setCdrun_pcieRole (s : State) (n : Nat) (v : CdRun) : (s.setCdrun n v).pcieRole = s.pcieRole := rfl
@[simp] theorem State.setCdrun_ptpSlew (s : State) (n : Nat) (v : CdRun) : (s.setCdrun n v).ptpSlew = s.ptpSlew := rfl
@[simp] theorem State.setCdrun_timeFrac (s : State) (n : Nat) (v : CdRun) : (s.setCdrun n v).timeFrac = s.timeFrac := rfl
@[simp] theorem State.setCdrun_stage (s : State) (n : Nat) (v : CdRun) : (s.setCdrun n v).stage = s.stage := rfl
@[simp] theorem State.setCdrun_power (s : State) (n : Nat) (v : CdRun) : (s.setCdrun n v).power = s.power := rfl
@[simp] theorem State.setCdrun_pins (s : State) (n : Nat) (v : CdRun) : (s.setCdrun n v).pins = s.pins := rfl
@[simp] theorem State.setCdrun_jtag (s : State) (n : Nat) (v : CdRun) : (s.setCdrun n v).jtag = s.jtag := rfl
@[simp] theorem State.setCdrun_fresh (s : State) (n : Nat) (v : CdRun) : (s.setCdrun n v).fresh = s.fresh := rfl
@[simp] theorem State.setCdrun_reply (s : State) (n : Nat) (v : CdRun) : (s.setCdrun n v).reply = s.reply := rfl
@[simp] theorem State.setCdrun_yardHold (s : State) (n : Nat) (v : CdRun) : (s.setCdrun n v).yardHold = s.yardHold := rfl
@[simp] theorem State.setCdrun_pending (s : State) (n : Nat) (v : CdRun) : (s.setCdrun n v).pending = s.pending := rfl

@[simp] theorem State.setQpair_regs (s : State) (n : Nat) (v : QPair) : (s.setQpair n v).regs = s.regs := rfl
@[simp] theorem State.setQpair_mem (s : State) (n : Nat) (v : QPair) : (s.setQpair n v).mem = s.mem := rfl
@[simp] theorem State.setQpair_cores (s : State) (n : Nat) (v : QPair) : (s.setQpair n v).cores = s.cores := rfl
@[simp] theorem State.setQpair_clusters (s : State) (n : Nat) (v : QPair) : (s.setQpair n v).clusters = s.clusters := rfl
@[simp] theorem State.setQpair_ctxs (s : State) (n : Nat) (v : QPair) : (s.setQpair n v).ctxs = s.ctxs := rfl
@[simp] theorem State.setQpair_dmaLast (s : State) (n : Nat) (v : QPair) : (s.setQpair n v).dmaLast = s.dmaLast := rfl
@[simp] theorem State.setQpair_pens (s : State) (n : Nat) (v : QPair) : (s.setQpair n v).pens = s.pens := rfl
@[simp] theorem State.setQpair_yards (s : State) (n : Nat) (v : QPair) : (s.setQpair n v).yards = s.yards := rfl
@[simp] theorem State.setQpair_ports (s : State) (n : Nat) (v : QPair) : (s.setQpair n v).ports = s.ports := rfl
@[simp] theorem State.setQpair_routes (s : State) (n : Nat) (v : QPair) : (s.setQpair n v).routes = s.routes := rfl
@[simp] theorem State.setQpair_shadowRoutes (s : State) (n : Nat) (v : QPair) : (s.setQpair n v).shadowRoutes = s.shadowRoutes := rfl
@[simp] theorem State.setQpair_groups (s : State) (n : Nat) (v : QPair) : (s.setQpair n v).groups = s.groups := rfl
@[simp] theorem State.setQpair_gwins (s : State) (n : Nat) (v : QPair) : (s.setQpair n v).gwins = s.gwins := rfl
@[simp] theorem State.setQpair_ckps (s : State) (n : Nat) (v : QPair) : (s.setQpair n v).ckps = s.ckps := rfl
@[simp] theorem State.setQpair_lay (s : State) (n : Nat) (v : QPair) : (s.setQpair n v).lay = s.lay := rfl
@[simp] theorem State.setQpair_cddma (s : State) (n : Nat) (v : QPair) : (s.setQpair n v).cddma = s.cddma := rfl
@[simp] theorem State.setQpair_hcores (s : State) (n : Nat) (v : QPair) : (s.setQpair n v).hcores = s.hcores := rfl
@[simp] theorem State.setQpair_rot (s : State) (n : Nat) (v : QPair) : (s.setQpair n v).rot = s.rot := rfl
@[simp] theorem State.setQpair_deadDies (s : State) (n : Nat) (v : QPair) : (s.setQpair n v).deadDies = s.deadDies := rfl
@[simp] theorem State.setQpair_pcieRole (s : State) (n : Nat) (v : QPair) : (s.setQpair n v).pcieRole = s.pcieRole := rfl
@[simp] theorem State.setQpair_ptpSlew (s : State) (n : Nat) (v : QPair) : (s.setQpair n v).ptpSlew = s.ptpSlew := rfl
@[simp] theorem State.setQpair_timeFrac (s : State) (n : Nat) (v : QPair) : (s.setQpair n v).timeFrac = s.timeFrac := rfl
@[simp] theorem State.setQpair_stage (s : State) (n : Nat) (v : QPair) : (s.setQpair n v).stage = s.stage := rfl
@[simp] theorem State.setQpair_power (s : State) (n : Nat) (v : QPair) : (s.setQpair n v).power = s.power := rfl
@[simp] theorem State.setQpair_pins (s : State) (n : Nat) (v : QPair) : (s.setQpair n v).pins = s.pins := rfl
@[simp] theorem State.setQpair_jtag (s : State) (n : Nat) (v : QPair) : (s.setQpair n v).jtag = s.jtag := rfl
@[simp] theorem State.setQpair_fresh (s : State) (n : Nat) (v : QPair) : (s.setQpair n v).fresh = s.fresh := rfl
@[simp] theorem State.setQpair_reply (s : State) (n : Nat) (v : QPair) : (s.setQpair n v).reply = s.reply := rfl
@[simp] theorem State.setQpair_yardHold (s : State) (n : Nat) (v : QPair) : (s.setQpair n v).yardHold = s.yardHold := rfl
@[simp] theorem State.setQpair_pending (s : State) (n : Nat) (v : QPair) : (s.setQpair n v).pending = s.pending := rfl

@[simp] theorem State.setLay_regs (s : State) (v : Layout) : (s.setLay v).regs = s.regs := rfl
@[simp] theorem State.setLay_mem (s : State) (v : Layout) : (s.setLay v).mem = s.mem := rfl
@[simp] theorem State.setLay_cores (s : State) (v : Layout) : (s.setLay v).cores = s.cores := rfl
@[simp] theorem State.setLay_clusters (s : State) (v : Layout) : (s.setLay v).clusters = s.clusters := rfl
@[simp] theorem State.setLay_ctxs (s : State) (v : Layout) : (s.setLay v).ctxs = s.ctxs := rfl
@[simp] theorem State.setLay_dmaLast (s : State) (v : Layout) : (s.setLay v).dmaLast = s.dmaLast := rfl
@[simp] theorem State.setLay_pens (s : State) (v : Layout) : (s.setLay v).pens = s.pens := rfl
@[simp] theorem State.setLay_yards (s : State) (v : Layout) : (s.setLay v).yards = s.yards := rfl
@[simp] theorem State.setLay_ports (s : State) (v : Layout) : (s.setLay v).ports = s.ports := rfl
@[simp] theorem State.setLay_routes (s : State) (v : Layout) : (s.setLay v).routes = s.routes := rfl
@[simp] theorem State.setLay_shadowRoutes (s : State) (v : Layout) : (s.setLay v).shadowRoutes = s.shadowRoutes := rfl
@[simp] theorem State.setLay_groups (s : State) (v : Layout) : (s.setLay v).groups = s.groups := rfl
@[simp] theorem State.setLay_gwins (s : State) (v : Layout) : (s.setLay v).gwins = s.gwins := rfl
@[simp] theorem State.setLay_ckps (s : State) (v : Layout) : (s.setLay v).ckps = s.ckps := rfl
@[simp] theorem State.setLay_cddma (s : State) (v : Layout) : (s.setLay v).cddma = s.cddma := rfl
@[simp] theorem State.setLay_hcores (s : State) (v : Layout) : (s.setLay v).hcores = s.hcores := rfl
@[simp] theorem State.setLay_rot (s : State) (v : Layout) : (s.setLay v).rot = s.rot := rfl
@[simp] theorem State.setLay_qps (s : State) (v : Layout) : (s.setLay v).qps = s.qps := rfl
@[simp] theorem State.setLay_deadDies (s : State) (v : Layout) : (s.setLay v).deadDies = s.deadDies := rfl
@[simp] theorem State.setLay_pcieRole (s : State) (v : Layout) : (s.setLay v).pcieRole = s.pcieRole := rfl
@[simp] theorem State.setLay_ptpSlew (s : State) (v : Layout) : (s.setLay v).ptpSlew = s.ptpSlew := rfl
@[simp] theorem State.setLay_timeFrac (s : State) (v : Layout) : (s.setLay v).timeFrac = s.timeFrac := rfl
@[simp] theorem State.setLay_stage (s : State) (v : Layout) : (s.setLay v).stage = s.stage := rfl
@[simp] theorem State.setLay_power (s : State) (v : Layout) : (s.setLay v).power = s.power := rfl
@[simp] theorem State.setLay_pins (s : State) (v : Layout) : (s.setLay v).pins = s.pins := rfl
@[simp] theorem State.setLay_jtag (s : State) (v : Layout) : (s.setLay v).jtag = s.jtag := rfl
@[simp] theorem State.setLay_fresh (s : State) (v : Layout) : (s.setLay v).fresh = s.fresh := rfl
@[simp] theorem State.setLay_reply (s : State) (v : Layout) : (s.setLay v).reply = s.reply := rfl
@[simp] theorem State.setLay_yardHold (s : State) (v : Layout) : (s.setLay v).yardHold = s.yardHold := rfl
@[simp] theorem State.setLay_pending (s : State) (v : Layout) : (s.setLay v).pending = s.pending := rfl

@[simp] theorem State.answer_regs (s : State) (r : Reply) : (s.answer r).regs = s.regs := rfl
@[simp] theorem State.answer_mem (s : State) (r : Reply) : (s.answer r).mem = s.mem := rfl
@[simp] theorem State.answer_cores (s : State) (r : Reply) : (s.answer r).cores = s.cores := rfl
@[simp] theorem State.answer_clusters (s : State) (r : Reply) : (s.answer r).clusters = s.clusters := rfl
@[simp] theorem State.answer_ctxs (s : State) (r : Reply) : (s.answer r).ctxs = s.ctxs := rfl
@[simp] theorem State.answer_dmaLast (s : State) (r : Reply) : (s.answer r).dmaLast = s.dmaLast := rfl
@[simp] theorem State.answer_pens (s : State) (r : Reply) : (s.answer r).pens = s.pens := rfl
@[simp] theorem State.answer_yards (s : State) (r : Reply) : (s.answer r).yards = s.yards := rfl
@[simp] theorem State.answer_ports (s : State) (r : Reply) : (s.answer r).ports = s.ports := rfl
@[simp] theorem State.answer_routes (s : State) (r : Reply) : (s.answer r).routes = s.routes := rfl
@[simp] theorem State.answer_shadowRoutes (s : State) (r : Reply) : (s.answer r).shadowRoutes = s.shadowRoutes := rfl
@[simp] theorem State.answer_groups (s : State) (r : Reply) : (s.answer r).groups = s.groups := rfl
@[simp] theorem State.answer_gwins (s : State) (r : Reply) : (s.answer r).gwins = s.gwins := rfl
@[simp] theorem State.answer_ckps (s : State) (r : Reply) : (s.answer r).ckps = s.ckps := rfl
@[simp] theorem State.answer_lay (s : State) (r : Reply) : (s.answer r).lay = s.lay := rfl
@[simp] theorem State.answer_cddma (s : State) (r : Reply) : (s.answer r).cddma = s.cddma := rfl
@[simp] theorem State.answer_hcores (s : State) (r : Reply) : (s.answer r).hcores = s.hcores := rfl
@[simp] theorem State.answer_rot (s : State) (r : Reply) : (s.answer r).rot = s.rot := rfl
@[simp] theorem State.answer_qps (s : State) (r : Reply) : (s.answer r).qps = s.qps := rfl
@[simp] theorem State.answer_deadDies (s : State) (r : Reply) : (s.answer r).deadDies = s.deadDies := rfl
@[simp] theorem State.answer_pcieRole (s : State) (r : Reply) : (s.answer r).pcieRole = s.pcieRole := rfl
@[simp] theorem State.answer_ptpSlew (s : State) (r : Reply) : (s.answer r).ptpSlew = s.ptpSlew := rfl
@[simp] theorem State.answer_timeFrac (s : State) (r : Reply) : (s.answer r).timeFrac = s.timeFrac := rfl
@[simp] theorem State.answer_stage (s : State) (r : Reply) : (s.answer r).stage = s.stage := rfl
@[simp] theorem State.answer_power (s : State) (r : Reply) : (s.answer r).power = s.power := rfl
@[simp] theorem State.answer_pins (s : State) (r : Reply) : (s.answer r).pins = s.pins := rfl
@[simp] theorem State.answer_jtag (s : State) (r : Reply) : (s.answer r).jtag = s.jtag := rfl
@[simp] theorem State.answer_fresh (s : State) (r : Reply) : (s.answer r).fresh = s.fresh := rfl
@[simp] theorem State.answer_yardHold (s : State) (r : Reply) : (s.answer r).yardHold = s.yardHold := rfl
@[simp] theorem State.answer_pending (s : State) (r : Reply) : (s.answer r).pending = s.pending := rfl

@[simp] theorem State.alert_regs (s : State) : (s.alert).regs = s.regs := rfl
@[simp] theorem State.alert_mem (s : State) : (s.alert).mem = s.mem := rfl
@[simp] theorem State.alert_cores (s : State) : (s.alert).cores = s.cores := rfl
@[simp] theorem State.alert_clusters (s : State) : (s.alert).clusters = s.clusters := rfl
@[simp] theorem State.alert_ctxs (s : State) : (s.alert).ctxs = s.ctxs := rfl
@[simp] theorem State.alert_dmaLast (s : State) : (s.alert).dmaLast = s.dmaLast := rfl
@[simp] theorem State.alert_pens (s : State) : (s.alert).pens = s.pens := rfl
@[simp] theorem State.alert_yards (s : State) : (s.alert).yards = s.yards := rfl
@[simp] theorem State.alert_ports (s : State) : (s.alert).ports = s.ports := rfl
@[simp] theorem State.alert_routes (s : State) : (s.alert).routes = s.routes := rfl
@[simp] theorem State.alert_shadowRoutes (s : State) : (s.alert).shadowRoutes = s.shadowRoutes := rfl
@[simp] theorem State.alert_groups (s : State) : (s.alert).groups = s.groups := rfl
@[simp] theorem State.alert_gwins (s : State) : (s.alert).gwins = s.gwins := rfl
@[simp] theorem State.alert_ckps (s : State) : (s.alert).ckps = s.ckps := rfl
@[simp] theorem State.alert_lay (s : State) : (s.alert).lay = s.lay := rfl
@[simp] theorem State.alert_cddma (s : State) : (s.alert).cddma = s.cddma := rfl
@[simp] theorem State.alert_hcores (s : State) : (s.alert).hcores = s.hcores := rfl
@[simp] theorem State.alert_rot (s : State) : (s.alert).rot = s.rot := rfl
@[simp] theorem State.alert_qps (s : State) : (s.alert).qps = s.qps := rfl
@[simp] theorem State.alert_deadDies (s : State) : (s.alert).deadDies = s.deadDies := rfl
@[simp] theorem State.alert_pcieRole (s : State) : (s.alert).pcieRole = s.pcieRole := rfl
@[simp] theorem State.alert_ptpSlew (s : State) : (s.alert).ptpSlew = s.ptpSlew := rfl
@[simp] theorem State.alert_timeFrac (s : State) : (s.alert).timeFrac = s.timeFrac := rfl
@[simp] theorem State.alert_stage (s : State) : (s.alert).stage = s.stage := rfl
@[simp] theorem State.alert_power (s : State) : (s.alert).power = s.power := rfl
@[simp] theorem State.alert_jtag (s : State) : (s.alert).jtag = s.jtag := rfl
@[simp] theorem State.alert_fresh (s : State) : (s.alert).fresh = s.fresh := rfl
@[simp] theorem State.alert_reply (s : State) : (s.alert).reply = s.reply := rfl
@[simp] theorem State.alert_yardHold (s : State) : (s.alert).yardHold = s.yardHold := rfl
@[simp] theorem State.alert_pending (s : State) : (s.alert).pending = s.pending := rfl

@[simp] theorem State.draw_regs (s : State) : (s.draw).2.regs = s.regs := rfl
@[simp] theorem State.draw_mem (s : State) : (s.draw).2.mem = s.mem := rfl
@[simp] theorem State.draw_cores (s : State) : (s.draw).2.cores = s.cores := rfl
@[simp] theorem State.draw_clusters (s : State) : (s.draw).2.clusters = s.clusters := rfl
@[simp] theorem State.draw_ctxs (s : State) : (s.draw).2.ctxs = s.ctxs := rfl
@[simp] theorem State.draw_dmaLast (s : State) : (s.draw).2.dmaLast = s.dmaLast := rfl
@[simp] theorem State.draw_pens (s : State) : (s.draw).2.pens = s.pens := rfl
@[simp] theorem State.draw_yards (s : State) : (s.draw).2.yards = s.yards := rfl
@[simp] theorem State.draw_ports (s : State) : (s.draw).2.ports = s.ports := rfl
@[simp] theorem State.draw_routes (s : State) : (s.draw).2.routes = s.routes := rfl
@[simp] theorem State.draw_shadowRoutes (s : State) : (s.draw).2.shadowRoutes = s.shadowRoutes := rfl
@[simp] theorem State.draw_groups (s : State) : (s.draw).2.groups = s.groups := rfl
@[simp] theorem State.draw_gwins (s : State) : (s.draw).2.gwins = s.gwins := rfl
@[simp] theorem State.draw_ckps (s : State) : (s.draw).2.ckps = s.ckps := rfl
@[simp] theorem State.draw_lay (s : State) : (s.draw).2.lay = s.lay := rfl
@[simp] theorem State.draw_cddma (s : State) : (s.draw).2.cddma = s.cddma := rfl
@[simp] theorem State.draw_hcores (s : State) : (s.draw).2.hcores = s.hcores := rfl
@[simp] theorem State.draw_rot (s : State) : (s.draw).2.rot = s.rot := rfl
@[simp] theorem State.draw_qps (s : State) : (s.draw).2.qps = s.qps := rfl
@[simp] theorem State.draw_deadDies (s : State) : (s.draw).2.deadDies = s.deadDies := rfl
@[simp] theorem State.draw_pcieRole (s : State) : (s.draw).2.pcieRole = s.pcieRole := rfl
@[simp] theorem State.draw_ptpSlew (s : State) : (s.draw).2.ptpSlew = s.ptpSlew := rfl
@[simp] theorem State.draw_timeFrac (s : State) : (s.draw).2.timeFrac = s.timeFrac := rfl
@[simp] theorem State.draw_stage (s : State) : (s.draw).2.stage = s.stage := rfl
@[simp] theorem State.draw_power (s : State) : (s.draw).2.power = s.power := rfl
@[simp] theorem State.draw_pins (s : State) : (s.draw).2.pins = s.pins := rfl
@[simp] theorem State.draw_jtag (s : State) : (s.draw).2.jtag = s.jtag := rfl
@[simp] theorem State.draw_reply (s : State) : (s.draw).2.reply = s.reply := rfl
@[simp] theorem State.draw_yardHold (s : State) : (s.draw).2.yardHold = s.yardHold := rfl
@[simp] theorem State.draw_pending (s : State) : (s.draw).2.pending = s.pending := rfl

/-! ## Reading back -/

theorem State.get_set_self (s : State) (f : Fld) (v : Nat) : (s.set f v).get f = v % 2 ^ f.w := Tab.get_set_self _ _ _ _

theorem State.get_set_other (s : State) (f g : Fld) (v : Nat) (h : g.key ≠ f.key) : (s.set f v).get g = s.get g :=
  Tab.get_set_other f.rst g.rst s.regs f.key g.key (v % 2 ^ f.w) h

theorem State.get_inc_self (s : State) (f : Fld) (n : Nat) : (s.inc f n).get f = min (s.get f + n) (2 ^ f.w - 1) := by
  have h : 0 < 2 ^ f.w := Nat.two_pow_pos f.w
  rw [State.inc, State.get_set_self, Nat.mod_eq_of_lt (by omega)]

theorem State.get_inc_other (s : State) (f g : Fld) (n : Nat) (h : g.key ≠ f.key) : (s.inc f n).get g = s.get g :=
  State.get_set_other s f g _ h

/-! A register is not changed by the update of a unit. -/

@[simp] theorem State.setCore_get (s : State) (d c k : Nat) (v : Core) (f : Fld) : (s.setCore d c k v).get f = s.get f := rfl
@[simp] theorem State.setCluster_get (s : State) (d c : Nat) (v : Cluster) (f : Fld) : (s.setCluster d c v).get f = s.get f := rfl
@[simp] theorem State.setCtx_get (s : State) (d h : Nat) (v : Ctx) (f : Fld) : (s.setCtx d h v).get f = s.get f := rfl
@[simp] theorem State.setPen_get (s : State) (p : Nat) (v : Pen) (f : Fld) : (s.setPen p v).get f = s.get f := rfl
@[simp] theorem State.setYard_get (s : State) (y : Nat) (v : Yard) (f : Fld) : (s.setYard y v).get f = s.get f := rfl
@[simp] theorem State.setPort_get (s : State) (n : Nat) (v : Port) (f : Fld) : (s.setPort n v).get f = s.get f := rfl
@[simp] theorem State.setGroup_get (s : State) (g : Nat) (v : Group) (f : Fld) : (s.setGroup g v).get f = s.get f := rfl
@[simp] theorem State.setGwin_get (s : State) (i : Nat) (v : GroupWindows) (f : Fld) : (s.setGwin i v).get f = s.get f := rfl
@[simp] theorem State.setCkp_get (s : State) (p : Nat) (v : Ckp) (f : Fld) : (s.setCkp p v).get f = s.get f := rfl
@[simp] theorem State.setHcore_get (s : State) (i : Nat) (v : HCore) (f : Fld) : (s.setHcore i v).get f = s.get f := rfl
@[simp] theorem State.setCdrun_get (s : State) (n : Nat) (v : CdRun) (f : Fld) : (s.setCdrun n v).get f = s.get f := rfl
@[simp] theorem State.setQpair_get (s : State) (n : Nat) (v : QPair) (f : Fld) : (s.setQpair n v).get f = s.get f := rfl
@[simp] theorem State.setLay_get (s : State) (v : Layout) (f : Fld) : (s.setLay v).get f = s.get f := rfl
@[simp] theorem State.answer_get (s : State) (r : Reply) (f : Fld) : (s.answer r).get f = s.get f := rfl
@[simp] theorem State.alert_get (s : State) (f : Fld) : (s.alert).get f = s.get f := rfl

/-! A unit is not changed by the update of a register, and reads back what was put into it. -/

@[simp] theorem State.set_core (s : State) (f : Fld) (v : Nat) (d c k : Nat) : (s.set f v).core d c k = s.core d c k := rfl
@[simp] theorem State.setCore_core (s : State) (d c k : Nat) (v : Core) : (s.setCore d c k v).core d c k = v := Tab.get_set_self _ _ _ _
@[simp] theorem State.set_cluster (s : State) (f : Fld) (v : Nat) (d c : Nat) : (s.set f v).cluster d c = s.cluster d c := rfl
@[simp] theorem State.setCluster_cluster (s : State) (d c : Nat) (v : Cluster) : (s.setCluster d c v).cluster d c = v := Tab.get_set_self _ _ _ _
@[simp] theorem State.set_ctx (s : State) (f : Fld) (v : Nat) (d h : Nat) : (s.set f v).ctx d h = s.ctx d h := rfl
@[simp] theorem State.setCtx_ctx (s : State) (d h : Nat) (v : Ctx) : (s.setCtx d h v).ctx d h = v := Tab.get_set_self _ _ _ _
@[simp] theorem State.set_pen (s : State) (f : Fld) (v : Nat) (p : Nat) : (s.set f v).pen p = s.pen p := rfl
@[simp] theorem State.setPen_pen (s : State) (p : Nat) (v : Pen) : (s.setPen p v).pen p = v := Tab.get_set_self _ _ _ _
@[simp] theorem State.set_yard (s : State) (f : Fld) (v : Nat) (y : Nat) : (s.set f v).yard y = s.yard y := rfl
@[simp] theorem State.setYard_yard (s : State) (y : Nat) (v : Yard) : (s.setYard y v).yard y = v := Tab.get_set_self _ _ _ _
@[simp] theorem State.set_port (s : State) (f : Fld) (v : Nat) (n : Nat) : (s.set f v).port n = s.port n := rfl
@[simp] theorem State.setPort_port (s : State) (n : Nat) (v : Port) : (s.setPort n v).port n = v := Tab.get_set_self _ _ _ _
@[simp] theorem State.set_group (s : State) (f : Fld) (v : Nat) (g : Nat) : (s.set f v).group g = s.group g := rfl
@[simp] theorem State.setGroup_group (s : State) (g : Nat) (v : Group) : (s.setGroup g v).group g = v := Tab.get_set_self _ _ _ _
@[simp] theorem State.set_gwin (s : State) (f : Fld) (v : Nat) (g : Nat) : (s.set f v).gwin g = s.gwin g := rfl
@[simp] theorem State.setGwin_gwin (s : State) (f : Nat) (v : GroupWindows) : (s.setGwin f v).gwin f = v := Tab.get_set_self _ _ _ _
@[simp] theorem State.set_ckp (s : State) (f : Fld) (v : Nat) (p : Nat) : (s.set f v).ckp p = s.ckp p := rfl
@[simp] theorem State.setCkp_ckp (s : State) (p : Nat) (v : Ckp) : (s.setCkp p v).ckp p = v := Tab.get_set_self _ _ _ _
@[simp] theorem State.set_hcore (s : State) (f : Fld) (v : Nat) (i : Nat) : (s.set f v).hcore i = s.hcore i := rfl
@[simp] theorem State.setHcore_hcore (s : State) (i : Nat) (v : HCore) : (s.setHcore i v).hcore i = v := Tab.get_set_self _ _ _ _
@[simp] theorem State.set_cdrun (s : State) (f : Fld) (v : Nat) (n : Nat) : (s.set f v).cdrun n = s.cdrun n := rfl
@[simp] theorem State.setCdrun_cdrun (s : State) (n : Nat) (v : CdRun) : (s.setCdrun n v).cdrun n = v := Tab.get_set_self _ _ _ _
@[simp] theorem State.set_qpair (s : State) (f : Fld) (v : Nat) (n : Nat) : (s.set f v).qpair n = s.qpair n := rfl
@[simp] theorem State.setQpair_qpair (s : State) (n : Nat) (v : QPair) : (s.setQpair n v).qpair n = v := Tab.get_set_self _ _ _ _

end Sys2Proof.Machine
end

