-- ==== Sys2Proof/Laws/Ok.lean ====
section
/-!
SUPPORT. Laws/Ok.lean: what every operation of the package keeps: the canonical form of memory and registers, the queue of waiting commands, the
keys of the root of trust, and the lowest value of each high-water mark. `State.Ok q s` says all four; the files Laws/Keep*.lean prove one lemma
per operation, and any later invariant of this kind is proved from them. ROT_ENROL and ROT_KEY_LOAD load keys: their lemmas say the rest.
-/

namespace Sys2Proof.Machine

/-- What an operation leaves: the queue, the keys of the root of trust (owner, layout keys, AES keys, loads, last number), and marks that no
high-water mark falls below. -/
structure Kept where
  queue : List Instr
  keys : Option (List Byte) × Tab (List Byte) × Tab Nat × Nat × Nat
  marks : Nat → Nat

/-- The keys of a root of trust. -/
def Rot.keys (r : Rot) : Option (List Byte) × Tab (List Byte) × Tab Nat × Nat × Nat := (r.owner, r.layout, r.aes, r.loads, r.lastSeq)

/-- The queue and the root of trust are as q says. -/
def Kept.holds (q : Kept) (r : Rot) (p : List Instr) : Prop := p = q.queue ∧ r.keys = q.keys ∧ ∀ k, q.marks k ≤ Tab.get 0 r.high k

/-- The state is in canonical form, and its queue and root of trust are as q says. -/
def State.Ok (q : Kept) (s : State) : Prop := s.Inv ∧ q.holds s.rot s.pending

/-- What a state itself holds is kept. -/
theorem State.Inv.ok {s : State} (h : s.Inv) : State.Ok ⟨s.pending, s.rot.keys, fun k => Tab.get 0 s.rot.high k⟩ s :=
  ⟨h, rfl, rfl, fun _ => Nat.le_refl _⟩

/-- Every next state of an outcome is. -/
def OutOk (q : Kept) (o : Host.Outcome State Fault Refusal) : Prop := ∀ t, o = .next t → State.Ok q t

/-- The state of an option is. -/
def OptOk (q : Kept) (o : Option State) : Prop := ∀ t, o = some t → State.Ok q t

variable {q : Kept} {α : Type}

theorem outNext_ok {s : State} (h : State.Ok q s) : OutOk q (.next s) := by
  intro t e
  cases e
  exact h

theorem outFault_ok (f : Fault) : OutOk q (.fault f) := by
  intro t e
  cases e

theorem notDue_ok {s : State} (h : State.Ok q s) : OutOk q s.notDue := outNext_ok h
theorem reservedCode_ok : OutOk q reservedCode := outFault_ok _

theorem optNone_ok : OptOk q none := by
  intro t e
  cases e

theorem optSome_ok {s : State} (h : State.Ok q s) : OptOk q (some s) := by
  intro t e
  cases e
  exact h

/-- The same of the four parts it speaks of. -/
def PartsOk (q : Kept) (r : Tab Nat) (m : Memory) (k : Rot) (p : List Instr) : Prop := (m.wf ∧ Tab.Rising r) ∧ q.holds k p

theorem State.mk_ok (r : Tab Nat) (m : Memory) (x3 : Tab Core) (x4 : Tab Cluster) (x5 : Tab Ctx) (x6 : Tab Nat) (x7 : Tab Pen) (x8 : Tab Yard)
    (x9 : Tab Port) (x10 x11 : Tab Nat) (x12 : Tab Group) (x13 : Tab GroupWindows) (x14 : Tab Ckp) (x15 : Layout) (x16 : Tab CdRun)
    (x17 : Tab HCore) (x18 : Rot) (x19 : Tab QPair) (x20 x21 : Nat) (x22 : Int) (x23 : Nat) (x24 : Stage) (x25 : Power) (x26 : Pins)
    (x27 : Jtag) (x28 : Nat) (x29 : Reply) (x30 : Option YardHold) (p : List Instr) :
    State.Ok q ⟨r, m, x3, x4, x5, x6, x7, x8, x9, x10, x11, x12, x13, x14, x15, x16, x17, x18, x19, x20, x21, x22, x23, x24, x25, x26,
      x27, x28, x29, x30, p⟩ ↔ PartsOk q r m x18 p := Iff.rfl

/-- A state with the memory, registers and queue of another. -/
theorem partsOk_same {t : State} (h : State.Ok q t) : PartsOk q t.regs t.mem t.rot t.pending := h

/-- A state with the memory and registers of a second one. -/
theorem partsOk_two {t u : State} (h : State.Ok q t) (hu : State.Ok q u) : PartsOk q u.regs u.mem t.rot t.pending := ⟨hu.1, h.2⟩

/-- A state with a new memory in canonical form. -/
theorem partsOk_mem {t : State} {m : Memory} (h : State.Ok q t) (hm : m.wf) : PartsOk q t.regs m t.rot t.pending := ⟨⟨hm, h.1.2⟩, h.2⟩

/-- A state with a new register table in canonical form. -/
theorem partsOk_regs {t : State} {r : Tab Nat} (h : State.Ok q t) (hr : Tab.Rising r) : PartsOk q r t.mem t.rot t.pending := ⟨⟨h.1.1, hr⟩, h.2⟩

/-- The register table of such a state. -/
theorem State.Ok.rising {s : State} (h : State.Ok q s) : Tab.Rising s.regs := h.1.2

/-- The memory of such a state. -/
theorem State.Ok.wf {s : State} (h : State.Ok q s) : s.mem.wf := h.1.1

theorem foldl_ok {f : State → α → State} {i : State} {l : List α} (hf : ∀ t x, State.Ok q t → State.Ok q (f t x)) (hi : State.Ok q i) :
    State.Ok q (l.foldl f i) := by
  induction l generalizing i with
  | nil => exact hi
  | cons a l ih => exact ih (hf i a hi)

theorem foldl_fst_ok {β : Type} {f : State × β → α → State × β} {i : State × β} {l : List α}
    (hf : ∀ t x, State.Ok q t.1 → State.Ok q (f t x).1) (hi : State.Ok q i.1) : State.Ok q (l.foldl f i).1 := by
  induction l generalizing i with
  | nil => exact hi
  | cons a l ih => exact ih (hf i a hi)

theorem foldl_st_ok {f : YardWork → α → YardWork} {i : YardWork} {l : List α} (hf : ∀ t x, State.Ok q t.st → State.Ok q (f t x).st)
    (hi : State.Ok q i.st) : State.Ok q (l.foldl f i).st := by
  induction l generalizing i with
  | nil => exact hi
  | cons a l ih => exact ih (hf i a hi)

theorem foldl_out_ok {f : Import → α → Import} {i : Import} {l : List α} (hf : ∀ t x, State.Ok q t.out.st → State.Ok q (f t x).out.st)
    (hi : State.Ok q i.out.st) : State.Ok q (l.foldl f i).out.st := by
  induction l generalizing i with
  | nil => exact hi
  | cons a l ih => exact ih (hf i a hi)

theorem foldl_wf {f : Memory → α → Memory} {i : Memory} {l : List α} (hf : ∀ m x, m.wf → (f m x).wf) (hi : i.wf) : (l.foldl f i).wf := by
  induction l generalizing i with
  | nil => exact hi
  | cons a l ih => exact ih (hf i a hi)

end Sys2Proof.Machine
end

