-- ==== Sys2Proof/Laws/KeepOps.lean ====
section
/-! SUPPORT. Laws/KeepOps.lean: the operations of Machine/Ops.lean keep the canonical form and the queue (Laws/Ok.lean). -/

namespace Sys2Proof.Machine

theorem State.set_ok {q : Kept} : ∀ a0 a1 a2, State.Ok q a0 → State.Ok q (State.set a0 a1 a2) := by
  intro s f v h
  exact ⟨⟨h.1.1, Tab.set_rising _ _ _ h.1.2⟩, h.2⟩

theorem State.setB_ok {q : Kept} : ∀ a0 a1 a2, State.Ok q a0 → State.Ok q (State.setB a0 a1 a2) := by
  intro _ _ _ _
  unfold State.setB
  try dsimp only
  repeat' (first
    | with_reducible assumption
    | with_reducible apply State.set_ok
    | dsimp only)

theorem State.inc_ok {q : Kept} : ∀ a0 a1 a2, State.Ok q a0 → State.Ok q (State.inc a0 a1 a2) := by
  intro _ _ _ _
  unfold State.inc
  try dsimp only
  repeat' (first
    | with_reducible assumption
    | with_reducible apply State.set_ok
    | dsimp only)

theorem State.clearFlds_ok {q : Kept} : ∀ a0 a1, State.Ok q a0 → State.Ok q (State.clearFlds a0 a1) := by
  intro _ _ _
  unfold State.clearFlds
  try dsimp only
  repeat' (first
    | with_reducible assumption
    | with_reducible apply State.set_ok
    | with_reducible apply foldl_ok
    | with_reducible apply foldl_fst_ok
    | with_reducible apply foldl_st_ok
    | with_reducible apply foldl_out_ok
    | dsimp only
    | with_reducible intro _)

theorem State.setCore_ok {q : Kept} : ∀ a0 a1 a2 a3 a4, State.Ok q a0 → State.Ok q (State.setCore a0 a1 a2 a3 a4) := by
  intro _ _ _ _ _ _
  unfold State.setCore
  try dsimp only
  repeat' (first
    | with_reducible assumption
    | with_reducible apply State.set_ok
    | simp only [State.mk_ok]
    | with_reducible apply partsOk_same
    | dsimp only)

theorem State.setCluster_ok {q : Kept} : ∀ a0 a1 a2 a3, State.Ok q a0 → State.Ok q (State.setCluster a0 a1 a2 a3) := by
  intro _ _ _ _ _
  unfold State.setCluster
  try dsimp only
  repeat' (first
    | with_reducible assumption
    | with_reducible apply State.set_ok
    | simp only [State.mk_ok]
    | with_reducible apply partsOk_same
    | dsimp only)

theorem State.setCtx_ok {q : Kept} : ∀ a0 a1 a2 a3, State.Ok q a0 → State.Ok q (State.setCtx a0 a1 a2 a3) := by
  intro _ _ _ _ _
  unfold State.setCtx
  try dsimp only
  repeat' (first
    | with_reducible assumption
    | with_reducible apply State.set_ok
    | simp only [State.mk_ok]
    | with_reducible apply partsOk_same
    | dsimp only)

theorem State.setPen_ok {q : Kept} : ∀ a0 a1 a2, State.Ok q a0 → State.Ok q (State.setPen a0 a1 a2) := by
  intro _ _ _ _
  unfold State.setPen
  try dsimp only
  repeat' (first
    | with_reducible assumption
    | with_reducible apply State.set_ok
    | simp only [State.mk_ok]
    | with_reducible apply partsOk_same
    | dsimp only)

theorem State.setYard_ok {q : Kept} : ∀ a0 a1 a2, State.Ok q a0 → State.Ok q (State.setYard a0 a1 a2) := by
  intro _ _ _ _
  unfold State.setYard
  try dsimp only
  repeat' (first
    | with_reducible assumption
    | with_reducible apply State.set_ok
    | simp only [State.mk_ok]
    | with_reducible apply partsOk_same
    | dsimp only)

theorem State.setPort_ok {q : Kept} : ∀ a0 a1 a2, State.Ok q a0 → State.Ok q (State.setPort a0 a1 a2) := by
  intro _ _ _ _
  unfold State.setPort
  try dsimp only
  repeat' (first
    | with_reducible assumption
    | with_reducible apply State.set_ok
    | simp only [State.mk_ok]
    | with_reducible apply partsOk_same
    | dsimp only)

theorem State.setGroup_ok {q : Kept} : ∀ a0 a1 a2, State.Ok q a0 → State.Ok q (State.setGroup a0 a1 a2) := by
  intro _ _ _ _
  unfold State.setGroup
  try dsimp only
  repeat' (first
    | with_reducible assumption
    | with_reducible apply State.set_ok
    | simp only [State.mk_ok]
    | with_reducible apply partsOk_same
    | dsimp only)

theorem State.setGwin_ok {q : Kept} : ∀ a0 a1 a2, State.Ok q a0 → State.Ok q (State.setGwin a0 a1 a2) := by
  intro _ _ _ _
  unfold State.setGwin
  try dsimp only
  repeat' (first
    | with_reducible assumption
    | with_reducible apply State.set_ok
    | simp only [State.mk_ok]
    | with_reducible apply partsOk_same
    | dsimp only)

theorem State.setCkp_ok {q : Kept} : ∀ a0 a1 a2, State.Ok q a0 → State.Ok q (State.setCkp a0 a1 a2) := by
  intro _ _ _ _
  unfold State.setCkp
  try dsimp only
  repeat' (first
    | with_reducible assumption
    | with_reducible apply State.set_ok
    | simp only [State.mk_ok]
    | with_reducible apply partsOk_same
    | dsimp only)

theorem State.setHcore_ok {q : Kept} : ∀ a0 a1 a2, State.Ok q a0 → State.Ok q (State.setHcore a0 a1 a2) := by
  intro _ _ _ _
  unfold State.setHcore
  try dsimp only
  repeat' (first
    | with_reducible assumption
    | with_reducible apply State.set_ok
    | simp only [State.mk_ok]
    | with_reducible apply partsOk_same
    | dsimp only)

theorem State.setCdrun_ok {q : Kept} : ∀ a0 a1 a2, State.Ok q a0 → State.Ok q (State.setCdrun a0 a1 a2) := by
  intro _ _ _ _
  unfold State.setCdrun
  try dsimp only
  repeat' (first
    | with_reducible assumption
    | with_reducible apply State.set_ok
    | simp only [State.mk_ok]
    | with_reducible apply partsOk_same
    | dsimp only)

theorem State.setEngine_ok {q : Kept} : ∀ a0 a1 a2 a3, State.Ok q a0 → State.Ok q (State.setEngine a0 a1 a2 a3) := by
  intro _ _ _ _ _
  unfold State.setEngine
  try dsimp only
  repeat' (first
    | with_reducible assumption
    | with_reducible apply State.setYard_ok
    | simp only [State.mk_ok]
    | with_reducible apply partsOk_same
    | dsimp only
    | split)

theorem State.setQpair_ok {q : Kept} : ∀ a0 a1 a2, State.Ok q a0 → State.Ok q (State.setQpair a0 a1 a2) := by
  intro _ _ _ _
  unfold State.setQpair
  try dsimp only
  repeat' (first
    | with_reducible assumption
    | with_reducible apply State.set_ok
    | simp only [State.mk_ok]
    | with_reducible apply partsOk_same
    | dsimp only)

theorem State.setLay_ok {q : Kept} : ∀ a0 a1, State.Ok q a0 → State.Ok q (State.setLay a0 a1) := by
  intro _ _ _
  unfold State.setLay
  try dsimp only
  repeat' (first
    | with_reducible assumption
    | simp only [State.mk_ok]
    | with_reducible apply partsOk_same
    | dsimp only)

theorem State.answer_ok {q : Kept} : ∀ a0 a1, State.Ok q a0 → State.Ok q (State.answer a0 a1) := by
  intro _ _ _
  unfold State.answer
  try dsimp only
  repeat' (first
    | with_reducible assumption
    | simp only [State.mk_ok]
    | with_reducible apply partsOk_same
    | dsimp only)

theorem State.alert_ok {q : Kept} : ∀ a0, State.Ok q a0 → State.Ok q (State.alert a0) := by
  intro _ _
  unfold State.alert
  try dsimp only
  repeat' (first
    | with_reducible assumption
    | simp only [State.mk_ok]
    | with_reducible apply partsOk_same
    | dsimp only)

theorem State.put_ok {q : Kept} : ∀ a0 a1 a2 a3, State.Ok q a0 → State.Ok q (State.put a0 a1 a2 a3) := by
  intro _ _ _ _ _
  unfold State.put
  try dsimp only
  repeat' (first
    | with_reducible assumption
    | simp only [State.mk_ok]
    | with_reducible apply partsOk_same
    | with_reducible apply partsOk_mem
    | with_reducible apply Memory.setMark_wf
    | with_reducible apply Memory.write_wf
    | with_reducible apply Memory.writePieces_wf
    | with_reducible apply foldl_wf
    | (with_reducible apply State.Ok.wf (q := q))
    | with_reducible apply foldl_ok
    | with_reducible apply foldl_fst_ok
    | with_reducible apply foldl_st_ok
    | with_reducible apply foldl_out_ok
    | dsimp only
    | with_reducible intro _)

theorem State.inject_ok {q : Kept} : ∀ a0 a1 a2 a3, State.Ok q a0 → State.Ok q (State.inject a0 a1 a2 a3) := by
  intro _ _ _ _ _
  unfold State.inject
  try dsimp only
  repeat' (first
    | with_reducible assumption
    | with_reducible apply State.set_ok
    | simp only [State.mk_ok]
    | with_reducible apply partsOk_same
    | with_reducible apply partsOk_mem
    | with_reducible apply Memory.setMark_wf
    | with_reducible apply Memory.write_wf
    | with_reducible apply Memory.writePieces_wf
    | with_reducible apply foldl_wf
    | (with_reducible apply State.Ok.wf (q := q))
    | dsimp only
    | split)

theorem State.stallEcc_ok {q : Kept} : ∀ a0 a1 a2 a3 a4, State.Ok q a0 → State.Ok q (State.stallEcc a0 a1 a2 a3 a4) := by
  intro _ _ _ _ _ _
  unfold State.stallEcc
  try dsimp only
  repeat' (first
    | with_reducible assumption
    | with_reducible apply State.set_ok
    | with_reducible apply State.inc_ok
    | with_reducible apply Memory.setMark_wf
    | with_reducible apply Memory.write_wf
    | with_reducible apply Memory.writePieces_wf
    | with_reducible apply foldl_wf
    | (with_reducible apply State.Ok.wf (q := q))
    | dsimp only
    | split)

theorem State.stallCount_ok {q : Kept} : ∀ a0 a1 a2 a3 a4, State.Ok q a0 → State.Ok q (State.stallCount a0 a1 a2 a3 a4) := by
  intro _ _ _ _ _ _
  unfold State.stallCount
  try dsimp only
  repeat' (first
    | with_reducible assumption
    | with_reducible apply State.stallEcc_ok
    | with_reducible apply State.set_ok
    | with_reducible apply Memory.setMark_wf
    | with_reducible apply Memory.write_wf
    | with_reducible apply Memory.writePieces_wf
    | with_reducible apply foldl_wf
    | (with_reducible apply State.Ok.wf (q := q))
    | dsimp only
    | split)

theorem State.stallRead_ok {q : Kept} : ∀ a0 a1 a2 a3 a4 a5, State.Ok q a0 → State.Ok q (State.stallRead a0 a1 a2 a3 a4 a5) := by
  intro _ _ _ _ _ _ _
  unfold State.stallRead
  try dsimp only
  repeat' (first
    | with_reducible assumption
    | with_reducible apply State.stallCount_ok
    | with_reducible apply foldl_ok
    | with_reducible apply foldl_fst_ok
    | with_reducible apply foldl_st_ok
    | with_reducible apply foldl_out_ok
    | dsimp only
    | split
    | with_reducible intro _)

theorem State.loftCount_ok {q : Kept} : ∀ a0 a1 a2 a3, State.Ok q a0 → State.Ok q (State.loftCount a0 a1 a2 a3) := by
  intro _ _ _ _ _
  unfold State.loftCount
  try dsimp only
  repeat' (first
    | with_reducible assumption
    | with_reducible apply State.set_ok
    | with_reducible apply State.inc_ok
    | with_reducible apply Memory.setMark_wf
    | with_reducible apply Memory.write_wf
    | with_reducible apply Memory.writePieces_wf
    | with_reducible apply foldl_wf
    | (with_reducible apply State.Ok.wf (q := q))
    | dsimp only
    | split)

theorem State.loftRead_ok {q : Kept} : ∀ a0 a1 a2 a3 a4, State.Ok q a0 → State.Ok q (State.loftRead a0 a1 a2 a3 a4) := by
  intro _ _ _ _ _ _
  unfold State.loftRead
  try dsimp only
  repeat' (first
    | with_reducible assumption
    | with_reducible apply State.loftCount_ok
    | with_reducible apply foldl_ok
    | with_reducible apply foldl_fst_ok
    | with_reducible apply foldl_st_ok
    | with_reducible apply foldl_out_ok
    | dsimp only
    | split
    | with_reducible intro _)

theorem State.stallWrite_ok {q : Kept} : ∀ a0 a1 a2 a3 a4 a5 a6, State.Ok q a0 → State.Ok q (State.stallWrite a0 a1 a2 a3 a4 a5 a6) := by
  intro _ _ _ _ _ _ _ _
  unfold State.stallWrite
  try dsimp only
  repeat' (first
    | with_reducible assumption
    | with_reducible apply State.stallEcc_ok
    | with_reducible apply State.put_ok
    | with_reducible apply State.inject_ok
    | with_reducible apply foldl_ok
    | with_reducible apply foldl_fst_ok
    | with_reducible apply foldl_st_ok
    | with_reducible apply foldl_out_ok
    | dsimp only
    | split
    | with_reducible intro _)

theorem State.loftWrite_ok {q : Kept} : ∀ a0 a1 a2 a3 a4 a5, State.Ok q a0 → State.Ok q (State.loftWrite a0 a1 a2 a3 a4 a5) := by
  intro _ _ _ _ _ _ _
  unfold State.loftWrite
  try dsimp only
  repeat' (first
    | with_reducible assumption
    | with_reducible apply State.put_ok
    | with_reducible apply State.loftCount_ok
    | with_reducible apply State.inject_ok
    | with_reducible apply foldl_ok
    | with_reducible apply foldl_fst_ok
    | with_reducible apply foldl_st_ok
    | with_reducible apply foldl_out_ok
    | dsimp only
    | split
    | with_reducible intro _)

theorem State.storeCount_ok {q : Kept} : ∀ a0 a1 a2 a3, State.Ok q a0 → State.Ok q (State.storeCount a0 a1 a2 a3) := by
  intro _ _ _ _ _
  unfold State.storeCount
  try dsimp only
  repeat' (first
    | with_reducible assumption
    | with_reducible apply State.set_ok
    | with_reducible apply State.inc_ok
    | with_reducible apply Memory.setMark_wf
    | with_reducible apply Memory.write_wf
    | with_reducible apply Memory.writePieces_wf
    | with_reducible apply foldl_wf
    | (with_reducible apply State.Ok.wf (q := q))
    | dsimp only
    | split)

theorem State.storeRead_ok {q : Kept} : ∀ a0 a1 a2 a3 a4, State.Ok q a0 → State.Ok q (State.storeRead a0 a1 a2 a3 a4) := by
  intro _ _ _ _ _ _
  unfold State.storeRead
  try dsimp only
  repeat' (first
    | with_reducible assumption
    | with_reducible apply State.storeCount_ok
    | with_reducible apply foldl_ok
    | with_reducible apply foldl_fst_ok
    | with_reducible apply foldl_st_ok
    | with_reducible apply foldl_out_ok
    | dsimp only
    | split
    | with_reducible intro _)

theorem State.writeFld_ok {q : Kept} : ∀ a0 a1 a2 a3, State.Ok q a0 → State.Ok q (State.writeFld a0 a1 a2 a3) := by
  intro _ _ _ _ _
  unfold State.writeFld
  try dsimp only
  repeat' (first
    | with_reducible assumption
    | with_reducible apply State.set_ok
    | simp only [State.mk_ok]
    | with_reducible apply partsOk_same
    | dsimp only
    | split)

theorem State.writeFlds_ok {q : Kept} : ∀ a0 a1 a2 a3, State.Ok q a0 → State.Ok q (State.writeFlds a0 a1 a2 a3) := by
  intro _ _ _ _ _
  unfold State.writeFlds
  try dsimp only
  repeat' (first
    | with_reducible assumption
    | with_reducible apply State.writeFld_ok
    | with_reducible apply foldl_ok
    | with_reducible apply foldl_fst_ok
    | with_reducible apply foldl_st_ok
    | with_reducible apply foldl_out_ok
    | dsimp only
    | with_reducible intro _)

theorem State.ringBell_ok {q : Kept} : ∀ a0 a1 a2 a3 a4, State.Ok q a0 → State.Ok q (State.ringBell a0 a1 a2 a3 a4) := by
  intro _ _ _ _ _ _
  unfold State.ringBell
  try dsimp only
  repeat' (first
    | with_reducible assumption
    | with_reducible apply State.set_ok
    | with_reducible apply State.inc_ok
    | dsimp only
    | split)

theorem State.ringOwn_ok {q : Kept} : ∀ a0 a1 a2 a3 a4 a5, State.Ok q a0 → State.Ok q (State.ringOwn a0 a1 a2 a3 a4 a5) := by
  intro _ _ _ _ _ _ _
  unfold State.ringOwn
  try dsimp only
  repeat' (first
    | with_reducible assumption
    | with_reducible apply State.ringBell_ok
    | with_reducible apply State.inc_ok
    | dsimp only
    | split)

theorem State.notDue_ok {q : Kept} : ∀ a0, State.Ok q a0 → OutOk q (State.notDue a0) := by
  intro _ _
  unfold State.notDue
  try dsimp only
  repeat' (first
    | with_reducible assumption
    | with_reducible apply outNext_ok
    | with_reducible apply notDue_ok
    | with_reducible exact reservedCode_ok
    | with_reducible exact outFault_ok _
    | dsimp only)

end Sys2Proof.Machine
end

