-- ==== Sys2Proof/Laws/KeepFlags.lean ====
section
/-! SUPPORT. Laws/KeepFlags.lean: the operations of Machine/Flags.lean keep the canonical form and the queue (Laws/Ok.lean). -/

namespace Sys2Proof.Machine

theorem State.countPen_ok {q : Kept} : ∀ a0 a1 a2, State.Ok q a0 → State.Ok q (State.countPen a0 a1 a2) := by
  intro _ _ _ _
  unfold State.countPen
  try dsimp only
  repeat' (first
    | with_reducible assumption
    | with_reducible apply State.setPen_ok
    | simp only [State.mk_ok]
    | with_reducible apply partsOk_same
    | dsimp only
    | split)

theorem State.foldWrite_ok {q : Kept} : ∀ a0 a1 a2 a3 a4 a5, State.Ok q a0 → State.Ok q (State.foldWrite a0 a1 a2 a3 a4 a5) := by
  intro _ _ _ _ _ _ _
  unfold State.foldWrite
  try dsimp only
  repeat' (first
    | with_reducible assumption
    | with_reducible apply State.setCtx_ok
    | with_reducible apply State.set_ok
    | simp only [State.mk_ok]
    | with_reducible apply partsOk_same
    | with_reducible apply foldl_ok
    | with_reducible apply foldl_fst_ok
    | with_reducible apply foldl_st_ok
    | with_reducible apply foldl_out_ok
    | dsimp only
    | split)

theorem State.foldFor_ok {q : Kept} : ∀ a0 a1 a2 a3 a4, State.Ok q a0 → State.Ok q (State.foldFor a0 a1 a2 a3 a4) := by
  intro _ _ _ _ _ _
  unfold State.foldFor
  try dsimp only
  repeat' (first
    | with_reducible assumption
    | with_reducible apply State.foldWrite_ok
    | simp only [State.mk_ok]
    | with_reducible apply partsOk_same
    | with_reducible apply foldl_ok
    | with_reducible apply foldl_fst_ok
    | with_reducible apply foldl_st_ok
    | with_reducible apply foldl_out_ok
    | dsimp only
    | split)

theorem State.govBlock_ok {q : Kept} : ∀ a0 a1 a2 a3 a4 a5, State.Ok q a0 → State.Ok q (State.govBlock a0 a1 a2 a3 a4 a5) := by
  intro _ _ _ _ _ _ _
  unfold State.govBlock
  try dsimp only
  repeat' (first
    | with_reducible assumption
    | with_reducible apply State.setCtx_ok
    | with_reducible apply State.set_ok
    | simp only [State.mk_ok]
    | with_reducible apply partsOk_same
    | dsimp only)

theorem State.laneSat_ok {q : Kept} : ∀ a0 a1 a2 a3 a4, State.Ok q a0 → State.Ok q (State.laneSat a0 a1 a2 a3 a4) := by
  intro _ _ _ _ _ _
  unfold State.laneSat
  try dsimp only
  repeat' (first
    | with_reducible assumption
    | with_reducible apply State.set_ok
    | dsimp only
    | split)

theorem State.fuDomain_ok {q : Kept} : ∀ a0 a1 a2 a3 a4, State.Ok q a0 → State.Ok q (State.fuDomain a0 a1 a2 a3 a4) := by
  intro _ _ _ _ _ _
  unfold State.fuDomain
  try dsimp only
  repeat' (first
    | with_reducible assumption
    | with_reducible apply State.set_ok
    | dsimp only
    | split)

theorem State.poisonSeen_ok {q : Kept} : ∀ a0 a1 a2 a3 a4, State.Ok q a0 → State.Ok q (State.poisonSeen a0 a1 a2 a3 a4) := by
  intro _ _ _ _ _ _
  unfold State.poisonSeen
  try dsimp only
  repeat' (first
    | with_reducible assumption
    | with_reducible apply State.set_ok
    | dsimp only
    | split)

end Sys2Proof.Machine
end

