-- ==== Sys2Proof/Laws/KeepDram.lean ====
section
/-! SUPPORT. Laws/KeepDram.lean: the operations of Machine/Dram.lean keep the canonical form and the queue (Laws/Ok.lean). -/

namespace Sys2Proof.Machine

theorem State.draw_ok {q : Kept} : ∀ a0, State.Ok q a0 → State.Ok q (State.draw a0).2 := by
  intro _ _
  unfold State.draw
  try dsimp only
  repeat' (first
    | with_reducible assumption
    | simp only [State.mk_ok]
    | with_reducible apply partsOk_same
    | dsimp only)

theorem State.showHot_ok {q : Kept} : ∀ a0 a1 a2, State.Ok q a0 → State.Ok q (State.showHot a0 a1 a2) := by
  intro _ _ _ _
  unfold State.showHot
  try dsimp only
  repeat' (first
    | with_reducible assumption
    | with_reducible apply State.set_ok
    | dsimp only
    | split)

theorem State.countSlot_ok {q : Kept} : ∀ a0 a1 a2 a3, State.Ok q a0 → State.Ok q (State.countSlot a0 a1 a2 a3) := by
  intro _ _ _ _ _
  unfold State.countSlot
  try dsimp only
  repeat' (first
    | with_reducible assumption
    | with_reducible apply State.showHot_ok
    | with_reducible apply State.setYard_ok
    | with_reducible apply State.set_ok
    | simp only [State.mk_ok]
    | with_reducible apply partsOk_same
    | dsimp only
    | split)

theorem State.activate_ok {q : Kept} : ∀ a0 a1 a2 a3, State.Ok q a0 → State.Ok q (State.activate a0 a1 a2 a3) := by
  intro _ _ _ _ _
  unfold State.activate
  try dsimp only
  repeat' (first
    | with_reducible assumption
    | with_reducible apply State.setYard_ok
    | with_reducible apply State.set_ok
    | simp only [State.mk_ok]
    | with_reducible apply partsOk_same
    | dsimp only
    | split)

theorem State.takeSlot_ok {q : Kept} : ∀ a0 a1 a2 a3, State.Ok q a0 → State.Ok q (State.takeSlot a0 a1 a2 a3) := by
  intro _ _ _ _ _
  unfold State.takeSlot
  try dsimp only
  repeat' (first
    | with_reducible assumption
    | with_reducible apply State.countSlot_ok
    | with_reducible apply State.activate_ok
    | dsimp only)

theorem State.takeSlots_ok {q : Kept} : ∀ a0 a1 a2 a3 a4, State.Ok q a0 → State.Ok q (State.takeSlots a0 a1 a2 a3 a4) := by
  intro _ _ _ _ _ _
  unfold State.takeSlots
  try dsimp only
  repeat' (first
    | with_reducible assumption
    | with_reducible apply State.takeSlot_ok
    | with_reducible apply foldl_ok
    | with_reducible apply foldl_fst_ok
    | with_reducible apply foldl_st_ok
    | with_reducible apply foldl_out_ok
    | dsimp only
    | with_reducible intro _)

theorem State.queueWback_ok {q : Kept} : ∀ a0 a1 a2 a3, State.Ok q a0 → State.Ok q (State.queueWback a0 a1 a2 a3) := by
  intro _ _ _ _ _
  unfold State.queueWback
  try dsimp only
  repeat' (first
    | with_reducible assumption
    | with_reducible apply State.setYard_ok
    | simp only [State.mk_ok]
    | with_reducible apply partsOk_same
    | dsimp only
    | split
    | with_reducible intro _)

theorem State.codewordRead_ok {q : Kept} : ∀ a0 a1 a2 a3 a4, State.Ok q a0 → State.Ok q (State.codewordRead a0 a1 a2 a3 a4) := by
  intro _ _ _ _ _ _
  unfold State.codewordRead
  try dsimp only
  repeat' (first
    | with_reducible assumption
    | with_reducible apply State.setB_ok
    | with_reducible apply State.set_ok
    | with_reducible apply State.queueWback_ok
    | with_reducible apply State.inc_ok
    | with_reducible apply Memory.setMark_wf
    | with_reducible apply Memory.write_wf
    | with_reducible apply Memory.writePieces_wf
    | with_reducible apply foldl_wf
    | (with_reducible apply State.Ok.wf (q := q))
    | dsimp only
    | split)

theorem State.decode_ok {q : Kept} : ∀ a0 a1 a2, State.Ok q a0 → State.Ok q (State.decode a0 a1 a2) := by
  intro _ _ _ _
  unfold State.decode
  try dsimp only
  repeat' (first
    | with_reducible assumption
    | with_reducible apply State.codewordRead_ok
    | with_reducible apply foldl_ok
    | with_reducible apply foldl_fst_ok
    | with_reducible apply foldl_st_ok
    | with_reducible apply foldl_out_ok
    | dsimp only
    | with_reducible intro _)

theorem State.injectYard_ok {q : Kept} : ∀ a0 a1 a2, State.Ok q a0 → State.Ok q (State.injectYard a0 a1 a2) := by
  intro _ _ _ _
  unfold State.injectYard
  try dsimp only
  repeat' (first
    | with_reducible assumption
    | with_reducible apply State.draw_ok
    | with_reducible apply State.clearFlds_ok
    | simp only [State.mk_ok]
    | with_reducible apply partsOk_same
    | with_reducible apply partsOk_mem
    | with_reducible apply Memory.setMark_wf
    | with_reducible apply Memory.write_wf
    | with_reducible apply Memory.writePieces_wf
    | with_reducible apply foldl_wf
    | (with_reducible apply State.Ok.wf (q := q))
    | dsimp only
    | split)

theorem State.codewordStored_ok {q : Kept} : ∀ a0 a1 a2 a3, State.Ok q a0 → State.Ok q (State.codewordStored a0 a1 a2 a3) := by
  intro _ _ _ _ _
  unfold State.codewordStored
  try dsimp only
  repeat' (first
    | with_reducible assumption
    | with_reducible apply State.injectYard_ok
    | simp only [State.mk_ok]
    | with_reducible apply partsOk_same
    | with_reducible apply partsOk_mem
    | with_reducible apply Memory.setMark_wf
    | with_reducible apply Memory.write_wf
    | with_reducible apply Memory.writePieces_wf
    | with_reducible apply foldl_wf
    | (with_reducible apply State.Ok.wf (q := q))
    | dsimp only
    | split)

theorem State.unitStored_ok {q : Kept} : ∀ a0 a1 a2 a3 a4, State.Ok q a0 → State.Ok q (State.unitStored a0 a1 a2 a3 a4) := by
  intro _ _ _ _ _ _
  unfold State.unitStored
  try dsimp only
  repeat' (first
    | with_reducible assumption
    | with_reducible apply State.codewordStored_ok
    | with_reducible apply foldl_ok
    | with_reducible apply foldl_fst_ok
    | with_reducible apply foldl_st_ok
    | with_reducible apply foldl_out_ok
    | dsimp only
    | with_reducible intro _)

theorem State.dropWbacks_ok {q : Kept} : ∀ a0 a1 a2, State.Ok q a0 → State.Ok q (State.dropWbacks a0 a1 a2) := by
  intro _ _ _ _
  unfold State.dropWbacks
  try dsimp only
  repeat' (first
    | with_reducible assumption
    | with_reducible apply State.setYard_ok
    | simp only [State.mk_ok]
    | with_reducible apply partsOk_same
    | dsimp only
    | with_reducible intro _)

theorem State.pushChannel_ok {q : Kept} : ∀ a0 a1 a2 a3 a4 a5, State.Ok q a0 → State.Ok q (State.pushChannel a0 a1 a2 a3 a4 a5) := by
  intro _ _ _ _ _ _ _
  unfold State.pushChannel
  try dsimp only
  repeat' (first
    | with_reducible assumption
    | with_reducible apply State.setYard_ok
    | with_reducible apply State.set_ok
    | simp only [State.mk_ok]
    | with_reducible apply partsOk_same
    | dsimp only
    | split)

theorem State.evict_ok {q : Kept} : ∀ a0 a1 a2 a3, State.Ok q a0 → State.Ok q (State.evict a0 a1 a2 a3) := by
  intro _ _ _ _ _
  unfold State.evict
  try dsimp only
  repeat' (first
    | with_reducible assumption
    | with_reducible apply State.unitStored_ok
    | with_reducible apply State.takeSlots_ok
    | with_reducible apply State.setYard_ok
    | with_reducible apply State.pushChannel_ok
    | simp only [State.mk_ok]
    | with_reducible apply partsOk_same
    | dsimp only
    | split
    | with_reducible intro _)

theorem State.cacheTouch_ok {q : Kept} : ∀ a0 a1 a2 a3 a4 a5 a6, State.Ok q a0 → State.Ok q (State.cacheTouch a0 a1 a2 a3 a4 a5 a6).1 := by
  intro _ _ _ _ _ _ _ _
  unfold State.cacheTouch
  try dsimp only
  repeat' (first
    | with_reducible assumption
    | with_reducible apply State.setYard_ok
    | with_reducible apply State.inc_ok
    | with_reducible apply State.evict_ok
    | simp only [State.mk_ok]
    | with_reducible apply partsOk_same
    | dsimp only
    | split
    | with_reducible intro _)

theorem State.showWaiting_ok {q : Kept} : ∀ a0 a1, State.Ok q a0 → State.Ok q (State.showWaiting a0 a1) := by
  intro _ _ _
  unfold State.showWaiting
  try dsimp only
  repeat' (first
    | with_reducible assumption
    | with_reducible apply State.setYard_ok
    | with_reducible apply State.setPen_ok
    | with_reducible apply State.setB_ok
    | with_reducible apply State.set_ok
    | simp only [State.mk_ok]
    | with_reducible apply partsOk_same
    | with_reducible apply foldl_ok
    | with_reducible apply foldl_fst_ok
    | with_reducible apply foldl_st_ok
    | with_reducible apply foldl_out_ok
    | dsimp only
    | split
    | with_reducible intro _)

theorem State.setPage_ok {q : Kept} : ∀ a0 a1 a2 a3, State.Ok q a0 → State.Ok q (State.setPage a0 a1 a2 a3) := by
  intro _ _ _ _ _
  unfold State.setPage
  try dsimp only
  repeat' (first
    | with_reducible assumption
    | with_reducible apply State.setYard_ok
    | with_reducible apply State.set_ok
    | simp only [State.mk_ok]
    | with_reducible apply partsOk_same
    | dsimp only
    | with_reducible intro _)

theorem State.copyPage_ok {q : Kept} : ∀ a0 a1 a2 a3, State.Ok q a0 → State.Ok q (State.copyPage a0 a1 a2 a3) := by
  intro _ _ _ _ _
  unfold State.copyPage
  try dsimp only
  repeat' (first
    | with_reducible assumption
    | with_reducible apply State.injectYard_ok
    | with_reducible apply State.dropWbacks_ok
    | with_reducible apply State.codewordRead_ok
    | simp only [State.mk_ok]
    | with_reducible apply partsOk_same
    | with_reducible apply partsOk_mem
    | with_reducible apply Memory.setMark_wf
    | with_reducible apply Memory.write_wf
    | with_reducible apply Memory.writePieces_wf
    | with_reducible apply foldl_wf
    | (with_reducible apply State.Ok.wf (q := q))
    | with_reducible apply foldl_ok
    | with_reducible apply foldl_fst_ok
    | with_reducible apply foldl_st_ok
    | with_reducible apply foldl_out_ok
    | dsimp only
    | split
    | with_reducible intro _)

theorem State.drainPage_ok {q : Kept} : ∀ a0 a1 a2 a3, State.Ok q a0 → State.Ok q (State.drainPage a0 a1 a2 a3) := by
  intro _ _ _ _ _
  unfold State.drainPage
  try dsimp only
  repeat' (first
    | with_reducible assumption
    | with_reducible apply State.setPage_ok
    | with_reducible apply State.setCkp_ok
    | with_reducible apply State.set_ok
    | with_reducible apply State.copyPage_ok
    | simp only [State.mk_ok]
    | with_reducible apply partsOk_same
    | with_reducible apply Memory.setMark_wf
    | with_reducible apply Memory.write_wf
    | with_reducible apply Memory.writePieces_wf
    | with_reducible apply foldl_wf
    | (with_reducible apply State.Ok.wf (q := q))
    | with_reducible apply foldl_ok
    | with_reducible apply foldl_fst_ok
    | with_reducible apply foldl_st_ok
    | with_reducible apply foldl_out_ok
    | dsimp only
    | split
    | with_reducible intro _)

theorem State.redirect_ok {q : Kept} : ∀ a0 a1 a2 a3 a4 a5, State.Ok q a0 → State.Ok q (State.redirect a0 a1 a2 a3 a4 a5) := by
  intro _ _ _ _ _ _ _
  unfold State.redirect
  try dsimp only
  repeat' (first
    | with_reducible assumption
    | with_reducible apply State.setPage_ok
    | with_reducible apply State.set_ok
    | with_reducible apply State.copyPage_ok
    | dsimp only
    | split)

theorem State.holdAt_ok {q : Kept} : ∀ a0 a1 a2 a3, State.Ok q a0 → State.Ok q (State.holdAt a0 a1 a2 a3) := by
  intro _ _ _ _ _
  unfold State.holdAt
  try dsimp only
  repeat' (first
    | with_reducible assumption
    | simp only [State.mk_ok]
    | with_reducible apply partsOk_same
    | dsimp only
    | split)

theorem State.cowReady_ok {q : Kept} : ∀ a0 a1 a2 a3, State.Ok q a0 → State.Ok q (State.cowReady a0 a1 a2 a3) := by
  intro _ _ _ _ _
  unfold State.cowReady
  try dsimp only
  repeat' (first
    | with_reducible assumption
    | with_reducible apply State.redirect_ok
    | with_reducible apply State.holdAt_ok
    | simp only [State.mk_ok]
    | with_reducible apply partsOk_same
    | dsimp only
    | split)

theorem State.noteHold_ok {q : Kept} : ∀ a0 a1, State.Ok q a0 → State.Ok q (State.noteHold a0 a1) := by
  intro _ _ _
  unfold State.noteHold
  try dsimp only
  repeat' (first
    | with_reducible assumption
    | with_reducible apply State.showWaiting_ok
    | with_reducible apply State.setYard_ok
    | simp only [State.mk_ok]
    | with_reducible apply partsOk_same
    | dsimp only
    | split
    | with_reducible intro _)

theorem State.yardStep_ok {q : Kept} : ∀ a0 a1, State.Ok q a0 → (∀ x0, State.Ok q x0 → OutOk q (a1 x0)) → OutOk q (State.yardStep a0 a1) := by
  intro s f hs hf
  have hn : State.Ok q { s with yardHold := none } := hs
  have h := hf _ hn
  unfold State.yardStep
  split
  · rename_i t e
    split
    · exact outNext_ok (State.noteHold_ok _ _ hn)
    · exact outNext_ok (h t e)
  · exact h

theorem State.notHeld_ok {q : Kept} : ∀ a0 a1, State.Ok q a0 → State.Ok q a1 → State.Ok q (State.notHeld a0 a1) := by
  intro _ _ _ _
  unfold State.notHeld
  try dsimp only
  repeat' (first
    | with_reducible assumption
    | simp only [State.mk_ok]
    | with_reducible apply partsOk_same
    | dsimp only)

theorem State.deliverHit_ok {q : Kept} : ∀ a0 a1 a2, State.Ok q a0 → State.Ok q (State.deliverHit a0 a1 a2) := by
  intro _ _ _ _
  unfold State.deliverHit
  try dsimp only
  repeat' (first
    | with_reducible assumption
    | with_reducible apply State.inc_ok
    | with_reducible apply Memory.setMark_wf
    | with_reducible apply Memory.write_wf
    | with_reducible apply Memory.writePieces_wf
    | with_reducible apply foldl_wf
    | (with_reducible apply State.Ok.wf (q := q))
    | dsimp only
    | split)

theorem State.lineAccess_ok {q : Kept} : ∀ a0 a1 a2 a3 a4 a5 a6 a7, State.Ok q a0 → State.Ok q (State.lineAccess a0 a1 a2 a3 a4 a5 a6 a7) := by
  intro _ _ _ _ _ _ _ _ _
  unfold State.lineAccess
  try dsimp only
  repeat' (first
    | with_reducible assumption
    | with_reducible apply State.takeSlots_ok
    | with_reducible apply State.holdAt_ok
    | with_reducible apply State.deliverHit_ok
    | with_reducible apply State.decode_ok
    | with_reducible apply State.cacheTouch_ok
    | simp only [State.mk_ok]
    | with_reducible apply partsOk_same
    | with_reducible apply foldl_ok
    | with_reducible apply foldl_fst_ok
    | with_reducible apply foldl_st_ok
    | with_reducible apply foldl_out_ok
    | dsimp only
    | split
    | with_reducible intro _)

theorem State.yardRead_ok {q : Kept} : ∀ a0 a1 a2 a3 a4 a5, State.Ok q a0 → State.Ok q (State.yardRead a0 a1 a2 a3 a4 a5) := by
  intro _ _ _ _ _ _ _
  unfold State.yardRead
  try dsimp only
  repeat' (first
    | with_reducible assumption
    | with_reducible apply State.lineAccess_ok
    | with_reducible apply foldl_ok
    | with_reducible apply foldl_fst_ok
    | with_reducible apply foldl_st_ok
    | with_reducible apply foldl_out_ok
    | dsimp only
    | with_reducible intro _)

theorem State.yardPut_ok {q : Kept} : ∀ a0 a1 a2 a3, State.Ok q a0 → State.Ok q (State.yardPut a0 a1 a2 a3) := by
  intro _ _ _ _ _
  unfold State.yardPut
  try dsimp only
  repeat' (first
    | with_reducible assumption
    | with_reducible apply State.dropWbacks_ok
    | simp only [State.mk_ok]
    | with_reducible apply partsOk_same
    | with_reducible apply partsOk_mem
    | with_reducible apply Memory.setMark_wf
    | with_reducible apply Memory.write_wf
    | with_reducible apply Memory.writePieces_wf
    | with_reducible apply foldl_wf
    | (with_reducible apply State.Ok.wf (q := q))
    | dsimp only)

theorem State.yardStore_ok {q : Kept} : ∀ a0 a1 a2 a3 a4 a5 a6, State.Ok q a0 → State.Ok q (State.yardStore a0 a1 a2 a3 a4 a5 a6) := by
  intro _ _ _ _ _ _ _ _
  unfold State.yardStore
  try dsimp only
  repeat' (first
    | with_reducible assumption
    | with_reducible apply State.yardPut_ok
    | with_reducible apply State.unitStored_ok
    | with_reducible apply State.lineAccess_ok
    | with_reducible apply State.cowReady_ok
    | dsimp only
    | split)

theorem State.putRun_ok {q : Kept} : ∀ a0 a1 a2 a3 a4, State.Ok q a0 → State.Ok q (State.putRun a0 a1 a2 a3 a4) := by
  intro _ _ _ _ _ _
  unfold State.putRun
  try dsimp only
  repeat' (first
    | with_reducible assumption
    | with_reducible apply State.yardStore_ok
    | simp only [State.mk_ok]
    | with_reducible apply partsOk_same
    | with_reducible apply partsOk_mem
    | with_reducible apply Memory.setMark_wf
    | with_reducible apply Memory.write_wf
    | with_reducible apply Memory.writePieces_wf
    | with_reducible apply foldl_wf
    | (with_reducible apply State.Ok.wf (q := q))
    | dsimp only
    | split)

theorem State.putPieces_ok {q : Kept} : ∀ a0 a1 a2 a3 a4, State.Ok q a0 → State.Ok q (State.putPieces a0 a1 a2 a3 a4) := by
  intro _ _ _ _ _ _
  unfold State.putPieces
  try dsimp only
  repeat' (first
    | with_reducible assumption
    | with_reducible apply State.putRun_ok
    | with_reducible apply foldl_ok
    | with_reducible apply foldl_fst_ok
    | with_reducible apply foldl_st_ok
    | with_reducible apply foldl_out_ok
    | dsimp only
    | with_reducible intro _)

theorem State.countRead_ok {q : Kept} : ∀ a0 a1 a2 a3, State.Ok q a0 → State.Ok q (State.countRead a0 a1 a2 a3) := by
  intro _ _ _ _ _
  unfold State.countRead
  try dsimp only
  repeat' (first
    | with_reducible assumption
    | with_reducible apply State.yardRead_ok
    | dsimp only
    | split)

theorem State.localWrite_ok {q : Kept} : ∀ a0 a1 a2 a3 a4, State.Ok q a0 → State.Ok q (State.localWrite a0 a1 a2 a3 a4) := by
  intro _ _ _ _ _ _
  unfold State.localWrite
  try dsimp only
  repeat' (first
    | with_reducible assumption
    | with_reducible apply State.putPieces_ok
    | dsimp only)

end Sys2Proof.Machine
end

