-- ==== Sys2Proof/Laws/KeepRoute.lean ====
section
/-! SUPPORT. Laws/KeepRoute.lean: the operations of Machine/Route.lean keep the canonical form and the queue (Laws/Ok.lean). -/

namespace Sys2Proof.Machine

theorem State.enqueue_ok {q : Kept} : ∀ a0 a1 a2 a3 a4, State.Ok q a0 → State.Ok q (State.enqueue a0 a1 a2 a3 a4) := by
  intro _ _ _ _ _ _
  unfold State.enqueue
  try dsimp only
  repeat' (first
    | with_reducible assumption
    | with_reducible apply State.setPort_ok
    | with_reducible apply State.set_ok
    | simp only [State.mk_ok]
    | with_reducible apply partsOk_same
    | dsimp only
    | split)

theorem State.route_ok {q : Kept} : ∀ a0 a1 a2 a3 a4, State.Ok q a0 → State.Ok q (State.route a0 a1 a2 a3 a4).1 := by
  intro _ _ _ _ _ _
  unfold State.route
  try dsimp only
  repeat' (first
    | with_reducible assumption
    | with_reducible apply State.inc_ok
    | with_reducible apply State.enqueue_ok
    | simp only [State.mk_ok]
    | with_reducible apply partsOk_same
    | dsimp only
    | split)

theorem State.emit_ok {q : Kept} : ∀ a0 a1 a2, State.Ok q a0 → State.Ok q (State.emit a0 a1 a2) := by
  intro _ _ _ _
  unfold State.emit
  try dsimp only
  repeat' (first
    | with_reducible assumption
    | with_reducible apply State.route_ok
    | dsimp only)

theorem State.ringHere_ok {q : Kept} : ∀ a0 a1 a2 a3 a4, State.Ok q a0 → State.Ok q (State.ringHere a0 a1 a2 a3 a4) := by
  intro _ _ _ _ _ _
  unfold State.ringHere
  try dsimp only
  repeat' (first
    | with_reducible assumption
    | with_reducible apply State.ringOwn_ok
    | with_reducible apply State.inc_ok
    | with_reducible apply State.draw_ok
    | dsimp only
    | split)

theorem State.ringName_ok {q : Kept} : ∀ a0 a1 a2 a3 a4, State.Ok q a0 → State.Ok q (State.ringName a0 a1 a2 a3 a4) := by
  intro _ _ _ _ _ _
  unfold State.ringName
  try dsimp only
  repeat' (first
    | with_reducible assumption
    | with_reducible apply State.ringHere_ok
    | with_reducible apply State.emit_ok
    | dsimp only
    | split)

end Sys2Proof.Machine
end

