-- ==== Sys2Proof/Laws/KeepWindows.lean ====
section
/-! SUPPORT. Laws/KeepWindows.lean: the operations of Machine/Windows.lean keep the canonical form and the queue (Laws/Ok.lean). -/

namespace Sys2Proof.Machine

theorem State.showDepth_ok {q : Kept} : ∀ a0 a1 a2 a3, State.Ok q a0 → State.Ok q (State.showDepth a0 a1 a2 a3) := by
  intro _ _ _ _ _
  unfold State.showDepth
  try dsimp only
  repeat' (first
    | with_reducible assumption
    | with_reducible apply State.setB_ok
    | with_reducible apply State.set_ok
    | dsimp only)

theorem State.queueCmd_ok {q : Kept} : ∀ a0 a1 a2 a3 a4, State.Ok q a0 → State.Ok q (State.queueCmd a0 a1 a2 a3 a4) := by
  intro _ _ _ _ _ _
  unfold State.queueCmd
  try dsimp only
  repeat' (first
    | with_reducible assumption
    | with_reducible apply State.showDepth_ok
    | with_reducible apply State.setEngine_ok
    | with_reducible apply State.set_ok
    | simp only [State.mk_ok]
    | with_reducible apply partsOk_same
    | dsimp only)

theorem State.windowWrite_ok {q : Kept} : ∀ a0 a1 a2 a3 a4 a5 a6, State.Ok q a0 → State.Ok q (State.windowWrite a0 a1 a2 a3 a4 a5 a6) := by
  intro _ _ _ _ _ _ _ _
  unfold State.windowWrite
  try dsimp only
  repeat' (first
    | with_reducible assumption
    | with_reducible apply State.setEngine_ok
    | with_reducible apply State.set_ok
    | with_reducible apply State.queueCmd_ok
    | with_reducible apply State.answer_ok
    | simp only [State.mk_ok]
    | with_reducible apply partsOk_same
    | dsimp only
    | split)

theorem State.windowRoom_ok {q : Kept} : ∀ a0 a1 a2 a3, State.Ok q a0 → State.Ok q (State.windowRoom a0 a1 a2 a3) := by
  intro _ _ _ _ _
  unfold State.windowRoom
  try dsimp only
  repeat' (first
    | with_reducible assumption
    | with_reducible apply State.setEngine_ok
    | with_reducible apply State.set_ok
    | with_reducible apply State.queueCmd_ok
    | with_reducible apply State.answer_ok
    | simp only [State.mk_ok]
    | with_reducible apply partsOk_same
    | dsimp only)

theorem State.beginRun_ok {q : Kept} : ∀ a0 a1 a2 a3 a4 a5, State.Ok q a0 → State.Ok q (State.beginRun a0 a1 a2 a3 a4 a5) := by
  intro _ _ _ _ _ _ _
  unfold State.beginRun
  try dsimp only
  repeat' (first
    | with_reducible assumption
    | with_reducible apply State.showDepth_ok
    | with_reducible apply State.setEngine_ok
    | with_reducible apply State.set_ok
    | simp only [State.mk_ok]
    | with_reducible apply partsOk_same
    | dsimp only)

theorem State.setRun_ok {q : Kept} : ∀ a0 a1 a2 a3, State.Ok q a0 → State.Ok q (State.setRun a0 a1 a2 a3) := by
  intro _ _ _ _ _
  unfold State.setRun
  try dsimp only
  repeat' (first
    | with_reducible assumption
    | with_reducible apply State.setEngine_ok
    | simp only [State.mk_ok]
    | with_reducible apply partsOk_same
    | dsimp only)

theorem State.xchError_ok {q : Kept} : ∀ a0 a1 a2 a3, State.Ok q a0 → State.Ok q (State.xchError a0 a1 a2 a3) := by
  intro _ _ _ _ _
  unfold State.xchError
  try dsimp only
  repeat' (first
    | with_reducible assumption
    | with_reducible apply State.set_ok
    | simp only [State.mk_ok]
    | with_reducible apply partsOk_same
    | dsimp only
    | split)

theorem State.showCounts_ok {q : Kept} : ∀ a0 a1 a2, State.Ok q a0 → State.Ok q (State.showCounts a0 a1 a2) := by
  intro _ _ _ _
  unfold State.showCounts
  try dsimp only
  repeat' (first
    | with_reducible assumption
    | with_reducible apply State.set_ok
    | dsimp only
    | with_reducible intro _)

theorem State.setEngCount_ok {q : Kept} : ∀ a0 a1 a2 a3 a4, State.Ok q a0 → State.Ok q (State.setEngCount a0 a1 a2 a3 a4) := by
  intro _ _ _ _ _ _
  unfold State.setEngCount
  try dsimp only
  repeat' (first
    | with_reducible assumption
    | with_reducible apply State.showCounts_ok
    | with_reducible apply State.setEngine_ok
    | with_reducible apply State.set_ok
    | simp only [State.mk_ok]
    | with_reducible apply partsOk_same
    | dsimp only)

theorem State.countCommand_ok {q : Kept} : ∀ a0 a1 a2 a3 a4, State.Ok q a0 → State.Ok q (State.countCommand a0 a1 a2 a3 a4) := by
  intro _ _ _ _ _ _
  unfold State.countCommand
  try dsimp only
  repeat' (first
    | with_reducible assumption
    | with_reducible apply State.setEngCount_ok
    | dsimp only)

theorem State.completeRun_ok {q : Kept} : ∀ a0 a1 a2 a3, State.Ok q a0 → State.Ok q (State.completeRun a0 a1 a2 a3) := by
  intro _ _ _ _ _
  unfold State.completeRun
  try dsimp only
  repeat' (first
    | with_reducible assumption
    | with_reducible apply State.xchError_ok
    | with_reducible apply State.setEngine_ok
    | with_reducible apply State.set_ok
    | with_reducible apply State.ringName_ok
    | with_reducible apply State.localWrite_ok
    | with_reducible apply State.countCommand_ok
    | simp only [State.mk_ok]
    | with_reducible apply partsOk_same
    | dsimp only
    | split)

theorem YardWork.start_ok {q : Kept} : ∀ a0 a1, State.Ok q a0 → State.Ok q (YardWork.start a0 a1).st := by
  intro _ _ _
  unfold YardWork.start
  try dsimp only
  repeat' (first
    | with_reducible assumption
    | dsimp only
    | split)

theorem YardWork.blockPart_ok {q : Kept} : ∀ a0 a1 a2 a3 a4 a5 a6 a7 a8, State.Ok q a0.st → 
    State.Ok q (YardWork.blockPart a0 a1 a2 a3 a4 a5 a6 a7 a8).st := by
  intro _ _ _ _ _ _ _ _ _ _
  unfold YardWork.blockPart
  try dsimp only
  repeat' (first
    | with_reducible assumption
    | with_reducible apply State.foldFor_ok
    | simp only [State.mk_ok]
    | with_reducible apply partsOk_same
    | with_reducible apply foldl_ok
    | with_reducible apply foldl_fst_ok
    | with_reducible apply foldl_st_ok
    | with_reducible apply foldl_out_ok
    | dsimp only
    | split
    | with_reducible intro _)

theorem YardWork.block_ok {q : Kept} : ∀ a0 a1 a2 a3 a4 a5 a6 a7, State.Ok q a0.st → State.Ok q (YardWork.block a0 a1 a2 a3 a4 a5 a6 a7).st := by
  intro _ _ _ _ _ _ _ _ _
  unfold YardWork.block
  try dsimp only
  repeat' (first
    | with_reducible assumption
    | with_reducible apply YardWork.blockPart_ok
    | dsimp only
    | with_reducible intro _)

theorem YardWork.container_ok {q : Kept} : ∀ a0 a1 a2 a3 a4 a5 a6, State.Ok q a0.st → State.Ok q (YardWork.container a0 a1 a2 a3 a4 a5 a6).st := by
  intro _ _ _ _ _ _ _ _
  unfold YardWork.container
  try dsimp only
  repeat' (first
    | with_reducible assumption
    | with_reducible apply State.foldFor_ok
    | simp only [State.mk_ok]
    | with_reducible apply partsOk_same
    | with_reducible apply foldl_ok
    | with_reducible apply foldl_fst_ok
    | with_reducible apply foldl_st_ok
    | with_reducible apply foldl_out_ok
    | dsimp only
    | split)

theorem YardWork.count_ok {q : Kept} : ∀ a0 a1 a2, State.Ok q a0.st → State.Ok q (YardWork.count a0 a1 a2).st := by
  intro _ _ _ _
  unfold YardWork.count
  try dsimp only
  repeat' (first
    | with_reducible assumption
    | simp only [State.mk_ok]
    | with_reducible apply partsOk_same
    | dsimp only)

theorem YardWork.finishBlock_ok {q : Kept} : ∀ a0 a1 a2 a3 a4 a5 a6 a7, State.Ok q a0.st → 
    State.Ok q (YardWork.finishBlock a0 a1 a2 a3 a4 a5 a6 a7).st := by
  intro _ _ _ _ _ _ _ _ _
  unfold YardWork.finishBlock
  try dsimp only
  repeat' (first
    | with_reducible assumption
    | with_reducible apply YardWork.count_ok
    | with_reducible apply YardWork.block_ok
    | dsimp only
    | with_reducible intro _)

theorem YardWork.finishAcc_ok {q : Kept} : ∀ a0 a1 a2 a3 a4 a5 a6, State.Ok q a0.st → State.Ok q (YardWork.finishAcc a0 a1 a2 a3 a4 a5 a6).st := by
  intro _ _ _ _ _ _ _ _
  unfold YardWork.finishAcc
  try dsimp only
  repeat' (first
    | with_reducible assumption
    | with_reducible apply YardWork.count_ok
    | with_reducible apply YardWork.container_ok
    | dsimp only
    | split)

theorem overBlocks_ok {q : Kept} : ∀ a0 a1 a2 a3 a4, (∀ x0 x1 x2, State.Ok q x0.st → State.Ok q (a3 x0 x1 x2).st) → State.Ok q a4.st → 
    State.Ok q (overBlocks a0 a1 a2 a3 a4).st := by
  intro _ _ _ _ _ hf0 _
  unfold overBlocks
  try dsimp only
  repeat' (first
    | with_reducible assumption
    | with_reducible apply hf0
    | simp only
    | with_reducible apply partsOk_same
    | with_reducible apply foldl_ok
    | with_reducible apply foldl_fst_ok
    | with_reducible apply foldl_st_ok
    | with_reducible apply foldl_out_ok
    | dsimp only
    | with_reducible intro _)

theorem State.readRows_ok {q : Kept} : ∀ a0 a1 a2 a3 a4 a5 a6, State.Ok q a0 → State.Ok q (State.readRows a0 a1 a2 a3 a4 a5 a6) := by
  intro _ _ _ _ _ _ _ _
  unfold State.readRows
  try dsimp only
  repeat' (first
    | with_reducible assumption
    | with_reducible apply YardWork.block_ok
    | with_reducible apply State.yardRead_ok
    | dsimp only
    | split)

theorem YardWork.done_ok {q : Kept} : ∀ a0 a1 a2 a3 a4 a5, State.Ok q a0.st → State.Ok q (YardWork.done a0 a1 a2 a3 a4 a5) := by
  intro _ _ _ _ _ _ _
  unfold YardWork.done
  try dsimp only
  repeat' (first
    | with_reducible assumption
    | with_reducible apply State.setRun_ok
    | with_reducible apply State.putPieces_ok
    | simp only [State.mk_ok]
    | with_reducible apply partsOk_same
    | dsimp only)

theorem YardWork.units_ok {q : Kept} : ∀ a0 a1 a2, State.Ok q a0.st → State.Ok q (YardWork.units a0 a1 a2) := by
  intro _ _ _ _
  unfold YardWork.units
  try dsimp only
  repeat' (first
    | with_reducible assumption
    | with_reducible apply State.putRun_ok
    | with_reducible apply foldl_ok
    | with_reducible apply foldl_fst_ok
    | with_reducible apply foldl_st_ok
    | with_reducible apply foldl_out_ok
    | dsimp only
    | with_reducible intro _)

end Sys2Proof.Machine
end

