-- ==== Sys2Proof/Laws/KeepExchange.lean ====
section
/-! SUPPORT. Laws/KeepExchange.lean: the operations of Machine/Exchange.lean keep the canonical form and the queue (Laws/Ok.lean). -/

namespace Sys2Proof.Machine

theorem YardWork.exchangeBlock_ok {q : Kept} : ∀ a0 a1 a2 a3 a4 a5 a6 a7 a8 a9 a10, State.Ok q a0.st → 
    State.Ok q (YardWork.exchangeBlock a0 a1 a2 a3 a4 a5 a6 a7 a8 a9 a10).st := by
  intro _ _ _ _ _ _ _ _ _ _ _ _
  unfold YardWork.exchangeBlock
  try dsimp only
  repeat' (first
    | with_reducible assumption
    | with_reducible apply YardWork.finishBlock_ok
    | dsimp only
    | split
    | with_reducible intro _)

theorem State.narrow_ok {q : Kept} : ∀ a0 a1 a2, State.Ok q a0 → State.Ok q (State.narrow a0 a1 a2).st := by
  intro _ _ _ _
  unfold State.narrow
  try dsimp only
  repeat' (first
    | with_reducible assumption
    | with_reducible apply overBlocks_ok
    | with_reducible apply YardWork.start_ok
    | with_reducible apply YardWork.exchangeBlock_ok
    | with_reducible apply State.readRows_ok
    | dsimp only
    | with_reducible intro _)

theorem State.widen_ok {q : Kept} : ∀ a0 a1 a2, State.Ok q a0 → State.Ok q (State.widen a0 a1 a2).st := by
  intro _ _ _ _
  unfold State.widen
  try dsimp only
  repeat' (first
    | with_reducible assumption
    | with_reducible apply overBlocks_ok
    | with_reducible apply YardWork.start_ok
    | with_reducible apply YardWork.exchangeBlock_ok
    | with_reducible apply State.readRows_ok
    | dsimp only
    | split
    | with_reducible intro _)

theorem Import.block_ok {q : Kept} : ∀ a0 a1 a2 a3 a4 a5 a6 a7, State.Ok q a0.out.st → 
    State.Ok q (Import.block a0 a1 a2 a3 a4 a5 a6 a7).out.st := by
  intro _ _ _ _ _ _ _ _ _
  unfold Import.block
  try dsimp only
  repeat' (first
    | with_reducible assumption
    | with_reducible apply YardWork.container_ok
    | with_reducible apply YardWork.block_ok
    | simp only [State.mk_ok]
    | with_reducible apply partsOk_same
    | dsimp only
    | split
    | with_reducible intro _)

theorem State.importRows_ok {q : Kept} : ∀ a0 a1 a2 a3 a4 a5 a6 a7, State.Ok q a0 → 
    State.Ok q (State.importRows a0 a1 a2 a3 a4 a5 a6 a7).out.st := by
  intro _ _ _ _ _ _ _ _ _
  unfold State.importRows
  try dsimp only
  repeat' (first
    | with_reducible assumption
    | with_reducible apply YardWork.start_ok
    | with_reducible apply YardWork.block_ok
    | with_reducible apply Import.block_ok
    | simp only
    | with_reducible apply partsOk_same
    | with_reducible apply foldl_ok
    | with_reducible apply foldl_fst_ok
    | with_reducible apply foldl_st_ok
    | with_reducible apply foldl_out_ok
    | dsimp only
    | split
    | with_reducible intro _)

theorem State.importCmd_ok {q : Kept} : ∀ a0 a1 a2, State.Ok q a0 → State.Ok q (State.importCmd a0 a1 a2).st := by
  intro _ _ _ _
  unfold State.importCmd
  try dsimp only
  repeat' (first
    | with_reducible assumption
    | with_reducible apply State.yardRead_ok
    | with_reducible apply State.importRows_ok
    | with_reducible apply State.countPen_ok
    | simp only [State.mk_ok]
    | with_reducible apply partsOk_same
    | dsimp only
    | split)

theorem State.exportCmd_ok {q : Kept} : ∀ a0 a1 a2, State.Ok q a0 → State.Ok q (State.exportCmd a0 a1 a2).st := by
  intro _ _ _ _
  unfold State.exportCmd
  try dsimp only
  repeat' (first
    | with_reducible assumption
    | with_reducible apply YardWork.start_ok
    | with_reducible apply State.readRows_ok
    | with_reducible apply State.countPen_ok
    | simp only [State.mk_ok]
    | with_reducible apply partsOk_same
    | dsimp only)

theorem State.xchWork_ok {q : Kept} : ∀ a0 a1 a2, State.Ok q a0 → State.Ok q (State.xchWork a0 a1 a2).st := by
  intro _ _ _ _
  unfold State.xchWork
  try dsimp only
  repeat' (first
    | with_reducible assumption
    | with_reducible apply State.widen_ok
    | with_reducible apply State.narrow_ok
    | with_reducible apply State.importCmd_ok
    | with_reducible apply State.exportCmd_ok
    | simp only [State.mk_ok]
    | with_reducible apply partsOk_same
    | dsimp only
    | split)

theorem State.xchStep_ok {q : Kept} : ∀ a0 a1 a2 a3, State.Ok q a0 → (∀ x0 x1, State.Ok q x0 → State.Ok q (a3 x0 x1).st) → 
    OutOk q (State.xchStep a0 a1 a2 a3) := by
  intro _ _ _ _ _ hf1
  unfold State.xchStep
  try dsimp only
  repeat' (first
    | with_reducible assumption
    | with_reducible apply outNext_ok
    | with_reducible apply notDue_ok
    | with_reducible exact reservedCode_ok
    | with_reducible exact outFault_ok _
    | with_reducible apply YardWork.done_ok
    | with_reducible apply State.yardStep_ok
    | with_reducible apply State.notDue_ok
    | with_reducible apply hf1
    | simp only [State.mk_ok]
    | with_reducible apply partsOk_same
    | dsimp only
    | split
    | with_reducible intro _)

theorem execNarrow_ok {q : Kept} : ∀ a0 a1, State.Ok q a1 → OutOk q (execNarrow a0 a1) := by
  intro _ _ _
  unfold execNarrow
  try dsimp only
  repeat' (first
    | with_reducible assumption
    | with_reducible apply outNext_ok
    | with_reducible apply notDue_ok
    | with_reducible exact reservedCode_ok
    | with_reducible exact outFault_ok _
    | with_reducible apply State.xchStep_ok
    | with_reducible apply State.narrow_ok
    | dsimp only
    | with_reducible intro _)

theorem execWiden_ok {q : Kept} : ∀ a0 a1, State.Ok q a1 → OutOk q (execWiden a0 a1) := by
  intro _ _ _
  unfold execWiden
  try dsimp only
  repeat' (first
    | with_reducible assumption
    | with_reducible apply outNext_ok
    | with_reducible apply notDue_ok
    | with_reducible exact reservedCode_ok
    | with_reducible exact outFault_ok _
    | with_reducible apply State.xchStep_ok
    | with_reducible apply State.widen_ok
    | dsimp only
    | with_reducible intro _)

theorem execImp_ok {q : Kept} : ∀ a0 a1, State.Ok q a1 → OutOk q (execImp a0 a1) := by
  intro _ _ _
  unfold execImp
  try dsimp only
  repeat' (first
    | with_reducible assumption
    | with_reducible apply outNext_ok
    | with_reducible apply notDue_ok
    | with_reducible exact reservedCode_ok
    | with_reducible exact outFault_ok _
    | with_reducible apply State.xchStep_ok
    | with_reducible apply State.importCmd_ok
    | dsimp only
    | with_reducible intro _)

theorem execExp_ok {q : Kept} : ∀ a0 a1, State.Ok q a1 → OutOk q (execExp a0 a1) := by
  intro _ _ _
  unfold execExp
  try dsimp only
  repeat' (first
    | with_reducible assumption
    | with_reducible apply outNext_ok
    | with_reducible apply notDue_ok
    | with_reducible exact reservedCode_ok
    | with_reducible exact outFault_ok _
    | with_reducible apply State.xchStep_ok
    | with_reducible apply State.exportCmd_ok
    | dsimp only
    | with_reducible intro _)

end Sys2Proof.Machine
end

