-- ==== Sys2Proof/Laws/KeepYardEngines.lean ====
section
/-! SUPPORT. Laws/KeepYardEngines.lean: the operations of Machine/YardEngines.lean keep the canonical form and the queue (Laws/Ok.lean). -/

namespace Sys2Proof.Machine

theorem State.atomic_ok {q : Kept} : ∀ a0 a1 a2 a3 a4 a5 a6, State.Ok q a0 → State.Ok q (State.atomic a0 a1 a2 a3 a4 a5 a6).1 := by
  intro _ _ _ _ _ _ _ _
  unfold State.atomic
  try dsimp only
  repeat' (first
    | with_reducible assumption
    | with_reducible apply State.yardStore_ok
    | with_reducible apply State.setYard_ok
    | with_reducible apply State.set_ok
    | simp only [State.mk_ok]
    | with_reducible apply partsOk_same
    | dsimp only)

theorem State.atomCmd_ok {q : Kept} : ∀ a0 a1 a2 a3 a4 a5, State.Ok q a0 → OutOk q (State.atomCmd a0 a1 a2 a3 a4 a5) := by
  intro _ _ _ _ _ _ _
  unfold State.atomCmd
  try dsimp only
  repeat' (first
    | with_reducible assumption
    | with_reducible apply outNext_ok
    | with_reducible apply notDue_ok
    | with_reducible exact reservedCode_ok
    | with_reducible exact outFault_ok _
    | with_reducible apply State.yardStep_ok
    | with_reducible apply State.atomic_ok
    | with_reducible apply State.answer_ok
    | dsimp only
    | split
    | with_reducible intro _)

theorem execAtomAdd_ok {q : Kept} : ∀ a0 a1 a2 a3, State.Ok q a3 → OutOk q (execAtomAdd a0 a1 a2 a3) := by
  intro _ _ _ _ _
  unfold execAtomAdd
  try dsimp only
  repeat' (first
    | with_reducible assumption
    | with_reducible apply outNext_ok
    | with_reducible apply notDue_ok
    | with_reducible exact reservedCode_ok
    | with_reducible exact outFault_ok _
    | with_reducible apply State.atomCmd_ok
    | dsimp only)

theorem execAtomMin_ok {q : Kept} : ∀ a0 a1 a2 a3, State.Ok q a3 → OutOk q (execAtomMin a0 a1 a2 a3) := by
  intro _ _ _ _ _
  unfold execAtomMin
  try dsimp only
  repeat' (first
    | with_reducible assumption
    | with_reducible apply outNext_ok
    | with_reducible apply notDue_ok
    | with_reducible exact reservedCode_ok
    | with_reducible exact outFault_ok _
    | with_reducible apply State.atomCmd_ok
    | dsimp only)

theorem execAtomMax_ok {q : Kept} : ∀ a0 a1 a2 a3, State.Ok q a3 → OutOk q (execAtomMax a0 a1 a2 a3) := by
  intro _ _ _ _ _
  unfold execAtomMax
  try dsimp only
  repeat' (first
    | with_reducible assumption
    | with_reducible apply outNext_ok
    | with_reducible apply notDue_ok
    | with_reducible exact reservedCode_ok
    | with_reducible exact outFault_ok _
    | with_reducible apply State.atomCmd_ok
    | dsimp only)

theorem execAtomAnd_ok {q : Kept} : ∀ a0 a1 a2 a3, State.Ok q a3 → OutOk q (execAtomAnd a0 a1 a2 a3) := by
  intro _ _ _ _ _
  unfold execAtomAnd
  try dsimp only
  repeat' (first
    | with_reducible assumption
    | with_reducible apply outNext_ok
    | with_reducible apply notDue_ok
    | with_reducible exact reservedCode_ok
    | with_reducible exact outFault_ok _
    | with_reducible apply State.atomCmd_ok
    | dsimp only)

theorem execAtomOr_ok {q : Kept} : ∀ a0 a1 a2 a3, State.Ok q a3 → OutOk q (execAtomOr a0 a1 a2 a3) := by
  intro _ _ _ _ _
  unfold execAtomOr
  try dsimp only
  repeat' (first
    | with_reducible assumption
    | with_reducible apply outNext_ok
    | with_reducible apply notDue_ok
    | with_reducible exact reservedCode_ok
    | with_reducible exact outFault_ok _
    | with_reducible apply State.atomCmd_ok
    | dsimp only)

theorem execAtomXor_ok {q : Kept} : ∀ a0 a1 a2 a3, State.Ok q a3 → OutOk q (execAtomXor a0 a1 a2 a3) := by
  intro _ _ _ _ _
  unfold execAtomXor
  try dsimp only
  repeat' (first
    | with_reducible assumption
    | with_reducible apply outNext_ok
    | with_reducible apply notDue_ok
    | with_reducible exact reservedCode_ok
    | with_reducible exact outFault_ok _
    | with_reducible apply State.atomCmd_ok
    | dsimp only)

theorem execFadd_ok {q : Kept} : ∀ a0 a1 a2 a3, State.Ok q a3 → OutOk q (execFadd a0 a1 a2 a3) := by
  intro _ _ _ _ _
  unfold execFadd
  try dsimp only
  repeat' (first
    | with_reducible assumption
    | with_reducible apply outNext_ok
    | with_reducible apply notDue_ok
    | with_reducible exact reservedCode_ok
    | with_reducible exact outFault_ok _
    | with_reducible apply State.atomCmd_ok
    | dsimp only)

theorem execSwap_ok {q : Kept} : ∀ a0 a1 a2 a3, State.Ok q a3 → OutOk q (execSwap a0 a1 a2 a3) := by
  intro _ _ _ _ _
  unfold execSwap
  try dsimp only
  repeat' (first
    | with_reducible assumption
    | with_reducible apply outNext_ok
    | with_reducible apply notDue_ok
    | with_reducible exact reservedCode_ok
    | with_reducible exact outFault_ok _
    | with_reducible apply State.atomCmd_ok
    | dsimp only)

theorem execCas_ok {q : Kept} : ∀ a0 a1 a2 a3 a4, State.Ok q a4 → OutOk q (execCas a0 a1 a2 a3 a4) := by
  intro _ _ _ _ _ _
  unfold execCas
  try dsimp only
  repeat' (first
    | with_reducible assumption
    | with_reducible apply outNext_ok
    | with_reducible apply notDue_ok
    | with_reducible exact reservedCode_ok
    | with_reducible exact outFault_ok _
    | with_reducible apply State.atomCmd_ok
    | dsimp only)

theorem execFmin_ok {q : Kept} : ∀ a0 a1 a2 a3, State.Ok q a3 → OutOk q (execFmin a0 a1 a2 a3) := by
  intro _ _ _ _ _
  unfold execFmin
  try dsimp only
  repeat' (first
    | with_reducible assumption
    | with_reducible apply outNext_ok
    | with_reducible apply notDue_ok
    | with_reducible exact reservedCode_ok
    | with_reducible exact outFault_ok _
    | with_reducible apply State.atomCmd_ok
    | dsimp only)

theorem execFmax_ok {q : Kept} : ∀ a0 a1 a2 a3, State.Ok q a3 → OutOk q (execFmax a0 a1 a2 a3) := by
  intro _ _ _ _ _
  unfold execFmax
  try dsimp only
  repeat' (first
    | with_reducible assumption
    | with_reducible apply outNext_ok
    | with_reducible apply notDue_ok
    | with_reducible exact reservedCode_ok
    | with_reducible exact outFault_ok _
    | with_reducible apply State.atomCmd_ok
    | dsimp only)

theorem State.readSparse_ok {q : Kept} : ∀ a0 a1 a2 a3, State.Ok q a0 → State.Ok q (State.readSparse a0 a1 a2 a3) := by
  intro _ _ _ _ _
  unfold State.readSparse
  try dsimp only
  repeat' (first
    | with_reducible assumption
    | with_reducible apply State.yardRead_ok
    | dsimp only)

theorem State.spmvBlock_ok {q : Kept} : ∀ a0 a1 a2 a3 a4 a5, State.Ok q a0 → State.Ok q a4.st → 
    State.Ok q (State.spmvBlock a0 a1 a2 a3 a4 a5).st := by
  intro _ _ _ _ _ _ _ _
  unfold State.spmvBlock
  try dsimp only
  repeat' (first
    | with_reducible assumption
    | with_reducible apply YardWork.count_ok
    | with_reducible apply YardWork.blockPart_ok
    | with_reducible apply foldl_ok
    | with_reducible apply foldl_fst_ok
    | with_reducible apply foldl_st_ok
    | with_reducible apply foldl_out_ok
    | dsimp only
    | split
    | with_reducible intro _)

theorem State.spmvCmd_ok {q : Kept} : ∀ a0 a1 a2 a3, State.Ok q a0 → State.Ok q (State.spmvCmd a0 a1 a2 a3).st := by
  intro _ _ _ _ _
  unfold State.spmvCmd
  try dsimp only
  repeat' (first
    | with_reducible assumption
    | with_reducible apply YardWork.start_ok
    | with_reducible apply YardWork.finishAcc_ok
    | with_reducible apply YardWork.block_ok
    | with_reducible apply State.yardRead_ok
    | with_reducible apply State.spmvBlock_ok
    | with_reducible apply State.readSparse_ok
    | with_reducible apply State.readRows_ok
    | with_reducible apply Import.block_ok
    | simp only [State.mk_ok]
    | with_reducible apply partsOk_same
    | with_reducible apply foldl_ok
    | with_reducible apply foldl_fst_ok
    | with_reducible apply foldl_st_ok
    | with_reducible apply foldl_out_ok
    | dsimp only
    | split
    | with_reducible intro _)

theorem State.gatherCmd_ok {q : Kept} : ∀ a0 a1 a2, State.Ok q a0 → State.Ok q (State.gatherCmd a0 a1 a2).st := by
  intro _ _ _ _
  unfold State.gatherCmd
  try dsimp only
  repeat' (first
    | with_reducible assumption
    | with_reducible apply YardWork.start_ok
    | with_reducible apply YardWork.container_ok
    | with_reducible apply YardWork.block_ok
    | with_reducible apply State.yardRead_ok
    | with_reducible apply State.readRows_ok
    | with_reducible apply Import.block_ok
    | simp only [State.mk_ok]
    | with_reducible apply partsOk_same
    | with_reducible apply Memory.setMark_wf
    | with_reducible apply Memory.write_wf
    | with_reducible apply Memory.writePieces_wf
    | with_reducible apply foldl_wf
    | (with_reducible apply State.Ok.wf (q := q))
    | with_reducible apply foldl_ok
    | with_reducible apply foldl_fst_ok
    | with_reducible apply foldl_st_ok
    | with_reducible apply foldl_out_ok
    | dsimp only
    | split
    | with_reducible intro _)

theorem State.reduceCmd_ok {q : Kept} : ∀ a0 a1 a2, State.Ok q a0 → State.Ok q (State.reduceCmd a0 a1 a2).st := by
  intro _ _ _ _
  unfold State.reduceCmd
  try dsimp only
  repeat' (first
    | with_reducible assumption
    | with_reducible apply overBlocks_ok
    | with_reducible apply YardWork.start_ok
    | with_reducible apply YardWork.finishAcc_ok
    | with_reducible apply State.readRows_ok
    | with_reducible apply foldl_ok
    | with_reducible apply foldl_fst_ok
    | with_reducible apply foldl_st_ok
    | with_reducible apply foldl_out_ok
    | dsimp only
    | split
    | with_reducible intro _)

theorem State.convertCmd_ok {q : Kept} : ∀ a0 a1 a2, State.Ok q a0 → State.Ok q (State.convertCmd a0 a1 a2).st := by
  intro _ _ _ _
  unfold State.convertCmd
  try dsimp only
  repeat' (first
    | with_reducible assumption
    | with_reducible apply overBlocks_ok
    | with_reducible apply YardWork.start_ok
    | with_reducible apply YardWork.finishBlock_ok
    | with_reducible apply YardWork.finishAcc_ok
    | with_reducible apply YardWork.count_ok
    | with_reducible apply YardWork.block_ok
    | with_reducible apply State.readRows_ok
    | with_reducible apply Import.block_ok
    | dsimp only
    | split
    | with_reducible intro _)

theorem State.eqrowCmd_ok {q : Kept} : ∀ a0 a1 a2, State.Ok q a0 → State.Ok q (State.eqrowCmd a0 a1 a2).st := by
  intro _ _ _ _
  unfold State.eqrowCmd
  try dsimp only
  repeat' (first
    | with_reducible assumption
    | with_reducible apply YardWork.start_ok
    | with_reducible apply YardWork.count_ok
    | with_reducible apply YardWork.block_ok
    | with_reducible apply State.readSparse_ok
    | with_reducible apply State.readRows_ok
    | with_reducible apply Import.block_ok
    | simp only [State.mk_ok]
    | with_reducible apply partsOk_same
    | with_reducible apply Memory.setMark_wf
    | with_reducible apply Memory.write_wf
    | with_reducible apply Memory.writePieces_wf
    | with_reducible apply foldl_wf
    | (with_reducible apply State.Ok.wf (q := q))
    | with_reducible apply foldl_ok
    | with_reducible apply foldl_fst_ok
    | with_reducible apply foldl_st_ok
    | with_reducible apply foldl_out_ok
    | dsimp only
    | split
    | with_reducible intro _)

theorem State.eqcolCmd_ok {q : Kept} : ∀ a0 a1 a2, State.Ok q a0 → State.Ok q (State.eqcolCmd a0 a1 a2).st := by
  intro _ _ _ _
  unfold State.eqcolCmd
  try dsimp only
  repeat' (first
    | with_reducible assumption
    | with_reducible apply YardWork.start_ok
    | with_reducible apply State.readSparse_ok
    | with_reducible apply State.readRows_ok
    | simp only [State.mk_ok]
    | with_reducible apply partsOk_same
    | dsimp only
    | split
    | with_reducible intro _)

theorem State.eqapplyCmd_ok {q : Kept} : ∀ a0 a1 a2, State.Ok q a0 → State.Ok q (State.eqapplyCmd a0 a1 a2).st := by
  intro _ _ _ _
  unfold State.eqapplyCmd
  try dsimp only
  repeat' (first
    | with_reducible assumption
    | with_reducible apply YardWork.start_ok
    | with_reducible apply YardWork.finishBlock_ok
    | with_reducible apply State.yardRead_ok
    | with_reducible apply State.readSparse_ok
    | with_reducible apply State.readRows_ok
    | simp only [State.mk_ok]
    | with_reducible apply partsOk_same
    | with_reducible apply foldl_ok
    | with_reducible apply foldl_fst_ok
    | with_reducible apply foldl_st_ok
    | with_reducible apply foldl_out_ok
    | dsimp only
    | split
    | with_reducible intro _)

theorem State.digestCmd_ok {q : Kept} : ∀ a0 a1 a2, State.Ok q a0 → State.Ok q (State.digestCmd a0 a1 a2).st := by
  intro _ _ _ _
  unfold State.digestCmd
  try dsimp only
  repeat' (first
    | with_reducible assumption
    | with_reducible apply YardWork.start_ok
    | with_reducible apply YardWork.block_ok
    | with_reducible apply State.readRows_ok
    | with_reducible apply Import.block_ok
    | simp only [State.mk_ok]
    | with_reducible apply partsOk_same
    | with_reducible apply Memory.setMark_wf
    | with_reducible apply Memory.write_wf
    | with_reducible apply Memory.writePieces_wf
    | with_reducible apply foldl_wf
    | (with_reducible apply State.Ok.wf (q := q))
    | with_reducible apply foldl_ok
    | with_reducible apply foldl_fst_ok
    | with_reducible apply foldl_st_ok
    | with_reducible apply foldl_out_ok
    | dsimp only
    | split
    | with_reducible intro _)

theorem State.atomEntry_ok {q : Kept} : ∀ a0 a1 a2 a3 a4, State.Ok q a0 → State.Ok q (State.atomEntry a0 a1 a2 a3 a4).1 := by
  intro _ _ _ _ _ _
  unfold State.atomEntry
  try dsimp only
  repeat' (first
    | with_reducible assumption
    | with_reducible apply State.putPieces_ok
    | with_reducible apply State.atomic_ok
    | simp only
    | with_reducible apply partsOk_same
    | dsimp only
    | split)

theorem State.atomListCmd_ok {q : Kept} : ∀ a0 a1 a2 a3, State.Ok q a0 → State.Ok q (State.atomListCmd a0 a1 a2 a3).st := by
  intro _ _ _ _ _
  unfold State.atomListCmd
  try dsimp only
  repeat' (first
    | with_reducible assumption
    | with_reducible apply YardWork.start_ok
    | with_reducible apply State.yardRead_ok
    | with_reducible apply State.atomEntry_ok
    | with_reducible apply foldl_ok
    | with_reducible apply foldl_fst_ok
    | with_reducible apply foldl_st_ok
    | with_reducible apply foldl_out_ok
    | dsimp only
    | with_reducible intro _)

theorem State.engWork_ok {q : Kept} : ∀ a0 a1 a2, State.Ok q a0 → State.Ok q (State.engWork a0 a1 a2).st := by
  intro _ _ _ _
  unfold State.engWork
  try dsimp only
  repeat' (first
    | with_reducible assumption
    | with_reducible apply State.spmvCmd_ok
    | with_reducible apply State.reduceCmd_ok
    | with_reducible apply State.gatherCmd_ok
    | with_reducible apply State.eqrowCmd_ok
    | with_reducible apply State.eqcolCmd_ok
    | with_reducible apply State.eqapplyCmd_ok
    | with_reducible apply State.digestCmd_ok
    | with_reducible apply State.convertCmd_ok
    | with_reducible apply State.atomListCmd_ok
    | simp only [State.mk_ok]
    | with_reducible apply partsOk_same
    | dsimp only
    | split)

theorem State.stopInside_ok {q : Kept} : ∀ a0 a1 a2 a3, State.Ok q a0 → State.Ok q (State.stopInside a0 a1 a2 a3) := by
  intro s y eng r h
  have hd := State.draw_ok s h
  unfold State.stopInside
  simp only [State.mk_ok]
  refine partsOk_two hd ?_
  split
  · exact State.atomListCmd_ok _ _ _ _ hd
  · refine YardWork.units_ok _ _ _ ?_
    split
    · exact State.engWork_ok _ _ _ hd
    · exact State.xchWork_ok _ _ _ hd

theorem State.stopWindows_ok {q : Kept} : ∀ a0 a1 a2 a3, State.Ok q a0 → State.Ok q (State.stopWindows a0 a1 a2 a3) := by
  intro _ _ _ _ _
  unfold State.stopWindows
  try dsimp only
  repeat' (first
    | with_reducible assumption
    | with_reducible apply State.stopInside_ok
    | with_reducible apply State.showDepth_ok
    | with_reducible apply State.setEngine_ok
    | with_reducible apply State.set_ok
    | simp only [State.mk_ok]
    | with_reducible apply partsOk_same
    | with_reducible apply foldl_ok
    | with_reducible apply foldl_fst_ok
    | with_reducible apply foldl_st_ok
    | with_reducible apply foldl_out_ok
    | dsimp only
    | split
    | with_reducible intro _)

theorem State.stopEngine_ok {q : Kept} : ∀ a0 a1 a2 a3, State.Ok q a0 → State.Ok q (State.stopEngine a0 a1 a2 a3) := by
  intro _ _ _ _ _
  unfold State.stopEngine
  try dsimp only
  repeat' (first
    | with_reducible assumption
    | with_reducible apply State.stopWindows_ok
    | dsimp only
    | with_reducible intro _)

theorem State.stopYards_ok {q : Kept} : ∀ a0 a1, State.Ok q a0 → State.Ok q (State.stopYards a0 a1) := by
  intro _ _ _
  unfold State.stopYards
  try dsimp only
  repeat' (first
    | with_reducible assumption
    | with_reducible apply State.stopEngine_ok
    | with_reducible apply foldl_ok
    | with_reducible apply foldl_fst_ok
    | with_reducible apply foldl_st_ok
    | with_reducible apply foldl_out_ok
    | dsimp only
    | with_reducible intro _)

theorem State.stopAllYards_ok {q : Kept} : ∀ a0, State.Ok q a0 → State.Ok q (State.stopAllYards a0) := by
  intro _ _
  unfold State.stopAllYards
  try dsimp only
  repeat' (first
    | with_reducible assumption
    | with_reducible apply State.stopWindows_ok
    | with_reducible apply foldl_ok
    | with_reducible apply foldl_fst_ok
    | with_reducible apply foldl_st_ok
    | with_reducible apply foldl_out_ok
    | dsimp only
    | with_reducible intro _)

theorem State.engStep_ok {q : Kept} : ∀ a0 a1 a2 a3 a4 a5, State.Ok q a0 → (∀ x0 x1, State.Ok q x0 → State.Ok q (a5 x0 x1).st) → 
    OutOk q (State.engStep a0 a1 a2 a3 a4 a5) := by
  intro _ _ _ _ _ _ _ hf1
  unfold State.engStep
  try dsimp only
  repeat' (first
    | with_reducible assumption
    | with_reducible apply outNext_ok
    | with_reducible apply notDue_ok
    | with_reducible exact reservedCode_ok
    | with_reducible exact outFault_ok _
    | with_reducible apply YardWork.done_ok
    | with_reducible apply State.yardStep_ok
    | with_reducible apply State.notDue_ok
    | with_reducible apply hf1
    | simp only [State.mk_ok]
    | with_reducible apply partsOk_same
    | dsimp only
    | split
    | with_reducible intro _)

theorem execSpmv_ok {q : Kept} : ∀ a0 a1, State.Ok q a1 → OutOk q (execSpmv a0 a1) := by
  intro _ _ _
  unfold execSpmv
  try dsimp only
  repeat' (first
    | with_reducible assumption
    | with_reducible apply outNext_ok
    | with_reducible apply notDue_ok
    | with_reducible exact reservedCode_ok
    | with_reducible exact outFault_ok _
    | with_reducible apply State.spmvCmd_ok
    | with_reducible apply State.engStep_ok
    | dsimp only
    | with_reducible intro _)

theorem execResid_ok {q : Kept} : ∀ a0 a1, State.Ok q a1 → OutOk q (execResid a0 a1) := by
  intro _ _ _
  unfold execResid
  try dsimp only
  repeat' (first
    | with_reducible assumption
    | with_reducible apply outNext_ok
    | with_reducible apply notDue_ok
    | with_reducible exact reservedCode_ok
    | with_reducible exact outFault_ok _
    | with_reducible apply State.spmvCmd_ok
    | with_reducible apply State.engStep_ok
    | dsimp only
    | with_reducible intro _)

theorem execGather_ok {q : Kept} : ∀ a0 a1, State.Ok q a1 → OutOk q (execGather a0 a1) := by
  intro _ _ _
  unfold execGather
  try dsimp only
  repeat' (first
    | with_reducible assumption
    | with_reducible apply outNext_ok
    | with_reducible apply notDue_ok
    | with_reducible exact reservedCode_ok
    | with_reducible exact outFault_ok _
    | with_reducible apply State.gatherCmd_ok
    | with_reducible apply State.engStep_ok
    | dsimp only
    | with_reducible intro _)

theorem execReduce_ok {q : Kept} : ∀ a0 a1, State.Ok q a1 → OutOk q (execReduce a0 a1) := by
  intro _ _ _
  unfold execReduce
  try dsimp only
  repeat' (first
    | with_reducible assumption
    | with_reducible apply outNext_ok
    | with_reducible apply notDue_ok
    | with_reducible exact reservedCode_ok
    | with_reducible exact outFault_ok _
    | with_reducible apply State.reduceCmd_ok
    | with_reducible apply State.engStep_ok
    | dsimp only
    | split
    | with_reducible intro _)

theorem execConvert_ok {q : Kept} : ∀ a0 a1, State.Ok q a1 → OutOk q (execConvert a0 a1) := by
  intro _ _ _
  unfold execConvert
  try dsimp only
  repeat' (first
    | with_reducible assumption
    | with_reducible apply outNext_ok
    | with_reducible apply notDue_ok
    | with_reducible exact reservedCode_ok
    | with_reducible exact outFault_ok _
    | with_reducible apply State.engStep_ok
    | with_reducible apply State.convertCmd_ok
    | dsimp only
    | with_reducible intro _)

theorem execEqrow_ok {q : Kept} : ∀ a0 a1, State.Ok q a1 → OutOk q (execEqrow a0 a1) := by
  intro _ _ _
  unfold execEqrow
  try dsimp only
  repeat' (first
    | with_reducible assumption
    | with_reducible apply outNext_ok
    | with_reducible apply notDue_ok
    | with_reducible exact reservedCode_ok
    | with_reducible exact outFault_ok _
    | with_reducible apply State.eqrowCmd_ok
    | with_reducible apply State.engStep_ok
    | dsimp only
    | with_reducible intro _)

theorem execEqcol_ok {q : Kept} : ∀ a0 a1, State.Ok q a1 → OutOk q (execEqcol a0 a1) := by
  intro _ _ _
  unfold execEqcol
  try dsimp only
  repeat' (first
    | with_reducible assumption
    | with_reducible apply outNext_ok
    | with_reducible apply notDue_ok
    | with_reducible exact reservedCode_ok
    | with_reducible exact outFault_ok _
    | with_reducible apply State.eqcolCmd_ok
    | with_reducible apply State.engStep_ok
    | dsimp only
    | with_reducible intro _)

theorem execEqapply_ok {q : Kept} : ∀ a0 a1, State.Ok q a1 → OutOk q (execEqapply a0 a1) := by
  intro _ _ _
  unfold execEqapply
  try dsimp only
  repeat' (first
    | with_reducible assumption
    | with_reducible apply outNext_ok
    | with_reducible apply notDue_ok
    | with_reducible exact reservedCode_ok
    | with_reducible exact outFault_ok _
    | with_reducible apply State.eqapplyCmd_ok
    | with_reducible apply State.engStep_ok
    | dsimp only
    | with_reducible intro _)

theorem execDigest_ok {q : Kept} : ∀ a0 a1, State.Ok q a1 → OutOk q (execDigest a0 a1) := by
  intro _ _ _
  unfold execDigest
  try dsimp only
  repeat' (first
    | with_reducible assumption
    | with_reducible apply outNext_ok
    | with_reducible apply notDue_ok
    | with_reducible exact reservedCode_ok
    | with_reducible exact outFault_ok _
    | with_reducible apply State.engStep_ok
    | with_reducible apply State.digestCmd_ok
    | dsimp only
    | with_reducible intro _)

theorem execAtomList_ok {q : Kept} : ∀ a0 a1, State.Ok q a1 → OutOk q (execAtomList a0 a1) := by
  intro _ _ _
  unfold execAtomList
  try dsimp only
  repeat' (first
    | with_reducible assumption
    | with_reducible apply outNext_ok
    | with_reducible apply notDue_ok
    | with_reducible exact reservedCode_ok
    | with_reducible exact outFault_ok _
    | with_reducible apply State.engStep_ok
    | with_reducible apply State.atomListCmd_ok
    | dsimp only
    | with_reducible intro _)

theorem State.readDescs_ok {q : Kept} : ∀ a0 a1 a2 a3 a4, State.Ok q a0 → State.Ok q (State.readDescs a0 a1 a2 a3 a4) := by
  intro _ _ _ _ _ _
  unfold State.readDescs
  try dsimp only
  repeat' (first
    | with_reducible assumption
    | with_reducible apply State.yardRead_ok
    | with_reducible apply foldl_ok
    | with_reducible apply foldl_fst_ok
    | with_reducible apply foldl_st_ok
    | with_reducible apply foldl_out_ok
    | dsimp only
    | split
    | with_reducible intro _)

theorem execYardCmdStart_ok {q : Kept} : ∀ a0 a1 a2, State.Ok q a2 → OutOk q (execYardCmdStart a0 a1 a2) := by
  intro _ _ _ _
  unfold execYardCmdStart
  try dsimp only
  repeat' (first
    | with_reducible assumption
    | with_reducible apply outNext_ok
    | with_reducible apply notDue_ok
    | with_reducible exact reservedCode_ok
    | with_reducible exact outFault_ok _
    | with_reducible apply State.yardStep_ok
    | with_reducible apply State.readDescs_ok
    | with_reducible apply State.notDue_ok
    | with_reducible apply State.beginRun_ok
    | simp only [State.mk_ok]
    | with_reducible apply partsOk_same
    | dsimp only
    | split
    | with_reducible intro _)

theorem execYardCmdComplete_ok {q : Kept} : ∀ a0 a1 a2, State.Ok q a2 → OutOk q (execYardCmdComplete a0 a1 a2) := by
  intro _ _ _ _
  unfold execYardCmdComplete
  try dsimp only
  repeat' (first
    | with_reducible assumption
    | with_reducible apply outNext_ok
    | with_reducible apply notDue_ok
    | with_reducible exact reservedCode_ok
    | with_reducible exact outFault_ok _
    | with_reducible apply State.yardStep_ok
    | with_reducible apply State.notDue_ok
    | with_reducible apply State.completeRun_ok
    | simp only [State.mk_ok]
    | with_reducible apply partsOk_same
    | dsimp only
    | split
    | with_reducible intro _)

theorem execXcmdPost_ok {q : Kept} : ∀ a0 a1 a2 a3 a4 a5, State.Ok q a5 → OutOk q (execXcmdPost a0 a1 a2 a3 a4 a5) := by
  intro _ _ _ _ _ _ _
  unfold execXcmdPost
  try dsimp only
  repeat' (first
    | with_reducible assumption
    | with_reducible apply outNext_ok
    | with_reducible apply notDue_ok
    | with_reducible exact reservedCode_ok
    | with_reducible exact outFault_ok _
    | with_reducible apply State.windowWrite_ok
    | dsimp only)

theorem execWindowRoom_ok {q : Kept} : ∀ a0 a1 a2 a3, State.Ok q a3 → OutOk q (execWindowRoom a0 a1 a2 a3) := by
  intro _ _ _ _ _
  unfold execWindowRoom
  try dsimp only
  repeat' (first
    | with_reducible assumption
    | with_reducible apply outNext_ok
    | with_reducible apply notDue_ok
    | with_reducible exact reservedCode_ok
    | with_reducible exact outFault_ok _
    | with_reducible apply State.windowRoom_ok
    | with_reducible apply State.notDue_ok
    | dsimp only
    | split)

end Sys2Proof.Machine
end

