-- ==== Sys2Proof/Laws/KeepChannels.lean ====
section
/-! SUPPORT. Laws/KeepChannels.lean: the operations of Machine/Channels.lean keep the canonical form and the queue (Laws/Ok.lean). -/

namespace Sys2Proof.Machine

theorem State.park_ok {q : Kept} : ∀ a0 a1 a2, State.Ok q a0 → State.Ok q (State.park a0 a1 a2) := by
  intro _ _ _ _
  unfold State.park
  try dsimp only
  repeat' (first
    | with_reducible assumption
    | with_reducible apply State.showWaiting_ok
    | with_reducible apply State.setYard_ok
    | with_reducible apply State.answer_ok
    | simp only [State.mk_ok]
    | with_reducible apply partsOk_same
    | dsimp only
    | split)

theorem State.admitReq_ok {q : Kept} : ∀ a0 a1 a2, State.Ok q a0 → State.Ok q (State.admitReq a0 a1 a2) := by
  intro _ _ _ _
  unfold State.admitReq
  try dsimp only
  repeat' (first
    | with_reducible assumption
    | with_reducible apply State.yardPut_ok
    | with_reducible apply State.pushChannel_ok
    | with_reducible apply State.notHeld_ok
    | with_reducible apply State.deliverHit_ok
    | with_reducible apply State.decode_ok
    | with_reducible apply State.cowReady_ok
    | with_reducible apply State.cacheTouch_ok
    | with_reducible apply State.answer_ok
    | simp only [State.mk_ok]
    | with_reducible apply partsOk_same
    | with_reducible apply foldl_ok
    | with_reducible apply foldl_fst_ok
    | with_reducible apply foldl_st_ok
    | with_reducible apply foldl_out_ok
    | dsimp only
    | split
    | with_reducible intro _)

theorem State.drainFifo_ok {q : Kept} : ∀ a0 a1 a2 a3, State.Ok q a0 → State.Ok q (State.drainFifo a0 a1 a2 a3) := by
  intro a0 a1 a2 a3
  induction a3 generalizing a0 a1 a2 with
  | zero =>
    intro _
    unfold State.drainFifo
    try dsimp only
    repeat' (with_reducible assumption)
  | succ n ih =>
    intro _
    unfold State.drainFifo
    try dsimp only
    repeat' (first
      | with_reducible assumption
      | with_reducible apply ih
      | with_reducible apply State.setYard_ok
      | with_reducible apply State.park_ok
      | with_reducible apply State.admitReq_ok
      | with_reducible apply foldl_ok
      | with_reducible apply foldl_fst_ok
      | with_reducible apply foldl_st_ok
      | dsimp only
      | split)

theorem State.drainFifos_ok {q : Kept} : ∀ a0 a1, State.Ok q a0 → State.Ok q (State.drainFifos a0 a1) := by
  intro _ _ _
  unfold State.drainFifos
  try dsimp only
  repeat' (first
    | with_reducible assumption
    | with_reducible apply State.drainFifo_ok
    | with_reducible apply foldl_ok
    | with_reducible apply foldl_fst_ok
    | with_reducible apply foldl_st_ok
    | with_reducible apply foldl_out_ok
    | dsimp only
    | with_reducible intro _)

theorem State.request_ok {q : Kept} : ∀ a0 a1 a2, State.Ok q a0 → State.Ok q (State.request a0 a1 a2) := by
  intro _ _ _ _
  unfold State.request
  try dsimp only
  repeat' (first
    | with_reducible assumption
    | with_reducible apply State.setYard_ok
    | with_reducible apply State.set_ok
    | with_reducible apply State.park_ok
    | with_reducible apply State.answer_ok
    | with_reducible apply State.admitReq_ok
    | simp only [State.mk_ok]
    | with_reducible apply partsOk_same
    | dsimp only
    | split
    | with_reducible intro _)

theorem State.serve_ok {q : Kept} : ∀ a0 a1 a2 a3 a4 a5, State.Ok q a0 → State.Ok q (State.serve a0 a1 a2 a3 a4 a5) := by
  intro _ _ _ _ _ _ _
  unfold State.serve
  try dsimp only
  repeat' (first
    | with_reducible assumption
    | with_reducible apply State.unitStored_ok
    | with_reducible apply State.setYard_ok
    | with_reducible apply State.set_ok
    | with_reducible apply State.answer_ok
    | with_reducible apply State.activate_ok
    | simp only [State.mk_ok]
    | with_reducible apply partsOk_same
    | dsimp only
    | split)

theorem State.writeBack_ok {q : Kept} : ∀ a0 a1 a2 a3, State.Ok q a0 → State.Ok q (State.writeBack a0 a1 a2 a3) := by
  intro _ _ _ _ _
  unfold State.writeBack
  try dsimp only
  repeat' (first
    | with_reducible assumption
    | with_reducible apply State.setYard_ok
    | with_reducible apply State.injectYard_ok
    | with_reducible apply State.answer_ok
    | with_reducible apply State.activate_ok
    | simp only [State.mk_ok]
    | with_reducible apply partsOk_same
    | with_reducible apply partsOk_mem
    | with_reducible apply Memory.setMark_wf
    | with_reducible apply Memory.write_wf
    | with_reducible apply Memory.writePieces_wf
    | with_reducible apply foldl_wf
    | (with_reducible apply State.Ok.wf (q := q))
    | dsimp only
    | split
    | with_reducible intro _)

theorem State.grant_ok {q : Kept} : ∀ a0 a1 a2, State.Ok q a0 → OptOk q (State.grant a0 a1 a2) := by
  intro _ _ _ _
  unfold State.grant
  try dsimp only
  repeat' (first
    | with_reducible assumption
    | with_reducible exact optNone_ok
    | with_reducible apply optSome_ok
    | with_reducible apply State.writeBack_ok
    | with_reducible apply State.serve_ok
    | with_reducible apply State.drainFifos_ok
    | with_reducible apply State.countSlot_ok
    | simp only [State.mk_ok]
    | with_reducible apply partsOk_same
    | dsimp only
    | split
    | with_reducible intro _)

theorem execYardRequest_ok {q : Kept} : ∀ a0 a1 a2, State.Ok q a2 → OutOk q (execYardRequest a0 a1 a2) := by
  intro _ _ _ _
  unfold execYardRequest
  try dsimp only
  repeat' (first
    | with_reducible assumption
    | with_reducible apply outNext_ok
    | with_reducible apply notDue_ok
    | with_reducible exact reservedCode_ok
    | with_reducible exact outFault_ok _
    | with_reducible apply State.request_ok
    | with_reducible apply State.notDue_ok
    | dsimp only
    | split)

theorem execSlotGrant_ok {q : Kept} : ∀ a0 a1 a2, State.Ok q a2 → OutOk q (execSlotGrant a0 a1 a2) := by
  intro _ _ _ _
  unfold execSlotGrant
  try dsimp only
  repeat' (first
    | with_reducible assumption
    | with_reducible apply outNext_ok
    | with_reducible apply notDue_ok
    | with_reducible exact outFault_ok _
    | exact State.grant_ok _ _ _ (by assumption) _ (by assumption)
    | with_reducible apply State.grant_ok
    | with_reducible apply foldl_ok
    | with_reducible apply foldl_fst_ok
    | with_reducible apply foldl_st_ok
    | dsimp only
    | split)

theorem execCowWriteResume_ok {q : Kept} : ∀ a0 a1, State.Ok q a1 → OutOk q (execCowWriteResume a0 a1) := by
  intro _ _ _
  unfold execCowWriteResume
  try dsimp only
  repeat' (first
    | with_reducible assumption
    | with_reducible apply outNext_ok
    | with_reducible apply notDue_ok
    | with_reducible exact reservedCode_ok
    | with_reducible exact outFault_ok _
    | with_reducible apply State.showWaiting_ok
    | with_reducible apply State.setYard_ok
    | with_reducible apply State.notDue_ok
    | with_reducible apply State.drainFifos_ok
    | with_reducible apply State.admitReq_ok
    | simp only [State.mk_ok]
    | with_reducible apply partsOk_same
    | dsimp only
    | split)

theorem execRefresh_ok {q : Kept} : ∀ a0 a1 a2 a3 a4, State.Ok q a4 → OutOk q (execRefresh a0 a1 a2 a3 a4) := by
  intro _ _ _ _ _ _
  unfold execRefresh
  try dsimp only
  repeat' (first
    | with_reducible assumption
    | with_reducible apply outNext_ok
    | with_reducible apply notDue_ok
    | with_reducible exact reservedCode_ok
    | with_reducible exact outFault_ok _
    | with_reducible apply State.setYard_ok
    | with_reducible apply State.set_ok
    | with_reducible apply State.notDue_ok
    | simp only [State.mk_ok]
    | with_reducible apply partsOk_same
    | dsimp only
    | split
    | with_reducible intro _)

theorem execRefreshDone_ok {q : Kept} : ∀ a0 a1 a2 a3 a4 a5, State.Ok q a5 → OutOk q (execRefreshDone a0 a1 a2 a3 a4 a5) := by
  intro _ _ _ _ _ _ _
  unfold execRefreshDone
  try dsimp only
  repeat' (first
    | with_reducible assumption
    | with_reducible apply outNext_ok
    | with_reducible apply notDue_ok
    | with_reducible exact reservedCode_ok
    | with_reducible exact outFault_ok _
    | with_reducible apply State.setYard_ok
    | with_reducible apply State.notDue_ok
    | with_reducible apply State.inc_ok
    | simp only [State.mk_ok]
    | with_reducible apply partsOk_same
    | dsimp only
    | split)

theorem execTargetedRefresh_ok {q : Kept} : ∀ a0 a1 a2 a3 a4 a5, State.Ok q a5 → OutOk q (execTargetedRefresh a0 a1 a2 a3 a4 a5) := by
  intro _ _ _ _ _ _ _
  unfold execTargetedRefresh
  try dsimp only
  repeat' (first
    | with_reducible assumption
    | with_reducible apply outNext_ok
    | with_reducible apply notDue_ok
    | with_reducible exact reservedCode_ok
    | with_reducible exact outFault_ok _
    | with_reducible apply State.setYard_ok
    | with_reducible apply State.set_ok
    | with_reducible apply State.notDue_ok
    | with_reducible apply State.inc_ok
    | simp only [State.mk_ok]
    | with_reducible apply partsOk_same
    | dsimp only
    | split)

theorem execScrubRead_ok {q : Kept} : ∀ a0 a1, State.Ok q a1 → OutOk q (execScrubRead a0 a1) := by
  intro _ _ _
  unfold execScrubRead
  try dsimp only
  repeat' (first
    | with_reducible assumption
    | with_reducible apply outNext_ok
    | with_reducible apply notDue_ok
    | with_reducible exact reservedCode_ok
    | with_reducible exact outFault_ok _
    | with_reducible apply State.setYard_ok
    | with_reducible apply State.set_ok
    | with_reducible apply State.notDue_ok
    | with_reducible apply State.codewordRead_ok
    | simp only [State.mk_ok]
    | with_reducible apply partsOk_same
    | with_reducible apply foldl_ok
    | with_reducible apply foldl_fst_ok
    | with_reducible apply foldl_st_ok
    | with_reducible apply foldl_out_ok
    | dsimp only
    | split)

theorem execYrdInjCe_ok {q : Kept} : ∀ a0 a1 a2, State.Ok q a2 → OutOk q (execYrdInjCe a0 a1 a2) := by
  intro _ _ _ _
  unfold execYrdInjCe
  try dsimp only
  repeat' (first
    | with_reducible assumption
    | with_reducible apply outNext_ok
    | with_reducible apply notDue_ok
    | with_reducible exact reservedCode_ok
    | with_reducible exact outFault_ok _
    | with_reducible apply State.set_ok
    | dsimp only)

theorem execYrdInjUe_ok {q : Kept} : ∀ a0 a1 a2, State.Ok q a2 → OutOk q (execYrdInjUe a0 a1 a2) := by
  intro _ _ _ _
  unfold execYrdInjUe
  try dsimp only
  repeat' (first
    | with_reducible assumption
    | with_reducible apply outNext_ok
    | with_reducible apply notDue_ok
    | with_reducible exact reservedCode_ok
    | with_reducible exact outFault_ok _
    | with_reducible apply State.set_ok
    | dsimp only)

theorem execYrdInjPoison_ok {q : Kept} : ∀ a0 a1 a2, State.Ok q a2 → OutOk q (execYrdInjPoison a0 a1 a2) := by
  intro _ _ _ _
  unfold execYrdInjPoison
  try dsimp only
  repeat' (first
    | with_reducible assumption
    | with_reducible apply outNext_ok
    | with_reducible apply notDue_ok
    | with_reducible exact reservedCode_ok
    | with_reducible exact outFault_ok _
    | with_reducible apply State.set_ok
    | dsimp only)

theorem execCoreInjStallCe_ok {q : Kept} : ∀ a0 a1 a2 a3, State.Ok q a3 → OutOk q (execCoreInjStallCe a0 a1 a2 a3) := by
  intro _ _ _ _ _
  unfold execCoreInjStallCe
  try dsimp only
  repeat' (first
    | with_reducible assumption
    | with_reducible apply outNext_ok
    | with_reducible apply notDue_ok
    | with_reducible exact reservedCode_ok
    | with_reducible exact outFault_ok _
    | with_reducible apply State.set_ok
    | dsimp only)

theorem execCoreInjStallUe_ok {q : Kept} : ∀ a0 a1 a2 a3, State.Ok q a3 → OutOk q (execCoreInjStallUe a0 a1 a2 a3) := by
  intro _ _ _ _ _
  unfold execCoreInjStallUe
  try dsimp only
  repeat' (first
    | with_reducible assumption
    | with_reducible apply outNext_ok
    | with_reducible apply notDue_ok
    | with_reducible exact reservedCode_ok
    | with_reducible exact outFault_ok _
    | with_reducible apply State.set_ok
    | dsimp only)

theorem execLoftInjCe_ok {q : Kept} : ∀ a0 a1 a2, State.Ok q a2 → OutOk q (execLoftInjCe a0 a1 a2) := by
  intro _ _ _ _
  unfold execLoftInjCe
  try dsimp only
  repeat' (first
    | with_reducible assumption
    | with_reducible apply outNext_ok
    | with_reducible apply notDue_ok
    | with_reducible exact reservedCode_ok
    | with_reducible exact outFault_ok _
    | with_reducible apply State.set_ok
    | dsimp only)

theorem execLoftInjUe_ok {q : Kept} : ∀ a0 a1 a2, State.Ok q a2 → OutOk q (execLoftInjUe a0 a1 a2) := by
  intro _ _ _ _
  unfold execLoftInjUe
  try dsimp only
  repeat' (first
    | with_reducible assumption
    | with_reducible apply outNext_ok
    | with_reducible apply notDue_ok
    | with_reducible exact reservedCode_ok
    | with_reducible exact outFault_ok _
    | with_reducible apply State.set_ok
    | dsimp only)

end Sys2Proof.Machine
end

