-- ==== Sys2Proof/Laws/KeepGroups.lean ====
section
/-! SUPPORT. Laws/KeepGroups.lean: the operations of Machine/Groups.lean keep the canonical form and the queue (Laws/Ok.lean). -/

namespace Sys2Proof.Machine

theorem State.showGroup_ok {q : Kept} : ∀ a0 a1, State.Ok q a0 → State.Ok q (State.showGroup a0 a1) := by
  intro _ _ _
  unfold State.showGroup
  try dsimp only
  repeat' (first
    | with_reducible assumption
    | with_reducible apply State.set_ok
    | dsimp only)

theorem State.releaseWindow_ok {q : Kept} : ∀ a0 a1 a2 a3, State.Ok q a0 → State.Ok q (State.releaseWindow a0 a1 a2 a3) := by
  intro a0 a1 a2 a3
  induction a3 generalizing a0 a1 a2 with
  | zero =>
    intro _
    unfold State.releaseWindow
    try dsimp only
    repeat' (with_reducible assumption)
  | succ n ih =>
    intro _
    unfold State.releaseWindow
    try dsimp only
    repeat' (first
      | with_reducible assumption
      | with_reducible apply ih
      | with_reducible apply State.setGwin_ok
      | with_reducible apply State.setGroup_ok
      | with_reducible apply State.showGroup_ok
      | with_reducible apply foldl_ok
      | with_reducible apply foldl_fst_ok
      | with_reducible apply foldl_st_ok
      | dsimp only
      | split)

theorem State.releaseWindows_ok {q : Kept} : ∀ a0, State.Ok q a0 → State.Ok q (State.releaseWindows a0) := by
  intro _ _
  unfold State.releaseWindows
  try dsimp only
  repeat' (first
    | with_reducible assumption
    | with_reducible apply State.releaseWindow_ok
    | with_reducible apply foldl_ok
    | with_reducible apply foldl_fst_ok
    | with_reducible apply foldl_st_ok
    | with_reducible apply foldl_out_ok
    | dsimp only
    | with_reducible intro _)

theorem State.gwinWrite_ok {q : Kept} : ∀ a0 a1 a2 a3 a4 a5, State.Ok q a0 → State.Ok q (State.gwinWrite a0 a1 a2 a3 a4 a5) := by
  intro _ _ _ _ _ _ _
  unfold State.gwinWrite
  try dsimp only
  repeat' (first
    | with_reducible assumption
    | with_reducible apply State.setGwin_ok
    | with_reducible apply State.set_ok
    | with_reducible apply State.releaseWindows_ok
    | with_reducible apply State.answer_ok
    | simp only [State.mk_ok]
    | with_reducible apply partsOk_same
    | dsimp only
    | split)

theorem State.sendError_ok {q : Kept} : ∀ a0 a1 a2 a3, State.Ok q a0 → State.Ok q (State.sendError a0 a1 a2 a3) := by
  intro _ _ _ _ _
  unfold State.sendError
  try dsimp only
  repeat' (first
    | with_reducible assumption
    | with_reducible apply State.emit_ok
    | with_reducible apply foldl_ok
    | with_reducible apply foldl_fst_ok
    | with_reducible apply foldl_st_ok
    | with_reducible apply foldl_out_ok
    | dsimp only
    | with_reducible intro _)

theorem State.finishColl_ok {q : Kept} : ∀ a0 a1 a2 a3 a4, State.Ok q a0 → State.Ok q (State.finishColl a0 a1 a2 a3 a4) := by
  intro _ _ _ _ _ _
  unfold State.finishColl
  try dsimp only
  repeat' (first
    | with_reducible assumption
    | with_reducible apply State.ringName_ok
    | with_reducible apply State.localWrite_ok
    | dsimp only
    | split)

theorem State.countColl_ok {q : Kept} : ∀ a0 a1 a2 a3, State.Ok q a0 → State.Ok q (State.countColl a0 a1 a2 a3) := by
  intro _ _ _ _ _
  unfold State.countColl
  try dsimp only
  repeat' (first
    | with_reducible assumption
    | with_reducible apply YardWork.done_ok
    | with_reducible apply State.set_ok
    | with_reducible apply State.inc_ok
    | dsimp only
    | split)

theorem State.nextNumber_ok {q : Kept} : ∀ a0 a1, State.Ok q a0 → State.Ok q (State.nextNumber a0 a1) := by
  intro _ _ _
  unfold State.nextNumber
  try dsimp only
  repeat' (first
    | with_reducible assumption
    | with_reducible apply State.setGroup_ok
    | with_reducible apply State.set_ok
    | simp only [State.mk_ok]
    | with_reducible apply partsOk_same
    | dsimp only)

theorem State.mapChunk_ok {q : Kept} : ∀ a0 a1 a2 a3 a4, State.Ok q a0 → State.Ok q (State.mapChunk a0 a1 a2 a3 a4) := by
  intro _ _ _ _ _ _
  unfold State.mapChunk
  try dsimp only
  repeat' (first
    | with_reducible assumption
    | with_reducible apply State.localWrite_ok
    | dsimp only
    | split)

theorem State.markCut_ok {q : Kept} : ∀ a0 a1 a2, State.Ok q a0 → State.Ok q (State.markCut a0 a1 a2) := by
  intro _ _ _ _
  unfold State.markCut
  try dsimp only
  repeat' (first
    | with_reducible assumption
    | with_reducible apply State.mapChunk_ok
    | with_reducible apply foldl_ok
    | with_reducible apply foldl_fst_ok
    | with_reducible apply foldl_st_ok
    | with_reducible apply foldl_out_ok
    | dsimp only
    | split
    | with_reducible intro _)

theorem State.endColl_ok {q : Kept} : ∀ a0 a1 a2 a3 a4 a5, State.Ok q a0 → State.Ok q (State.endColl a0 a1 a2 a3 a4 a5) := by
  intro _ _ _ _ _ _ _
  unfold State.endColl
  try dsimp only
  repeat' (first
    | with_reducible assumption
    | with_reducible apply State.setGroup_ok
    | with_reducible apply State.sendError_ok
    | with_reducible apply State.nextNumber_ok
    | with_reducible apply State.markCut_ok
    | with_reducible apply State.finishColl_ok
    | with_reducible apply State.countColl_ok
    | simp only [State.mk_ok]
    | with_reducible apply partsOk_same
    | dsimp only
    | split
    | with_reducible intro _)

theorem State.endQueued_ok {q : Kept} : ∀ a0 a1 a2 a3 a4 a5 a6, State.Ok q a0 → State.Ok q (State.endQueued a0 a1 a2 a3 a4 a5 a6) := by
  intro _ _ _ _ _ _ _ _
  unfold State.endQueued
  try dsimp only
  repeat' (first
    | with_reducible assumption
    | with_reducible apply State.setGroup_ok
    | with_reducible apply State.sendError_ok
    | with_reducible apply State.nextNumber_ok
    | with_reducible apply State.finishColl_ok
    | with_reducible apply State.countColl_ok
    | simp only [State.mk_ok]
    | with_reducible apply partsOk_same
    | dsimp only
    | split)

theorem State.endPenColls_ok {q : Kept} : ∀ a0 a1, State.Ok q a0 → State.Ok q (State.endPenColls a0 a1) := by
  intro _ _ _
  unfold State.endPenColls
  try dsimp only
  repeat' (first
    | with_reducible assumption
    | with_reducible apply State.showGroup_ok
    | with_reducible apply State.setGroup_ok
    | with_reducible apply State.endQueued_ok
    | with_reducible apply State.endColl_ok
    | simp only [State.mk_ok]
    | with_reducible apply partsOk_same
    | with_reducible apply foldl_ok
    | with_reducible apply foldl_fst_ok
    | with_reducible apply foldl_st_ok
    | with_reducible apply foldl_out_ok
    | dsimp only
    | split
    | with_reducible intro _)

end Sys2Proof.Machine
end

