-- ==== Sys2Proof/Laws/KeepLedger.lean ====
section
/-! SUPPORT. Laws/KeepLedger.lean: the operations of Machine/Ledger.lean keep the canonical form and the queue (Laws/Ok.lean). -/

namespace Sys2Proof.Machine

theorem State.tellMembers_ok {q : Kept} : ∀ a0 a1 a2 a3, State.Ok q a0 → State.Ok q (State.tellMembers a0 a1 a2 a3) := by
  intro _ _ _ _ _
  unfold State.tellMembers
  try dsimp only
  repeat' (first
    | with_reducible assumption
    | with_reducible apply State.emit_ok
    | with_reducible apply foldl_ok
    | with_reducible apply foldl_fst_ok
    | with_reducible apply foldl_st_ok
    | with_reducible apply foldl_out_ok
    | dsimp only
    | split
    | with_reducible intro _)

theorem State.ckpReport_ok {q : Kept} : ∀ a0 a1, State.Ok q a0 → State.Ok q (State.ckpReport a0 a1) := by
  intro _ _ _
  unfold State.ckpReport
  try dsimp only
  repeat' (first
    | with_reducible assumption
    | with_reducible apply State.emit_ok
    | dsimp only)

theorem State.ckpError_ok {q : Kept} : ∀ a0 a1 a2 a3, State.Ok q a0 → State.Ok q (State.ckpError a0 a1 a2 a3) := by
  intro _ _ _ _ _
  unfold State.ckpError
  try dsimp only
  repeat' (first
    | with_reducible assumption
    | with_reducible apply State.set_ok
    | dsimp only
    | split)

theorem State.pageHome_ok {q : Kept} : ∀ a0 a1 a2 a3, State.Ok q a0 → State.Ok q (State.pageHome a0 a1 a2 a3) := by
  intro _ _ _ _ _
  unfold State.pageHome
  try dsimp only
  repeat' (first
    | with_reducible assumption
    | with_reducible apply State.setPage_ok
    | with_reducible apply State.set_ok
    | with_reducible apply State.copyPage_ok
    | simp only [State.mk_ok]
    | with_reducible apply partsOk_same
    | dsimp only
    | split)

theorem State.pagesHome_ok {q : Kept} : ∀ a0 a1, State.Ok q a0 → State.Ok q (State.pagesHome a0 a1) := by
  intro _ _ _
  unfold State.pagesHome
  try dsimp only
  repeat' (first
    | with_reducible assumption
    | with_reducible apply State.showWaiting_ok
    | with_reducible apply State.pageHome_ok
    | with_reducible apply foldl_ok
    | with_reducible apply foldl_fst_ok
    | with_reducible apply foldl_st_ok
    | with_reducible apply foldl_out_ok
    | dsimp only
    | with_reducible intro _)

theorem State.ckpIdle_ok {q : Kept} : ∀ a0 a1, State.Ok q a0 → State.Ok q (State.ckpIdle a0 a1) := by
  intro _ _ _
  unfold State.ckpIdle
  try dsimp only
  repeat' (first
    | with_reducible assumption
    | with_reducible apply State.setCkp_ok
    | with_reducible apply State.set_ok
    | dsimp only)

theorem State.dropCkp_ok {q : Kept} : ∀ a0 a1 a2, State.Ok q a0 → State.Ok q (State.dropCkp a0 a1 a2) := by
  intro _ _ _ _
  unfold State.dropCkp
  try dsimp only
  repeat' (first
    | with_reducible assumption
    | with_reducible apply State.tellMembers_ok
    | with_reducible apply State.pagesHome_ok
    | with_reducible apply State.ckpReport_ok
    | with_reducible apply State.ckpIdle_ok
    | with_reducible apply State.ckpError_ok
    | dsimp only
    | split)

theorem State.abandonCkp_ok {q : Kept} : ∀ a0 a1 a2, State.Ok q a0 → State.Ok q (State.abandonCkp a0 a1 a2) := by
  intro _ _ _ _
  unfold State.abandonCkp
  try dsimp only
  repeat' (first
    | with_reducible assumption
    | with_reducible apply State.dropCkp_ok
    | dsimp only
    | split)

theorem State.ctxNewStep_ok {q : Kept} : ∀ a0 a1 a2, State.Ok q a0 → State.Ok q (State.ctxNewStep a0 a1 a2) := by
  intro _ _ _ _
  unfold State.ctxNewStep
  try dsimp only
  repeat' (first
    | with_reducible assumption
    | with_reducible apply State.setCtx_ok
    | simp only [State.mk_ok]
    | with_reducible apply partsOk_same
    | dsimp only)

theorem State.yardNewStep_ok {q : Kept} : ∀ a0 a1, State.Ok q a0 → State.Ok q (State.yardNewStep a0 a1) := by
  intro _ _ _
  unfold State.yardNewStep
  try dsimp only
  repeat' (first
    | with_reducible assumption
    | with_reducible apply State.setYard_ok
    | simp only [State.mk_ok]
    | with_reducible apply partsOk_same
    | dsimp only)

theorem State.datesShrink_ok {q : Kept} : ∀ a0 a1, State.Ok q a0 → State.Ok q (State.datesShrink a0 a1) := by
  intro _ _ _
  unfold State.datesShrink
  try dsimp only
  repeat' (first
    | with_reducible assumption
    | with_reducible apply State.setCkp_ok
    | simp only [State.mk_ok]
    | with_reducible apply partsOk_same
    | dsimp only
    | split)

theorem State.penNewStep_ok {q : Kept} : ∀ a0 a1, State.Ok q a0 → State.Ok q (State.penNewStep a0 a1) := by
  intro _ _ _
  unfold State.penNewStep
  try dsimp only
  repeat' (first
    | with_reducible assumption
    | with_reducible apply State.setPen_ok
    | with_reducible apply State.set_ok
    | with_reducible apply State.datesShrink_ok
    | simp only [State.mk_ok]
    | with_reducible apply partsOk_same
    | with_reducible apply foldl_ok
    | with_reducible apply foldl_fst_ok
    | with_reducible apply foldl_st_ok
    | with_reducible apply foldl_out_ok
    | dsimp only
    | with_reducible intro _)

theorem State.blocksNewStep_ok {q : Kept} : ∀ a0 a1, State.Ok q a0 → State.Ok q (State.blocksNewStep a0 a1) := by
  intro _ _ _
  unfold State.blocksNewStep
  try dsimp only
  repeat' (first
    | with_reducible assumption
    | with_reducible apply State.setEngCount_ok
    | with_reducible apply foldl_ok
    | with_reducible apply foldl_fst_ok
    | with_reducible apply foldl_st_ok
    | with_reducible apply foldl_out_ok
    | dsimp only
    | split
    | with_reducible intro _)

theorem State.clearStep_ok {q : Kept} : ∀ a0 a1, State.Ok q a0 → State.Ok q (State.clearStep a0 a1) := by
  intro _ _ _
  unfold State.clearStep
  try dsimp only
  repeat' (first
    | with_reducible assumption
    | with_reducible apply State.yardNewStep_ok
    | with_reducible apply State.penNewStep_ok
    | with_reducible apply State.ctxNewStep_ok
    | with_reducible apply State.clearFlds_ok
    | with_reducible apply State.blocksNewStep_ok
    | with_reducible apply foldl_ok
    | with_reducible apply foldl_fst_ok
    | with_reducible apply foldl_st_ok
    | with_reducible apply foldl_out_ok
    | dsimp only
    | with_reducible intro _)

theorem State.readTeamIn_ok {q : Kept} : ∀ a0 a1, State.Ok q a0 → State.Ok q (State.readTeamIn a0 a1) := by
  intro _ _ _
  unfold State.readTeamIn
  try dsimp only
  repeat' (first
    | with_reducible assumption
    | with_reducible apply State.countRead_ok
    | simp only [State.mk_ok]
    | with_reducible apply partsOk_same
    | dsimp only
    | split)

theorem State.loseRecords_ok {q : Kept} : ∀ a0 a1 a2, State.Ok q a0 → State.Ok q (State.loseRecords a0 a1 a2) := by
  intro _ _ _ _
  unfold State.loseRecords
  try dsimp only
  repeat' (first
    | with_reducible assumption
    | with_reducible apply State.setPen_ok
    | with_reducible apply State.inc_ok
    | simp only [State.mk_ok]
    | with_reducible apply partsOk_same
    | dsimp only)

theorem State.placeRecord_ok {q : Kept} : ∀ a0 a1 a2, State.Ok q a0 → State.Ok q (State.placeRecord a0 a1 a2) := by
  intro _ _ _ _
  unfold State.placeRecord
  try dsimp only
  repeat' (first
    | with_reducible assumption
    | with_reducible apply State.setPen_ok
    | with_reducible apply State.loseRecords_ok
    | with_reducible apply State.localWrite_ok
    | simp only [State.mk_ok]
    | with_reducible apply partsOk_same
    | dsimp only
    | split)

theorem State.writeRecord_ok {q : Kept} : ∀ a0 a1 a2, State.Ok q a0 → State.Ok q (State.writeRecord a0 a1 a2) := by
  intro _ _ _ _
  unfold State.writeRecord
  try dsimp only
  repeat' (first
    | with_reducible assumption
    | with_reducible apply State.set_ok
    | with_reducible apply State.placeRecord_ok
    | with_reducible apply State.loseRecords_ok
    | dsimp only
    | split)

theorem State.publish_ok {q : Kept} : ∀ a0 a1, State.Ok q a0 → State.Ok q (State.publish a0 a1) := by
  intro _ _ _
  unfold State.publish
  try dsimp only
  repeat' (first
    | with_reducible assumption
    | with_reducible apply State.setPen_ok
    | with_reducible apply State.set_ok
    | simp only [State.mk_ok]
    | with_reducible apply partsOk_same
    | dsimp only
    | split)

theorem State.patchRecord_ok {q : Kept} : ∀ a0 a1 a2 a3, State.Ok q a0 → State.Ok q (State.patchRecord a0 a1 a2 a3) := by
  intro _ _ _ _ _
  unfold State.patchRecord
  try dsimp only
  repeat' (first
    | with_reducible assumption
    | with_reducible apply State.localWrite_ok
    | dsimp only
    | split)

theorem State.sendFrame_ok {q : Kept} : ∀ a0 a1 a2, State.Ok q a0 → State.Ok q (State.sendFrame a0 a1 a2) := by
  intro _ _ _ _
  unfold State.sendFrame
  try dsimp only
  repeat' (first
    | with_reducible assumption
    | with_reducible apply State.inc_ok
    | with_reducible apply State.enqueue_ok
    | dsimp only
    | split)

theorem State.teamSend_ok {q : Kept} : ∀ a0 a1 a2, State.Ok q a0 → State.Ok q (State.teamSend a0 a1 a2) := by
  intro _ _ _ _
  unfold State.teamSend
  try dsimp only
  repeat' (first
    | with_reducible assumption
    | with_reducible apply State.setPen_ok
    | with_reducible apply State.sendFrame_ok
    | simp only [State.mk_ok]
    | with_reducible apply partsOk_same
    | dsimp only
    | split)

theorem State.voidRecord_ok {q : Kept} : ∀ a0 a1, State.Ok q a0 → State.Ok q (State.voidRecord a0 a1) := by
  intro _ _ _
  unfold State.voidRecord
  try dsimp only
  repeat' (first
    | with_reducible assumption
    | with_reducible apply State.writeRecord_ok
    | with_reducible apply State.teamSend_ok
    | with_reducible apply State.readTeamIn_ok
    | with_reducible apply State.publish_ok
    | with_reducible apply State.notHeld_ok
    | dsimp only
    | with_reducible intro _)

end Sys2Proof.Machine
end

