-- ==== Sys2Proof/Laws/KeepShare.lean ====
section
/-! SUPPORT. Laws/KeepShare.lean: the operations of Machine/Share.lean keep the canonical form and the queue (Laws/Ok.lean). -/

namespace Sys2Proof.Machine

theorem State.setAll_ok {q : Kept} : ∀ a0 a1, State.Ok q a0 → State.Ok q (State.setAll a0 a1) := by
  intro _ _ _
  unfold State.setAll
  try dsimp only
  repeat' (first
    | with_reducible assumption
    | with_reducible apply State.set_ok
    | with_reducible apply foldl_ok
    | with_reducible apply foldl_fst_ok
    | with_reducible apply foldl_st_ok
    | with_reducible apply foldl_out_ok
    | dsimp only
    | with_reducible intro _)

theorem State.showCoord_ok {q : Kept} : ∀ a0 a1, State.Ok q a0 → State.Ok q (State.showCoord a0 a1) := by
  intro _ _ _
  unfold State.showCoord
  try dsimp only
  repeat' (first
    | with_reducible assumption
    | with_reducible apply State.setB_ok
    | dsimp only)

theorem State.tableSwapped_ok {q : Kept} : ∀ a0 a1, State.Ok q a0 → State.Ok q (State.tableSwapped a0 a1) := by
  intro _ _ _
  unfold State.tableSwapped
  try dsimp only
  repeat' (first
    | with_reducible assumption
    | with_reducible apply State.setLay_ok
    | with_reducible apply State.set_ok
    | simp only [State.mk_ok]
    | with_reducible apply partsOk_same
    | dsimp only
    | split)

theorem State.noteShrink_ok {q : Kept} : ∀ a0 a1 a2, State.Ok q a0 → State.Ok q a1 → State.Ok q (State.noteShrink a0 a1 a2) := by
  intro _ _ _ _ _
  unfold State.noteShrink
  try dsimp only
  repeat' (first
    | with_reducible assumption
    | with_reducible apply State.setPen_ok
    | with_reducible apply State.setCkp_ok
    | simp only [State.mk_ok]
    | with_reducible apply partsOk_same
    | dsimp only
    | split
    | with_reducible intro _)

theorem State.takeTable_ok {q : Kept} : ∀ a0 a1 a2 a3, State.Ok q a0 → State.Ok q (State.takeTable a0 a1 a2 a3) := by
  intro _ _ _ _ _
  unfold State.takeTable
  try dsimp only
  repeat' (first
    | with_reducible assumption
    | with_reducible apply State.tableSwapped_ok
    | with_reducible apply State.showCoord_ok
    | with_reducible apply State.setLay_ok
    | with_reducible apply State.set_ok
    | with_reducible apply State.noteShrink_ok
    | simp only [State.mk_ok]
    | with_reducible apply partsOk_same
    | dsimp only
    | split)

theorem State.shareDone_ok {q : Kept} : ∀ a0, State.Ok q a0 → State.Ok q (State.shareDone a0) := by
  intro _ _
  unfold State.shareDone
  try dsimp only
  repeat' (first
    | with_reducible assumption
    | with_reducible apply State.setLay_ok
    | with_reducible apply State.set_ok
    | simp only [State.mk_ok]
    | with_reducible apply partsOk_same
    | dsimp only
    | split)

theorem State.takeShare_ok {q : Kept} : ∀ a0 a1 a2, State.Ok q a0 → State.Ok q (State.takeShare a0 a1 a2) := by
  intro _ _ _ _
  unfold State.takeShare
  try dsimp only
  repeat' (first
    | with_reducible assumption
    | with_reducible apply State.takeTable_ok
    | with_reducible apply State.shareDone_ok
    | with_reducible apply State.setAll_ok
    | with_reducible apply State.set_ok
    | simp only [State.mk_ok]
    | with_reducible apply partsOk_same
    | dsimp only
    | split
    | with_reducible intro _)

theorem State.shareIfIdle_ok {q : Kept} : ∀ a0 a1, State.Ok q a0 → State.Ok q (State.shareIfIdle a0 a1) := by
  intro _ _ _
  unfold State.shareIfIdle
  try dsimp only
  repeat' (first
    | with_reducible assumption
    | with_reducible apply State.takeShare_ok
    | dsimp only
    | split)

theorem State.shareAtBound_ok {q : Kept} : ∀ a0 a1, State.Ok q a0 → State.Ok q (State.shareAtBound a0 a1) := by
  intro _ _ _
  unfold State.shareAtBound
  try dsimp only
  repeat' (first
    | with_reducible assumption
    | with_reducible apply State.takeShare_ok
    | with_reducible apply State.set_ok
    | with_reducible apply foldl_ok
    | with_reducible apply foldl_fst_ok
    | with_reducible apply foldl_st_ok
    | with_reducible apply foldl_out_ok
    | dsimp only
    | split
    | with_reducible intro _)

end Sys2Proof.Machine
end

