-- ==== Sys2Proof/Laws/KeepMatrix.lean ====
section
/-! SUPPORT. Laws/KeepMatrix.lean: the operations of Machine/Matrix.lean keep the canonical form and the queue (Laws/Ok.lean). -/

namespace Sys2Proof.Machine

theorem State.book_ok {q : Kept} : ∀ a0 a1 a2 a3 a4, State.Ok q a0 → State.Ok q (State.book a0 a1 a2 a3 a4) := by
  intro _ _ _ _ _ _
  unfold State.book
  try dsimp only
  repeat' (first
    | with_reducible assumption
    | with_reducible apply State.setCore_ok
    | simp only [State.mk_ok]
    | with_reducible apply partsOk_same
    | dsimp only)

theorem State.setSlot_ok {q : Kept} : ∀ a0 a1 a2 a3 a4 a5, State.Ok q a0 → State.Ok q (State.setSlot a0 a1 a2 a3 a4 a5) := by
  intro _ _ _ _ _ _ _
  unfold State.setSlot
  try dsimp only
  repeat' (first
    | with_reducible assumption
    | with_reducible apply State.setCore_ok
    | with_reducible apply State.set_ok
    | simp only [State.mk_ok]
    | with_reducible apply partsOk_same
    | dsimp only)

theorem State.accParity_ok {q : Kept} : ∀ a0 a1 a2 a3 a4 a5 a6, State.Ok q a0 → State.Ok q (State.accParity a0 a1 a2 a3 a4 a5 a6) := by
  intro _ _ _ _ _ _ _ _
  unfold State.accParity
  try dsimp only
  repeat' (first
    | with_reducible assumption
    | with_reducible apply State.setSlot_ok
    | with_reducible apply State.inc_ok
    | simp only [State.mk_ok]
    | with_reducible apply partsOk_same
    | dsimp only
    | split
    | with_reducible intro _)

theorem State.accTileParity_ok {q : Kept} : ∀ a0 a1 a2 a3 a4 a5, State.Ok q a0 → State.Ok q (State.accTileParity a0 a1 a2 a3 a4 a5) := by
  intro _ _ _ _ _ _ _
  unfold State.accTileParity
  try dsimp only
  repeat' (first
    | with_reducible assumption
    | with_reducible apply State.accParity_ok
    | dsimp only)

theorem State.chunkOp_ok {q : Kept} : ∀ a0 a1 a2 a3 a4 a5 a6, State.Ok q a0 → State.Ok q (State.chunkOp a0 a1 a2 a3 a4 a5 a6) := by
  intro _ _ _ _ _ _ _ _
  unfold State.chunkOp
  try dsimp only
  repeat' (first
    | with_reducible assumption
    | with_reducible apply State.stallRead_ok
    | with_reducible apply State.setSlot_ok
    | with_reducible apply State.setCore_ok
    | with_reducible apply State.book_ok
    | with_reducible apply State.accTileParity_ok
    | simp only [State.mk_ok]
    | with_reducible apply partsOk_same
    | dsimp only
    | split)

theorem State.accOut_ok {q : Kept} : ∀ a0 a1 a2 a3 a4 a5 a6 a7, State.Ok q a0 → State.Ok q (State.accOut a0 a1 a2 a3 a4 a5 a6 a7) := by
  intro _ _ _ _ _ _ _ _ _
  unfold State.accOut
  try dsimp only
  repeat' (first
    | with_reducible assumption
    | with_reducible apply State.stallWrite_ok
    | with_reducible apply State.poisonSeen_ok
    | with_reducible apply State.accParity_ok
    | dsimp only)

theorem State.accStore_ok {q : Kept} : ∀ a0 a1 a2 a3 a4 a5, State.Ok q a0 → State.Ok q (State.accStore a0 a1 a2 a3 a4 a5) := by
  intro _ _ _ _ _ _ _
  unfold State.accStore
  try dsimp only
  repeat' (first
    | with_reducible assumption
    | with_reducible apply State.setCore_ok
    | with_reducible apply State.book_ok
    | with_reducible apply State.accOut_ok
    | simp only [State.mk_ok]
    | with_reducible apply partsOk_same
    | with_reducible apply foldl_ok
    | with_reducible apply foldl_fst_ok
    | with_reducible apply foldl_st_ok
    | with_reducible apply foldl_out_ok
    | dsimp only
    | with_reducible intro _)

theorem State.accAdd_ok {q : Kept} : ∀ a0 a1 a2 a3 a4 a5, State.Ok q a0 → State.Ok q (State.accAdd a0 a1 a2 a3 a4 a5) := by
  intro _ _ _ _ _ _ _
  unfold State.accAdd
  try dsimp only
  repeat' (first
    | with_reducible assumption
    | with_reducible apply State.stallRead_ok
    | with_reducible apply State.setSlot_ok
    | with_reducible apply State.setCore_ok
    | with_reducible apply State.book_ok
    | with_reducible apply State.accTileParity_ok
    | simp only [State.mk_ok]
    | with_reducible apply partsOk_same
    | with_reducible apply foldl_ok
    | with_reducible apply foldl_fst_ok
    | with_reducible apply foldl_st_ok
    | with_reducible apply foldl_out_ok
    | dsimp only
    | split
    | with_reducible intro _)

theorem State.accClear_ok {q : Kept} : ∀ a0 a1 a2 a3 a4, State.Ok q a0 → State.Ok q (State.accClear a0 a1 a2 a3 a4) := by
  intro _ _ _ _ _ _
  unfold State.accClear
  try dsimp only
  repeat' (first
    | with_reducible assumption
    | with_reducible apply State.setSlot_ok
    | with_reducible apply State.setCore_ok
    | simp only [State.mk_ok]
    | with_reducible apply partsOk_same
    | dsimp only)

theorem State.matRun_ok {q : Kept} : ∀ a0 a1 a2 a3 a4 a5 a6, State.Ok q a0 → State.Ok q (State.matRun a0 a1 a2 a3 a4 a5 a6) := by
  intro _ _ _ _ _ _ _ _
  unfold State.matRun
  try dsimp only
  repeat' (first
    | with_reducible assumption
    | with_reducible apply State.chunkOp_ok
    | with_reducible apply State.accStore_ok
    | with_reducible apply State.accClear_ok
    | with_reducible apply State.accAdd_ok
    | simp only [State.mk_ok]
    | with_reducible apply partsOk_same
    | dsimp only
    | split)

end Sys2Proof.Machine
end

