-- ==== Sys2Proof/Laws/KeepConv.lean ====
section
/-! SUPPORT. Laws/KeepConv.lean: the operations of Machine/Conv.lean keep the canonical form and the queue (Laws/Ok.lean). -/

namespace Sys2Proof.Machine

theorem State.convBlock_ok {q : Kept} : ∀ a0 a1 a2 a3 a4, State.Ok q a0 → State.Ok q (State.convBlock a0 a1 a2 a3 a4) := by
  intro _ _ _ _ _ _
  unfold State.convBlock
  try dsimp only
  repeat' (first
    | with_reducible assumption
    | with_reducible apply State.stallWrite_ok
    | with_reducible apply State.govBlock_ok
    | with_reducible apply State.foldWrite_ok
    | with_reducible apply State.countPen_ok
    | with_reducible apply foldl_ok
    | with_reducible apply foldl_fst_ok
    | with_reducible apply foldl_st_ok
    | with_reducible apply foldl_out_ok
    | dsimp only
    | split
    | with_reducible intro _)

theorem State.convAcc_ok {q : Kept} : ∀ a0 a1 a2, State.Ok q a0 → State.Ok q (State.convAcc a0 a1 a2) := by
  intro _ _ _ _
  unfold State.convAcc
  try dsimp only
  repeat' (first
    | with_reducible assumption
    | with_reducible apply State.stallWrite_ok
    | with_reducible apply State.foldWrite_ok
    | with_reducible apply State.countPen_ok
    | with_reducible apply foldl_ok
    | with_reducible apply foldl_fst_ok
    | with_reducible apply foldl_st_ok
    | with_reducible apply foldl_out_ok
    | dsimp only
    | split)

theorem State.convertElems_ok {q : Kept} : ∀ a0 a1 a2 a3, State.Ok q a0 → State.Ok q (State.convertElems a0 a1 a2 a3) := by
  intro _ _ _ _ _
  unfold State.convertElems
  try dsimp only
  repeat' (first
    | with_reducible assumption
    | with_reducible apply YardWork.block_ok
    | with_reducible apply State.setCore_ok
    | with_reducible apply State.poisonSeen_ok
    | with_reducible apply State.convBlock_ok
    | with_reducible apply State.convAcc_ok
    | with_reducible apply State.book_ok
    | with_reducible apply Import.block_ok
    | simp only [State.mk_ok]
    | with_reducible apply partsOk_same
    | with_reducible apply foldl_ok
    | with_reducible apply foldl_fst_ok
    | with_reducible apply foldl_st_ok
    | with_reducible apply foldl_out_ok
    | dsimp only
    | split
    | with_reducible intro _)

theorem State.convTake_ok {q : Kept} : ∀ a0 a1 a2 a3 a4, State.Ok q a0 → State.Ok q (State.convTake a0 a1 a2 a3 a4).1 := by
  intro _ _ _ _ _ _
  unfold State.convTake
  try dsimp only
  repeat' (first
    | with_reducible assumption
    | with_reducible apply State.setSlot_ok
    | with_reducible apply State.put_ok
    | with_reducible apply State.countPen_ok
    | with_reducible apply State.accParity_ok
    | simp only [State.mk_ok]
    | with_reducible apply partsOk_same
    | dsimp only
    | split)

theorem State.convTakes_ok {q : Kept} : ∀ a0 a1 a2 a3 a4 a5, State.Ok q a0 → State.Ok q (State.convTakes a0 a1 a2 a3 a4 a5).1 := by
  intro _ _ _ _ _ _ _
  unfold State.convTakes
  try dsimp only
  repeat' (first
    | with_reducible assumption
    | with_reducible apply State.convTake_ok
    | with_reducible apply foldl_ok
    | with_reducible apply foldl_fst_ok
    | with_reducible apply foldl_st_ok
    | with_reducible apply foldl_out_ok
    | dsimp only
    | with_reducible intro _)

theorem State.convSlot_ok {q : Kept} : ∀ a0 a1 a2 a3 a4, State.Ok q a0 → State.Ok q (State.convSlot a0 a1 a2 a3 a4) := by
  intro _ _ _ _ _ _
  unfold State.convSlot
  try dsimp only
  repeat' (first
    | with_reducible assumption
    | with_reducible apply State.convertElems_ok
    | with_reducible apply State.convTakes_ok
    | dsimp only)

theorem State.chldTake_ok {q : Kept} : ∀ a0 a1 a2 a3 a4 a5, State.Ok q a0 → State.Ok q (State.chldTake a0 a1 a2 a3 a4 a5) := by
  intro _ _ _ _ _ _ _
  unfold State.chldTake
  try dsimp only
  repeat' (first
    | with_reducible assumption
    | with_reducible apply State.stallRead_ok
    | with_reducible apply State.setCore_ok
    | with_reducible apply State.set_ok
    | simp only [State.mk_ok]
    | with_reducible apply partsOk_same
    | dsimp only)

theorem State.chld_ok {q : Kept} : ∀ a0 a1 a2 a3 a4, State.Ok q a0 → State.Ok q (State.chld a0 a1 a2 a3 a4) := by
  intro _ _ _ _ _ _
  unfold State.chld
  try dsimp only
  repeat' (first
    | with_reducible assumption
    | with_reducible apply State.setCore_ok
    | with_reducible apply State.chldTake_ok
    | with_reducible apply State.book_ok
    | simp only [State.mk_ok]
    | with_reducible apply partsOk_same
    | with_reducible apply foldl_ok
    | with_reducible apply foldl_fst_ok
    | with_reducible apply foldl_st_ok
    | with_reducible apply foldl_out_ok
    | dsimp only
    | with_reducible intro _)

theorem State.descRead_ok {q : Kept} : ∀ a0 a1 a2 a3, State.Ok q a0 → State.Ok q (State.descRead a0 a1 a2 a3) := by
  intro _ _ _ _ _
  unfold State.descRead
  try dsimp only
  repeat' (first
    | with_reducible assumption
    | with_reducible apply State.storeRead_ok
    | dsimp only)

end Sys2Proof.Machine
end

