-- ==== Sys2Proof/Laws/KeepVector.lean ====
section
/-! SUPPORT. Laws/KeepVector.lean: the operations of Machine/Vector.lean keep the canonical form and the queue (Laws/Ok.lean). -/

namespace Sys2Proof.Machine

theorem State.slotReads_ok {q : Kept} : ∀ a0 a1 a2 a3 a4 a5, State.Ok q a0 → State.Ok q (State.slotReads a0 a1 a2 a3 a4 a5) := by
  intro _ _ _ _ _ _ _
  unfold State.slotReads
  try dsimp only
  repeat' (first
    | with_reducible assumption
    | with_reducible apply State.accParity_ok
    | with_reducible apply foldl_ok
    | with_reducible apply foldl_fst_ok
    | with_reducible apply foldl_st_ok
    | with_reducible apply foldl_out_ok
    | dsimp only
    | split
    | with_reducible intro _)

theorem State.slotProReads_ok {q : Kept} : ∀ a0 a1 a2, State.Ok q a0 → State.Ok q (State.slotProReads a0 a1 a2) := by
  intro _ _ _ _
  unfold State.slotProReads
  try dsimp only
  repeat' (first
    | with_reducible assumption
    | with_reducible apply State.slotReads_ok
    | dsimp only
    | split)

theorem State.vecReads_ok {q : Kept} : ∀ a0 a1 a2, State.Ok q a0 → State.Ok q (State.vecReads a0 a1 a2) := by
  intro _ _ _ _
  unfold State.vecReads
  try dsimp only
  repeat' (first
    | with_reducible assumption
    | with_reducible apply State.stallRead_ok
    | with_reducible apply State.slotReads_ok
    | with_reducible apply State.slotProReads_ok
    | with_reducible apply foldl_ok
    | with_reducible apply foldl_fst_ok
    | with_reducible apply foldl_st_ok
    | with_reducible apply foldl_out_ok
    | dsimp only
    | split
    | with_reducible intro _)

theorem State.vecStore_ok {q : Kept} : ∀ a0 a1 a2, State.Ok q a0 → State.Ok q (State.vecStore a0 a1 a2) := by
  intro _ _ _ _
  unfold State.vecStore
  try dsimp only
  repeat' (first
    | with_reducible assumption
    | with_reducible apply State.stallWrite_ok
    | dsimp only)

theorem State.vecLane_ok {q : Kept} : ∀ a0 a1 a2, State.Ok q a0 → State.Ok q (State.vecLane a0 a1 a2) := by
  intro _ _ _ _
  unfold State.vecLane
  try dsimp only
  repeat' (first
    | with_reducible assumption
    | with_reducible apply State.setCore_ok
    | with_reducible apply State.set_ok
    | with_reducible apply State.draw_ok
    | simp only [State.mk_ok]
    | with_reducible apply partsOk_same
    | dsimp only
    | split)

theorem State.vecWrite_ok {q : Kept} : ∀ a0 a1 a2, State.Ok q a0 → State.Ok q (State.vecWrite a0 a1 a2) := by
  intro _ _ _ _
  unfold State.vecWrite
  try dsimp only
  repeat' (first
    | with_reducible assumption
    | with_reducible apply State.vecStore_ok
    | with_reducible apply State.vecLane_ok
    | with_reducible apply foldl_ok
    | with_reducible apply foldl_fst_ok
    | with_reducible apply foldl_st_ok
    | with_reducible apply foldl_out_ok
    | dsimp only
    | split
    | with_reducible intro _)

theorem State.vecFlags_ok {q : Kept} : ∀ a0 a1 a2, State.Ok q a0 → State.Ok q (State.vecFlags a0 a1 a2) := by
  intro _ _ _ _
  unfold State.vecFlags
  try dsimp only
  repeat' (first
    | with_reducible assumption
    | with_reducible apply State.poisonSeen_ok
    | with_reducible apply State.laneSat_ok
    | with_reducible apply State.fuDomain_ok
    | dsimp only)

theorem State.extreme_ok {q : Kept} : ∀ a0 a1, State.Ok q a0 → State.Ok q (State.extreme a0 a1).2 := by
  intro _ _ _
  unfold State.extreme
  try dsimp only
  repeat' (first
    | with_reducible assumption
    | with_reducible apply State.draw_ok
    | dsimp only
    | split)

theorem State.summary_ok {q : Kept} : ∀ a0 a1 a2, State.Ok q a0 → State.Ok q (State.summary a0 a1 a2).2.2 := by
  intro _ _ _ _
  unfold State.summary
  try dsimp only
  repeat' (first
    | with_reducible assumption
    | with_reducible apply State.extreme_ok
    | with_reducible apply State.draw_ok
    | simp only [State.mk_ok]
    | with_reducible apply partsOk_same
    | with_reducible apply foldl_ok
    | with_reducible apply foldl_fst_ok
    | with_reducible apply foldl_st_ok
    | with_reducible apply foldl_out_ok
    | dsimp only
    | split)

theorem State.vecLatch_ok {q : Kept} : ∀ a0 a1 a2 a3, State.Ok q a0 → State.Ok q (State.vecLatch a0 a1 a2 a3) := by
  intro _ _ _ _ _
  unfold State.vecLatch
  try dsimp only
  repeat' (first
    | with_reducible assumption
    | with_reducible apply State.summary_ok
    | with_reducible apply State.setCore_ok
    | simp only [State.mk_ok]
    | with_reducible apply partsOk_same
    | dsimp only
    | split)

theorem State.vecRun_ok {q : Kept} : ∀ a0 a1 a2 a3 a4 a5 a6, State.Ok q a0 → State.Ok q (State.vecRun a0 a1 a2 a3 a4 a5 a6) := by
  intro _ _ _ _ _ _ _ _
  unfold State.vecRun
  try dsimp only
  repeat' (first
    | with_reducible assumption
    | with_reducible apply State.vecWrite_ok
    | with_reducible apply State.vecReads_ok
    | with_reducible apply State.vecLatch_ok
    | with_reducible apply State.vecFlags_ok
    | with_reducible apply State.setCore_ok
    | with_reducible apply State.descRead_ok
    | with_reducible apply State.convertElems_ok
    | with_reducible apply State.book_ok
    | simp only [State.mk_ok]
    | with_reducible apply partsOk_same
    | dsimp only
    | split
    | with_reducible intro _)

end Sys2Proof.Machine
end

