-- ==== Sys2Proof/Laws/KeepMove.lean ====
section
/-! SUPPORT. Laws/KeepMove.lean: the operations of Machine/Move.lean keep the canonical form and the queue (Laws/Ok.lean). -/

namespace Sys2Proof.Machine

theorem State.wordsToStall_ok {q : Kept} : ∀ a0 a1 a2 a3 a4 a5, State.Ok q a0 → State.Ok q (State.wordsToStall a0 a1 a2 a3 a4 a5) := by
  intro _ _ _ _ _ _ _
  unfold State.wordsToStall
  try dsimp only
  repeat' (first
    | with_reducible assumption
    | with_reducible apply State.stallWrite_ok
    | with_reducible apply foldl_ok
    | with_reducible apply foldl_fst_ok
    | with_reducible apply foldl_st_ok
    | with_reducible apply foldl_out_ok
    | dsimp only
    | with_reducible intro _)

theorem State.wordsToLoft_ok {q : Kept} : ∀ a0 a1 a2 a3 a4, State.Ok q a0 → State.Ok q (State.wordsToLoft a0 a1 a2 a3 a4) := by
  intro _ _ _ _ _ _
  unfold State.wordsToLoft
  try dsimp only
  repeat' (first
    | with_reducible assumption
    | with_reducible apply State.loftWrite_ok
    | with_reducible apply foldl_ok
    | with_reducible apply foldl_fst_ok
    | with_reducible apply foldl_st_ok
    | with_reducible apply foldl_out_ok
    | dsimp only
    | with_reducible intro _)

theorem State.moveUntil_ok {q : Kept} : ∀ a0 a1 a2 a3 a4, State.Ok q a0 → State.Ok q (State.moveUntil a0 a1 a2 a3 a4) := by
  intro _ _ _ _ _ _
  unfold State.moveUntil
  try dsimp only
  repeat' (first
    | with_reducible assumption
    | with_reducible apply State.setCore_ok
    | simp only [State.mk_ok]
    | with_reducible apply partsOk_same
    | dsimp only)

theorem State.receive_ok {q : Kept} : ∀ a0 a1 a2 a3 a4 a5 a6, State.Ok q a0 → State.Ok q (State.receive a0 a1 a2 a3 a4 a5 a6) := by
  intro _ _ _ _ _ _ _ _
  unfold State.receive
  try dsimp only
  repeat' (first
    | with_reducible assumption
    | with_reducible apply State.wordsToStall_ok
    | with_reducible apply State.poisonSeen_ok
    | with_reducible apply State.moveUntil_ok
    | with_reducible apply State.book_ok
    | dsimp only)

theorem State.moveLd_ok {q : Kept} : ∀ a0 a1 a2 a3 a4, State.Ok q a0 → State.Ok q (State.moveLd a0 a1 a2 a3 a4) := by
  intro _ _ _ _ _ _
  unfold State.moveLd
  try dsimp only
  repeat' (first
    | with_reducible assumption
    | with_reducible apply State.receive_ok
    | with_reducible apply State.loftRead_ok
    | with_reducible apply State.book_ok
    | dsimp only)

theorem State.moveSt_ok {q : Kept} : ∀ a0 a1 a2 a3 a4, State.Ok q a0 → State.Ok q (State.moveSt a0 a1 a2 a3 a4) := by
  intro _ _ _ _ _ _
  unfold State.moveSt
  try dsimp only
  repeat' (first
    | with_reducible assumption
    | with_reducible apply State.wordsToLoft_ok
    | with_reducible apply State.stallRead_ok
    | with_reducible apply State.moveUntil_ok
    | with_reducible apply State.book_ok
    | dsimp only)

theorem State.moveLdt_ok {q : Kept} : ∀ a0 a1 a2 a3 a4, State.Ok q a0 → State.Ok q (State.moveLdt a0 a1 a2 a3 a4) := by
  intro _ _ _ _ _ _
  unfold State.moveLdt
  try dsimp only
  repeat' (first
    | with_reducible assumption
    | with_reducible apply State.wordsToStall_ok
    | with_reducible apply State.poisonSeen_ok
    | with_reducible apply State.moveUntil_ok
    | with_reducible apply State.moveLd_ok
    | with_reducible apply State.loftRead_ok
    | with_reducible apply State.book_ok
    | simp only [State.mk_ok]
    | with_reducible apply partsOk_same
    | with_reducible apply foldl_ok
    | with_reducible apply foldl_fst_ok
    | with_reducible apply foldl_st_ok
    | with_reducible apply foldl_out_ok
    | dsimp only
    | split
    | with_reducible intro _)

theorem State.moveRun_ok {q : Kept} : ∀ a0 a1 a2 a3 a4 a5, State.Ok q a0 → State.Ok q (State.moveRun a0 a1 a2 a3 a4 a5) := by
  intro _ _ _ _ _ _ _
  unfold State.moveRun
  try dsimp only
  repeat' (first
    | with_reducible assumption
    | with_reducible apply State.moveSt_ok
    | with_reducible apply State.moveLdt_ok
    | with_reducible apply State.moveLd_ok
    | simp only [State.mk_ok]
    | with_reducible apply partsOk_same
    | dsimp only
    | split)

theorem State.bcastRun_ok {q : Kept} : ∀ a0 a1 a2 a3, State.Ok q a0 → State.Ok q (State.bcastRun a0 a1 a2 a3) := by
  intro _ _ _ _ _
  unfold State.bcastRun
  try dsimp only
  repeat' (first
    | with_reducible assumption
    | with_reducible apply State.receive_ok
    | with_reducible apply State.loftRead_ok
    | with_reducible apply State.book_ok
    | simp only [State.mk_ok]
    | with_reducible apply partsOk_same
    | with_reducible apply foldl_ok
    | with_reducible apply foldl_fst_ok
    | with_reducible apply foldl_st_ok
    | with_reducible apply foldl_out_ok
    | dsimp only
    | split
    | with_reducible intro _)

end Sys2Proof.Machine
end

