-- ==== Sys2Proof/Laws/KeepPivot.lean ====
section
/-! SUPPORT. Laws/KeepPivot.lean: the operations of Machine/Pivot.lean keep the canonical form and the queue (Laws/Ok.lean). -/

namespace Sys2Proof.Machine

theorem State.pivSlots_ok {q : Kept} : ∀ a0 a1 a2 a3 a4 a5, State.Ok q a0 → State.Ok q (State.pivSlots a0 a1 a2 a3 a4 a5).2 := by
  intro _ _ _ _ _ _ _
  unfold State.pivSlots
  try dsimp only
  repeat' (first
    | with_reducible assumption
    | with_reducible apply State.draw_ok
    | simp only [State.mk_ok]
    | with_reducible apply partsOk_same
    | dsimp only
    | split)

theorem State.loftWrites_ok {q : Kept} : ∀ a0 a1 a2 a3, State.Ok q a0 → State.Ok q (State.loftWrites a0 a1 a2 a3) := by
  intro _ _ _ _ _
  unfold State.loftWrites
  try dsimp only
  repeat' (first
    | with_reducible assumption
    | with_reducible apply State.loftWrite_ok
    | with_reducible apply foldl_ok
    | with_reducible apply foldl_fst_ok
    | with_reducible apply foldl_st_ok
    | with_reducible apply foldl_out_ok
    | dsimp only
    | with_reducible intro _)

theorem State.pivExps_ok {q : Kept} : ∀ a0 a1 a2 a3, State.Ok q a0 → State.Ok q (State.pivExps a0 a1 a2 a3) := by
  intro _ _ _ _ _
  unfold State.pivExps
  try dsimp only
  repeat' (first
    | with_reducible assumption
    | with_reducible apply State.setCluster_ok
    | with_reducible apply State.set_ok
    | simp only [State.mk_ok]
    | with_reducible apply partsOk_same
    | with_reducible apply foldl_ok
    | with_reducible apply foldl_fst_ok
    | with_reducible apply foldl_st_ok
    | with_reducible apply foldl_out_ok
    | dsimp only
    | with_reducible intro _)

theorem State.pivEnd_ok {q : Kept} : ∀ a0 a1 a2 a3, State.Ok q a0 → State.Ok q (State.pivEnd a0 a1 a2 a3) := by
  intro _ _ _ _ _
  unfold State.pivEnd
  try dsimp only
  repeat' (first
    | with_reducible assumption
    | with_reducible apply State.set_ok
    | with_reducible apply State.pivExps_ok
    | with_reducible apply State.loftWrites_ok
    | with_reducible apply State.inc_ok
    | with_reducible apply State.countPen_ok
    | simp only [State.mk_ok]
    | with_reducible apply partsOk_same
    | dsimp only
    | split)

theorem State.pivFetch_ok {q : Kept} : ∀ a0 a1 a2 a3 a4, State.Ok q a0 → State.Ok q (State.pivFetch a0 a1 a2 a3 a4).1 := by
  intro _ _ _ _ _ _
  unfold State.pivFetch
  try dsimp only
  repeat' (first
    | with_reducible assumption
    | with_reducible apply State.set_ok
    | with_reducible apply State.loftRead_ok
    | dsimp only)

theorem State.pivStart_ok {q : Kept} : ∀ a0 a1 a2 a3 a4 a5, State.Ok q a0 → State.Ok q (State.pivStart a0 a1 a2 a3 a4 a5).1 := by
  intro _ _ _ _ _ _ _
  unfold State.pivStart
  try dsimp only
  repeat' (first
    | with_reducible assumption
    | with_reducible apply State.set_ok
    | with_reducible apply State.pivExps_ok
    | with_reducible apply State.loftWrites_ok
    | with_reducible apply State.loftRead_ok
    | with_reducible apply foldl_ok
    | with_reducible apply foldl_fst_ok
    | with_reducible apply foldl_st_ok
    | with_reducible apply foldl_out_ok
    | dsimp only
    | split
    | with_reducible intro _)

theorem State.pivBusyFor_ok {q : Kept} : ∀ a0 a1 a2 a3, State.Ok q a0 → State.Ok q (State.pivBusyFor a0 a1 a2 a3) := by
  intro _ _ _ _ _
  unfold State.pivBusyFor
  try dsimp only
  repeat' (first
    | with_reducible assumption
    | with_reducible apply State.setCluster_ok
    | with_reducible apply State.set_ok
    | simp only [State.mk_ok]
    | with_reducible apply partsOk_same
    | dsimp only)

theorem State.pivBegun_ok {q : Kept} : ∀ a0 a1 a2 a3, State.Ok q a0 → State.Ok q (State.pivBegun a0 a1 a2 a3) := by
  intro _ _ _ _ _
  unfold State.pivBegun
  try dsimp only
  repeat' (first
    | with_reducible assumption
    | with_reducible apply State.setCluster_ok
    | with_reducible apply State.clearFlds_ok
    | simp only [State.mk_ok]
    | with_reducible apply partsOk_same
    | dsimp only
    | split)

theorem State.pivBegin_ok {q : Kept} : ∀ a0 a1 a2 a3, State.Ok q a0 → State.Ok q (State.pivBegin a0 a1 a2 a3).1 := by
  intro _ _ _ _ _
  unfold State.pivBegin
  try dsimp only
  repeat' (first
    | with_reducible assumption
    | with_reducible apply State.pivSlots_ok
    | with_reducible apply State.pivBusyFor_ok
    | with_reducible apply State.loftRead_ok
    | dsimp only
    | split)

theorem State.pivDpt_ok {q : Kept} : ∀ a0 a1 a2 a3, State.Ok q a0 → State.Ok q (State.pivDpt a0 a1 a2 a3).1 := by
  intro _ _ _ _ _
  unfold State.pivDpt
  try dsimp only
  repeat' (first
    | with_reducible assumption
    | with_reducible apply State.set_ok
    | with_reducible apply State.pivSlots_ok
    | with_reducible apply State.pivBusyFor_ok
    | with_reducible apply State.inc_ok
    | dsimp only
    | split)

theorem State.pivCnt_ok {q : Kept} : ∀ a0 a1 a2 a3, State.Ok q a0 → State.Ok q (State.pivCnt a0 a1 a2 a3).1 := by
  intro _ _ _ _ _
  unfold State.pivCnt
  try dsimp only
  repeat' (first
    | with_reducible assumption
    | with_reducible apply State.pivSlots_ok
    | with_reducible apply State.pivBusyFor_ok
    | dsimp only
    | split)

theorem State.pivShort_ok {q : Kept} : ∀ a0 a1 a2 a3 a4, State.Ok q a0 → State.Ok q (State.pivShort a0 a1 a2 a3 a4).1 := by
  intro _ _ _ _ _ _
  unfold State.pivShort
  try dsimp only
  repeat' (first
    | with_reducible assumption
    | with_reducible apply State.pivDpt_ok
    | with_reducible apply State.pivCnt_ok
    | dsimp only
    | split)

end Sys2Proof.Machine
end

