-- ==== Sys2Proof/Laws/KeepJobs.lean ====
section
/-! SUPPORT. Laws/KeepJobs.lean: the operations of Machine/Jobs.lean keep the canonical form and the queue (Laws/Ok.lean). -/

namespace Sys2Proof.Machine

theorem State.startJob_ok {q : Kept} : ∀ a0 a1 a2 a3 a4 a5 a6, State.Ok q a0 → State.Ok q (State.startJob a0 a1 a2 a3 a4 a5 a6) := by
  intro _ _ _ _ _ _ _ _
  unfold State.startJob
  try dsimp only
  repeat' (first
    | with_reducible assumption
    | with_reducible apply State.setCore_ok
    | simp only [State.mk_ok]
    | with_reducible apply partsOk_same
    | dsimp only
    | split)

theorem State.startWith_ok {q : Kept} : ∀ a0 a1 a2 a3 a4 a5 a6, State.Ok q a0 → State.Ok q (State.startWith a0 a1 a2 a3 a4 a5 a6) := by
  intro _ _ _ _ _ _ _ _
  unfold State.startWith
  try dsimp only
  repeat' (first
    | with_reducible assumption
    | with_reducible apply State.startJob_ok
    | with_reducible apply State.book_ok
    | dsimp only)

theorem State.tagSlot_ok {q : Kept} : ∀ a0 a1 a2 a3 a4 a5, State.Ok q a0 → State.Ok q (State.tagSlot a0 a1 a2 a3 a4 a5) := by
  intro _ _ _ _ _ _ _
  unfold State.tagSlot
  try dsimp only
  repeat' (first
    | with_reducible assumption
    | with_reducible apply State.setSlot_ok
    | simp only [State.mk_ok]
    | with_reducible apply partsOk_same
    | dsimp only)

theorem State.matUntil_ok {q : Kept} : ∀ a0 a1 a2 a3 a4 a5, State.Ok q a0 → State.Ok q (State.matUntil a0 a1 a2 a3 a4 a5) := by
  intro _ _ _ _ _ _ _
  unfold State.matUntil
  try dsimp only
  repeat' (first
    | with_reducible assumption
    | with_reducible apply State.setCore_ok
    | simp only [State.mk_ok]
    | with_reducible apply partsOk_same
    | dsimp only)

theorem State.readAhead_ok {q : Kept} : ∀ a0 a1 a2 a3 a4 a5 a6 a7, State.Ok q a0 → State.Ok q (State.readAhead a0 a1 a2 a3 a4 a5 a6 a7) := by
  intro _ _ _ _ _ _ _ _ _
  unfold State.readAhead
  try dsimp only
  repeat' (first
    | with_reducible assumption
    | with_reducible apply State.setCore_ok
    | with_reducible apply State.book_ok
    | simp only [State.mk_ok]
    | with_reducible apply partsOk_same
    | dsimp only
    | split
    | with_reducible intro _)

theorem State.aheadCycle_ok {q : Kept} : ∀ a0 a1 a2 a3 a4, State.Ok q a0 → State.Ok q (State.aheadCycle a0 a1 a2 a3 a4) := by
  intro _ _ _ _ _ _
  unfold State.aheadCycle
  try dsimp only
  repeat' (first
    | with_reducible assumption
    | with_reducible apply State.stallRead_ok
    | with_reducible apply State.setCore_ok
    | simp only [State.mk_ok]
    | with_reducible apply partsOk_same
    | dsimp only
    | split)

theorem State.chunkStart_ok {q : Kept} : ∀ a0 a1 a2 a3 a4 a5 a6, State.Ok q a0 → State.Ok q (State.chunkStart a0 a1 a2 a3 a4 a5 a6) := by
  intro _ _ _ _ _ _ _ _
  unfold State.chunkStart
  try dsimp only
  repeat' (first
    | with_reducible assumption
    | with_reducible apply State.tagSlot_ok
    | with_reducible apply State.startWith_ok
    | with_reducible apply State.setCore_ok
    | with_reducible apply State.matUntil_ok
    | simp only [State.mk_ok]
    | with_reducible apply partsOk_same
    | dsimp only
    | split)

theorem State.matStart_ok {q : Kept} : ∀ a0 a1 a2 a3 a4 a5 a6, State.Ok q a0 → State.Ok q (State.matStart a0 a1 a2 a3 a4 a5 a6) := by
  intro _ _ _ _ _ _ _ _
  unfold State.matStart
  try dsimp only
  repeat' (first
    | with_reducible assumption
    | with_reducible apply State.tagSlot_ok
    | with_reducible apply State.startWith_ok
    | with_reducible apply State.startJob_ok
    | with_reducible apply State.matUntil_ok
    | with_reducible apply State.chunkStart_ok
    | simp only [State.mk_ok]
    | with_reducible apply partsOk_same
    | dsimp only
    | split
    | with_reducible intro _)

theorem State.convUntil_ok {q : Kept} : ∀ a0 a1 a2 a3 a4, State.Ok q a0 → State.Ok q (State.convUntil a0 a1 a2 a3 a4) := by
  intro _ _ _ _ _ _
  unfold State.convUntil
  try dsimp only
  repeat' (first
    | with_reducible assumption
    | with_reducible apply State.setCore_ok
    | simp only [State.mk_ok]
    | with_reducible apply partsOk_same
    | dsimp only)

theorem State.convStart_ok {q : Kept} : ∀ a0 a1 a2 a3 a4, State.Ok q a0 → State.Ok q (State.convStart a0 a1 a2 a3 a4) := by
  intro _ _ _ _ _ _
  unfold State.convStart
  try dsimp only
  repeat' (first
    | with_reducible assumption
    | with_reducible apply State.startWith_ok
    | with_reducible apply State.descRead_ok
    | with_reducible apply State.convUntil_ok
    | dsimp only
    | split
    | with_reducible intro _)

theorem State.chldStart_ok {q : Kept} : ∀ a0 a1 a2 a3 a4, State.Ok q a0 → State.Ok q (State.chldStart a0 a1 a2 a3 a4) := by
  intro _ _ _ _ _ _
  unfold State.chldStart
  try dsimp only
  repeat' (first
    | with_reducible assumption
    | with_reducible apply State.startWith_ok
    | with_reducible apply State.convUntil_ok
    | with_reducible apply State.chld_ok
    | dsimp only)

theorem State.vecStart_ok {q : Kept} : ∀ a0 a1 a2 a3 a4 a5 a6, State.Ok q a0 → State.Ok q (State.vecStart a0 a1 a2 a3 a4 a5 a6) := by
  intro _ _ _ _ _ _ _ _
  unfold State.vecStart
  try dsimp only
  repeat' (first
    | with_reducible assumption
    | with_reducible apply State.startWith_ok
    | with_reducible apply State.setCore_ok
    | with_reducible apply State.descRead_ok
    | with_reducible apply State.convUntil_ok
    | simp only [State.mk_ok]
    | with_reducible apply partsOk_same
    | dsimp only
    | split
    | with_reducible intro _)

theorem State.moveStart_ok {q : Kept} : ∀ a0 a1 a2 a3 a4 a5, State.Ok q a0 → State.Ok q (State.moveStart a0 a1 a2 a3 a4 a5) := by
  intro _ _ _ _ _ _ _
  unfold State.moveStart
  try dsimp only
  repeat' (first
    | with_reducible assumption
    | with_reducible apply State.startWith_ok
    | with_reducible apply State.moveUntil_ok
    | simp only [State.mk_ok]
    | with_reducible apply partsOk_same
    | dsimp only
    | split
    | with_reducible intro _)

theorem State.bcastStart_ok {q : Kept} : ∀ a0 a1 a2 a3, State.Ok q a0 → State.Ok q (State.bcastStart a0 a1 a2 a3) := by
  intro _ _ _ _ _
  unfold State.bcastStart
  try dsimp only
  repeat' (first
    | with_reducible assumption
    | with_reducible apply State.startJob_ok
    | with_reducible apply State.moveUntil_ok
    | with_reducible apply State.book_ok
    | simp only [State.mk_ok]
    | with_reducible apply partsOk_same
    | with_reducible apply foldl_ok
    | with_reducible apply foldl_fst_ok
    | with_reducible apply foldl_st_ok
    | with_reducible apply foldl_out_ok
    | dsimp only
    | split
    | with_reducible intro _)

theorem State.chunkCycle_ok {q : Kept} : ∀ a0 a1 a2 a3 a4 a5, State.Ok q a0 → State.Ok q (State.chunkCycle a0 a1 a2 a3 a4 a5).1 := by
  intro _ _ _ _ _ _ _
  unfold State.chunkCycle
  try dsimp only
  repeat' (first
    | with_reducible assumption
    | with_reducible apply State.stallRead_ok
    | simp only
    | with_reducible apply partsOk_same
    | with_reducible apply foldl_ok
    | with_reducible apply foldl_fst_ok
    | with_reducible apply foldl_st_ok
    | with_reducible apply foldl_out_ok
    | dsimp only
    | split
    | with_reducible intro _)

theorem State.chunkLand_ok {q : Kept} : ∀ a0 a1 a2 a3 a4 a5, State.Ok q a0 → State.Ok q (State.chunkLand a0 a1 a2 a3 a4 a5).1 := by
  intro _ _ _ _ _ _ _
  unfold State.chunkLand
  try dsimp only
  repeat' (first
    | with_reducible assumption
    | with_reducible apply State.setSlot_ok
    | with_reducible apply State.accTileParity_ok
    | simp only [State.mk_ok]
    | with_reducible apply partsOk_same
    | with_reducible apply foldl_ok
    | with_reducible apply foldl_fst_ok
    | with_reducible apply foldl_st_ok
    | with_reducible apply foldl_out_ok
    | dsimp only
    | split
    | with_reducible intro _)

theorem State.accstCycle_ok {q : Kept} : ∀ a0 a1 a2 a3 a4 a5 a6 a7 a8, State.Ok q a0 → 
    State.Ok q (State.accstCycle a0 a1 a2 a3 a4 a5 a6 a7 a8) := by
  intro _ _ _ _ _ _ _ _ _ _
  unfold State.accstCycle
  try dsimp only
  repeat' (first
    | with_reducible assumption
    | with_reducible apply State.accOut_ok
    | with_reducible apply foldl_ok
    | with_reducible apply foldl_fst_ok
    | with_reducible apply foldl_st_ok
    | with_reducible apply foldl_out_ok
    | dsimp only
    | with_reducible intro _)

theorem State.accaddCycle_ok {q : Kept} : ∀ a0 a1 a2 a3 a4 a5 a6 a7 a8, State.Ok q a0 → 
    State.Ok q (State.accaddCycle a0 a1 a2 a3 a4 a5 a6 a7 a8).1 := by
  intro _ _ _ _ _ _ _ _ _ _
  unfold State.accaddCycle
  try dsimp only
  repeat' (first
    | with_reducible assumption
    | with_reducible apply State.stallRead_ok
    | simp only [State.mk_ok]
    | with_reducible apply partsOk_same
    | dsimp only
    | split)

theorem State.convAccept_ok {q : Kept} : ∀ a0 a1 a2, State.Ok q a0 → State.Ok q (State.convAccept a0 a1 a2).1 := by
  intro _ _ _ _
  unfold State.convAccept
  try dsimp only
  repeat' (first
    | with_reducible assumption
    | with_reducible apply State.poisonSeen_ok
    | simp only [State.mk_ok]
    | with_reducible apply partsOk_same
    | dsimp only)

theorem State.convCycle_ok {q : Kept} : ∀ a0 a1 a2 a3, State.Ok q a0 → State.Ok q (State.convCycle a0 a1 a2 a3).1 := by
  intro _ _ _ _ _
  unfold State.convCycle
  try dsimp only
  repeat' (first
    | with_reducible assumption
    | with_reducible apply State.convTakes_ok
    | with_reducible apply State.convAccept_ok
    | dsimp only)

theorem State.convLand_ok {q : Kept} : ∀ a0 a1 a2, State.Ok q a0 → State.Ok q (State.convLand a0 a1 a2).1 := by
  intro _ _ _ _
  unfold State.convLand
  try dsimp only
  repeat' (first
    | with_reducible assumption
    | with_reducible apply YardWork.block_ok
    | with_reducible apply State.convBlock_ok
    | with_reducible apply State.convAcc_ok
    | with_reducible apply Import.block_ok
    | simp only
    | with_reducible apply partsOk_same
    | with_reducible apply foldl_ok
    | with_reducible apply foldl_fst_ok
    | with_reducible apply foldl_st_ok
    | with_reducible apply foldl_out_ok
    | dsimp only
    | split
    | with_reducible intro _)

theorem State.chldCycle_ok {q : Kept} : ∀ a0 a1 a2 a3 a4 a5 a6 a7 a8, State.Ok q a0 → State.Ok q (State.chldCycle a0 a1 a2 a3 a4 a5 a6 a7 a8) := by
  intro _ _ _ _ _ _ _ _ _ _
  unfold State.chldCycle
  try dsimp only
  repeat' (first
    | with_reducible assumption
    | with_reducible apply State.chldTake_ok
    | with_reducible apply foldl_ok
    | with_reducible apply foldl_fst_ok
    | with_reducible apply foldl_st_ok
    | with_reducible apply foldl_out_ok
    | dsimp only
    | with_reducible intro _)

theorem State.vecRead_ok {q : Kept} : ∀ a0 a1 a2 a3, State.Ok q a0 → State.Ok q (State.vecRead a0 a1 a2 a3).1 := by
  intro _ _ _ _ _
  unfold State.vecRead
  try dsimp only
  repeat' (first
    | with_reducible assumption
    | with_reducible apply State.stallCount_ok
    | with_reducible apply State.slotReads_ok
    | simp only [State.mk_ok]
    | with_reducible apply partsOk_same
    | with_reducible apply foldl_ok
    | with_reducible apply foldl_fst_ok
    | with_reducible apply foldl_st_ok
    | with_reducible apply foldl_out_ok
    | dsimp only
    | split
    | with_reducible intro _)

theorem State.vecCycle_ok {q : Kept} : ∀ a0 a1 a2, State.Ok q a0 → State.Ok q (State.vecCycle a0 a1 a2).1 := by
  intro _ _ _ _
  unfold State.vecCycle
  try dsimp only
  repeat' (first
    | with_reducible assumption
    | with_reducible apply State.vecRead_ok
    | with_reducible apply State.stallRead_ok
    | with_reducible apply State.slotProReads_ok
    | simp only
    | with_reducible apply partsOk_same
    | with_reducible apply foldl_ok
    | with_reducible apply foldl_fst_ok
    | with_reducible apply foldl_st_ok
    | with_reducible apply foldl_out_ok
    | dsimp only
    | split
    | with_reducible intro _)

theorem State.vecDeliver_ok {q : Kept} : ∀ a0 a1 a2 a3, State.Ok q a0 → State.Ok q (State.vecDeliver a0 a1 a2 a3).1 := by
  intro _ _ _ _ _
  unfold State.vecDeliver
  try dsimp only
  repeat' (first
    | with_reducible assumption
    | with_reducible apply State.vecLane_ok
    | with_reducible apply State.convAccept_ok
    | simp only
    | with_reducible apply partsOk_same
    | with_reducible apply foldl_ok
    | with_reducible apply foldl_fst_ok
    | with_reducible apply foldl_st_ok
    | with_reducible apply foldl_out_ok
    | dsimp only
    | split
    | with_reducible intro _)

theorem State.vecResult_ok {q : Kept} : ∀ a0 a1 a2 a3, State.Ok q a0 → State.Ok q (State.vecResult a0 a1 a2 a3).1 := by
  intro _ _ _ _ _
  unfold State.vecResult
  try dsimp only
  repeat' (first
    | with_reducible assumption
    | with_reducible apply State.vecLatch_ok
    | with_reducible apply State.vecFlags_ok
    | with_reducible apply State.vecDeliver_ok
    | simp only [State.mk_ok]
    | with_reducible apply partsOk_same
    | dsimp only
    | split
    | with_reducible intro _)

theorem State.vecLand_ok {q : Kept} : ∀ a0 a1 a2, State.Ok q a0 → State.Ok q (State.vecLand a0 a1 a2).1 := by
  intro _ _ _ _
  unfold State.vecLand
  try dsimp only
  repeat' (first
    | with_reducible assumption
    | with_reducible apply State.vecStore_ok
    | with_reducible apply State.vecResult_ok
    | with_reducible apply State.convLand_ok
    | simp only
    | with_reducible apply partsOk_same
    | with_reducible apply foldl_ok
    | with_reducible apply foldl_fst_ok
    | with_reducible apply foldl_st_ok
    | with_reducible apply foldl_out_ok
    | dsimp only
    | split
    | with_reducible intro _)

theorem State.ldCycle_ok {q : Kept} : ∀ a0 a1 a2 a3 a4 a5 a6 a7, State.Ok q a0 → State.Ok q (State.ldCycle a0 a1 a2 a3 a4 a5 a6 a7).1 := by
  intro _ _ _ _ _ _ _ _ _
  unfold State.ldCycle
  try dsimp only
  repeat' (first
    | with_reducible assumption
    | with_reducible apply State.loftRead_ok
    | dsimp only
    | split)

theorem State.stCycle_ok {q : Kept} : ∀ a0 a1 a2 a3 a4 a5 a6 a7 a8, State.Ok q a0 → State.Ok q (State.stCycle a0 a1 a2 a3 a4 a5 a6 a7 a8).1 := by
  intro _ _ _ _ _ _ _ _ _ _
  unfold State.stCycle
  try dsimp only
  repeat' (first
    | with_reducible assumption
    | with_reducible apply State.stallRead_ok
    | dsimp only
    | split)

theorem State.ldLand_ok {q : Kept} : ∀ a0 a1 a2 a3 a4, State.Ok q a0 → State.Ok q (State.ldLand a0 a1 a2 a3 a4) := by
  intro _ _ _ _ _ _
  unfold State.ldLand
  try dsimp only
  repeat' (first
    | with_reducible assumption
    | with_reducible apply State.wordsToStall_ok
    | with_reducible apply State.poisonSeen_ok
    | with_reducible apply foldl_ok
    | with_reducible apply foldl_fst_ok
    | with_reducible apply foldl_st_ok
    | with_reducible apply foldl_out_ok
    | dsimp only
    | split
    | with_reducible intro _)

theorem State.ldtCycle_ok {q : Kept} : ∀ a0 a1 a2 a3 a4 a5, State.Ok q a0 → State.Ok q (State.ldtCycle a0 a1 a2 a3 a4 a5).1 := by
  intro _ _ _ _ _ _ _
  unfold State.ldtCycle
  try dsimp only
  repeat' (first
    | with_reducible assumption
    | with_reducible apply State.loftRead_ok
    | simp only [State.mk_ok]
    | with_reducible apply partsOk_same
    | dsimp only
    | split)

theorem State.ldtLand_ok {q : Kept} : ∀ a0 a1 a2 a3 a4 a5 a6, State.Ok q a0 → State.Ok q (State.ldtLand a0 a1 a2 a3 a4 a5 a6) := by
  intro _ _ _ _ _ _ _ _
  unfold State.ldtLand
  try dsimp only
  repeat' (first
    | with_reducible assumption
    | with_reducible apply State.wordsToStall_ok
    | with_reducible apply State.poisonSeen_ok
    | with_reducible apply foldl_ok
    | with_reducible apply foldl_fst_ok
    | with_reducible apply foldl_st_ok
    | with_reducible apply foldl_out_ok
    | dsimp only
    | split
    | with_reducible intro _)

theorem State.workCycle_ok {q : Kept} : ∀ a0 a1 a2 a3 a4 a5 a6, State.Ok q a0 → State.Ok q (State.workCycle a0 a1 a2 a3 a4 a5 a6).1 := by
  intro _ _ _ _ _ _ _ _
  unfold State.workCycle
  try dsimp only
  repeat' (first
    | with_reducible assumption
    | with_reducible apply State.vecCycle_ok
    | with_reducible apply State.stCycle_ok
    | with_reducible apply State.ldtCycle_ok
    | with_reducible apply State.ldCycle_ok
    | with_reducible apply State.convCycle_ok
    | with_reducible apply State.chunkCycle_ok
    | with_reducible apply State.chldCycle_ok
    | with_reducible apply State.chld_ok
    | with_reducible apply State.accstCycle_ok
    | with_reducible apply State.accaddCycle_ok
    | dsimp only
    | split)

theorem State.workLand_ok {q : Kept} : ∀ a0 a1 a2 a3 a4 a5 a6, State.Ok q a0 → State.Ok q (State.workLand a0 a1 a2 a3 a4 a5 a6).1 := by
  intro _ _ _ _ _ _ _ _
  unfold State.workLand
  try dsimp only
  repeat' (first
    | with_reducible assumption
    | with_reducible apply State.wordsToLoft_ok
    | with_reducible apply State.vecLand_ok
    | with_reducible apply State.setSlot_ok
    | with_reducible apply State.ldtLand_ok
    | with_reducible apply State.ldLand_ok
    | with_reducible apply State.convLand_ok
    | with_reducible apply State.chunkLand_ok
    | with_reducible apply State.chld_ok
    | with_reducible apply State.accTileParity_ok
    | with_reducible apply foldl_ok
    | with_reducible apply foldl_fst_ok
    | with_reducible apply foldl_st_ok
    | with_reducible apply foldl_out_ok
    | dsimp only
    | split)

theorem State.eachJob_ok {q : Kept} : ∀ a0 a1 a2 a3 a4 a5, State.Ok q a0 → (∀ y0 y1, State.Ok q y0 → State.Ok q (a4 y0 y1).1) →
    State.Ok q (State.eachJob a0 a1 a2 a3 a4 a5) := by
  intro _ _ _ _ _ _ _ h1
  unfold State.eachJob
  try dsimp only
  repeat' (first
    | with_reducible assumption
    | with_reducible apply h1
    | with_reducible apply State.setCore_ok
    | with_reducible apply foldl_fst_ok
    | dsimp only
    | with_reducible intro _)

theorem State.coreCycle_ok {q : Kept} : ∀ a0 a1 a2 a3 a4, State.Ok q a0 → State.Ok q (State.coreCycle a0 a1 a2 a3 a4) := by
  intro _ _ _ _ _ _
  unfold State.coreCycle
  try dsimp only
  repeat' (first
    | with_reducible assumption
    | with_reducible apply State.workCycle_ok
    | with_reducible apply State.eachJob_ok
    | with_reducible apply State.aheadCycle_ok
    | dsimp only
    | with_reducible intro _)

theorem State.coreLand_ok {q : Kept} : ∀ a0 a1 a2 a3 a4, State.Ok q a0 → State.Ok q (State.coreLand a0 a1 a2 a3 a4) := by
  intro _ _ _ _ _ _
  unfold State.coreLand
  try dsimp only
  repeat' (first
    | with_reducible assumption
    | with_reducible apply State.workLand_ok
    | with_reducible apply State.eachJob_ok
    | dsimp only
    | with_reducible intro _)

theorem State.pivOuts_ok {q : Kept} : ∀ a0 a1 a2 a3, State.Ok q a0 → State.Ok q (State.pivOuts a0 a1 a2 a3) := by
  intro _ _ _ _ _
  unfold State.pivOuts
  try dsimp only
  repeat' (first
    | with_reducible assumption
    | with_reducible apply State.pivEnd_ok
    | with_reducible apply foldl_ok
    | with_reducible apply foldl_fst_ok
    | with_reducible apply foldl_st_ok
    | with_reducible apply foldl_out_ok
    | dsimp only
    | with_reducible intro _)

theorem State.pivCycle_ok {q : Kept} : ∀ a0 a1 a2 a3, State.Ok q a0 → State.Ok q (State.pivCycle a0 a1 a2 a3).1 := by
  intro _ _ _ _ _
  unfold State.pivCycle
  try dsimp only
  repeat' (first
    | with_reducible assumption
    | with_reducible apply State.setCluster_ok
    | with_reducible apply State.set_ok
    | with_reducible apply State.pivStart_ok
    | with_reducible apply State.pivSlots_ok
    | with_reducible apply State.pivOuts_ok
    | with_reducible apply State.pivFetch_ok
    | simp only [State.mk_ok]
    | with_reducible apply partsOk_same
    | dsimp only
    | split
    | with_reducible intro _)

theorem State.pivLand_ok {q : Kept} : ∀ a0 a1 a2 a3, State.Ok q a0 → State.Ok q (State.pivLand a0 a1 a2 a3) := by
  intro _ _ _ _ _
  unfold State.pivLand
  try dsimp only
  repeat' (first
    | with_reducible assumption
    | with_reducible apply YardWork.start_ok
    | with_reducible apply State.setCluster_ok
    | with_reducible apply State.pivOuts_ok
    | with_reducible apply State.pivBegun_ok
    | with_reducible apply State.loftWrites_ok
    | simp only [State.mk_ok]
    | with_reducible apply partsOk_same
    | dsimp only
    | split
    | with_reducible intro _)

theorem State.enginesCycle_ok {q : Kept} : ∀ a0 a1 a2 a3, State.Ok q a0 → State.Ok q (State.enginesCycle a0 a1 a2 a3).1 := by
  intro _ _ _ _ _
  unfold State.enginesCycle
  try dsimp only
  repeat' (first
    | with_reducible assumption
    | with_reducible apply State.pivLand_ok
    | with_reducible apply State.pivCycle_ok
    | with_reducible apply State.coreLand_ok
    | with_reducible apply State.coreCycle_ok
    | simp only
    | with_reducible apply partsOk_same
    | with_reducible apply foldl_ok
    | with_reducible apply foldl_fst_ok
    | with_reducible apply foldl_st_ok
    | with_reducible apply foldl_out_ok
    | dsimp only
    | split
    | with_reducible intro _)

theorem State.enginesRun_ok {q : Kept} : ∀ a0 a1 a2 a3 a4, State.Ok q a0 → State.Ok q (State.enginesRun a0 a1 a2 a3 a4).1 := by
  intro a0 a1 a2 a3
  induction a3 generalizing a0 with
  | zero =>
    intro _ h
    exact h
  | succ n ih =>
    intro a4 h
    unfold State.enginesRun
    dsimp only
    have h1 := State.enginesCycle_ok a0 a1 a2 a4 h
    split
    · exact h
    · split
      · exact h1
      · exact ih _ _ h1

theorem State.enginesFinish_ok {q : Kept} : ∀ a0 a1 a2 a3 a4, State.Ok q a0 → State.Ok q (State.enginesFinish a0 a1 a2 a3 a4) := by
  intro a0 a1 a2 a3
  induction a3 generalizing a0 with
  | zero =>
    intro _ h
    exact h
  | succ n ih =>
    intro a4 h
    unfold State.enginesFinish
    dsimp only
    have h1 := State.enginesRun_ok a0 a1 a2 engineBound a4 h
    split
    · exact ih _ _ h1
    · exact h1

/-- With no operation in flight nothing runs. -/
theorem State.enginesRun_idle {s : State} {d h : Nat} (n x : Nat) (h1 : s.busyCores d h = []) (h2 : s.busyPivs d h = []) :
    s.enginesRun d h n x = (s, x, none) := by
  cases n with
  | zero => rfl
  | succ n => simp [State.enginesRun, h1, h2]

/-- And nothing is left to finish. -/
theorem State.enginesFinish_idle {s : State} {d h : Nat} (n x : Nat) (h1 : s.busyCores d h = []) (h2 : s.busyPivs d h = []) :
    s.enginesFinish d h n x = s := by
  cases n with
  | zero => rfl
  | succ n => simp [State.enginesFinish, State.enginesRun_idle _ _ h1 h2]

end Sys2Proof.Machine
end

