-- ==== Sys2Proof/Laws/KeepFaults.lean ====
section
/-! SUPPORT. Laws/KeepFaults.lean: the operations of Machine/Faults.lean keep the canonical form and the queue (Laws/Ok.lean). -/

namespace Sys2Proof.Machine

theorem State.landRings_ok {q : Kept} : ∀ a0 a1 a2 a3, State.Ok q a0 → State.Ok q (State.landRings a0 a1 a2 a3) := by
  intro _ _ _ _ _
  unfold State.landRings
  try dsimp only
  repeat' (first
    | with_reducible assumption
    | with_reducible apply State.setCtx_ok
    | with_reducible apply State.ringOwn_ok
    | simp only [State.mk_ok]
    | with_reducible apply partsOk_same
    | with_reducible apply foldl_ok
    | with_reducible apply foldl_fst_ok
    | with_reducible apply foldl_st_ok
    | with_reducible apply foldl_out_ok
    | dsimp only
    | split
    | with_reducible intro _)

theorem State.landAllRings_ok {q : Kept} : ∀ a0 a1 a2, State.Ok q a0 → State.Ok q (State.landAllRings a0 a1 a2) := by
  intro _ _ _ _
  unfold State.landAllRings
  try dsimp only
  repeat' (first
    | with_reducible assumption
    | with_reducible apply State.landRings_ok
    | with_reducible apply foldl_ok
    | with_reducible apply foldl_fst_ok
    | with_reducible apply foldl_st_ok
    | with_reducible apply foldl_out_ok
    | dsimp only)

theorem State.countHeld_ok {q : Kept} : ∀ a0 a1 a2, State.Ok q a0 → State.Ok q (State.countHeld a0 a1 a2) := by
  intro _ _ _ _
  unfold State.countHeld
  try dsimp only
  repeat' (first
    | with_reducible assumption
    | with_reducible apply State.inc_ok
    | with_reducible apply State.draw_ok
    | dsimp only)

theorem State.stepVoid_ok {q : Kept} : ∀ a0 a1, State.Ok q a0 → State.Ok q (State.stepVoid a0 a1) := by
  intro _ _ _
  unfold State.stepVoid
  try dsimp only
  repeat' (first
    | with_reducible assumption
    | with_reducible apply State.voidRecord_ok
    | with_reducible apply State.stopYards_ok
    | with_reducible apply State.endPenColls_ok
    | with_reducible apply State.abandonCkp_ok
    | dsimp only)

theorem State.freezeHalves_ok {q : Kept} : ∀ a0 a1 a2 a3 a4, State.Ok q a0 → State.Ok q (State.freezeHalves a0 a1 a2 a3 a4) := by
  intro _ _ _ _ _ _
  unfold State.freezeHalves
  try dsimp only
  repeat' (first
    | with_reducible assumption
    | with_reducible apply State.setB_ok
    | with_reducible apply State.set_ok
    | with_reducible apply State.alert_ok
    | dsimp only
    | split)

theorem State.penFreeze_ok {q : Kept} : ∀ a0 a1 a2 a3, State.Ok q a0 → State.Ok q (State.penFreeze a0 a1 a2 a3) := by
  intro _ _ _ _ _
  unfold State.penFreeze
  try dsimp only
  repeat' (first
    | with_reducible assumption
    | with_reducible apply State.stopYards_ok
    | with_reducible apply State.stepVoid_ok
    | with_reducible apply State.set_ok
    | with_reducible apply State.freezeHalves_ok
    | dsimp only
    | split)

theorem State.packageFreeze_ok {q : Kept} : ∀ a0 a1, State.Ok q a0 → State.Ok q (State.packageFreeze a0 a1) := by
  intro _ _ _
  unfold State.packageFreeze
  try dsimp only
  repeat' (first
    | with_reducible assumption
    | with_reducible apply State.stopAllYards_ok
    | with_reducible apply State.setLay_ok
    | with_reducible apply State.setB_ok
    | with_reducible apply State.set_ok
    | with_reducible apply State.alert_ok
    | with_reducible apply State.abandonCkp_ok
    | simp only [State.mk_ok]
    | with_reducible apply partsOk_same
    | with_reducible apply foldl_ok
    | with_reducible apply foldl_fst_ok
    | with_reducible apply foldl_st_ok
    | with_reducible apply foldl_out_ok
    | dsimp only
    | split
    | with_reducible intro _)

theorem State.enterFault_ok {q : Kept} : ∀ a0 a1 a2 a3 a4 a5, State.Ok q a0 → State.Ok q (State.enterFault a0 a1 a2 a3 a4 a5) := by
  intro _ _ _ _ _ _ _
  unfold State.enterFault
  try dsimp only
  repeat' (first
    | with_reducible assumption
    | with_reducible apply State.setCtx_ok
    | with_reducible apply State.set_ok
    | with_reducible apply State.landAllRings_ok
    | with_reducible apply State.enginesFinish_ok
    | with_reducible apply State.countHeld_ok
    | simp only [State.mk_ok]
    | with_reducible apply partsOk_same
    | dsimp only
    | split)

theorem State.stopPen_ok {q : Kept} : ∀ a0 a1 a2, State.Ok q a0 → State.Ok q (State.stopPen a0 a1 a2) := by
  intro _ _ _ _
  unfold State.stopPen
  try dsimp only
  repeat' (first
    | with_reducible assumption
    | with_reducible apply State.enterFault_ok
    | with_reducible apply foldl_ok
    | with_reducible apply foldl_fst_ok
    | with_reducible apply foldl_st_ok
    | with_reducible apply foldl_out_ok
    | dsimp only
    | split
    | with_reducible intro _)

theorem State.penFault_ok {q : Kept} : ∀ a0 a1, State.Ok q a0 → State.Ok q (State.penFault a0 a1) := by
  intro _ _ _
  unfold State.penFault
  try dsimp only
  repeat' (first
    | with_reducible assumption
    | with_reducible apply State.takeShare_ok
    | with_reducible apply State.stopPen_ok
    | with_reducible apply State.stepVoid_ok
    | with_reducible apply State.setPen_ok
    | with_reducible apply State.freezeHalves_ok
    | simp only [State.mk_ok]
    | with_reducible apply partsOk_same
    | dsimp only
    | split
    | with_reducible intro _)

theorem State.penFaultIfRunning_ok {q : Kept} : ∀ a0 a1, State.Ok q a0 → State.Ok q (State.penFaultIfRunning a0 a1) := by
  intro _ _ _
  unfold State.penFaultIfRunning
  try dsimp only
  repeat' (first
    | with_reducible assumption
    | with_reducible apply State.penFault_ok
    | dsimp only
    | split)

theorem State.contextFault_ok {q : Kept} : ∀ a0 a1 a2 a3 a4 a5, State.Ok q a0 → State.Ok q (State.contextFault a0 a1 a2 a3 a4 a5) := by
  intro _ _ _ _ _ _ _
  unfold State.contextFault
  try dsimp only
  repeat' (first
    | with_reducible assumption
    | with_reducible apply State.penFault_ok
    | with_reducible apply State.enterFault_ok
    | simp only [State.mk_ok]
    | with_reducible apply partsOk_same
    | dsimp only
    | split)

theorem State.coreFault_ok {q : Kept} : ∀ a0 a1 a2 a3 a4 a5, State.Ok q a0 → State.Ok q (State.coreFault a0 a1 a2 a3 a4 a5) := by
  intro _ _ _ _ _ _ _
  unfold State.coreFault
  try dsimp only
  repeat' (first
    | with_reducible assumption
    | with_reducible apply State.set_ok
    | with_reducible apply State.contextFault_ok
    | dsimp only)

theorem State.failColl_ok {q : Kept} : ∀ a0 a1 a2 a3 a4 a5, State.Ok q a0 → State.Ok q (State.failColl a0 a1 a2 a3 a4 a5) := by
  intro _ _ _ _ _ _ _
  unfold State.failColl
  try dsimp only
  repeat' (first
    | with_reducible assumption
    | with_reducible apply State.penFaultIfRunning_ok
    | with_reducible apply State.endColl_ok
    | dsimp only)

theorem State.failQueued_ok {q : Kept} : ∀ a0 a1 a2 a3 a4, State.Ok q a0 → State.Ok q (State.failQueued a0 a1 a2 a3 a4) := by
  intro _ _ _ _ _ _
  unfold State.failQueued
  try dsimp only
  repeat' (first
    | with_reducible assumption
    | with_reducible apply State.penFaultIfRunning_ok
    | with_reducible apply State.endQueued_ok
    | simp only [State.mk_ok]
    | with_reducible apply partsOk_same
    | dsimp only
    | split)

theorem State.fabError_ok {q : Kept} : ∀ a0 a1 a2 a3 a4, State.Ok q a0 → State.Ok q (State.fabError a0 a1 a2 a3 a4) := by
  intro _ _ _ _ _ _
  unfold State.fabError
  try dsimp only
  repeat' (first
    | with_reducible assumption
    | with_reducible apply State.set_ok
    | dsimp only
    | split)

theorem State.fabricFault_ok {q : Kept} : ∀ a0 a1 a2 a3 a4, State.Ok q a0 → State.Ok q (State.fabricFault a0 a1 a2 a3 a4) := by
  intro _ _ _ _ _ _
  unfold State.fabricFault
  try dsimp only
  repeat' (first
    | with_reducible assumption
    | with_reducible apply State.penFaultIfRunning_ok
    | with_reducible apply State.fabError_ok
    | dsimp only)

theorem State.pkgFault_ok {q : Kept} : ∀ a0 a1 a2, State.Ok q a0 → State.Ok q (State.pkgFault a0 a1 a2) := by
  intro _ _ _ _
  unfold State.pkgFault
  try dsimp only
  repeat' (first
    | with_reducible assumption
    | with_reducible apply State.set_ok
    | with_reducible apply State.alert_ok
    | dsimp only
    | split)

theorem State.dieFault_ok {q : Kept} : ∀ a0 a1 a2, State.Ok q a0 → State.Ok q (State.dieFault a0 a1 a2) := by
  intro _ _ _ _
  unfold State.dieFault
  try dsimp only
  repeat' (first
    | with_reducible assumption
    | with_reducible apply State.takeShare_ok
    | with_reducible apply State.stopPen_ok
    | with_reducible apply State.stepVoid_ok
    | with_reducible apply State.setPen_ok
    | with_reducible apply State.pkgFault_ok
    | with_reducible apply State.freezeHalves_ok
    | simp only [State.mk_ok]
    | with_reducible apply partsOk_same
    | with_reducible apply foldl_ok
    | with_reducible apply foldl_fst_ok
    | with_reducible apply foldl_st_ok
    | with_reducible apply foldl_out_ok
    | dsimp only
    | split
    | with_reducible intro _)

theorem State.packageFault_ok {q : Kept} : ∀ a0 a1 a2, State.Ok q a0 → State.Ok q (State.packageFault a0 a1 a2) := by
  intro _ _ _ _
  unfold State.packageFault
  try dsimp only
  repeat' (first
    | with_reducible assumption
    | with_reducible apply State.pkgFault_ok
    | with_reducible apply State.packageFreeze_ok
    | dsimp only)

theorem execDieFault_ok {q : Kept} : ∀ a0 a1 a2, State.Ok q a2 → OutOk q (execDieFault a0 a1 a2) := by
  intro _ _ _ _
  unfold execDieFault
  try dsimp only
  repeat' (first
    | with_reducible assumption
    | with_reducible apply outNext_ok
    | with_reducible apply notDue_ok
    | with_reducible exact reservedCode_ok
    | with_reducible exact outFault_ok _
    | with_reducible apply State.notDue_ok
    | with_reducible apply State.dieFault_ok
    | dsimp only
    | split)

theorem execPackageFault_ok {q : Kept} : ∀ a0 a1 a2, State.Ok q a2 → OutOk q (execPackageFault a0 a1 a2) := by
  intro _ _ _ _
  unfold execPackageFault
  try dsimp only
  repeat' (first
    | with_reducible assumption
    | with_reducible apply outNext_ok
    | with_reducible apply notDue_ok
    | with_reducible exact reservedCode_ok
    | with_reducible exact outFault_ok _
    | with_reducible apply State.packageFault_ok
    | dsimp only)

theorem execFreezePin_ok {q : Kept} : ∀ a0, State.Ok q a0 → OutOk q (execFreezePin a0) := by
  intro _ _
  unfold execFreezePin
  try dsimp only
  repeat' (first
    | with_reducible assumption
    | with_reducible apply outNext_ok
    | with_reducible apply notDue_ok
    | with_reducible exact reservedCode_ok
    | with_reducible exact outFault_ok _
    | with_reducible apply State.packageFreeze_ok
    | dsimp only
    | split)

theorem State.freezeRequest_ok {q : Kept} : ∀ a0 a1 a2 a3, State.Ok q a0 → State.Ok q (State.freezeRequest a0 a1 a2 a3) := by
  intro _ _ _ _ _
  unfold State.freezeRequest
  try dsimp only
  repeat' (first
    | with_reducible assumption
    | with_reducible apply State.setPen_ok
    | with_reducible apply State.setB_ok
    | with_reducible apply State.set_ok
    | with_reducible apply State.penFreeze_ok
    | with_reducible apply State.packageFreeze_ok
    | simp only [State.mk_ok]
    | with_reducible apply partsOk_same
    | dsimp only
    | split)

theorem execFreezeRequest_ok {q : Kept} : ∀ a0 a1 a2 a3, State.Ok q a3 → OutOk q (execFreezeRequest a0 a1 a2 a3) := by
  intro _ _ _ _ _
  unfold execFreezeRequest
  try dsimp only
  repeat' (first
    | with_reducible assumption
    | with_reducible apply outNext_ok
    | with_reducible apply notDue_ok
    | with_reducible exact reservedCode_ok
    | with_reducible exact outFault_ok _
    | with_reducible apply State.freezeRequest_ok
    | dsimp only)

end Sys2Proof.Machine
end

