-- ==== Sys2Proof/Laws/KeepTeam.lean ====
section
/-! SUPPORT. Laws/KeepTeam.lean: the operations of Machine/Team.lean keep the canonical form and the queue (Laws/Ok.lean). -/

namespace Sys2Proof.Machine

theorem State.recordTeam_ok {q : Kept} : ∀ a0 a1 a2 a3, State.Ok q a0 → State.Ok q (State.recordTeam a0 a1 a2 a3) := by
  intro _ _ _ _ _
  unfold State.recordTeam
  try dsimp only
  repeat' (first
    | with_reducible assumption
    | with_reducible apply State.setPen_ok
    | with_reducible apply State.patchRecord_ok
    | simp only [State.mk_ok]
    | with_reducible apply partsOk_same
    | dsimp only
    | split)

theorem State.teamMismatch_ok {q : Kept} : ∀ a0 a1 a2 a3 a4, State.Ok q a0 → State.Ok q (State.teamMismatch a0 a1 a2 a3 a4) := by
  intro _ _ _ _ _ _
  unfold State.teamMismatch
  try dsimp only
  repeat' (first
    | with_reducible assumption
    | with_reducible apply State.setPen_ok
    | with_reducible apply State.set_ok
    | with_reducible apply State.recordTeam_ok
    | with_reducible apply State.publish_ok
    | with_reducible apply State.penFreeze_ok
    | with_reducible apply State.abandonCkp_ok
    | simp only [State.mk_ok]
    | with_reducible apply partsOk_same
    | dsimp only
    | split)

theorem State.teamFail_ok {q : Kept} : ∀ a0 a1 a2 a3 a4 a5, State.Ok q a0 → State.Ok q (State.teamFail a0 a1 a2 a3 a4 a5) := by
  intro _ _ _ _ _ _ _
  unfold State.teamFail
  try dsimp only
  repeat' (first
    | with_reducible assumption
    | with_reducible apply State.teamMismatch_ok
    | with_reducible apply State.setPen_ok
    | simp only [State.mk_ok]
    | with_reducible apply partsOk_same
    | dsimp only
    | split)

theorem State.teamSettle_ok {q : Kept} : ∀ a0 a1 a2 a3, State.Ok q a0 → State.Ok q (State.teamSettle a0 a1 a2 a3) := by
  intro _ _ _ _ _
  unfold State.teamSettle
  try dsimp only
  repeat' (first
    | with_reducible assumption
    | with_reducible apply State.teamFail_ok
    | with_reducible apply State.setPen_ok
    | with_reducible apply State.recordTeam_ok
    | with_reducible apply State.publish_ok
    | simp only [State.mk_ok]
    | with_reducible apply partsOk_same
    | dsimp only
    | split
    | with_reducible intro _)

theorem State.teamSettleAll_ok {q : Kept} : ∀ a0 a1, State.Ok q a0 → State.Ok q (State.teamSettleAll a0 a1) := by
  intro _ _ _
  unfold State.teamSettleAll
  try dsimp only
  repeat' (first
    | with_reducible assumption
    | with_reducible apply State.teamSettle_ok
    | simp only [State.mk_ok]
    | with_reducible apply partsOk_same
    | with_reducible apply foldl_ok
    | with_reducible apply foldl_fst_ok
    | with_reducible apply foldl_st_ok
    | with_reducible apply foldl_out_ok
    | dsimp only
    | split
    | with_reducible intro _)

theorem State.keepFrame_ok {q : Kept} : ∀ a0 a1 a2, State.Ok q a0 → State.Ok q (State.keepFrame a0 a1 a2) := by
  intro _ _ _ _
  unfold State.keepFrame
  try dsimp only
  repeat' (first
    | with_reducible assumption
    | with_reducible apply State.setPen_ok
    | simp only [State.mk_ok]
    | with_reducible apply partsOk_same
    | dsimp only
    | split
    | with_reducible intro _)

theorem State.teamFrame_ok {q : Kept} : ∀ a0 a1 a2, State.Ok q a0 → State.Ok q (State.teamFrame a0 a1 a2) := by
  intro _ _ _ _
  unfold State.teamFrame
  try dsimp only
  repeat' (first
    | with_reducible assumption
    | with_reducible apply State.teamSettle_ok
    | with_reducible apply State.teamFail_ok
    | with_reducible apply State.recordTeam_ok
    | with_reducible apply State.keepFrame_ok
    | with_reducible apply State.inc_ok
    | simp only [State.mk_ok]
    | with_reducible apply partsOk_same
    | dsimp only
    | split
    | with_reducible intro _)

theorem State.teamLost_ok {q : Kept} : ∀ a0 a1 a2, State.Ok q a0 → State.Ok q (State.teamLost a0 a1 a2) := by
  intro _ _ _ _
  unfold State.teamLost
  try dsimp only
  repeat' (first
    | with_reducible assumption
    | with_reducible apply State.teamFail_ok
    | with_reducible apply State.setPen_ok
    | with_reducible apply State.set_ok
    | with_reducible apply State.recordTeam_ok
    | with_reducible apply State.publish_ok
    | simp only [State.mk_ok]
    | with_reducible apply partsOk_same
    | dsimp only
    | split
    | with_reducible intro _)

theorem State.teamDecide_ok {q : Kept} : ∀ a0 a1, State.Ok q a0 → State.Ok q (State.teamDecide a0 a1) := by
  intro _ _ _
  unfold State.teamDecide
  try dsimp only
  repeat' (first
    | with_reducible assumption
    | with_reducible apply State.teamSettleAll_ok
    | with_reducible apply State.teamMismatch_ok
    | with_reducible apply State.publish_ok
    | simp only [State.mk_ok]
    | with_reducible apply partsOk_same
    | dsimp only
    | split)

theorem State.latch_ok {q : Kept} : ∀ a0 a1, State.Ok q a0 → State.Ok q (State.latch a0 a1) := by
  intro _ _ _
  unfold State.latch
  try dsimp only
  repeat' (first
    | with_reducible assumption
    | with_reducible apply State.writeRecord_ok
    | with_reducible apply State.teamSend_ok
    | with_reducible apply State.teamDecide_ok
    | with_reducible apply State.setPen_ok
    | with_reducible apply State.setCtx_ok
    | with_reducible apply State.set_ok
    | with_reducible apply State.readTeamIn_ok
    | with_reducible apply State.penFreeze_ok
    | with_reducible apply State.countHeld_ok
    | with_reducible apply State.clearStep_ok
    | simp only [State.mk_ok]
    | with_reducible apply partsOk_same
    | with_reducible apply foldl_ok
    | with_reducible apply foldl_fst_ok
    | with_reducible apply foldl_st_ok
    | with_reducible apply foldl_out_ok
    | dsimp only
    | split
    | with_reducible intro _)

theorem State.barrierPass_ok {q : Kept} : ∀ a0 a1, State.Ok q a0 → State.Ok q (State.barrierPass a0 a1) := by
  intro _ _ _
  unfold State.barrierPass
  try dsimp only
  repeat' (first
    | with_reducible assumption
    | with_reducible apply State.set_ok
    | with_reducible apply State.latch_ok
    | dsimp only
    | split)

theorem execStepBarrierPass_ok {q : Kept} : ∀ a0 a1, State.Ok q a1 → OutOk q (execStepBarrierPass a0 a1) := by
  intro _ _ _
  unfold execStepBarrierPass
  try dsimp only
  repeat' (first
    | with_reducible assumption
    | with_reducible apply outNext_ok
    | with_reducible apply notDue_ok
    | with_reducible exact reservedCode_ok
    | with_reducible exact outFault_ok _
    | with_reducible apply State.yardStep_ok
    | with_reducible apply State.notDue_ok
    | with_reducible apply State.barrierPass_ok
    | dsimp only
    | split
    | with_reducible intro _)

theorem execTmLost_ok {q : Kept} : ∀ a0 a1, State.Ok q a1 → OutOk q (execTmLost a0 a1) := by
  intro _ _ _
  unfold execTmLost
  try dsimp only
  repeat' (first
    | with_reducible assumption
    | with_reducible apply outNext_ok
    | with_reducible apply notDue_ok
    | with_reducible exact reservedCode_ok
    | with_reducible exact outFault_ok _
    | with_reducible apply State.yardStep_ok
    | with_reducible apply State.teamLost_ok
    | with_reducible apply State.notDue_ok
    | simp only [State.mk_ok]
    | with_reducible apply partsOk_same
    | dsimp only
    | split
    | with_reducible intro _)

theorem State.tailWrite_ok {q : Kept} : ∀ a0 a1 a2, State.Ok q a0 → State.Ok q (State.tailWrite a0 a1 a2) := by
  intro _ _ _ _
  unfold State.tailWrite
  try dsimp only
  repeat' (first
    | with_reducible assumption
    | with_reducible apply State.set_ok
    | with_reducible apply State.barrierPass_ok
    | dsimp only
    | split)

theorem execLdgTailWrite_ok {q : Kept} : ∀ a0 a1 a2, State.Ok q a2 → OutOk q (execLdgTailWrite a0 a1 a2) := by
  intro _ _ _ _
  unfold execLdgTailWrite
  try dsimp only
  repeat' (first
    | with_reducible assumption
    | with_reducible apply outNext_ok
    | with_reducible apply notDue_ok
    | with_reducible exact reservedCode_ok
    | with_reducible exact outFault_ok _
    | with_reducible apply State.yardStep_ok
    | with_reducible apply State.tailWrite_ok
    | dsimp only
    | with_reducible intro _)

theorem State.keptFrames_ok {q : Kept} : ∀ a0 a1, State.Ok q a0 → State.Ok q (State.keptFrames a0 a1) := by
  intro _ _ _
  unfold State.keptFrames
  try dsimp only
  repeat' (first
    | with_reducible assumption
    | with_reducible apply State.teamFrame_ok
    | with_reducible apply State.setPen_ok
    | simp only [State.mk_ok]
    | with_reducible apply partsOk_same
    | with_reducible apply foldl_ok
    | with_reducible apply foldl_fst_ok
    | with_reducible apply foldl_st_ok
    | with_reducible apply foldl_out_ok
    | dsimp only
    | with_reducible intro _)

theorem State.freezeResume_ok {q : Kept} : ∀ a0, State.Ok q a0 → State.Ok q (State.freezeResume a0) := by
  intro _ _
  unfold State.freezeResume
  try dsimp only
  repeat' (first
    | with_reducible assumption
    | with_reducible apply State.set_ok
    | with_reducible apply State.keptFrames_ok
    | with_reducible apply foldl_ok
    | with_reducible apply foldl_fst_ok
    | with_reducible apply foldl_st_ok
    | with_reducible apply foldl_out_ok
    | dsimp only
    | split
    | with_reducible intro _)

theorem execFreezeResume_ok {q : Kept} : ∀ a0, State.Ok q a0 → OutOk q (execFreezeResume a0) := by
  intro _ _
  unfold execFreezeResume
  try dsimp only
  repeat' (first
    | with_reducible assumption
    | with_reducible apply outNext_ok
    | with_reducible apply notDue_ok
    | with_reducible exact reservedCode_ok
    | with_reducible exact outFault_ok _
    | with_reducible apply State.yardStep_ok
    | with_reducible apply State.freezeResume_ok
    | dsimp only
    | with_reducible intro _)

end Sys2Proof.Machine
end

