-- ==== Sys2Proof/Laws/KeepEngines.lean ====
section
/-! SUPPORT. Laws/KeepEngines.lean: the operations of Machine/Engines.lean keep the canonical form and the queue (Laws/Ok.lean). -/

namespace Sys2Proof.Machine

theorem State.raise_ok {q : Kept} : ∀ a0 a1 a2 a3 a4 a5, State.Ok q a0 → State.Ok q (State.raise a0 a1 a2 a3 a4 a5) := by
  intro _ _ _ _ _ _ _
  unfold State.raise
  try dsimp only
  repeat' (first
    | with_reducible assumption
    | with_reducible apply State.coreFault_ok
    | with_reducible apply State.contextFault_ok
    | dsimp only
    | split)

theorem State.matStep_ok {q : Kept} : ∀ a0 a1 a2 a3 a4 a5 a6, State.Ok q a0 → OutOk q (State.matStep a0 a1 a2 a3 a4 a5 a6) := by
  intro _ _ _ _ _ _ _ _
  unfold State.matStep
  try dsimp only
  repeat' (first
    | with_reducible assumption
    | with_reducible apply outNext_ok
    | with_reducible apply notDue_ok
    | with_reducible exact reservedCode_ok
    | with_reducible exact outFault_ok _
    | with_reducible apply State.matRun_ok
    | with_reducible apply State.coreFault_ok
    | with_reducible apply State.contextFault_ok
    | dsimp only
    | split)

theorem execChunk_ok {q : Kept} : ∀ a0 a1 a2 a3 a4 a5, State.Ok q a5 → OutOk q (execChunk a0 a1 a2 a3 a4 a5) := by
  intro _ _ _ _ _ _ _
  unfold execChunk
  try dsimp only
  repeat' (first
    | with_reducible assumption
    | with_reducible apply outNext_ok
    | with_reducible apply notDue_ok
    | with_reducible exact reservedCode_ok
    | with_reducible exact outFault_ok _
    | with_reducible apply State.matStep_ok
    | dsimp only)

theorem execChunkc_ok {q : Kept} : ∀ a0 a1 a2 a3 a4 a5, State.Ok q a5 → OutOk q (execChunkc a0 a1 a2 a3 a4 a5) := by
  intro _ _ _ _ _ _ _
  unfold execChunkc
  try dsimp only
  repeat' (first
    | with_reducible assumption
    | with_reducible apply outNext_ok
    | with_reducible apply notDue_ok
    | with_reducible exact reservedCode_ok
    | with_reducible exact outFault_ok _
    | with_reducible apply State.matStep_ok
    | dsimp only)

theorem execAccst_ok {q : Kept} : ∀ a0 a1 a2 a3 a4 a5, State.Ok q a5 → OutOk q (execAccst a0 a1 a2 a3 a4 a5) := by
  intro _ _ _ _ _ _ _
  unfold execAccst
  try dsimp only
  repeat' (first
    | with_reducible assumption
    | with_reducible apply outNext_ok
    | with_reducible apply notDue_ok
    | with_reducible exact reservedCode_ok
    | with_reducible exact outFault_ok _
    | with_reducible apply State.matStep_ok
    | dsimp only)

theorem execAccadd_ok {q : Kept} : ∀ a0 a1 a2 a3 a4 a5, State.Ok q a5 → OutOk q (execAccadd a0 a1 a2 a3 a4 a5) := by
  intro _ _ _ _ _ _ _
  unfold execAccadd
  try dsimp only
  repeat' (first
    | with_reducible assumption
    | with_reducible apply outNext_ok
    | with_reducible apply notDue_ok
    | with_reducible exact reservedCode_ok
    | with_reducible exact outFault_ok _
    | with_reducible apply State.matStep_ok
    | dsimp only)

theorem execAccclr_ok {q : Kept} : ∀ a0 a1 a2 a3 a4, State.Ok q a4 → OutOk q (execAccclr a0 a1 a2 a3 a4) := by
  intro _ _ _ _ _ _
  unfold execAccclr
  try dsimp only
  repeat' (first
    | with_reducible assumption
    | with_reducible apply outNext_ok
    | with_reducible apply notDue_ok
    | with_reducible exact reservedCode_ok
    | with_reducible exact outFault_ok _
    | with_reducible apply State.matStep_ok
    | dsimp only)

theorem execConv_ok {q : Kept} : ∀ a0 a1 a2 a3 a4, State.Ok q a4 → OutOk q (execConv a0 a1 a2 a3 a4) := by
  intro _ _ _ _ _ _
  unfold execConv
  try dsimp only
  repeat' (first
    | with_reducible assumption
    | with_reducible apply outNext_ok
    | with_reducible apply notDue_ok
    | with_reducible exact reservedCode_ok
    | with_reducible exact outFault_ok _
    | with_reducible apply State.raise_ok
    | with_reducible apply State.descRead_ok
    | with_reducible apply State.convSlot_ok
    | dsimp only
    | split)

theorem execChld_ok {q : Kept} : ∀ a0 a1 a2 a3 a4, State.Ok q a4 → OutOk q (execChld a0 a1 a2 a3 a4) := by
  intro _ _ _ _ _ _
  unfold execChld
  try dsimp only
  repeat' (first
    | with_reducible assumption
    | with_reducible apply outNext_ok
    | with_reducible apply notDue_ok
    | with_reducible exact reservedCode_ok
    | with_reducible exact outFault_ok _
    | with_reducible apply State.raise_ok
    | with_reducible apply State.chld_ok
    | dsimp only
    | split)

theorem State.vecStep_ok {q : Kept} : ∀ a0 a1 a2 a3 a4 a5 a6, State.Ok q a0 → OutOk q (State.vecStep a0 a1 a2 a3 a4 a5 a6) := by
  intro _ _ _ _ _ _ _ _
  unfold State.vecStep
  try dsimp only
  repeat' (first
    | with_reducible assumption
    | with_reducible apply outNext_ok
    | with_reducible apply notDue_ok
    | with_reducible exact reservedCode_ok
    | with_reducible exact outFault_ok _
    | with_reducible apply State.vecRun_ok
    | with_reducible apply State.raise_ok
    | dsimp only
    | split)

theorem execVecAdd_ok {q : Kept} : ∀ a0 a1 a2 a3 a4 a5, State.Ok q a5 → OutOk q (execVecAdd a0 a1 a2 a3 a4 a5) := by
  intro _ _ _ _ _ _ _
  unfold execVecAdd
  try dsimp only
  repeat' (first
    | with_reducible assumption
    | with_reducible apply outNext_ok
    | with_reducible apply notDue_ok
    | with_reducible exact reservedCode_ok
    | with_reducible exact outFault_ok _
    | with_reducible apply State.vecStep_ok
    | dsimp only)

theorem execVecSub_ok {q : Kept} : ∀ a0 a1 a2 a3 a4 a5, State.Ok q a5 → OutOk q (execVecSub a0 a1 a2 a3 a4 a5) := by
  intro _ _ _ _ _ _ _
  unfold execVecSub
  try dsimp only
  repeat' (first
    | with_reducible assumption
    | with_reducible apply outNext_ok
    | with_reducible apply notDue_ok
    | with_reducible exact reservedCode_ok
    | with_reducible exact outFault_ok _
    | with_reducible apply State.vecStep_ok
    | dsimp only)

theorem execVecAdds_ok {q : Kept} : ∀ a0 a1 a2 a3 a4 a5, State.Ok q a5 → OutOk q (execVecAdds a0 a1 a2 a3 a4 a5) := by
  intro _ _ _ _ _ _ _
  unfold execVecAdds
  try dsimp only
  repeat' (first
    | with_reducible assumption
    | with_reducible apply outNext_ok
    | with_reducible apply notDue_ok
    | with_reducible exact reservedCode_ok
    | with_reducible exact outFault_ok _
    | with_reducible apply State.vecStep_ok
    | dsimp only)

theorem execVecSubs_ok {q : Kept} : ∀ a0 a1 a2 a3 a4 a5, State.Ok q a5 → OutOk q (execVecSubs a0 a1 a2 a3 a4 a5) := by
  intro _ _ _ _ _ _ _
  unfold execVecSubs
  try dsimp only
  repeat' (first
    | with_reducible assumption
    | with_reducible apply outNext_ok
    | with_reducible apply notDue_ok
    | with_reducible exact reservedCode_ok
    | with_reducible exact outFault_ok _
    | with_reducible apply State.vecStep_ok
    | dsimp only)

theorem execVecNegs_ok {q : Kept} : ∀ a0 a1 a2 a3 a4 a5, State.Ok q a5 → OutOk q (execVecNegs a0 a1 a2 a3 a4 a5) := by
  intro _ _ _ _ _ _ _
  unfold execVecNegs
  try dsimp only
  repeat' (first
    | with_reducible assumption
    | with_reducible apply outNext_ok
    | with_reducible apply notDue_ok
    | with_reducible exact reservedCode_ok
    | with_reducible exact outFault_ok _
    | with_reducible apply State.vecStep_ok
    | dsimp only)

theorem execVecAbss_ok {q : Kept} : ∀ a0 a1 a2 a3 a4 a5, State.Ok q a5 → OutOk q (execVecAbss a0 a1 a2 a3 a4 a5) := by
  intro _ _ _ _ _ _ _
  unfold execVecAbss
  try dsimp only
  repeat' (first
    | with_reducible assumption
    | with_reducible apply outNext_ok
    | with_reducible apply notDue_ok
    | with_reducible exact reservedCode_ok
    | with_reducible exact outFault_ok _
    | with_reducible apply State.vecStep_ok
    | dsimp only)

theorem execVecMin_ok {q : Kept} : ∀ a0 a1 a2 a3 a4 a5, State.Ok q a5 → OutOk q (execVecMin a0 a1 a2 a3 a4 a5) := by
  intro _ _ _ _ _ _ _
  unfold execVecMin
  try dsimp only
  repeat' (first
    | with_reducible assumption
    | with_reducible apply outNext_ok
    | with_reducible apply notDue_ok
    | with_reducible exact reservedCode_ok
    | with_reducible exact outFault_ok _
    | with_reducible apply State.vecStep_ok
    | dsimp only)

theorem execVecMax_ok {q : Kept} : ∀ a0 a1 a2 a3 a4 a5, State.Ok q a5 → OutOk q (execVecMax a0 a1 a2 a3 a4 a5) := by
  intro _ _ _ _ _ _ _
  unfold execVecMax
  try dsimp only
  repeat' (first
    | with_reducible assumption
    | with_reducible apply outNext_ok
    | with_reducible apply notDue_ok
    | with_reducible exact reservedCode_ok
    | with_reducible exact outFault_ok _
    | with_reducible apply State.vecStep_ok
    | dsimp only)

theorem execVecAnd_ok {q : Kept} : ∀ a0 a1 a2 a3 a4 a5, State.Ok q a5 → OutOk q (execVecAnd a0 a1 a2 a3 a4 a5) := by
  intro _ _ _ _ _ _ _
  unfold execVecAnd
  try dsimp only
  repeat' (first
    | with_reducible assumption
    | with_reducible apply outNext_ok
    | with_reducible apply notDue_ok
    | with_reducible exact reservedCode_ok
    | with_reducible exact outFault_ok _
    | with_reducible apply State.vecStep_ok
    | dsimp only)

theorem execVecOr_ok {q : Kept} : ∀ a0 a1 a2 a3 a4 a5, State.Ok q a5 → OutOk q (execVecOr a0 a1 a2 a3 a4 a5) := by
  intro _ _ _ _ _ _ _
  unfold execVecOr
  try dsimp only
  repeat' (first
    | with_reducible assumption
    | with_reducible apply outNext_ok
    | with_reducible apply notDue_ok
    | with_reducible exact reservedCode_ok
    | with_reducible exact outFault_ok _
    | with_reducible apply State.vecStep_ok
    | dsimp only)

theorem execVecXor_ok {q : Kept} : ∀ a0 a1 a2 a3 a4 a5, State.Ok q a5 → OutOk q (execVecXor a0 a1 a2 a3 a4 a5) := by
  intro _ _ _ _ _ _ _
  unfold execVecXor
  try dsimp only
  repeat' (first
    | with_reducible assumption
    | with_reducible apply outNext_ok
    | with_reducible apply notDue_ok
    | with_reducible exact reservedCode_ok
    | with_reducible exact outFault_ok _
    | with_reducible apply State.vecStep_ok
    | dsimp only)

theorem execVecAndn_ok {q : Kept} : ∀ a0 a1 a2 a3 a4 a5, State.Ok q a5 → OutOk q (execVecAndn a0 a1 a2 a3 a4 a5) := by
  intro _ _ _ _ _ _ _
  unfold execVecAndn
  try dsimp only
  repeat' (first
    | with_reducible assumption
    | with_reducible apply outNext_ok
    | with_reducible apply notDue_ok
    | with_reducible exact reservedCode_ok
    | with_reducible exact outFault_ok _
    | with_reducible apply State.vecStep_ok
    | dsimp only)

theorem execVecNot_ok {q : Kept} : ∀ a0 a1 a2 a3 a4 a5, State.Ok q a5 → OutOk q (execVecNot a0 a1 a2 a3 a4 a5) := by
  intro _ _ _ _ _ _ _
  unfold execVecNot
  try dsimp only
  repeat' (first
    | with_reducible assumption
    | with_reducible apply outNext_ok
    | with_reducible apply notDue_ok
    | with_reducible exact reservedCode_ok
    | with_reducible exact outFault_ok _
    | with_reducible apply State.vecStep_ok
    | dsimp only)

theorem execVecShl_ok {q : Kept} : ∀ a0 a1 a2 a3 a4 a5, State.Ok q a5 → OutOk q (execVecShl a0 a1 a2 a3 a4 a5) := by
  intro _ _ _ _ _ _ _
  unfold execVecShl
  try dsimp only
  repeat' (first
    | with_reducible assumption
    | with_reducible apply outNext_ok
    | with_reducible apply notDue_ok
    | with_reducible exact reservedCode_ok
    | with_reducible exact outFault_ok _
    | with_reducible apply State.vecStep_ok
    | dsimp only)

theorem execVecShls_ok {q : Kept} : ∀ a0 a1 a2 a3 a4 a5, State.Ok q a5 → OutOk q (execVecShls a0 a1 a2 a3 a4 a5) := by
  intro _ _ _ _ _ _ _
  unfold execVecShls
  try dsimp only
  repeat' (first
    | with_reducible assumption
    | with_reducible apply outNext_ok
    | with_reducible apply notDue_ok
    | with_reducible exact reservedCode_ok
    | with_reducible exact outFault_ok _
    | with_reducible apply State.vecStep_ok
    | dsimp only)

theorem execVecShra_ok {q : Kept} : ∀ a0 a1 a2 a3 a4 a5, State.Ok q a5 → OutOk q (execVecShra a0 a1 a2 a3 a4 a5) := by
  intro _ _ _ _ _ _ _
  unfold execVecShra
  try dsimp only
  repeat' (first
    | with_reducible assumption
    | with_reducible apply outNext_ok
    | with_reducible apply notDue_ok
    | with_reducible exact reservedCode_ok
    | with_reducible exact outFault_ok _
    | with_reducible apply State.vecStep_ok
    | dsimp only)

theorem execVecShrl_ok {q : Kept} : ∀ a0 a1 a2 a3 a4 a5, State.Ok q a5 → OutOk q (execVecShrl a0 a1 a2 a3 a4 a5) := by
  intro _ _ _ _ _ _ _
  unfold execVecShrl
  try dsimp only
  repeat' (first
    | with_reducible assumption
    | with_reducible apply outNext_ok
    | with_reducible apply notDue_ok
    | with_reducible exact reservedCode_ok
    | with_reducible exact outFault_ok _
    | with_reducible apply State.vecStep_ok
    | dsimp only)

theorem execVecShrn_ok {q : Kept} : ∀ a0 a1 a2 a3 a4 a5, State.Ok q a5 → OutOk q (execVecShrn a0 a1 a2 a3 a4 a5) := by
  intro _ _ _ _ _ _ _
  unfold execVecShrn
  try dsimp only
  repeat' (first
    | with_reducible assumption
    | with_reducible apply outNext_ok
    | with_reducible apply notDue_ok
    | with_reducible exact reservedCode_ok
    | with_reducible exact outFault_ok _
    | with_reducible apply State.vecStep_ok
    | dsimp only)

theorem execVecClz_ok {q : Kept} : ∀ a0 a1 a2 a3 a4 a5, State.Ok q a5 → OutOk q (execVecClz a0 a1 a2 a3 a4 a5) := by
  intro _ _ _ _ _ _ _
  unfold execVecClz
  try dsimp only
  repeat' (first
    | with_reducible assumption
    | with_reducible apply outNext_ok
    | with_reducible apply notDue_ok
    | with_reducible exact reservedCode_ok
    | with_reducible exact outFault_ok _
    | with_reducible apply State.vecStep_ok
    | dsimp only)

theorem execVecPopc_ok {q : Kept} : ∀ a0 a1 a2 a3 a4 a5, State.Ok q a5 → OutOk q (execVecPopc a0 a1 a2 a3 a4 a5) := by
  intro _ _ _ _ _ _ _
  unfold execVecPopc
  try dsimp only
  repeat' (first
    | with_reducible assumption
    | with_reducible apply outNext_ok
    | with_reducible apply notDue_ok
    | with_reducible exact reservedCode_ok
    | with_reducible exact outFault_ok _
    | with_reducible apply State.vecStep_ok
    | dsimp only)

theorem execVecCmpeq_ok {q : Kept} : ∀ a0 a1 a2 a3 a4 a5, State.Ok q a5 → OutOk q (execVecCmpeq a0 a1 a2 a3 a4 a5) := by
  intro _ _ _ _ _ _ _
  unfold execVecCmpeq
  try dsimp only
  repeat' (first
    | with_reducible assumption
    | with_reducible apply outNext_ok
    | with_reducible apply notDue_ok
    | with_reducible exact reservedCode_ok
    | with_reducible exact outFault_ok _
    | with_reducible apply State.vecStep_ok
    | dsimp only)

theorem execVecCmplt_ok {q : Kept} : ∀ a0 a1 a2 a3 a4 a5, State.Ok q a5 → OutOk q (execVecCmplt a0 a1 a2 a3 a4 a5) := by
  intro _ _ _ _ _ _ _
  unfold execVecCmplt
  try dsimp only
  repeat' (first
    | with_reducible assumption
    | with_reducible apply outNext_ok
    | with_reducible apply notDue_ok
    | with_reducible exact reservedCode_ok
    | with_reducible exact outFault_ok _
    | with_reducible apply State.vecStep_ok
    | dsimp only)

theorem execVecCmple_ok {q : Kept} : ∀ a0 a1 a2 a3 a4 a5, State.Ok q a5 → OutOk q (execVecCmple a0 a1 a2 a3 a4 a5) := by
  intro _ _ _ _ _ _ _
  unfold execVecCmple
  try dsimp only
  repeat' (first
    | with_reducible assumption
    | with_reducible apply outNext_ok
    | with_reducible apply notDue_ok
    | with_reducible exact reservedCode_ok
    | with_reducible exact outFault_ok _
    | with_reducible apply State.vecStep_ok
    | dsimp only)

theorem execVecSel_ok {q : Kept} : ∀ a0 a1 a2 a3 a4 a5, State.Ok q a5 → OutOk q (execVecSel a0 a1 a2 a3 a4 a5) := by
  intro _ _ _ _ _ _ _
  unfold execVecSel
  try dsimp only
  repeat' (first
    | with_reducible assumption
    | with_reducible apply outNext_ok
    | with_reducible apply notDue_ok
    | with_reducible exact reservedCode_ok
    | with_reducible exact outFault_ok _
    | with_reducible apply State.vecStep_ok
    | dsimp only)

theorem execVecClamp_ok {q : Kept} : ∀ a0 a1 a2 a3 a4 a5, State.Ok q a5 → OutOk q (execVecClamp a0 a1 a2 a3 a4 a5) := by
  intro _ _ _ _ _ _ _
  unfold execVecClamp
  try dsimp only
  repeat' (first
    | with_reducible assumption
    | with_reducible apply outNext_ok
    | with_reducible apply notDue_ok
    | with_reducible exact reservedCode_ok
    | with_reducible exact outFault_ok _
    | with_reducible apply State.vecStep_ok
    | dsimp only)

theorem execVecMul_ok {q : Kept} : ∀ a0 a1 a2 a3 a4 a5, State.Ok q a5 → OutOk q (execVecMul a0 a1 a2 a3 a4 a5) := by
  intro _ _ _ _ _ _ _
  unfold execVecMul
  try dsimp only
  repeat' (first
    | with_reducible assumption
    | with_reducible apply outNext_ok
    | with_reducible apply notDue_ok
    | with_reducible exact reservedCode_ok
    | with_reducible exact outFault_ok _
    | with_reducible apply State.vecStep_ok
    | dsimp only)

theorem execVecMulw_ok {q : Kept} : ∀ a0 a1 a2 a3 a4 a5, State.Ok q a5 → OutOk q (execVecMulw a0 a1 a2 a3 a4 a5) := by
  intro _ _ _ _ _ _ _
  unfold execVecMulw
  try dsimp only
  repeat' (first
    | with_reducible assumption
    | with_reducible apply outNext_ok
    | with_reducible apply notDue_ok
    | with_reducible exact reservedCode_ok
    | with_reducible exact outFault_ok _
    | with_reducible apply State.vecStep_ok
    | dsimp only)

theorem execVecMulhs_ok {q : Kept} : ∀ a0 a1 a2 a3 a4 a5, State.Ok q a5 → OutOk q (execVecMulhs a0 a1 a2 a3 a4 a5) := by
  intro _ _ _ _ _ _ _
  unfold execVecMulhs
  try dsimp only
  repeat' (first
    | with_reducible assumption
    | with_reducible apply outNext_ok
    | with_reducible apply notDue_ok
    | with_reducible exact reservedCode_ok
    | with_reducible exact outFault_ok _
    | with_reducible apply State.vecStep_ok
    | dsimp only)

theorem execVecRsum_ok {q : Kept} : ∀ a0 a1 a2 a3 a4 a5, State.Ok q a5 → OutOk q (execVecRsum a0 a1 a2 a3 a4 a5) := by
  intro _ _ _ _ _ _ _
  unfold execVecRsum
  try dsimp only
  repeat' (first
    | with_reducible assumption
    | with_reducible apply outNext_ok
    | with_reducible apply notDue_ok
    | with_reducible exact reservedCode_ok
    | with_reducible exact outFault_ok _
    | with_reducible apply State.vecStep_ok
    | dsimp only)

theorem execVecRmax_ok {q : Kept} : ∀ a0 a1 a2 a3 a4 a5, State.Ok q a5 → OutOk q (execVecRmax a0 a1 a2 a3 a4 a5) := by
  intro _ _ _ _ _ _ _
  unfold execVecRmax
  try dsimp only
  repeat' (first
    | with_reducible assumption
    | with_reducible apply outNext_ok
    | with_reducible apply notDue_ok
    | with_reducible exact reservedCode_ok
    | with_reducible exact outFault_ok _
    | with_reducible apply State.vecStep_ok
    | dsimp only)

theorem execVecRmin_ok {q : Kept} : ∀ a0 a1 a2 a3 a4 a5, State.Ok q a5 → OutOk q (execVecRmin a0 a1 a2 a3 a4 a5) := by
  intro _ _ _ _ _ _ _
  unfold execVecRmin
  try dsimp only
  repeat' (first
    | with_reducible assumption
    | with_reducible apply outNext_ok
    | with_reducible apply notDue_ok
    | with_reducible exact reservedCode_ok
    | with_reducible exact outFault_ok _
    | with_reducible apply State.vecStep_ok
    | dsimp only)

theorem execVecCsum_ok {q : Kept} : ∀ a0 a1 a2 a3 a4 a5, State.Ok q a5 → OutOk q (execVecCsum a0 a1 a2 a3 a4 a5) := by
  intro _ _ _ _ _ _ _
  unfold execVecCsum
  try dsimp only
  repeat' (first
    | with_reducible assumption
    | with_reducible apply outNext_ok
    | with_reducible apply notDue_ok
    | with_reducible exact reservedCode_ok
    | with_reducible exact outFault_ok _
    | with_reducible apply State.vecStep_ok
    | dsimp only)

theorem execVecCmax_ok {q : Kept} : ∀ a0 a1 a2 a3 a4 a5, State.Ok q a5 → OutOk q (execVecCmax a0 a1 a2 a3 a4 a5) := by
  intro _ _ _ _ _ _ _
  unfold execVecCmax
  try dsimp only
  repeat' (first
    | with_reducible assumption
    | with_reducible apply outNext_ok
    | with_reducible apply notDue_ok
    | with_reducible exact reservedCode_ok
    | with_reducible exact outFault_ok _
    | with_reducible apply State.vecStep_ok
    | dsimp only)

theorem execVecCmin_ok {q : Kept} : ∀ a0 a1 a2 a3 a4 a5, State.Ok q a5 → OutOk q (execVecCmin a0 a1 a2 a3 a4 a5) := by
  intro _ _ _ _ _ _ _
  unfold execVecCmin
  try dsimp only
  repeat' (first
    | with_reducible assumption
    | with_reducible apply outNext_ok
    | with_reducible apply notDue_ok
    | with_reducible exact reservedCode_ok
    | with_reducible exact outFault_ok _
    | with_reducible apply State.vecStep_ok
    | dsimp only)

theorem execVecExp2_ok {q : Kept} : ∀ a0 a1 a2 a3 a4 a5, State.Ok q a5 → OutOk q (execVecExp2 a0 a1 a2 a3 a4 a5) := by
  intro _ _ _ _ _ _ _
  unfold execVecExp2
  try dsimp only
  repeat' (first
    | with_reducible assumption
    | with_reducible apply outNext_ok
    | with_reducible apply notDue_ok
    | with_reducible exact reservedCode_ok
    | with_reducible exact outFault_ok _
    | with_reducible apply State.vecStep_ok
    | dsimp only)

theorem execVecLog2_ok {q : Kept} : ∀ a0 a1 a2 a3 a4 a5, State.Ok q a5 → OutOk q (execVecLog2 a0 a1 a2 a3 a4 a5) := by
  intro _ _ _ _ _ _ _
  unfold execVecLog2
  try dsimp only
  repeat' (first
    | with_reducible assumption
    | with_reducible apply outNext_ok
    | with_reducible apply notDue_ok
    | with_reducible exact reservedCode_ok
    | with_reducible exact outFault_ok _
    | with_reducible apply State.vecStep_ok
    | dsimp only)

theorem execVecRecip_ok {q : Kept} : ∀ a0 a1 a2 a3 a4 a5, State.Ok q a5 → OutOk q (execVecRecip a0 a1 a2 a3 a4 a5) := by
  intro _ _ _ _ _ _ _
  unfold execVecRecip
  try dsimp only
  repeat' (first
    | with_reducible assumption
    | with_reducible apply outNext_ok
    | with_reducible apply notDue_ok
    | with_reducible exact reservedCode_ok
    | with_reducible exact outFault_ok _
    | with_reducible apply State.vecStep_ok
    | dsimp only)

theorem execVecRsqrt_ok {q : Kept} : ∀ a0 a1 a2 a3 a4 a5, State.Ok q a5 → OutOk q (execVecRsqrt a0 a1 a2 a3 a4 a5) := by
  intro _ _ _ _ _ _ _
  unfold execVecRsqrt
  try dsimp only
  repeat' (first
    | with_reducible assumption
    | with_reducible apply outNext_ok
    | with_reducible apply notDue_ok
    | with_reducible exact reservedCode_ok
    | with_reducible exact outFault_ok _
    | with_reducible apply State.vecStep_ok
    | dsimp only)

theorem execVecSigm_ok {q : Kept} : ∀ a0 a1 a2 a3 a4 a5, State.Ok q a5 → OutOk q (execVecSigm a0 a1 a2 a3 a4 a5) := by
  intro _ _ _ _ _ _ _
  unfold execVecSigm
  try dsimp only
  repeat' (first
    | with_reducible assumption
    | with_reducible apply outNext_ok
    | with_reducible apply notDue_ok
    | with_reducible exact reservedCode_ok
    | with_reducible exact outFault_ok _
    | with_reducible apply State.vecStep_ok
    | dsimp only)

theorem execVecTanh_ok {q : Kept} : ∀ a0 a1 a2 a3 a4 a5, State.Ok q a5 → OutOk q (execVecTanh a0 a1 a2 a3 a4 a5) := by
  intro _ _ _ _ _ _ _
  unfold execVecTanh
  try dsimp only
  repeat' (first
    | with_reducible assumption
    | with_reducible apply outNext_ok
    | with_reducible apply notDue_ok
    | with_reducible exact reservedCode_ok
    | with_reducible exact outFault_ok _
    | with_reducible apply State.vecStep_ok
    | dsimp only)

theorem execSmx1_ok {q : Kept} : ∀ a0 a1 a2 a3 a4 a5, State.Ok q a5 → OutOk q (execSmx1 a0 a1 a2 a3 a4 a5) := by
  intro _ _ _ _ _ _ _
  unfold execSmx1
  try dsimp only
  repeat' (first
    | with_reducible assumption
    | with_reducible apply outNext_ok
    | with_reducible apply notDue_ok
    | with_reducible exact reservedCode_ok
    | with_reducible exact outFault_ok _
    | with_reducible apply State.vecStep_ok
    | dsimp only)

theorem execSmx2_ok {q : Kept} : ∀ a0 a1 a2 a3 a4 a5, State.Ok q a5 → OutOk q (execSmx2 a0 a1 a2 a3 a4 a5) := by
  intro _ _ _ _ _ _ _
  unfold execSmx2
  try dsimp only
  repeat' (first
    | with_reducible assumption
    | with_reducible apply outNext_ok
    | with_reducible apply notDue_ok
    | with_reducible exact reservedCode_ok
    | with_reducible exact outFault_ok _
    | with_reducible apply State.vecStep_ok
    | dsimp only)

theorem execSmx3_ok {q : Kept} : ∀ a0 a1 a2 a3 a4 a5, State.Ok q a5 → OutOk q (execSmx3 a0 a1 a2 a3 a4 a5) := by
  intro _ _ _ _ _ _ _
  unfold execSmx3
  try dsimp only
  repeat' (first
    | with_reducible assumption
    | with_reducible apply outNext_ok
    | with_reducible apply notDue_ok
    | with_reducible exact reservedCode_ok
    | with_reducible exact outFault_ok _
    | with_reducible apply State.vecStep_ok
    | dsimp only)

theorem execNrm1_ok {q : Kept} : ∀ a0 a1 a2 a3 a4 a5, State.Ok q a5 → OutOk q (execNrm1 a0 a1 a2 a3 a4 a5) := by
  intro _ _ _ _ _ _ _
  unfold execNrm1
  try dsimp only
  repeat' (first
    | with_reducible assumption
    | with_reducible apply outNext_ok
    | with_reducible apply notDue_ok
    | with_reducible exact reservedCode_ok
    | with_reducible exact outFault_ok _
    | with_reducible apply State.vecStep_ok
    | dsimp only)

theorem execNrm2_ok {q : Kept} : ∀ a0 a1 a2 a3 a4 a5, State.Ok q a5 → OutOk q (execNrm2 a0 a1 a2 a3 a4 a5) := by
  intro _ _ _ _ _ _ _
  unfold execNrm2
  try dsimp only
  repeat' (first
    | with_reducible assumption
    | with_reducible apply outNext_ok
    | with_reducible apply notDue_ok
    | with_reducible exact reservedCode_ok
    | with_reducible exact outFault_ok _
    | with_reducible apply State.vecStep_ok
    | dsimp only)

theorem execVecMov_ok {q : Kept} : ∀ a0 a1 a2 a3 a4 a5, State.Ok q a5 → OutOk q (execVecMov a0 a1 a2 a3 a4 a5) := by
  intro _ _ _ _ _ _ _
  unfold execVecMov
  try dsimp only
  repeat' (first
    | with_reducible assumption
    | with_reducible apply outNext_ok
    | with_reducible apply notDue_ok
    | with_reducible exact reservedCode_ok
    | with_reducible exact outFault_ok _
    | with_reducible apply State.vecStep_ok
    | dsimp only)

theorem State.moveStep_ok {q : Kept} : ∀ a0 a1 a2 a3 a4 a5, State.Ok q a0 → OutOk q (State.moveStep a0 a1 a2 a3 a4 a5) := by
  intro _ _ _ _ _ _ _
  unfold State.moveStep
  try dsimp only
  repeat' (first
    | with_reducible assumption
    | with_reducible apply outNext_ok
    | with_reducible apply notDue_ok
    | with_reducible exact reservedCode_ok
    | with_reducible exact outFault_ok _
    | with_reducible apply State.raise_ok
    | with_reducible apply State.moveRun_ok
    | dsimp only
    | split)

theorem execLd_ok {q : Kept} : ∀ a0 a1 a2 a3 a4, State.Ok q a4 → OutOk q (execLd a0 a1 a2 a3 a4) := by
  intro _ _ _ _ _ _
  unfold execLd
  try dsimp only
  repeat' (first
    | with_reducible assumption
    | with_reducible apply outNext_ok
    | with_reducible apply notDue_ok
    | with_reducible exact reservedCode_ok
    | with_reducible exact outFault_ok _
    | with_reducible apply State.moveStep_ok
    | dsimp only)

theorem execSt_ok {q : Kept} : ∀ a0 a1 a2 a3 a4, State.Ok q a4 → OutOk q (execSt a0 a1 a2 a3 a4) := by
  intro _ _ _ _ _ _
  unfold execSt
  try dsimp only
  repeat' (first
    | with_reducible assumption
    | with_reducible apply outNext_ok
    | with_reducible apply notDue_ok
    | with_reducible exact reservedCode_ok
    | with_reducible exact outFault_ok _
    | with_reducible apply State.moveStep_ok
    | dsimp only)

theorem execLdt_ok {q : Kept} : ∀ a0 a1 a2 a3 a4, State.Ok q a4 → OutOk q (execLdt a0 a1 a2 a3 a4) := by
  intro _ _ _ _ _ _
  unfold execLdt
  try dsimp only
  repeat' (first
    | with_reducible assumption
    | with_reducible apply outNext_ok
    | with_reducible apply notDue_ok
    | with_reducible exact reservedCode_ok
    | with_reducible exact outFault_ok _
    | with_reducible apply State.moveStep_ok
    | dsimp only)

theorem execBcast_ok {q : Kept} : ∀ a0 a1 a2 a3, State.Ok q a3 → OutOk q (execBcast a0 a1 a2 a3) := by
  intro _ _ _ _ _
  unfold execBcast
  try dsimp only
  repeat' (first
    | with_reducible assumption
    | with_reducible apply outNext_ok
    | with_reducible apply notDue_ok
    | with_reducible exact reservedCode_ok
    | with_reducible exact outFault_ok _
    | with_reducible apply State.raise_ok
    | with_reducible apply State.bcastRun_ok
    | simp only [State.mk_ok]
    | with_reducible apply partsOk_same
    | dsimp only
    | split)

theorem State.pivSlotFault_ok {q : Kept} : ∀ a0 a1 a2, State.Ok q a0 → State.Ok q (State.pivSlotFault a0 a1 a2) := by
  intro _ _ _ _
  unfold State.pivSlotFault
  try dsimp only
  repeat' (first
    | with_reducible assumption
    | with_reducible apply State.set_ok
    | with_reducible apply State.coreFault_ok
    | dsimp only)

theorem State.pivBadEntry_ok {q : Kept} : ∀ a0 a1 a2, State.Ok q a0 → State.Ok q (State.pivBadEntry a0 a1 a2) := by
  intro _ _ _ _
  unfold State.pivBadEntry
  try dsimp only
  repeat' (first
    | with_reducible assumption
    | with_reducible apply State.set_ok
    | with_reducible apply State.contextFault_ok
    | dsimp only)

theorem State.pivEntries_ok {q : Kept} : ∀ a0 a1 a2 a3 a4 a5 a6, State.Ok q a0 → State.Ok q (State.pivEntries a0 a1 a2 a3 a4 a5 a6) := by
  intro a0 a1 a2 a3 a4 a5 a6
  induction a4 generalizing a0 a1 a2 a3 a5 a6 with
  | zero =>
    intro _
    unfold State.pivEntries
    try dsimp only
    repeat' (first
      | with_reducible assumption
      | with_reducible apply State.set_ok
      | with_reducible apply State.setCluster_ok)
  | succ n ih =>
    intro _
    unfold State.pivEntries
    try dsimp only
    repeat' (first
      | with_reducible assumption
      | with_reducible apply ih
      | with_reducible apply State.pivBadEntry_ok
      | with_reducible apply State.pivFetch_ok
      | with_reducible apply State.pivSlots_ok
      | with_reducible apply State.pivStart_ok
      | with_reducible apply State.pivEnd_ok
      | with_reducible apply State.pivSlotFault_ok
      | dsimp only
      | split)

theorem State.pivRun_ok {q : Kept} : ∀ a0 a1 a2 a3, State.Ok q a0 → State.Ok q (State.pivRun a0 a1 a2 a3) := by
  intro _ _ _ _ _
  unfold State.pivRun
  try dsimp only
  repeat' (first
    | with_reducible assumption
    | with_reducible apply YardWork.count_ok
    | with_reducible apply State.pivEntries_ok
    | dsimp only)

theorem pivNow_ok {q : Kept} : ∀ a0 a1 a2, State.Ok q a2.1 → State.Ok q (pivNow a0 a1 a2) := by
  intro _ _ _ _
  unfold pivNow
  try dsimp only
  repeat' (first
    | with_reducible assumption
    | with_reducible apply State.pivSlotFault_ok
    | with_reducible apply State.loftWrites_ok
    | simp only [State.mk_ok]
    | with_reducible apply partsOk_same
    | dsimp only
    | split)

theorem State.pivOp_ok {q : Kept} : ∀ a0 a1 a2 a3 a4, State.Ok q a0 → State.Ok q (State.pivOp a0 a1 a2 a3 a4) := by
  intro s d c op r h
  have hb := State.pivBegin_ok s d c r h
  unfold State.pivOp
  split
  · split <;> rename_i e
    · exact State.pivBegun_ok _ _ _ _ (by simpa [e] using hb)
    · exact State.pivSlotFault_ok _ _ _ (by simpa [e] using hb)
  · exact State.pivRun_ok _ _ _ _ h
  · exact pivNow_ok _ _ _ (State.pivShort_ok _ _ _ _ _ h)

theorem State.pivStep_ok {q : Kept} : ∀ a0 a1 a2 a3 a4, State.Ok q a0 → OutOk q (State.pivStep a0 a1 a2 a3 a4) := by
  intro _ _ _ _ _ _
  unfold State.pivStep
  try dsimp only
  repeat' (first
    | with_reducible assumption
    | with_reducible apply outNext_ok
    | with_reducible apply notDue_ok
    | with_reducible exact reservedCode_ok
    | with_reducible exact outFault_ok _
    | with_reducible apply State.raise_ok
    | with_reducible apply State.pivOp_ok
    | dsimp only
    | split)

theorem execBegin_ok {q : Kept} : ∀ a0 a1 a2 a3, State.Ok q a3 → OutOk q (execBegin a0 a1 a2 a3) := by
  intro _ _ _ _ _
  unfold execBegin
  try dsimp only
  repeat' (first
    | with_reducible assumption
    | with_reducible apply outNext_ok
    | with_reducible apply notDue_ok
    | with_reducible exact reservedCode_ok
    | with_reducible exact outFault_ok _
    | with_reducible apply State.pivStep_ok
    | dsimp only)

theorem execRun_ok {q : Kept} : ∀ a0 a1 a2 a3, State.Ok q a3 → OutOk q (execRun a0 a1 a2 a3) := by
  intro _ _ _ _ _
  unfold execRun
  try dsimp only
  repeat' (first
    | with_reducible assumption
    | with_reducible apply outNext_ok
    | with_reducible apply notDue_ok
    | with_reducible exact reservedCode_ok
    | with_reducible exact outFault_ok _
    | with_reducible apply State.pivStep_ok
    | dsimp only)

theorem execDpt_ok {q : Kept} : ∀ a0 a1 a2 a3, State.Ok q a3 → OutOk q (execDpt a0 a1 a2 a3) := by
  intro _ _ _ _ _
  unfold execDpt
  try dsimp only
  repeat' (first
    | with_reducible assumption
    | with_reducible apply outNext_ok
    | with_reducible apply notDue_ok
    | with_reducible exact reservedCode_ok
    | with_reducible exact outFault_ok _
    | with_reducible apply State.pivStep_ok
    | dsimp only)

theorem execCnt_ok {q : Kept} : ∀ a0 a1 a2 a3, State.Ok q a3 → OutOk q (execCnt a0 a1 a2 a3) := by
  intro _ _ _ _ _
  unfold execCnt
  try dsimp only
  repeat' (first
    | with_reducible assumption
    | with_reducible apply outNext_ok
    | with_reducible apply notDue_ok
    | with_reducible exact reservedCode_ok
    | with_reducible exact outFault_ok _
    | with_reducible apply State.pivStep_ok
    | dsimp only)

end Sys2Proof.Machine
end

