-- ==== Sys2Proof/Laws/KeepBeat.lean ====
section
/-! SUPPORT. Laws/KeepBeat.lean: the operations of Machine/Beat.lean keep the canonical form and the queue (Laws/Ok.lean). -/

namespace Sys2Proof.Machine

theorem State.descsRead_ok {q : Kept} : ∀ a0 a1 a2, State.Ok q a0 → State.Ok q (State.descsRead a0 a1 a2) := by
  intro _ _ _ _
  unfold State.descsRead
  try dsimp only
  repeat' (first
    | with_reducible assumption
    | with_reducible apply State.descRead_ok
    | with_reducible apply foldl_ok
    | with_reducible apply foldl_fst_ok
    | with_reducible apply foldl_st_ok
    | with_reducible apply foldl_out_ok
    | dsimp only
    | with_reducible intro _)

theorem State.pivLater_ok {q : Kept} : ∀ a0 a1 a2 a3 a4, State.Ok q a0 → State.Ok q (State.pivLater a0 a1 a2 a3 a4) := by
  intro _ _ _ _ _ _
  unfold State.pivLater
  try dsimp only
  repeat' (first
    | with_reducible assumption
    | with_reducible apply State.setCluster_ok
    | simp only [State.mk_ok]
    | with_reducible apply partsOk_same
    | dsimp only
    | with_reducible intro _)

theorem State.pivIssue_ok {q : Kept} : ∀ a0 a1 a2 a3 a4, State.Ok q a0 → State.Ok q (State.pivIssue a0 a1 a2 a3 a4).1 := by
  intro s d c op r h
  have hb := State.pivBegin_ok s d c r h
  have hs := State.pivShort_ok s d c op r h
  unfold State.pivIssue
  dsimp only
  split
  · split <;> rename_i e
    · exact State.setCluster_ok _ _ _ _ (by simpa [e] using hb)
    · simpa [e] using hb
  · exact State.set_ok _ _ _ (State.setCluster_ok _ _ _ _ h)
  · split
    · exact State.pivLater_ok _ _ _ _ _ hs
    · exact hs

theorem State.opStart_ok {q : Kept} : ∀ a0 a1 a2, State.Ok q a0 → State.Ok q (State.opStart a0 a1 a2).1 := by
  intro _ _ _ _
  unfold State.opStart
  try dsimp only
  repeat' (first
    | with_reducible assumption
    | with_reducible apply State.vecStart_ok
    | with_reducible apply State.pivIssue_ok
    | with_reducible apply State.moveStart_ok
    | with_reducible apply State.matStart_ok
    | with_reducible apply State.convStart_ok
    | with_reducible apply State.chldStart_ok
    | with_reducible apply State.chld_ok
    | with_reducible apply State.bcastStart_ok
    | dsimp only
    | split)

theorem State.opsStart_ok {q : Kept} : ∀ a0 a1 a2, State.Ok q a0 → State.Ok q (State.opsStart a0 a1 a2).1 := by
  intro _ _ _ _
  unfold State.opsStart
  try dsimp only
  repeat' (first
    | with_reducible assumption
    | with_reducible apply State.opStart_ok
    | simp only
    | with_reducible apply partsOk_same
    | with_reducible apply foldl_ok
    | with_reducible apply foldl_fst_ok
    | with_reducible apply foldl_st_ok
    | with_reducible apply foldl_out_ok
    | dsimp only
    | split
    | with_reducible intro _)

theorem State.eachCore_ok {q : Kept} : ∀ a0 a1 a2 a3, State.Ok q a0 → (∀ y0 y1 y2, State.Ok q y0 → State.Ok q (a3 y0 y1 y2)) → State.Ok q (State.eachCore a0 a1 a2 a3) := by
  intro _ _ _ _ _ h1
  unfold State.eachCore
  try dsimp only
  repeat' (first
    | with_reducible assumption
    | with_reducible apply h1
    | with_reducible apply foldl_ok
    | with_reducible apply foldl_fst_ok
    | with_reducible apply foldl_st_ok
    | dsimp only
    | split
    | with_reducible intro _)

theorem State.showSummary_ok {q : Kept} : ∀ a0 a1 a2 a3 a4, State.Ok q a0 → State.Ok q (State.showSummary a0 a1 a2 a3 a4) := by
  intro _ _ _ _ _ _
  unfold State.showSummary
  try dsimp only
  repeat' (first
    | with_reducible assumption
    | with_reducible apply State.setB_ok
    | with_reducible apply State.set_ok
    | dsimp only)

theorem State.settleCore_ok {q : Kept} : ∀ a0 a1 a2 a3 a4, State.Ok q a0 → State.Ok q (State.settleCore a0 a1 a2 a3 a4) := by
  intro _ _ _ _ _ _
  unfold State.settleCore
  try dsimp only
  repeat' (first
    | with_reducible assumption
    | with_reducible apply State.showSummary_ok
    | with_reducible apply State.setCore_ok
    | simp only [State.mk_ok]
    | with_reducible apply partsOk_same
    | with_reducible apply foldl_ok
    | with_reducible apply foldl_fst_ok
    | with_reducible apply foldl_st_ok
    | with_reducible apply foldl_out_ok
    | dsimp only
    | split
    | with_reducible intro _)

theorem State.settle_ok {q : Kept} : ∀ a0 a1 a2 a3, State.Ok q a0 → State.Ok q (State.settle a0 a1 a2 a3) := by
  intro _ _ _ _ _
  unfold State.settle
  try dsimp only
  repeat' (first
    | with_reducible assumption
    | with_reducible apply State.settleCore_ok
    | with_reducible apply State.set_ok
    | with_reducible apply State.eachCore_ok
    | with_reducible apply foldl_ok
    | with_reducible apply foldl_fst_ok
    | with_reducible apply foldl_st_ok
    | with_reducible apply foldl_out_ok
    | dsimp only
    | split
    | with_reducible intro _)

theorem State.atCycle_ok {q : Kept} : ∀ a0 a1 a2 a3, State.Ok q a0 → State.Ok q (State.atCycle a0 a1 a2 a3) := by
  intro _ _ _ _ _
  unfold State.atCycle
  try dsimp only
  repeat' (first
    | with_reducible assumption
    | with_reducible apply State.settle_ok
    | with_reducible apply State.setCore_ok
    | with_reducible apply State.set_ok
    | with_reducible apply State.landRings_ok
    | with_reducible apply State.eachCore_ok
    | simp only [State.mk_ok]
    | with_reducible apply partsOk_same
    | dsimp only
    | split
    | with_reducible intro _)

theorem State.stopAt_ok {q : Kept} : ∀ a0 a1 a2 a3, State.Ok q a0 → State.Ok q (State.stopAt a0 a1 a2 a3) := by
  intro _ _ _ _ _
  unfold State.stopAt
  try dsimp only
  repeat' (first
    | with_reducible assumption
    | with_reducible apply State.set_ok
    | with_reducible apply State.coreFault_ok
    | dsimp only)

theorem State.pivStop_ok {q : Kept} : ∀ a0 a1 a2 a3 a4, State.Ok q a0 → State.Ok q (State.pivStop a0 a1 a2 a3 a4) := by
  intro _ _ _ _ _ _
  unfold State.pivStop
  try dsimp only
  repeat' (first
    | with_reducible assumption
    | with_reducible apply State.set_ok
    | with_reducible apply State.raise_ok
    | dsimp only)

theorem State.runTo_ok {q : Kept} : ∀ a0 a1 a2 a3 a4, State.Ok q a0 → (∀ y0, State.Ok q y0 → State.Ok q (a4 y0)) →
    State.Ok q (State.runTo a0 a1 a2 a3 a4) := by
  intro _ _ _ _ _ _ h1
  unfold State.runTo
  try dsimp only
  repeat' (first
    | with_reducible assumption
    | with_reducible apply h1
    | with_reducible apply State.stopAt_ok
    | with_reducible apply State.pivStop_ok
    | with_reducible apply State.enginesRun_ok
    | dsimp only
    | split)

end Sys2Proof.Machine
end

