-- ==== Sys2Proof/Laws/KeepCadence.lean ====
section
/-! SUPPORT. Laws/KeepCadence.lean: the operations of Machine/Cadence.lean keep the canonical form and the queue (Laws/Ok.lean). -/

namespace Sys2Proof.Machine

theorem State.hold_ok {q : Kept} : ∀ a0 a1 a2 a3, State.Ok q a0 → State.Ok q (State.hold a0 a1 a2 a3) := by
  intro _ _ _ _ _
  unfold State.hold
  try dsimp only
  repeat' (first
    | with_reducible assumption
    | with_reducible apply State.set_ok
    | with_reducible apply State.landAllRings_ok
    | dsimp only)

theorem State.unhold_ok {q : Kept} : ∀ a0 a1 a2, State.Ok q a0 → State.Ok q (State.unhold a0 a1 a2) := by
  intro _ _ _ _
  unfold State.unhold
  try dsimp only
  repeat' (first
    | with_reducible assumption
    | with_reducible apply State.set_ok
    | with_reducible apply State.countHeld_ok
    | dsimp only)

theorem State.setPhase_ok {q : Kept} : ∀ a0 a1 a2 a3, State.Ok q a0 → State.Ok q (State.setPhase a0 a1 a2 a3) := by
  intro _ _ _ _ _
  unfold State.setPhase
  try dsimp only
  repeat' (first
    | with_reducible assumption
    | with_reducible apply State.setCtx_ok
    | simp only [State.mk_ok]
    | with_reducible apply partsOk_same
    | dsimp only)

theorem State.showLoops_ok {q : Kept} : ∀ a0 a1 a2, State.Ok q a0 → State.Ok q (State.showLoops a0 a1 a2) := by
  intro _ _ _ _
  unfold State.showLoops
  try dsimp only
  repeat' (first
    | with_reducible assumption
    | with_reducible apply State.set_ok
    | dsimp only)

theorem State.endLoop_ok {q : Kept} : ∀ a0 a1 a2 a3, State.Ok q a0 → State.Ok q (State.endLoop a0 a1 a2 a3) := by
  intro _ _ _ _ _
  unfold State.endLoop
  try dsimp only
  repeat' (first
    | with_reducible assumption
    | with_reducible apply State.showLoops_ok
    | with_reducible apply State.setCtx_ok
    | with_reducible apply State.set_ok
    | simp only [State.mk_ok]
    | with_reducible apply partsOk_same
    | dsimp only)

theorem State.backEdge_ok {q : Kept} : ∀ a0 a1 a2 a3 a4 a5, State.Ok q a0 → State.Ok q (State.backEdge a0 a1 a2 a3 a4 a5) := by
  intro a0 a1 a2 a3 a4 a5
  induction a5 generalizing a0 a1 a2 a3 a4 with
  | zero =>
    intro _
    unfold State.backEdge
    try dsimp only
    repeat' (first
      | with_reducible assumption
      | with_reducible apply State.set_ok)
  | succ n ih =>
    intro _
    unfold State.backEdge
    try dsimp only
    repeat' (first
      | with_reducible assumption
      | with_reducible apply ih
      | with_reducible apply State.set_ok
      | with_reducible apply State.endLoop_ok
      | with_reducible apply foldl_ok
      | with_reducible apply foldl_fst_ok
      | with_reducible apply foldl_st_ok
      | dsimp only
      | split)

theorem State.follow_ok {q : Kept} : ∀ a0 a1 a2 a3 a4, State.Ok q a0 → State.Ok q (State.follow a0 a1 a2 a3 a4) := by
  intro _ _ _ _ _ _
  unfold State.follow
  try dsimp only
  repeat' (first
    | with_reducible assumption
    | with_reducible apply State.backEdge_ok
    | dsimp only)

theorem State.seqLoop_ok {q : Kept} : ∀ a0 a1 a2 a3 a4 a5 a6 a7, State.Ok q a0 → State.Ok q (State.seqLoop a0 a1 a2 a3 a4 a5 a6 a7) := by
  intro _ _ _ _ _ _ _ _ _
  unfold State.seqLoop
  try dsimp only
  repeat' (first
    | with_reducible assumption
    | with_reducible apply YardWork.count_ok
    | with_reducible apply State.showLoops_ok
    | with_reducible apply State.setCtx_ok
    | with_reducible apply State.set_ok
    | with_reducible apply State.backEdge_ok
    | simp only [State.mk_ok]
    | with_reducible apply partsOk_same
    | dsimp only
    | split)

theorem State.jumpTo_ok {q : Kept} : ∀ a0 a1 a2 a3, State.Ok q a0 → State.Ok q (State.jumpTo a0 a1 a2 a3) := by
  intro _ _ _ _ _
  unfold State.jumpTo
  try dsimp only
  repeat' (first
    | with_reducible assumption
    | with_reducible apply State.set_ok
    | with_reducible apply State.endLoop_ok
    | with_reducible apply foldl_ok
    | with_reducible apply foldl_fst_ok
    | with_reducible apply foldl_st_ok
    | with_reducible apply foldl_out_ok
    | dsimp only
    | split
    | with_reducible intro _)

theorem State.brValue_ok {q : Kept} : ∀ a0 a1 a2 a3 a4, State.Ok q a0 → State.Ok q (State.brValue a0 a1 a2 a3 a4).2 := by
  intro _ _ _ _ _ _
  unfold State.brValue
  try dsimp only
  repeat' (first
    | with_reducible assumption
    | with_reducible apply State.draw_ok
    | simp only [State.mk_ok]
    | with_reducible apply partsOk_same
    | with_reducible apply foldl_ok
    | with_reducible apply foldl_fst_ok
    | with_reducible apply foldl_st_ok
    | with_reducible apply foldl_out_ok
    | dsimp only
    | split
    | with_reducible intro _)

theorem State.seqBr_ok {q : Kept} : ∀ a0 a1 a2 a3 a4 a5 a6 a7, State.Ok q a0 → State.Ok q (State.seqBr a0 a1 a2 a3 a4 a5 a6 a7).1 := by
  intro _ _ _ _ _ _ _ _ _
  unfold State.seqBr
  try dsimp only
  repeat' (first
    | with_reducible assumption
    | with_reducible apply State.jumpTo_ok
    | with_reducible apply State.follow_ok
    | simp only [State.mk_ok]
    | with_reducible apply partsOk_same
    | dsimp only
    | split)

theorem State.ringLater_ok {q : Kept} : ∀ a0 a1 a2 a3 a4, State.Ok q a0 → State.Ok q (State.ringLater a0 a1 a2 a3 a4) := by
  intro _ _ _ _ _ _
  unfold State.ringLater
  try dsimp only
  repeat' (first
    | with_reducible assumption
    | with_reducible apply State.setCtx_ok
    | simp only [State.mk_ok]
    | with_reducible apply partsOk_same
    | dsimp only
    | split)

theorem State.beatRing_ok {q : Kept} : ∀ a0 a1 a2 a3 a4, State.Ok q a0 → State.Ok q (State.beatRing a0 a1 a2 a3 a4) := by
  intro _ _ _ _ _ _
  unfold State.beatRing
  try dsimp only
  repeat' (first
    | with_reducible assumption
    | with_reducible apply State.ringOwn_ok
    | dsimp only
    | split)

theorem State.beatRingx_ok {q : Kept} : ∀ a0 a1 a2 a3 a4, State.Ok q a0 → State.Ok q (State.beatRingx a0 a1 a2 a3 a4) := by
  intro _ _ _ _ _ _
  unfold State.beatRingx
  try dsimp only
  repeat' (first
    | with_reducible assumption
    | with_reducible apply State.ringName_ok
    | dsimp only
    | split)

theorem State.awaitTake_ok {q : Kept} : ∀ a0 a1 a2 a3, State.Ok q a0 → State.Ok q (State.awaitTake a0 a1 a2 a3) := by
  intro _ _ _ _ _
  unfold State.awaitTake
  try dsimp only
  repeat' (first
    | with_reducible assumption
    | with_reducible apply YardWork.count_ok
    | with_reducible apply State.set_ok
    | dsimp only)

theorem State.dmaPush_ok {q : Kept} : ∀ a0 a1 a2 a3 a4, State.Ok q a0 → State.Ok q (State.dmaPush a0 a1 a2 a3 a4) := by
  intro _ _ _ _ _ _
  unfold State.dmaPush
  try dsimp only
  repeat' (first
    | with_reducible assumption
    | with_reducible apply State.setCtx_ok
    | simp only [State.mk_ok]
    | with_reducible apply partsOk_same
    | dsimp only)

theorem State.drain_ok {q : Kept} : ∀ a0 a1 a2 a3 a4, State.Ok q a0 → (∀ y0, State.Ok q y0 → State.Ok q (a4 y0)) → State.Ok q (State.drain a0 a1 a2 a3 a4) := by
  intro _ _ _ _ _ _ h1
  unfold State.drain
  try dsimp only
  repeat' (first
    | with_reducible assumption
    | with_reducible apply h1
    | with_reducible apply State.runTo_ok
    | with_reducible apply State.pivStop_ok
    | with_reducible apply State.atCycle_ok
    | with_reducible apply State.enginesRun_ok
    | dsimp only
    | split
    | with_reducible intro _)

theorem State.stepStart_ok {q : Kept} : ∀ a0 a1 a2 a3, State.Ok q a0 → State.Ok q (State.stepStart a0 a1 a2 a3) := by
  intro _ _ _ _ _
  unfold State.stepStart
  try dsimp only
  repeat' (first
    | with_reducible assumption
    | with_reducible apply State.setCtx_ok
    | with_reducible apply State.hold_ok
    | with_reducible apply State.drain_ok
    | simp only [State.mk_ok]
    | with_reducible apply partsOk_same
    | dsimp only
    | with_reducible intro _)

theorem State.haltStart_ok {q : Kept} : ∀ a0 a1 a2, State.Ok q a0 → State.Ok q (State.haltStart a0 a1 a2) := by
  intro _ _ _ _
  unfold State.haltStart
  try dsimp only
  repeat' (first
    | with_reducible assumption
    | with_reducible apply State.setPhase_ok
    | with_reducible apply State.drain_ok
    | dsimp only
    | with_reducible intro _)

theorem State.beatReads_ok {q : Kept} : ∀ a0 a1 a2 a3, State.Ok q a0 → State.Ok q (State.beatReads a0 a1 a2 a3) := by
  intro _ _ _ _ _
  unfold State.beatReads
  try dsimp only
  repeat' (first
    | with_reducible assumption
    | with_reducible apply State.storeRead_ok
    | with_reducible apply foldl_ok
    | with_reducible apply foldl_fst_ok
    | with_reducible apply foldl_st_ok
    | with_reducible apply foldl_out_ok
    | dsimp only
    | with_reducible intro _)

theorem State.setPatterns_ok {q : Kept} : ∀ a0 a1 a2 a3, State.Ok q a0 → State.Ok q (State.setPatterns a0 a1 a2 a3) := by
  intro _ _ _ _ _
  unfold State.setPatterns
  try dsimp only
  repeat' (first
    | with_reducible assumption
    | with_reducible apply State.setCluster_ok
    | simp only [State.mk_ok]
    | with_reducible apply partsOk_same
    | with_reducible apply foldl_ok
    | with_reducible apply foldl_fst_ok
    | with_reducible apply foldl_st_ok
    | with_reducible apply foldl_out_ok
    | dsimp only
    | with_reducible intro _)

theorem State.beatBell_ok {q : Kept} : ∀ a0 a1 a2 a3, State.Ok q a0 → State.Ok q (State.beatBell a0 a1 a2 a3) := by
  intro _ _ _ _ _
  unfold State.beatBell
  try dsimp only
  repeat' (first
    | with_reducible assumption
    | with_reducible apply State.ringLater_ok
    | with_reducible apply State.beatRingx_ok
    | with_reducible apply State.beatRing_ok
    | simp only [State.mk_ok]
    | with_reducible apply partsOk_same
    | dsimp only
    | split)

theorem State.seqValue_ok {q : Kept} : ∀ a0 a1 a2 a3, State.Ok q a0 → State.Ok q (State.seqValue a0 a1 a2 a3).2 := by
  intro _ _ _ _ _
  unfold State.seqValue
  try dsimp only
  repeat' (first
    | with_reducible assumption
    | with_reducible apply State.brValue_ok
    | dsimp only
    | split)

theorem State.seqOp_ok {q : Kept} : ∀ a0 a1 a2 a3 a4 a5, State.Ok q a0 → State.Ok q (State.seqOp a0 a1 a2 a3 a4 a5).1 := by
  intro _ _ _ _ _ _ _
  unfold State.seqOp
  try dsimp only
  repeat' (first
    | with_reducible assumption
    | with_reducible apply State.seqLoop_ok
    | with_reducible apply State.seqBr_ok
    | with_reducible apply State.jumpTo_ok
    | with_reducible apply State.follow_ok
    | simp only [State.mk_ok]
    | with_reducible apply partsOk_same
    | dsimp only
    | split)

theorem State.beatEnd_ok {q : Kept} : ∀ a0 a1 a2 a3 a4, State.Ok q a0 → (∀ y0, State.Ok q y0 → State.Ok q (a4 y0).1) →
    State.Ok q (State.beatEnd a0 a1 a2 a3 a4) := by
  intro _ _ _ _ _ _ h1
  unfold State.beatEnd
  try dsimp only
  repeat' (first
    | with_reducible assumption
    | with_reducible apply h1
    | with_reducible apply State.runTo_ok
    | with_reducible apply State.atCycle_ok
    | with_reducible apply State.setCtx_ok
    | dsimp only
    | with_reducible intro _)

theorem State.lookAhead_ok {q : Kept} : ∀ a0 a1 a2 a3 a4 a5 a6, State.Ok q a0 → State.Ok q (State.lookAhead a0 a1 a2 a3 a4 a5 a6) := by
  intro _ _ _ _ _ _ _ _
  unfold State.lookAhead
  try dsimp only
  repeat' (first
    | with_reducible assumption
    | with_reducible apply State.readAhead_ok
    | simp only [State.mk_ok]
    | with_reducible apply partsOk_same
    | dsimp only
    | split
    | with_reducible intro _)

theorem State.lookAheads_ok {q : Kept} : ∀ a0 a1 a2 a3 a4 a5 a6, State.Ok q a0 → State.Ok q (State.lookAheads a0 a1 a2 a3 a4 a5 a6) := by
  intro _ _ _ _ _ _ _ _
  unfold State.lookAheads
  try dsimp only
  repeat' (first
    | with_reducible assumption
    | with_reducible apply State.set_ok
    | with_reducible apply State.seqOp_ok
    | with_reducible apply State.lookAhead_ok
    | with_reducible apply foldl_ok
    | with_reducible apply foldl_fst_ok
    | with_reducible apply foldl_st_ok
    | with_reducible apply foldl_out_ok
    | dsimp only
    | split
    | with_reducible intro _)

theorem State.beatNext_ok {q : Kept} : ∀ a0 a1 a2 a3 a4, State.Ok q a0 → State.Ok q (State.beatNext a0 a1 a2 a3 a4) := by
  intro _ _ _ _ _ _
  unfold State.beatNext
  try dsimp only
  repeat' (first
    | with_reducible assumption
    | with_reducible apply State.seqValue_ok
    | with_reducible apply State.seqOp_ok
    | with_reducible apply State.beatEnd_ok
    | dsimp only
    | with_reducible intro _)

theorem State.slotMissed_ok {q : Kept} : ∀ a0 a1 a2 a3, State.Ok q a0 → State.Ok q (State.slotMissed a0 a1 a2 a3) := by
  intro _ _ _ _ _
  unfold State.slotMissed
  try dsimp only
  repeat' (first
    | with_reducible assumption
    | with_reducible apply State.set_ok
    | simp only [State.mk_ok]
    | with_reducible apply partsOk_same
    | dsimp only
    | split)

theorem State.issueNow_ok {q : Kept} : ∀ a0 a1 a2 a3 a4, State.Ok q a0 → State.Ok q a1 → OutOk q (State.issueNow a0 a1 a2 a3 a4) := by
  intro _ _ _ _ _ _ _
  unfold State.issueNow
  try dsimp only
  repeat' (first
    | with_reducible assumption
    | with_reducible apply outNext_ok
    | with_reducible apply notDue_ok
    | with_reducible exact reservedCode_ok
    | with_reducible exact outFault_ok _
    | with_reducible apply State.stopAt_ok
    | with_reducible apply State.slotMissed_ok
    | with_reducible apply State.setPatterns_ok
    | with_reducible apply State.seqValue_ok
    | with_reducible apply State.raise_ok
    | with_reducible apply State.opsStart_ok
    | with_reducible apply State.lookAheads_ok
    | with_reducible apply State.haltStart_ok
    | with_reducible apply State.dmaPush_ok
    | with_reducible apply State.descsRead_ok
    | with_reducible apply State.beatReads_ok
    | with_reducible apply State.beatNext_ok
    | with_reducible apply State.beatBell_ok
    | simp only [State.mk_ok]
    | with_reducible apply partsOk_same
    | dsimp only
    | split
    | with_reducible intro _)

theorem State.beatIssue_ok {q : Kept} : ∀ a0 a1 a2 a3, State.Ok q a0 → OutOk q (State.beatIssue a0 a1 a2 a3) := by
  intro _ _ _ _ _
  unfold State.beatIssue
  try dsimp only
  repeat' (first
    | with_reducible assumption
    | with_reducible apply outNext_ok
    | with_reducible apply notDue_ok
    | with_reducible exact reservedCode_ok
    | with_reducible exact outFault_ok _
    | with_reducible apply State.storeRead_ok
    | with_reducible apply State.stepStart_ok
    | with_reducible apply State.issueNow_ok
    | with_reducible apply State.hold_ok
    | with_reducible apply State.contextFault_ok
    | with_reducible apply State.awaitTake_ok
    | dsimp only
    | split)

theorem execBeatIssue_ok {q : Kept} : ∀ a0 a1 a2, State.Ok q a2 → OutOk q (execBeatIssue a0 a1 a2) := by
  intro _ _ _ _
  unfold execBeatIssue
  try dsimp only
  repeat' (first
    | with_reducible assumption
    | with_reducible apply outNext_ok
    | with_reducible apply notDue_ok
    | with_reducible exact reservedCode_ok
    | with_reducible exact outFault_ok _
    | with_reducible apply State.notDue_ok
    | with_reducible apply State.beatIssue_ok
    | dsimp only
    | split)

theorem State.seqRow_ok {q : Kept} : ∀ a0 a1 a2 a3 a4, State.Ok q a0 → (∀ y0, State.Ok q y0 → State.Ok q (a4 y0).1) →
    OutOk q (State.seqRow a0 a1 a2 a3 a4) := by
  intro _ _ _ _ _ _ h1
  unfold State.seqRow
  try dsimp only
  repeat' (first
    | with_reducible assumption
    | with_reducible apply h1
    | with_reducible apply outNext_ok
    | with_reducible apply notDue_ok
    | with_reducible apply State.raise_ok
    | with_reducible apply State.beatEnd_ok
    | dsimp only
    | split
    | with_reducible intro _)

theorem execNop_ok {q : Kept} : ∀ a0 a1 a2, State.Ok q a2 → OutOk q (execNop a0 a1 a2) := by
  intro _ _ _ _
  unfold execNop
  try dsimp only
  repeat' (first
    | with_reducible assumption
    | with_reducible apply outNext_ok
    | with_reducible apply notDue_ok
    | with_reducible exact reservedCode_ok
    | with_reducible exact outFault_ok _
    | with_reducible apply State.seqRow_ok
    | with_reducible apply State.follow_ok
    | dsimp only
    | with_reducible intro _)

theorem execLoop_ok {q : Kept} : ∀ a0 a1 a2 a3 a4 a5, State.Ok q a5 → OutOk q (execLoop a0 a1 a2 a3 a4 a5) := by
  intro _ _ _ _ _ _ _
  unfold execLoop
  try dsimp only
  repeat' (first
    | with_reducible assumption
    | with_reducible apply outNext_ok
    | with_reducible apply notDue_ok
    | with_reducible exact reservedCode_ok
    | with_reducible exact outFault_ok _
    | with_reducible apply State.seqRow_ok
    | with_reducible apply State.seqLoop_ok
    | dsimp only
    | split
    | with_reducible intro _)

theorem execBr_ok {q : Kept} : ∀ a0 a1 a2 a3 a4 a5 a6, State.Ok q a6 → OutOk q (execBr a0 a1 a2 a3 a4 a5 a6) := by
  intro _ _ _ _ _ _ _ _
  unfold execBr
  try dsimp only
  repeat' (first
    | with_reducible assumption
    | with_reducible apply outNext_ok
    | with_reducible apply notDue_ok
    | with_reducible exact reservedCode_ok
    | with_reducible exact outFault_ok _
    | with_reducible apply State.seqRow_ok
    | with_reducible apply State.seqBr_ok
    | with_reducible apply State.brValue_ok
    | dsimp only
    | split
    | with_reducible intro _)

theorem execJmp_ok {q : Kept} : ∀ a0 a1 a2 a3, State.Ok q a3 → OutOk q (execJmp a0 a1 a2 a3) := by
  intro _ _ _ _ _
  unfold execJmp
  try dsimp only
  repeat' (first
    | with_reducible assumption
    | with_reducible apply outNext_ok
    | with_reducible apply notDue_ok
    | with_reducible exact reservedCode_ok
    | with_reducible exact outFault_ok _
    | with_reducible apply State.seqRow_ok
    | with_reducible apply State.jumpTo_ok
    | simp only
    | with_reducible apply partsOk_same
    | dsimp only
    | split
    | with_reducible intro _)

theorem execStep_ok {q : Kept} : ∀ a0 a1 a2, State.Ok q a2 → OutOk q (execStep a0 a1 a2) := by
  intro _ _ _ _
  unfold execStep
  try dsimp only
  repeat' (first
    | with_reducible assumption
    | with_reducible apply outNext_ok
    | with_reducible apply notDue_ok
    | with_reducible exact reservedCode_ok
    | with_reducible exact outFault_ok _
    | with_reducible apply State.stepStart_ok
    | with_reducible apply State.notDue_ok
    | dsimp only
    | split)

theorem execStepDrained_ok {q : Kept} : ∀ a0 a1 a2, State.Ok q a2 → OutOk q (execStepDrained a0 a1 a2) := by
  intro _ _ _ _
  unfold execStepDrained
  try dsimp only
  repeat' (first
    | with_reducible assumption
    | with_reducible apply outNext_ok
    | with_reducible apply notDue_ok
    | with_reducible exact reservedCode_ok
    | with_reducible exact outFault_ok _
    | with_reducible apply State.setPhase_ok
    | with_reducible apply State.notDue_ok
    | dsimp only
    | split)

theorem execHalt_ok {q : Kept} : ∀ a0 a1 a2, State.Ok q a2 → OutOk q (execHalt a0 a1 a2) := by
  intro _ _ _ _
  unfold execHalt
  try dsimp only
  repeat' (first
    | with_reducible assumption
    | with_reducible apply outNext_ok
    | with_reducible apply notDue_ok
    | with_reducible exact reservedCode_ok
    | with_reducible exact outFault_ok _
    | with_reducible apply State.notDue_ok
    | with_reducible apply State.haltStart_ok
    | dsimp only
    | split)

theorem execHaltComplete_ok {q : Kept} : ∀ a0 a1 a2, State.Ok q a2 → OutOk q (execHaltComplete a0 a1 a2) := by
  intro _ _ _ _
  unfold execHaltComplete
  try dsimp only
  repeat' (first
    | with_reducible assumption
    | with_reducible apply outNext_ok
    | with_reducible apply notDue_ok
    | with_reducible exact reservedCode_ok
    | with_reducible exact outFault_ok _
    | with_reducible apply State.shareIfIdle_ok
    | with_reducible apply State.setPhase_ok
    | with_reducible apply State.set_ok
    | with_reducible apply State.notDue_ok
    | with_reducible apply State.beatBell_ok
    | simp only [State.mk_ok]
    | with_reducible apply partsOk_same
    | dsimp only
    | split)

theorem execRing_ok {q : Kept} : ∀ a0 a1 a2 a3 a4, State.Ok q a4 → OutOk q (execRing a0 a1 a2 a3 a4) := by
  intro _ _ _ _ _ _
  unfold execRing
  try dsimp only
  repeat' (first
    | with_reducible assumption
    | with_reducible apply outNext_ok
    | with_reducible apply notDue_ok
    | with_reducible exact reservedCode_ok
    | with_reducible exact outFault_ok _
    | with_reducible apply State.beatRing_ok
    | dsimp only)

theorem execAwait_ok {q : Kept} : ∀ a0 a1 a2 a3 a4, State.Ok q a4 → OutOk q (execAwait a0 a1 a2 a3 a4) := by
  intro _ _ _ _ _ _
  unfold execAwait
  try dsimp only
  repeat' (first
    | with_reducible assumption
    | with_reducible apply outNext_ok
    | with_reducible apply notDue_ok
    | with_reducible exact reservedCode_ok
    | with_reducible exact outFault_ok _
    | with_reducible apply State.notDue_ok
    | with_reducible apply State.hold_ok
    | with_reducible apply State.contextFault_ok
    | with_reducible apply State.awaitTake_ok
    | simp only [State.mk_ok]
    | with_reducible apply partsOk_same
    | dsimp only
    | split)

theorem execAwaitPass_ok {q : Kept} : ∀ a0 a1 a2, State.Ok q a2 → OutOk q (execAwaitPass a0 a1 a2) := by
  intro _ _ _ _
  unfold execAwaitPass
  try dsimp only
  repeat' (first
    | with_reducible assumption
    | with_reducible apply outNext_ok
    | with_reducible apply notDue_ok
    | with_reducible exact reservedCode_ok
    | with_reducible exact outFault_ok _
    | with_reducible apply State.unhold_ok
    | with_reducible apply State.notDue_ok
    | with_reducible apply State.beatIssue_ok
    | dsimp only
    | split)

theorem execAwaitTmo_ok {q : Kept} : ∀ a0 a1 a2 a3, State.Ok q a3 → OutOk q (execAwaitTmo a0 a1 a2 a3) := by
  intro _ _ _ _ _
  unfold execAwaitTmo
  try dsimp only
  repeat' (first
    | with_reducible assumption
    | with_reducible apply outNext_ok
    | with_reducible apply notDue_ok
    | with_reducible exact reservedCode_ok
    | with_reducible exact outFault_ok _
    | with_reducible apply State.set_ok
    | with_reducible apply State.notDue_ok
    | with_reducible apply State.inc_ok
    | with_reducible apply State.contextFault_ok
    | dsimp only
    | split)

theorem execRingx_ok {q : Kept} : ∀ a0 a1 a2 a3 a4, State.Ok q a4 → OutOk q (execRingx a0 a1 a2 a3 a4) := by
  intro _ _ _ _ _ _
  unfold execRingx
  try dsimp only
  repeat' (first
    | with_reducible assumption
    | with_reducible apply outNext_ok
    | with_reducible apply notDue_ok
    | with_reducible exact reservedCode_ok
    | with_reducible exact outFault_ok _
    | with_reducible apply State.beatRingx_ok
    | dsimp only)

theorem execDmaIssue_ok {q : Kept} : ∀ a0 a1 a2 a3 a4, State.Ok q a4 → OutOk q (execDmaIssue a0 a1 a2 a3 a4) := by
  intro _ _ _ _ _ _
  unfold execDmaIssue
  try dsimp only
  repeat' (first
    | with_reducible assumption
    | with_reducible apply outNext_ok
    | with_reducible apply notDue_ok
    | with_reducible exact reservedCode_ok
    | with_reducible exact outFault_ok _
    | with_reducible apply State.hold_ok
    | with_reducible apply State.dmaPush_ok
    | dsimp only
    | split)

theorem execDmaQueueFree_ok {q : Kept} : ∀ a0 a1 a2, State.Ok q a2 → OutOk q (execDmaQueueFree a0 a1 a2) := by
  intro _ _ _ _
  unfold execDmaQueueFree
  try dsimp only
  repeat' (first
    | with_reducible assumption
    | with_reducible apply outNext_ok
    | with_reducible apply notDue_ok
    | with_reducible exact reservedCode_ok
    | with_reducible exact outFault_ok _
    | with_reducible apply State.unhold_ok
    | with_reducible apply State.notDue_ok
    | with_reducible apply State.beatIssue_ok
    | dsimp only
    | split)

theorem execDmaTransferDone_ok {q : Kept} : ∀ a0 a1 a2, State.Ok q a2 → OutOk q (execDmaTransferDone a0 a1 a2) := by
  intro _ _ _ _
  unfold execDmaTransferDone
  try dsimp only
  repeat' (first
    | with_reducible assumption
    | with_reducible apply outNext_ok
    | with_reducible apply notDue_ok
    | with_reducible exact reservedCode_ok
    | with_reducible exact outFault_ok _
    | with_reducible apply YardWork.done_ok
    | with_reducible apply State.setCtx_ok
    | with_reducible apply State.ringOwn_ok
    | with_reducible apply State.notDue_ok
    | simp only [State.mk_ok]
    | with_reducible apply partsOk_same
    | dsimp only
    | split)

end Sys2Proof.Machine
end

