-- ==== Sys2Proof/Laws/KeepErrRsp.lean ====
section
/-! SUPPORT. Laws/KeepErrRsp.lean: the operations of Machine/ErrRsp.lean keep the canonical form and the queue (Laws/Ok.lean). -/

namespace Sys2Proof.Machine

theorem State.dmaRecord_ok {q : Kept} : ∀ a0 a1 a2 a3 a4 a5 a6, State.Ok q a0 → State.Ok q (State.dmaRecord a0 a1 a2 a3 a4 a5 a6) := by
  intro _ _ _ _ _ _ _ _
  unfold State.dmaRecord
  try dsimp only
  repeat' (first
    | with_reducible assumption
    | with_reducible apply State.set_ok
    | dsimp only
    | split)

theorem State.dmaFail_ok {q : Kept} : ∀ a0 a1 a2 a3 a4 a5, State.Ok q a0 → State.Ok q (State.dmaFail a0 a1 a2 a3 a4 a5) := by
  intro _ _ _ _ _ _ _
  unfold State.dmaFail
  try dsimp only
  repeat' (first
    | with_reducible assumption
    | with_reducible apply YardWork.done_ok
    | with_reducible apply State.setCtx_ok
    | with_reducible apply State.set_ok
    | with_reducible apply State.ringOwn_ok
    | with_reducible apply State.dmaRecord_ok
    | simp only [State.mk_ok]
    | with_reducible apply partsOk_same
    | dsimp only
    | split)

theorem State.dmaRetire_ok {q : Kept} : ∀ a0 a1 a2, State.Ok q a0 → State.Ok q (State.dmaRetire a0 a1 a2) := by
  intro _ _ _ _
  unfold State.dmaRetire
  try dsimp only
  repeat' (first
    | with_reducible assumption
    | with_reducible apply State.setCtx_ok
    | simp only [State.mk_ok]
    | with_reducible apply partsOk_same
    | dsimp only
    | split)

theorem State.dmaAnswered_ok {q : Kept} : ∀ a0 a1 a2, State.Ok q a0 → State.Ok q (State.dmaAnswered a0 a1 a2) := by
  intro _ _ _ _
  unfold State.dmaAnswered
  try dsimp only
  repeat' (first
    | with_reducible assumption
    | with_reducible apply State.setCtx_ok
    | simp only [State.mk_ok]
    | with_reducible apply partsOk_same
    | dsimp only
    | split)

theorem State.dmaError_ok {q : Kept} : ∀ a0 a1 a2 a3 a4, State.Ok q a0 → State.Ok q (State.dmaError a0 a1 a2 a3 a4) := by
  intro _ _ _ _ _ _
  unfold State.dmaError
  try dsimp only
  repeat' (first
    | with_reducible assumption
    | with_reducible apply State.dmaRetire_ok
    | with_reducible apply State.dmaFail_ok
    | with_reducible apply State.dmaAnswered_ok
    | simp only [State.mk_ok]
    | with_reducible apply partsOk_same
    | dsimp only
    | split)

theorem State.cdEnd_ok {q : Kept} : ∀ a0 a1 a2 a3, State.Ok q a0 → State.Ok q (State.cdEnd a0 a1 a2 a3) := by
  intro _ _ _ _ _
  unfold State.cdEnd
  try dsimp only
  repeat' (first
    | with_reducible assumption
    | with_reducible apply State.setCdrun_ok
    | simp only [State.mk_ok]
    | with_reducible apply partsOk_same
    | dsimp only
    | split)

theorem State.cdAnswered_ok {q : Kept} : ∀ a0 a1, State.Ok q a0 → State.Ok q (State.cdAnswered a0 a1) := by
  intro _ _ _
  unfold State.cdAnswered
  try dsimp only
  repeat' (first
    | with_reducible assumption
    | with_reducible apply State.setCdrun_ok
    | simp only [State.mk_ok]
    | with_reducible apply partsOk_same
    | dsimp only)

theorem State.errArrive_ok {q : Kept} : ∀ a0 a1 a2, State.Ok q a0 → State.Ok q (State.errArrive a0 a1 a2) := by
  intro _ _ _ _
  unfold State.errArrive
  try dsimp only
  repeat' (first
    | with_reducible assumption
    | with_reducible apply State.penFaultIfRunning_ok
    | with_reducible apply State.failColl_ok
    | with_reducible apply State.fabricFault_ok
    | with_reducible apply State.fabError_ok
    | with_reducible apply State.dmaError_ok
    | with_reducible apply State.cdEnd_ok
    | with_reducible apply State.cdAnswered_ok
    | simp only [State.mk_ok]
    | with_reducible apply partsOk_same
    | dsimp only
    | split)

theorem State.refuse_ok {q : Kept} : ∀ a0 a1 a2 a3 a4, State.Ok q a0 → State.Ok q (State.refuse a0 a1 a2 a3 a4) := by
  intro _ _ _ _ _ _
  unfold State.refuse
  try dsimp only
  repeat' (first
    | with_reducible assumption
    | with_reducible apply State.errArrive_ok
    | with_reducible apply State.emit_ok
    | dsimp only
    | split)

end Sys2Proof.Machine
end

