-- ==== Sys2Proof/Laws/KeepLink.lean ====
section
/-! SUPPORT. Laws/KeepLink.lean: the operations of Machine/Link.lean keep the canonical form and the queue (Laws/Ok.lean). -/

namespace Sys2Proof.Machine

theorem State.returnCredit_ok {q : Kept} : ∀ a0 a1 a2, State.Ok q a0 → State.Ok q (State.returnCredit a0 a1 a2) := by
  intro _ _ _ _
  unfold State.returnCredit
  try dsimp only
  repeat' (first
    | with_reducible assumption
    | with_reducible apply State.setPort_ok
    | with_reducible apply State.set_ok
    | simp only [State.mk_ok]
    | with_reducible apply partsOk_same
    | dsimp only
    | split)

theorem State.losePacket_ok {q : Kept} : ∀ a0 a1 a2 a3, State.Ok q a0 → State.Ok q (State.losePacket a0 a1 a2 a3) := by
  intro _ _ _ _ _
  unfold State.losePacket
  try dsimp only
  repeat' (first
    | with_reducible assumption
    | with_reducible apply State.refuse_ok
    | with_reducible apply State.inc_ok
    | dsimp only)

theorem State.orphans_ok {q : Kept} : ∀ a0 a1, State.Ok q a0 → State.Ok q (State.orphans a0 a1) := by
  intro _ _ _
  unfold State.orphans
  try dsimp only
  repeat' (first
    | with_reducible assumption
    | with_reducible apply State.setPort_ok
    | with_reducible apply foldl_ok
    | with_reducible apply foldl_fst_ok
    | with_reducible apply foldl_st_ok
    | with_reducible apply foldl_out_ok
    | dsimp only
    | split
    | with_reducible intro _)

theorem State.linkLost_ok {q : Kept} : ∀ a0 a1, State.Ok q a0 → State.Ok q (State.linkLost a0 a1) := by
  intro _ _ _
  unfold State.linkLost
  try dsimp only
  repeat' (first
    | with_reducible assumption
    | with_reducible apply State.setPort_ok
    | with_reducible apply State.returnCredit_ok
    | with_reducible apply State.orphans_ok
    | with_reducible apply State.losePacket_ok
    | with_reducible apply foldl_ok
    | with_reducible apply foldl_fst_ok
    | with_reducible apply foldl_st_ok
    | with_reducible apply foldl_out_ok
    | dsimp only
    | with_reducible intro _)

theorem State.dropQueued_ok {q : Kept} : ∀ a0 a1, State.Ok q a0 → State.Ok q (State.dropQueued a0 a1) := by
  intro _ _ _
  unfold State.dropQueued
  try dsimp only
  repeat' (first
    | with_reducible assumption
    | with_reducible apply State.setPort_ok
    | with_reducible apply State.returnCredit_ok
    | with_reducible apply State.losePacket_ok
    | simp only [State.mk_ok]
    | with_reducible apply partsOk_same
    | with_reducible apply foldl_ok
    | with_reducible apply foldl_fst_ok
    | with_reducible apply foldl_st_ok
    | with_reducible apply foldl_out_ok
    | dsimp only
    | with_reducible intro _)

theorem State.startTraining_ok {q : Kept} : ∀ a0 a1, State.Ok q a0 → State.Ok q (State.startTraining a0 a1) := by
  intro _ _ _
  unfold State.startTraining
  try dsimp only
  repeat' (first
    | with_reducible assumption
    | with_reducible apply State.set_ok
    | dsimp only)

theorem State.portOn_ok {q : Kept} : ∀ a0 a1, State.Ok q a0 → State.Ok q (State.portOn a0 a1) := by
  intro _ _ _
  unfold State.portOn
  try dsimp only
  repeat' (first
    | with_reducible assumption
    | with_reducible apply State.startTraining_ok
    | with_reducible apply State.setPort_ok
    | with_reducible apply State.set_ok
    | with_reducible apply State.clearFlds_ok
    | simp only [State.mk_ok]
    | with_reducible apply partsOk_same
    | dsimp only
    | split)

theorem State.portDrained_ok {q : Kept} : ∀ a0 a1, State.Ok q a0 → State.Ok q (State.portDrained a0 a1) := by
  intro _ _ _
  unfold State.portDrained
  try dsimp only
  repeat' (first
    | with_reducible assumption
    | with_reducible apply State.setPort_ok
    | with_reducible apply State.set_ok
    | with_reducible apply State.portOn_ok
    | with_reducible apply State.clearFlds_ok
    | dsimp only
    | split)

theorem State.linkDown_ok {q : Kept} : ∀ a0 a1 a2, State.Ok q a0 → State.Ok q (State.linkDown a0 a1 a2) := by
  intro _ _ _ _
  unfold State.linkDown
  try dsimp only
  repeat' (first
    | with_reducible assumption
    | with_reducible apply State.startTraining_ok
    | with_reducible apply State.set_ok
    | with_reducible apply State.portDrained_ok
    | with_reducible apply State.linkLost_ok
    | with_reducible apply State.inc_ok
    | with_reducible apply State.dropQueued_ok
    | dsimp only
    | split)

theorem State.signalLost_ok {q : Kept} : ∀ a0 a1, State.Ok q a0 → State.Ok q (State.signalLost a0 a1) := by
  intro _ _ _
  unfold State.signalLost
  try dsimp only
  repeat' (first
    | with_reducible assumption
    | with_reducible apply State.linkLost_ok
    | with_reducible apply State.linkDown_ok
    | dsimp only
    | split)

theorem State.portEnable_ok {q : Kept} : ∀ a0 a1 a2, State.Ok q a0 → State.Ok q (State.portEnable a0 a1 a2) := by
  intro _ _ _ _
  unfold State.portEnable
  try dsimp only
  repeat' (first
    | with_reducible assumption
    | with_reducible apply State.setB_ok
    | with_reducible apply State.set_ok
    | with_reducible apply State.portOn_ok
    | with_reducible apply State.portDrained_ok
    | with_reducible apply State.dropQueued_ok
    | simp only [State.mk_ok]
    | with_reducible apply partsOk_same
    | dsimp only
    | split)

theorem State.trained_ok {q : Kept} : ∀ a0 a1 a2, State.Ok q a0 → State.Ok q (State.trained a0 a1 a2) := by
  intro _ _ _ _
  unfold State.trained
  try dsimp only
  repeat' (first
    | with_reducible assumption
    | with_reducible apply State.setPort_ok
    | with_reducible apply State.set_ok
    | simp only [State.mk_ok]
    | with_reducible apply partsOk_same
    | dsimp only
    | split)

theorem State.goBack_ok {q : Kept} : ∀ a0 a1, State.Ok q a0 → State.Ok q (State.goBack a0 a1) := by
  intro _ _ _
  unfold State.goBack
  try dsimp only
  repeat' (first
    | with_reducible assumption
    | with_reducible apply State.setPort_ok
    | with_reducible apply State.linkDown_ok
    | with_reducible apply State.inc_ok
    | simp only [State.mk_ok]
    | with_reducible apply partsOk_same
    | dsimp only
    | split)

theorem State.controlEntry_ok {q : Kept} : ∀ a0 a1 a2, State.Ok q a0 → State.Ok q (State.controlEntry a0 a1 a2) := by
  intro _ _ _ _
  unfold State.controlEntry
  try dsimp only
  repeat' (first
    | with_reducible assumption
    | with_reducible apply State.setPort_ok
    | with_reducible apply State.set_ok
    | with_reducible apply State.goBack_ok
    | simp only [State.mk_ok]
    | with_reducible apply partsOk_same
    | with_reducible apply foldl_ok
    | with_reducible apply foldl_fst_ok
    | with_reducible apply foldl_st_ok
    | with_reducible apply foldl_out_ok
    | dsimp only
    | split
    | with_reducible intro _)

theorem State.takeEntry_ok {q : Kept} : ∀ a0 a1, State.Ok q a0 → State.Ok q (State.takeEntry a0 a1).1 := by
  intro _ _ _
  unfold State.takeEntry
  try dsimp only
  repeat' (first
    | with_reducible assumption
    | with_reducible apply State.setPort_ok
    | simp only [State.mk_ok]
    | with_reducible apply partsOk_same
    | dsimp only)

theorem State.fillCell_ok {q : Kept} : ∀ a0 a1 a2 a3 a4 a5, State.Ok q a0 → State.Ok q (State.fillCell a0 a1 a2 a3 a4 a5).1 := by
  intro a0 a1 a2 a3 a4 a5
  induction a3 generalizing a0 a1 a2 a4 a5 with
  | zero =>
    intro _
    unfold State.fillCell
    try dsimp only
    repeat' (with_reducible assumption)
  | succ n ih =>
    intro _
    unfold State.fillCell
    try dsimp only
    repeat' (first
      | with_reducible assumption
      | with_reducible apply ih
      | with_reducible apply State.setPort_ok
      | with_reducible apply State.returnCredit_ok
      | with_reducible apply State.takeEntry_ok
      | with_reducible apply foldl_ok
      | with_reducible apply foldl_fst_ok
      | with_reducible apply foldl_st_ok
      | dsimp only
      | split)

theorem State.transmit_ok {q : Kept} : ∀ a0 a1 a2 a3 a4, State.Ok q a0 → State.Ok q (State.transmit a0 a1 a2 a3 a4) := by
  intro _ _ _ _ _ _
  unfold State.transmit
  try dsimp only
  repeat' (first
    | with_reducible assumption
    | with_reducible apply State.setPort_ok
    | with_reducible apply State.answer_ok
    | simp only [State.mk_ok]
    | with_reducible apply partsOk_same
    | dsimp only)

theorem State.sendIdle_ok {q : Kept} : ∀ a0 a1, State.Ok q a0 → State.Ok q (State.sendIdle a0 a1) := by
  intro _ _ _
  unfold State.sendIdle
  try dsimp only
  repeat' (first
    | with_reducible assumption
    | with_reducible apply State.transmit_ok
    | with_reducible apply State.takeEntry_ok
    | dsimp only
    | split)

theorem State.messageLeft_ok {q : Kept} : ∀ a0 a1, State.Ok q a0 → State.Ok q (State.messageLeft a0 a1) := by
  intro _ _ _
  unfold State.messageLeft
  try dsimp only
  repeat' (first
    | with_reducible assumption
    | with_reducible apply YardWork.done_ok
    | with_reducible apply State.setGroup_ok
    | with_reducible apply State.ringName_ok
    | with_reducible apply State.finishColl_ok
    | with_reducible apply State.countColl_ok
    | simp only [State.mk_ok]
    | with_reducible apply partsOk_same
    | dsimp only
    | split)

theorem State.sendStream_ok {q : Kept} : ∀ a0 a1 a2, State.Ok q a0 → State.Ok q (State.sendStream a0 a1 a2) := by
  intro _ _ _ _
  unfold State.sendStream
  try dsimp only
  repeat' (first
    | with_reducible assumption
    | with_reducible apply State.transmit_ok
    | with_reducible apply State.setPort_ok
    | with_reducible apply State.messageLeft_ok
    | with_reducible apply State.fillCell_ok
    | simp only [State.mk_ok]
    | with_reducible apply partsOk_same
    | with_reducible apply foldl_ok
    | with_reducible apply foldl_fst_ok
    | with_reducible apply foldl_st_ok
    | with_reducible apply foldl_out_ok
    | dsimp only
    | split
    | with_reducible intro _)

theorem State.sendNext_ok {q : Kept} : ∀ a0 a1, State.Ok q a0 → State.Ok q (State.sendNext a0 a1) := by
  intro _ _ _
  unfold State.sendNext
  try dsimp only
  repeat' (first
    | with_reducible assumption
    | with_reducible apply State.transmit_ok
    | with_reducible apply State.setPort_ok
    | with_reducible apply State.sendStream_ok
    | with_reducible apply State.sendIdle_ok
    | simp only [State.mk_ok]
    | with_reducible apply partsOk_same
    | dsimp only
    | split)

theorem execCodewordSend_ok {q : Kept} : ∀ a0 a1, State.Ok q a1 → OutOk q (execCodewordSend a0 a1) := by
  intro _ _ _
  unfold execCodewordSend
  try dsimp only
  repeat' (first
    | with_reducible assumption
    | with_reducible apply outNext_ok
    | with_reducible apply notDue_ok
    | with_reducible exact reservedCode_ok
    | with_reducible exact outFault_ok _
    | with_reducible apply State.yardStep_ok
    | with_reducible apply State.sendNext_ok
    | with_reducible apply State.notDue_ok
    | dsimp only
    | split
    | with_reducible intro _)

theorem execLinkControlEntry_ok {q : Kept} : ∀ a0 a1 a2, State.Ok q a2 → OutOk q (execLinkControlEntry a0 a1 a2) := by
  intro _ _ _ _
  unfold execLinkControlEntry
  try dsimp only
  repeat' (first
    | with_reducible assumption
    | with_reducible apply outNext_ok
    | with_reducible apply notDue_ok
    | with_reducible exact reservedCode_ok
    | with_reducible exact outFault_ok _
    | with_reducible apply State.notDue_ok
    | with_reducible apply State.controlEntry_ok
    | dsimp only
    | split)

theorem execRetryTimeout_ok {q : Kept} : ∀ a0 a1, State.Ok q a1 → OutOk q (execRetryTimeout a0 a1) := by
  intro _ _ _
  unfold execRetryTimeout
  try dsimp only
  repeat' (first
    | with_reducible assumption
    | with_reducible apply outNext_ok
    | with_reducible apply notDue_ok
    | with_reducible exact reservedCode_ok
    | with_reducible exact outFault_ok _
    | with_reducible apply State.notDue_ok
    | with_reducible apply State.goBack_ok
    | dsimp only
    | split)

theorem execLinkDown_ok {q : Kept} : ∀ a0 a1 a2, State.Ok q a2 → OutOk q (execLinkDown a0 a1 a2) := by
  intro _ _ _ _
  unfold execLinkDown
  try dsimp only
  repeat' (first
    | with_reducible assumption
    | with_reducible apply outNext_ok
    | with_reducible apply notDue_ok
    | with_reducible exact reservedCode_ok
    | with_reducible exact outFault_ok _
    | with_reducible apply State.signalLost_ok
    | with_reducible apply State.notDue_ok
    | with_reducible apply State.linkDown_ok
    | simp only [State.mk_ok]
    | with_reducible apply partsOk_same
    | dsimp only
    | split)

theorem execLossOfSignal_ok {q : Kept} : ∀ a0 a1, State.Ok q a1 → OutOk q (execLossOfSignal a0 a1) := by
  intro _ _ _
  unfold execLossOfSignal
  try dsimp only
  repeat' (first
    | with_reducible assumption
    | with_reducible apply outNext_ok
    | with_reducible apply notDue_ok
    | with_reducible exact reservedCode_ok
    | with_reducible exact outFault_ok _
    | with_reducible apply State.signalLost_ok
    | with_reducible apply State.notDue_ok
    | dsimp only
    | split)

theorem execPartnerTraining_ok {q : Kept} : ∀ a0 a1, State.Ok q a1 → OutOk q (execPartnerTraining a0 a1) := by
  intro _ _ _
  unfold execPartnerTraining
  try dsimp only
  repeat' (first
    | with_reducible assumption
    | with_reducible apply outNext_ok
    | with_reducible apply notDue_ok
    | with_reducible exact reservedCode_ok
    | with_reducible exact outFault_ok _
    | with_reducible apply State.startTraining_ok
    | with_reducible apply State.notDue_ok
    | with_reducible apply State.linkLost_ok
    | dsimp only
    | split)

theorem execTrainingDone_ok {q : Kept} : ∀ a0 a1 a2, State.Ok q a2 → OutOk q (execTrainingDone a0 a1 a2) := by
  intro _ _ _ _
  unfold execTrainingDone
  try dsimp only
  repeat' (first
    | with_reducible assumption
    | with_reducible apply outNext_ok
    | with_reducible apply notDue_ok
    | with_reducible exact reservedCode_ok
    | with_reducible exact outFault_ok _
    | with_reducible apply State.trained_ok
    | with_reducible apply State.notDue_ok
    | dsimp only
    | split)

theorem execRetrainTimer_ok {q : Kept} : ∀ a0 a1, State.Ok q a1 → OutOk q (execRetrainTimer a0 a1) := by
  intro _ _ _
  unfold execRetrainTimer
  try dsimp only
  repeat' (first
    | with_reducible assumption
    | with_reducible apply outNext_ok
    | with_reducible apply notDue_ok
    | with_reducible exact reservedCode_ok
    | with_reducible exact outFault_ok _
    | with_reducible apply State.startTraining_ok
    | with_reducible apply State.notDue_ok
    | dsimp only
    | split)

theorem execPortEnableWrite_ok {q : Kept} : ∀ a0 a1 a2, State.Ok q a2 → OutOk q (execPortEnableWrite a0 a1 a2) := by
  intro _ _ _ _
  unfold execPortEnableWrite
  try dsimp only
  repeat' (first
    | with_reducible assumption
    | with_reducible apply outNext_ok
    | with_reducible apply notDue_ok
    | with_reducible exact reservedCode_ok
    | with_reducible exact outFault_ok _
    | with_reducible apply State.portEnable_ok
    | with_reducible apply State.notDue_ok
    | dsimp only
    | split)

theorem execPortDrain_ok {q : Kept} : ∀ a0 a1, State.Ok q a1 → OutOk q (execPortDrain a0 a1) := by
  intro _ _ _
  unfold execPortDrain
  try dsimp only
  repeat' (first
    | with_reducible assumption
    | with_reducible apply outNext_ok
    | with_reducible apply notDue_ok
    | with_reducible exact reservedCode_ok
    | with_reducible exact outFault_ok _
    | with_reducible apply State.portDrained_ok
    | with_reducible apply State.notDue_ok
    | with_reducible apply State.linkLost_ok
    | with_reducible apply State.dropQueued_ok
    | dsimp only
    | split)

end Sys2Proof.Machine
end

