-- ==== Sys2Proof/Laws/KeepEnables.lean ====
section
/-! SUPPORT. Laws/KeepEnables.lean: the operations of Machine/Enables.lean keep the canonical form and the queue (Laws/Ok.lean). -/

namespace Sys2Proof.Machine

theorem State.blockCounts_ok {q : Kept} : ∀ a0 a1, State.Ok q a0 → State.Ok q (State.blockCounts a0 a1) := by
  intro _ _ _
  unfold State.blockCounts
  try dsimp only
  repeat' (first
    | with_reducible assumption
    | with_reducible apply State.setEngine_ok
    | simp only [State.mk_ok]
    | with_reducible apply partsOk_same
    | dsimp only
    | split)

theorem State.funcOn_ok {q : Kept} : ∀ a0 a1, State.Ok q a0 → State.Ok q (State.funcOn a0 a1) := by
  intro _ _ _
  unfold State.funcOn
  try dsimp only
  repeat' (first
    | with_reducible assumption
    | with_reducible apply State.set_ok
    | with_reducible apply State.portOn_ok
    | with_reducible apply State.clearFlds_ok
    | with_reducible apply State.blockCounts_ok
    | simp only [State.mk_ok]
    | with_reducible apply partsOk_same
    | dsimp only
    | split)

theorem State.funcDrain_ok {q : Kept} : ∀ a0 a1, State.Ok q a0 → State.Ok q (State.funcDrain a0 a1) := by
  intro _ _ _
  unfold State.funcDrain
  try dsimp only
  repeat' (first
    | with_reducible assumption
    | with_reducible apply State.set_ok
    | with_reducible apply State.portEnable_ok
    | simp only [State.mk_ok]
    | with_reducible apply partsOk_same
    | with_reducible apply foldl_ok
    | with_reducible apply foldl_fst_ok
    | with_reducible apply foldl_st_ok
    | with_reducible apply foldl_out_ok
    | dsimp only
    | split
    | with_reducible intro _)

theorem State.funcEnable_ok {q : Kept} : ∀ a0 a1 a2, State.Ok q a0 → State.Ok q (State.funcEnable a0 a1 a2) := by
  intro _ _ _ _
  unfold State.funcEnable
  try dsimp only
  repeat' (first
    | with_reducible assumption
    | with_reducible apply State.setB_ok
    | with_reducible apply State.portEnable_ok
    | with_reducible apply State.funcOn_ok
    | with_reducible apply State.funcDrain_ok
    | simp only [State.mk_ok]
    | with_reducible apply partsOk_same
    | dsimp only
    | split)

theorem State.funcDrained_ok {q : Kept} : ∀ a0 a1, State.Ok q a0 → State.Ok q (State.funcDrained a0 a1) := by
  intro _ _ _
  unfold State.funcDrained
  try dsimp only
  repeat' (first
    | with_reducible assumption
    | with_reducible apply State.set_ok
    | with_reducible apply State.portDrained_ok
    | with_reducible apply State.funcOn_ok
    | simp only [State.mk_ok]
    | with_reducible apply partsOk_same
    | dsimp only
    | split)

theorem execPenEnableWrite_ok {q : Kept} : ∀ a0 a1 a2, State.Ok q a2 → OutOk q (execPenEnableWrite a0 a1 a2) := by
  intro _ _ _ _
  unfold execPenEnableWrite
  try dsimp only
  repeat' (first
    | with_reducible assumption
    | with_reducible apply outNext_ok
    | with_reducible apply notDue_ok
    | with_reducible exact reservedCode_ok
    | with_reducible exact outFault_ok _
    | with_reducible apply State.notDue_ok
    | with_reducible apply State.funcEnable_ok
    | dsimp only
    | split)

theorem execGrpqEnableWrite_ok {q : Kept} : ∀ a0 a1 a2 a3, State.Ok q a3 → OutOk q (execGrpqEnableWrite a0 a1 a2 a3) := by
  intro _ _ _ _ _
  unfold execGrpqEnableWrite
  try dsimp only
  repeat' (first
    | with_reducible assumption
    | with_reducible apply outNext_ok
    | with_reducible apply notDue_ok
    | with_reducible exact reservedCode_ok
    | with_reducible exact outFault_ok _
    | with_reducible apply State.notDue_ok
    | with_reducible apply State.funcEnable_ok
    | dsimp only
    | split)

theorem execXchEnableWrite_ok {q : Kept} : ∀ a0 a1 a2, State.Ok q a2 → OutOk q (execXchEnableWrite a0 a1 a2) := by
  intro _ _ _ _
  unfold execXchEnableWrite
  try dsimp only
  repeat' (first
    | with_reducible assumption
    | with_reducible apply outNext_ok
    | with_reducible apply notDue_ok
    | with_reducible exact reservedCode_ok
    | with_reducible exact outFault_ok _
    | with_reducible apply State.notDue_ok
    | with_reducible apply State.funcEnable_ok
    | dsimp only
    | split)

theorem execEngEnableWrite_ok {q : Kept} : ∀ a0 a1 a2, State.Ok q a2 → OutOk q (execEngEnableWrite a0 a1 a2) := by
  intro _ _ _ _
  unfold execEngEnableWrite
  try dsimp only
  repeat' (first
    | with_reducible assumption
    | with_reducible apply outNext_ok
    | with_reducible apply notDue_ok
    | with_reducible exact reservedCode_ok
    | with_reducible exact outFault_ok _
    | with_reducible apply State.notDue_ok
    | with_reducible apply State.funcEnable_ok
    | dsimp only
    | split)

theorem execOptEnableWrite_ok {q : Kept} : ∀ a0 a1 a2, State.Ok q a2 → OutOk q (execOptEnableWrite a0 a1 a2) := by
  intro _ _ _ _
  unfold execOptEnableWrite
  try dsimp only
  repeat' (first
    | with_reducible assumption
    | with_reducible apply outNext_ok
    | with_reducible apply notDue_ok
    | with_reducible exact reservedCode_ok
    | with_reducible exact outFault_ok _
    | with_reducible apply State.notDue_ok
    | with_reducible apply State.funcEnable_ok
    | dsimp only
    | split)

theorem execDrainComplete_ok {q : Kept} : ∀ a0 a1, State.Ok q a1 → OutOk q (execDrainComplete a0 a1) := by
  intro _ _ _
  unfold execDrainComplete
  try dsimp only
  repeat' (first
    | with_reducible assumption
    | with_reducible apply outNext_ok
    | with_reducible apply notDue_ok
    | with_reducible exact reservedCode_ok
    | with_reducible exact outFault_ok _
    | with_reducible apply State.notDue_ok
    | with_reducible apply State.funcDrained_ok
    | dsimp only
    | split)

end Sys2Proof.Machine
end

