-- ==== Sys2Proof/Laws/KeepLayout.lean ====
section
/-! SUPPORT. Laws/KeepLayout.lean: the operations of Machine/Layout.lean keep the canonical form and the queue (Laws/Ok.lean). -/

namespace Sys2Proof.Machine

theorem State.layoutCleared_ok {q : Kept} : ∀ a0, State.Ok q a0 → State.Ok q (State.layoutCleared a0) := by
  intro _ _
  unfold State.layoutCleared
  try dsimp only
  repeat' (first
    | with_reducible assumption
    | simp only [State.mk_ok]
    | with_reducible apply partsOk_same
    | with_reducible apply partsOk_regs
    | with_reducible apply Tab.filter_rising
    | (with_reducible apply State.Ok.rising (q := q))
    | with_reducible apply State.clearFlds_ok)

theorem State.setBells_ok {q : Kept} : ∀ a0 a1, State.Ok q a0 → State.Ok q (State.setBells a0 a1) := by
  intro _ _ _
  unfold State.setBells
  try dsimp only
  repeat' (first
    | with_reducible assumption
    | with_reducible apply State.set_ok
    | with_reducible apply foldl_ok
    | with_reducible apply foldl_fst_ok
    | with_reducible apply foldl_st_ok
    | with_reducible apply foldl_out_ok
    | dsimp only
    | with_reducible intro _)

theorem State.writeGroups_ok {q : Kept} : ∀ a0 a1 a2, State.Ok q a0 → State.Ok q (State.writeGroups a0 a1 a2) := by
  intro _ _ _ _
  unfold State.writeGroups
  try dsimp only
  repeat' (first
    | with_reducible assumption
    | with_reducible apply State.localWrite_ok
    | with_reducible apply foldl_ok
    | with_reducible apply foldl_fst_ok
    | with_reducible apply foldl_st_ok
    | with_reducible apply foldl_out_ok
    | dsimp only
    | with_reducible intro _)

theorem State.writeEnable_ok {q : Kept} : ∀ a0 a1 a2, State.Ok q a0 → State.Ok q (State.writeEnable a0 a1 a2) := by
  intro _ _ _ _
  unfold State.writeEnable
  try dsimp only
  repeat' (first
    | with_reducible assumption
    | with_reducible apply State.funcEnable_ok
    | dsimp only
    | split)

theorem State.pcieRoleLoaded_ok {q : Kept} : ∀ a0, State.Ok q a0 → State.Ok q (State.pcieRoleLoaded a0) := by
  intro _ _
  unfold State.pcieRoleLoaded
  try dsimp only
  repeat' (first
    | with_reducible assumption
    | with_reducible apply State.clearFlds_ok
    | simp only [State.mk_ok]
    | with_reducible apply partsOk_same
    | dsimp only
    | split)

theorem State.portsTrain_ok {q : Kept} : ∀ a0, State.Ok q a0 → State.Ok q (State.portsTrain a0) := by
  intro _ _
  unfold State.portsTrain
  try dsimp only
  repeat' (first
    | with_reducible assumption
    | with_reducible apply State.startTraining_ok
    | with_reducible apply foldl_ok
    | with_reducible apply foldl_fst_ok
    | with_reducible apply foldl_st_ok
    | with_reducible apply foldl_out_ok
    | dsimp only
    | split
    | with_reducible intro _)

theorem State.applyImage_ok {q : Kept} : ∀ a0 a1, State.Ok q a0 → State.Ok q (State.applyImage a0 a1) := by
  intro _ _ _
  unfold State.applyImage
  try dsimp only
  repeat' (first
    | with_reducible assumption
    | with_reducible apply State.writeGroups_ok
    | with_reducible apply State.writeEnable_ok
    | with_reducible apply State.showCoord_ok
    | with_reducible apply State.setBells_ok
    | with_reducible apply State.setAll_ok
    | with_reducible apply State.set_ok
    | with_reducible apply State.portsTrain_ok
    | with_reducible apply State.pcieRoleLoaded_ok
    | with_reducible apply State.clearFlds_ok
    | simp only [State.mk_ok]
    | with_reducible apply partsOk_same
    | with_reducible apply foldl_ok
    | with_reducible apply foldl_fst_ok
    | with_reducible apply foldl_st_ok
    | with_reducible apply foldl_out_ok
    | dsimp only
    | split
    | with_reducible intro _)

theorem State.layRefuse_ok {q : Kept} : ∀ a0 a1 a2 a3, State.Ok q a0 → State.Ok q (State.layRefuse a0 a1 a2 a3) := by
  intro _ _ _ _ _
  unfold State.layRefuse
  try dsimp only
  repeat' (first
    | with_reducible assumption
    | with_reducible apply State.set_ok
    | dsimp only)

theorem State.readImage_ok {q : Kept} : ∀ a0 a1, State.Ok q a0 → State.Ok q (State.readImage a0 a1) := by
  intro _ _ _
  unfold State.readImage
  try dsimp only
  repeat' (first
    | with_reducible assumption
    | with_reducible apply State.countRead_ok
    | dsimp only)

theorem State.layLoad_ok {q : Kept} : ∀ a0, State.Ok q a0 → State.Ok q (State.layLoad a0) := by
  intro _ _
  unfold State.layLoad
  try dsimp only
  repeat' (first
    | with_reducible assumption
    | with_reducible apply State.setLay_ok
    | with_reducible apply State.set_ok
    | with_reducible apply State.readImage_ok
    | with_reducible apply State.layRefuse_ok
    | simp only [State.mk_ok]
    | with_reducible apply partsOk_same
    | dsimp only
    | split)

theorem State.layChecked_ok {q : Kept} : ∀ a0, State.Ok q a0 → State.Ok q (State.layChecked a0) := by
  intro _ _
  unfold State.layChecked
  try dsimp only
  repeat' (first
    | with_reducible assumption
    | with_reducible apply State.setLay_ok
    | with_reducible apply State.set_ok
    | with_reducible apply State.layRefuse_ok
    | with_reducible apply State.applyImage_ok
    | simp only [State.mk_ok]
    | with_reducible apply partsOk_same
    | dsimp only
    | split)

theorem State.layUnload_ok {q : Kept} : ∀ a0, State.Ok q a0 → State.Ok q (State.layUnload a0) := by
  intro _ _
  unfold State.layUnload
  try dsimp only
  repeat' (first
    | with_reducible assumption
    | with_reducible apply State.writeEnable_ok
    | with_reducible apply State.set_ok
    | with_reducible apply State.layRefuse_ok
    | with_reducible apply foldl_ok
    | with_reducible apply foldl_fst_ok
    | with_reducible apply foldl_st_ok
    | with_reducible apply foldl_out_ok
    | dsimp only
    | split
    | with_reducible intro _)

theorem State.ctxIdle_ok {q : Kept} : ∀ a0 a1 a2, State.Ok q a0 → State.Ok q (State.ctxIdle a0 a1 a2) := by
  intro _ _ _ _
  unfold State.ctxIdle
  try dsimp only
  repeat' (first
    | with_reducible assumption
    | with_reducible apply YardWork.count_ok
    | with_reducible apply State.setCtx_ok
    | with_reducible apply State.clearFlds_ok
    | dsimp only
    | with_reducible intro _)

theorem State.layUnloaded_ok {q : Kept} : ∀ a0, State.Ok q a0 → State.Ok q (State.layUnloaded a0) := by
  intro _ _
  unfold State.layUnloaded
  try dsimp only
  repeat' (first
    | with_reducible assumption
    | with_reducible apply State.set_ok
    | with_reducible apply State.layoutCleared_ok
    | with_reducible apply State.ctxIdle_ok
    | with_reducible apply foldl_ok
    | with_reducible apply foldl_fst_ok
    | with_reducible apply foldl_st_ok
    | with_reducible apply foldl_out_ok
    | dsimp only
    | with_reducible intro _)

theorem State.armTable_ok {q : Kept} : ∀ a0 a1, State.Ok q a0 → State.Ok q (State.armTable a0 a1) := by
  intro _ _ _
  unfold State.armTable
  try dsimp only
  repeat' (first
    | with_reducible assumption
    | with_reducible apply State.takeTable_ok
    | with_reducible apply State.tableSwapped_ok
    | with_reducible apply State.set_ok
    | with_reducible apply foldl_ok
    | with_reducible apply foldl_fst_ok
    | with_reducible apply foldl_st_ok
    | with_reducible apply foldl_out_ok
    | dsimp only
    | split
    | with_reducible intro _)

theorem execGrpSwapArm_ok {q : Kept} : ∀ a0 a1, State.Ok q a1 → OutOk q (execGrpSwapArm a0 a1) := by
  intro _ _ _
  unfold execGrpSwapArm
  try dsimp only
  repeat' (first
    | with_reducible assumption
    | with_reducible apply outNext_ok
    | with_reducible apply notDue_ok
    | with_reducible exact reservedCode_ok
    | with_reducible exact outFault_ok _
    | with_reducible apply State.notDue_ok
    | with_reducible apply State.armTable_ok
    | dsimp only
    | split)

theorem State.layArm_ok {q : Kept} : ∀ a0, State.Ok q a0 → State.Ok q (State.layArm a0) := by
  intro _ _
  unfold State.layArm
  try dsimp only
  repeat' (first
    | with_reducible assumption
    | with_reducible apply State.setLay_ok
    | with_reducible apply State.set_ok
    | with_reducible apply State.readImage_ok
    | with_reducible apply State.layRefuse_ok
    | simp only [State.mk_ok]
    | with_reducible apply partsOk_same
    | dsimp only
    | split)

theorem State.armChecked_ok {q : Kept} : ∀ a0, State.Ok q a0 → State.Ok q (State.armChecked a0) := by
  intro _ _
  unfold State.armChecked
  try dsimp only
  repeat' (first
    | with_reducible assumption
    | with_reducible apply State.writeGroups_ok
    | with_reducible apply State.shareIfIdle_ok
    | with_reducible apply State.shareDone_ok
    | with_reducible apply State.setLay_ok
    | with_reducible apply State.set_ok
    | with_reducible apply State.layRefuse_ok
    | simp only [State.mk_ok]
    | with_reducible apply partsOk_same
    | with_reducible apply foldl_ok
    | with_reducible apply foldl_fst_ok
    | with_reducible apply foldl_st_ok
    | with_reducible apply foldl_out_ok
    | dsimp only
    | split
    | with_reducible intro _)

theorem State.layDisarm_ok {q : Kept} : ∀ a0, State.Ok q a0 → State.Ok q (State.layDisarm a0) := by
  intro _ _
  unfold State.layDisarm
  try dsimp only
  repeat' (first
    | with_reducible assumption
    | with_reducible apply State.setLay_ok
    | with_reducible apply State.set_ok
    | simp only [State.mk_ok]
    | with_reducible apply partsOk_same
    | dsimp only
    | split)

theorem execLayoutLoad_ok {q : Kept} : ∀ a0, State.Ok q a0 → OutOk q (execLayoutLoad a0) := by
  intro _ _
  unfold execLayoutLoad
  try dsimp only
  repeat' (first
    | with_reducible assumption
    | with_reducible apply outNext_ok
    | with_reducible apply notDue_ok
    | with_reducible exact reservedCode_ok
    | with_reducible exact outFault_ok _
    | with_reducible apply State.yardStep_ok
    | with_reducible apply State.notDue_ok
    | with_reducible apply State.layLoad_ok
    | dsimp only
    | split
    | with_reducible intro _)

theorem execLayoutChecksDone_ok {q : Kept} : ∀ a0, State.Ok q a0 → OutOk q (execLayoutChecksDone a0) := by
  intro _ _
  unfold execLayoutChecksDone
  try dsimp only
  repeat' (first
    | with_reducible assumption
    | with_reducible apply outNext_ok
    | with_reducible apply notDue_ok
    | with_reducible exact reservedCode_ok
    | with_reducible exact outFault_ok _
    | with_reducible apply State.yardStep_ok
    | with_reducible apply State.notDue_ok
    | with_reducible apply State.layChecked_ok
    | dsimp only
    | split
    | with_reducible intro _)

theorem execLayoutUnload_ok {q : Kept} : ∀ a0, State.Ok q a0 → OutOk q (execLayoutUnload a0) := by
  intro _ _
  unfold execLayoutUnload
  try dsimp only
  repeat' (first
    | with_reducible assumption
    | with_reducible apply outNext_ok
    | with_reducible apply notDue_ok
    | with_reducible exact reservedCode_ok
    | with_reducible exact outFault_ok _
    | with_reducible apply State.notDue_ok
    | with_reducible apply State.layUnload_ok
    | dsimp only
    | split)

theorem execUnloadComplete_ok {q : Kept} : ∀ a0, State.Ok q a0 → OutOk q (execUnloadComplete a0) := by
  intro _ _
  unfold execUnloadComplete
  try dsimp only
  repeat' (first
    | with_reducible assumption
    | with_reducible apply outNext_ok
    | with_reducible apply notDue_ok
    | with_reducible exact reservedCode_ok
    | with_reducible exact outFault_ok _
    | with_reducible apply State.notDue_ok
    | with_reducible apply State.layUnloaded_ok
    | dsimp only
    | split
    | with_reducible intro _)

theorem execLayoutArm_ok {q : Kept} : ∀ a0, State.Ok q a0 → OutOk q (execLayoutArm a0) := by
  intro _ _
  unfold execLayoutArm
  try dsimp only
  repeat' (first
    | with_reducible assumption
    | with_reducible apply outNext_ok
    | with_reducible apply notDue_ok
    | with_reducible exact reservedCode_ok
    | with_reducible exact outFault_ok _
    | with_reducible apply State.yardStep_ok
    | with_reducible apply State.notDue_ok
    | with_reducible apply State.layArm_ok
    | dsimp only
    | split
    | with_reducible intro _)

theorem execArmChecksDone_ok {q : Kept} : ∀ a0, State.Ok q a0 → OutOk q (execArmChecksDone a0) := by
  intro _ _
  unfold execArmChecksDone
  try dsimp only
  repeat' (first
    | with_reducible assumption
    | with_reducible apply outNext_ok
    | with_reducible apply notDue_ok
    | with_reducible exact reservedCode_ok
    | with_reducible exact outFault_ok _
    | with_reducible apply State.yardStep_ok
    | with_reducible apply State.notDue_ok
    | with_reducible apply State.armChecked_ok
    | dsimp only
    | split
    | with_reducible intro _)

theorem execLayoutDisarm_ok {q : Kept} : ∀ a0, State.Ok q a0 → OutOk q (execLayoutDisarm a0) := by
  intro _ _
  unfold execLayoutDisarm
  try dsimp only
  repeat' (first
    | with_reducible assumption
    | with_reducible apply outNext_ok
    | with_reducible apply notDue_ok
    | with_reducible exact reservedCode_ok
    | with_reducible exact outFault_ok _
    | with_reducible apply State.notDue_ok
    | with_reducible apply State.layDisarm_ok
    | dsimp only
    | split)

end Sys2Proof.Machine
end

