-- ==== Sys2Proof/Laws/KeepScan.lean ====
section
/-! SUPPORT. Laws/KeepScan.lean: the operations of Machine/Scan.lean keep the canonical form and the queue (Laws/Ok.lean). -/

namespace Sys2Proof.Machine

theorem State.scanReads_ok {q : Kept} : ∀ a0 a1 a2, State.Ok q a0 → State.Ok q (State.scanReads a0 a1 a2) := by
  intro _ _ _ _
  unfold State.scanReads
  try dsimp only
  repeat' (first
    | with_reducible assumption
    | with_reducible apply State.storeCount_ok
    | with_reducible apply Memory.setMark_wf
    | with_reducible apply Memory.write_wf
    | with_reducible apply Memory.writePieces_wf
    | with_reducible apply foldl_wf
    | (with_reducible apply State.Ok.wf (q := q))
    | with_reducible apply foldl_ok
    | with_reducible apply foldl_fst_ok
    | with_reducible apply foldl_st_ok
    | with_reducible apply foldl_out_ok
    | dsimp only
    | with_reducible intro _)

theorem State.loadStart_ok {q : Kept} : ∀ a0 a1 a2, State.Ok q a0 → State.Ok q (State.loadStart a0 a1 a2) := by
  intro _ _ _ _
  unfold State.loadStart
  try dsimp only
  repeat' (first
    | with_reducible assumption
    | with_reducible apply State.set_ok
    | dsimp only
    | split)

theorem State.freshEngines_ok {q : Kept} : ∀ a0 a1 a2, State.Ok q a0 → State.Ok q (State.freshEngines a0 a1 a2) := by
  intro _ _ _ _
  unfold State.freshEngines
  try dsimp only
  repeat' (first
    | with_reducible assumption
    | with_reducible apply State.setCore_ok
    | with_reducible apply State.setCluster_ok
    | with_reducible apply State.eachCore_ok
    | simp only [State.mk_ok]
    | with_reducible apply partsOk_same
    | with_reducible apply foldl_ok
    | with_reducible apply foldl_fst_ok
    | with_reducible apply foldl_st_ok
    | with_reducible apply foldl_out_ok
    | dsimp only
    | with_reducible intro _)

theorem State.goStart_ok {q : Kept} : ∀ a0 a1 a2, State.Ok q a0 → State.Ok q (State.goStart a0 a1 a2) := by
  intro _ _ _ _
  unfold State.goStart
  try dsimp only
  repeat' (first
    | with_reducible assumption
    | with_reducible apply State.setCtx_ok
    | with_reducible apply State.set_ok
    | with_reducible apply State.freshEngines_ok
    | simp only [State.mk_ok]
    | with_reducible apply partsOk_same
    | dsimp only
    | split)

theorem execSeqLoadStart_ok {q : Kept} : ∀ a0 a1 a2, State.Ok q a2 → OutOk q (execSeqLoadStart a0 a1 a2) := by
  intro _ _ _ _
  unfold execSeqLoadStart
  try dsimp only
  repeat' (first
    | with_reducible assumption
    | with_reducible apply outNext_ok
    | with_reducible apply notDue_ok
    | with_reducible exact reservedCode_ok
    | with_reducible exact outFault_ok _
    | with_reducible apply State.loadStart_ok
    | dsimp only)

theorem execScanComplete_ok {q : Kept} : ∀ a0 a1 a2, State.Ok q a2 → OutOk q (execScanComplete a0 a1 a2) := by
  intro _ _ _ _
  unfold execScanComplete
  try dsimp only
  repeat' (first
    | with_reducible assumption
    | with_reducible apply outNext_ok
    | with_reducible apply notDue_ok
    | with_reducible exact reservedCode_ok
    | with_reducible exact outFault_ok _
    | with_reducible apply State.set_ok
    | with_reducible apply State.scanReads_ok
    | with_reducible apply State.notDue_ok
    | dsimp only
    | split)

theorem execSeqGo_ok {q : Kept} : ∀ a0 a1 a2, State.Ok q a2 → OutOk q (execSeqGo a0 a1 a2) := by
  intro _ _ _ _
  unfold execSeqGo
  try dsimp only
  repeat' (first
    | with_reducible assumption
    | with_reducible apply outNext_ok
    | with_reducible apply notDue_ok
    | with_reducible exact reservedCode_ok
    | with_reducible exact outFault_ok _
    | with_reducible apply State.goStart_ok
    | dsimp only)

theorem State.storeWrite_ok {q : Kept} : ∀ a0 a1 a2 a3 a4, State.Ok q a0 → State.Ok q (State.storeWrite a0 a1 a2 a3 a4) := by
  intro _ _ _ _ _ _
  unfold State.storeWrite
  try dsimp only
  repeat' (first
    | with_reducible assumption
    | with_reducible apply State.put_ok
    | with_reducible apply State.answer_ok
    | dsimp only
    | split)

theorem execStoreApertureWrite_ok {q : Kept} : ∀ a0 a1 a2 a3, State.Ok q a3 → OutOk q (execStoreApertureWrite a0 a1 a2 a3) := by
  intro _ _ _ _ _
  unfold execStoreApertureWrite
  try dsimp only
  repeat' (first
    | with_reducible assumption
    | with_reducible apply outNext_ok
    | with_reducible apply notDue_ok
    | with_reducible exact reservedCode_ok
    | with_reducible exact outFault_ok _
    | with_reducible apply State.storeWrite_ok
    | dsimp only)

end Sys2Proof.Machine
end

