-- ==== Sys2Proof/Laws/KeepGovernor.lean ====
section
/-! SUPPORT. Laws/KeepGovernor.lean: the operations of Machine/Governor.lean keep the canonical form and the queue (Laws/Ok.lean). -/

namespace Sys2Proof.Machine

theorem State.govReads_ok {q : Kept} : ∀ a0 a1 a2 a3, State.Ok q a0 → State.Ok q (State.govReads a0 a1 a2 a3) := by
  intro _ _ _ _ _
  unfold State.govReads
  try dsimp only
  repeat' (first
    | with_reducible assumption
    | with_reducible apply State.countRead_ok
    | with_reducible apply foldl_ok
    | with_reducible apply foldl_fst_ok
    | with_reducible apply foldl_st_ok
    | with_reducible apply foldl_out_ok
    | dsimp only
    | split
    | with_reducible intro _)

theorem State.rebase_ok {q : Kept} : ∀ a0 a1 a2 a3, State.Ok q a0 → State.Ok q (State.rebase a0 a1 a2 a3).1 := by
  intro _ _ _ _ _
  unfold State.rebase
  try dsimp only
  repeat' (first
    | with_reducible assumption
    | with_reducible apply State.putPieces_ok
    | with_reducible apply State.countRead_ok
    | dsimp only
    | with_reducible intro _)

theorem State.govApply_ok {q : Kept} : ∀ a0 a1 a2 a3, State.Ok q a0 → State.Ok q (State.govApply a0 a1 a2 a3) := by
  intro _ _ _ _ _
  unfold State.govApply
  try dsimp only
  repeat' (first
    | with_reducible assumption
    | with_reducible apply State.rebase_ok
    | with_reducible apply State.put_ok
    | with_reducible apply State.inc_ok
    | dsimp only
    | split)

theorem State.govern_ok {q : Kept} : ∀ a0 a1 a2 a3, State.Ok q a0 → State.Ok q (State.govern a0 a1 a2 a3) := by
  intro _ _ _ _ _
  unfold State.govern
  try dsimp only
  repeat' (first
    | with_reducible assumption
    | with_reducible apply State.set_ok
    | with_reducible apply State.govApply_ok
    | with_reducible apply State.clearFlds_ok
    | with_reducible apply foldl_ok
    | with_reducible apply foldl_fst_ok
    | with_reducible apply foldl_st_ok
    | with_reducible apply foldl_out_ok
    | dsimp only
    | split
    | with_reducible intro _)

theorem State.holdPages_ok {q : Kept} : ∀ a0 a1, State.Ok q a0 → State.Ok q (State.holdPages a0 a1) := by
  intro _ _ _
  unfold State.holdPages
  try dsimp only
  repeat' (first
    | with_reducible assumption
    | with_reducible apply YardWork.start_ok
    | with_reducible apply State.setPage_ok
    | with_reducible apply foldl_ok
    | with_reducible apply foldl_fst_ok
    | with_reducible apply foldl_st_ok
    | with_reducible apply foldl_out_ok
    | dsimp only
    | with_reducible intro _)

theorem State.mark_ok {q : Kept} : ∀ a0 a1, State.Ok q a0 → State.Ok q (State.mark a0 a1) := by
  intro s p h
  unfold State.mark
  dsimp only
  split
  · exact State.ckpError_ok s _ _ _ h
  · next hg =>
    have hr : s.flag (CKP_CTL.encrypt p) = true →
        State.Ok q { s with rot := { s.rot with high := Tab.set 0 s.rot.high (s.get (CKP_CTL.key_slot p)) (s.get (CKP_GEN.gen p)) } } := by
      intro he
      refine ⟨h.1, h.2.1, h.2.2.1, fun k => ?_⟩
      have h1 := h.2.2.2 k
      simp only [he, Bool.true_and, decide_eq_true_eq, Nat.not_le] at hg
      show q.marks k ≤ Tab.get 0 (Tab.set 0 s.rot.high (s.get (CKP_CTL.key_slot p)) (s.get (CKP_GEN.gen p))) k
      rw [Tab.get_set]
      split
      · next hk => subst hk; omega
      · exact h1
    repeat' (first
      | with_reducible assumption
      | with_reducible apply State.showCoord_ok
      | with_reducible apply State.set_ok
      | with_reducible apply State.setCkp_ok
      | with_reducible apply State.holdPages_ok
      | exact hr (by assumption)
      | split)

theorem State.resumePen_ok {q : Kept} : ∀ a0 a1, State.Ok q a0 → State.Ok q (State.resumePen a0 a1) := by
  intro _ _ _
  unfold State.resumePen
  try dsimp only
  repeat' (first
    | with_reducible assumption
    | with_reducible apply State.unhold_ok
    | with_reducible apply State.setPen_ok
    | with_reducible apply State.setCtx_ok
    | simp only [State.mk_ok]
    | with_reducible apply partsOk_same
    | with_reducible apply foldl_ok
    | with_reducible apply foldl_fst_ok
    | with_reducible apply foldl_st_ok
    | with_reducible apply foldl_out_ok
    | dsimp only
    | with_reducible intro _)

theorem State.holdPen_ok {q : Kept} : ∀ a0 a1 a2, State.Ok q a0 → State.Ok q (State.holdPen a0 a1 a2) := by
  intro _ _ _ _
  unfold State.holdPen
  try dsimp only
  repeat' (first
    | with_reducible assumption
    | with_reducible apply State.setPen_ok
    | simp only [State.mk_ok]
    | with_reducible apply partsOk_same
    | dsimp only)

theorem State.holdEnds_ok {q : Kept} : ∀ a0 a1, State.Ok q a0 → State.Ok q (State.holdEnds a0 a1) := by
  intro _ _ _
  unfold State.holdEnds
  try dsimp only
  repeat' (first
    | with_reducible assumption
    | with_reducible apply State.setPen_ok
    | simp only [State.mk_ok]
    | with_reducible apply partsOk_same
    | dsimp only)

theorem State.markAndGo_ok {q : Kept} : ∀ a0 a1, State.Ok q a0 → State.Ok q (State.markAndGo a0 a1) := by
  intro _ _ _
  unfold State.markAndGo
  try dsimp only
  repeat' (first
    | with_reducible assumption
    | with_reducible apply State.resumePen_ok
    | with_reducible apply State.mark_ok
    | with_reducible apply State.holdPen_ok
    | dsimp only
    | split)

theorem State.action5_ok {q : Kept} : ∀ a0 a1 a2, State.Ok q a0 → State.Ok q (State.action5 a0 a1 a2) := by
  intro _ _ _ _
  unfold State.action5
  try dsimp only
  repeat' (first
    | with_reducible assumption
    | with_reducible apply State.shareAtBound_ok
    | with_reducible apply State.resumePen_ok
    | with_reducible apply State.markAndGo_ok
    | with_reducible apply State.holdPen_ok
    | with_reducible apply State.govern_ok
    | with_reducible apply foldl_ok
    | with_reducible apply foldl_fst_ok
    | with_reducible apply foldl_st_ok
    | with_reducible apply foldl_out_ok
    | dsimp only
    | split
    | with_reducible intro _)

theorem State.runAction5_ok {q : Kept} : ∀ a0 a1 a2, State.Ok q a0 → State.Ok q (State.runAction5 a0 a1 a2) := by
  intro _ _ _ _
  unfold State.runAction5
  try dsimp only
  repeat' (first
    | with_reducible assumption
    | with_reducible apply State.setPen_ok
    | with_reducible apply State.govReads_ok
    | with_reducible apply State.contextFault_ok
    | with_reducible apply State.action5_ok
    | simp only [State.mk_ok]
    | with_reducible apply partsOk_same
    | with_reducible apply foldl_ok
    | with_reducible apply foldl_fst_ok
    | with_reducible apply foldl_st_ok
    | with_reducible apply foldl_out_ok
    | dsimp only
    | split
    | with_reducible intro _)

theorem execStepAction5_ok {q : Kept} : ∀ a0 a1, State.Ok q a1 → OutOk q (execStepAction5 a0 a1) := by
  intro _ _ _
  unfold execStepAction5
  try dsimp only
  repeat' (first
    | with_reducible assumption
    | with_reducible apply outNext_ok
    | with_reducible apply notDue_ok
    | with_reducible exact reservedCode_ok
    | with_reducible exact outFault_ok _
    | with_reducible apply State.yardStep_ok
    | with_reducible apply State.runAction5_ok
    | with_reducible apply State.resumePen_ok
    | with_reducible apply State.notDue_ok
    | with_reducible apply State.markAndGo_ok
    | with_reducible apply State.holdEnds_ok
    | simp only [State.mk_ok]
    | with_reducible apply partsOk_same
    | dsimp only
    | split
    | with_reducible intro _)

theorem execRebaseDone_ok {q : Kept} : ∀ a0 a1, State.Ok q a1 → OutOk q (execRebaseDone a0 a1) := by
  intro _ _ _
  unfold execRebaseDone
  try dsimp only
  repeat' (first
    | with_reducible assumption
    | with_reducible apply outNext_ok
    | with_reducible apply notDue_ok
    | with_reducible exact reservedCode_ok
    | with_reducible exact outFault_ok _
    | with_reducible apply State.yardStep_ok
    | with_reducible apply State.runAction5_ok
    | with_reducible apply State.notDue_ok
    | dsimp only
    | split
    | with_reducible intro _)

end Sys2Proof.Machine
end

