-- ==== Sys2Proof/Laws/KeepCollective.lean ====
section
/-! SUPPORT. Laws/KeepCollective.lean: the operations of Machine/Collective.lean keep the canonical form and the queue (Laws/Ok.lean). -/

namespace Sys2Proof.Machine

theorem State.setColl_ok {q : Kept} : ∀ a0 a1 a2, State.Ok q a0 → State.Ok q (State.setColl a0 a1 a2) := by
  intro _ _ _ _
  unfold State.setColl
  try dsimp only
  repeat' (first
    | with_reducible assumption
    | with_reducible apply State.setGroup_ok
    | simp only [State.mk_ok]
    | with_reducible apply partsOk_same
    | dsimp only)

theorem State.doneBell_ok {q : Kept} : ∀ a0 a1, State.Ok q a0 → State.Ok q (State.doneBell a0 a1) := by
  intro _ _ _
  unfold State.doneBell
  try dsimp only
  repeat' (first
    | with_reducible assumption
    | with_reducible apply State.ringName_ok
    | dsimp only)

theorem State.collDone_ok {q : Kept} : ∀ a0 a1 a2, State.Ok q a0 → State.Ok q (State.collDone a0 a1 a2) := by
  intro _ _ _ _
  unfold State.collDone
  try dsimp only
  repeat' (first
    | with_reducible assumption
    | with_reducible apply State.endColl_ok
    | with_reducible apply State.doneBell_ok
    | dsimp only
    | split)

theorem State.tryComplete_ok {q : Kept} : ∀ a0 a1, State.Ok q a0 → State.Ok q (State.tryComplete a0 a1) := by
  intro _ _ _
  unfold State.tryComplete
  try dsimp only
  repeat' (first
    | with_reducible assumption
    | with_reducible apply State.collDone_ok
    | simp only [State.mk_ok]
    | with_reducible apply partsOk_same
    | dsimp only
    | split)

theorem State.sendUp_ok {q : Kept} : ∀ a0 a1 a2, State.Ok q a0 → State.Ok q (State.sendUp a0 a1 a2) := by
  intro _ _ _ _
  unfold State.sendUp
  try dsimp only
  repeat' (first
    | with_reducible assumption
    | with_reducible apply State.setColl_ok
    | with_reducible apply State.emit_ok
    | simp only [State.mk_ok]
    | with_reducible apply partsOk_same
    | with_reducible apply foldl_ok
    | with_reducible apply foldl_fst_ok
    | with_reducible apply foldl_st_ok
    | with_reducible apply foldl_out_ok
    | dsimp only
    | split
    | with_reducible intro _)

theorem State.sendColl_ok {q : Kept} : ∀ a0 a1 a2 a3 a4 a5 a6, State.Ok q a0 → State.Ok q (State.sendColl a0 a1 a2 a3 a4 a5 a6) := by
  intro _ _ _ _ _ _ _ _
  unfold State.sendColl
  try dsimp only
  repeat' (first
    | with_reducible assumption
    | with_reducible apply State.emit_ok
    | dsimp only
    | split)

theorem State.tellChildren_ok {q : Kept} : ∀ a0 a1 a2 a3, State.Ok q a0 → State.Ok q (State.tellChildren a0 a1 a2 a3) := by
  intro _ _ _ _ _
  unfold State.tellChildren
  try dsimp only
  repeat' (first
    | with_reducible assumption
    | with_reducible apply State.sendColl_ok
    | with_reducible apply foldl_ok
    | with_reducible apply foldl_fst_ok
    | with_reducible apply foldl_st_ok
    | with_reducible apply foldl_out_ok
    | dsimp only
    | split
    | with_reducible intro _)

theorem State.stepUp_ok {q : Kept} : ∀ a0 a1, State.Ok q a0 → State.Ok q (State.stepUp a0 a1) := by
  intro _ _ _
  unfold State.stepUp
  try dsimp only
  repeat' (first
    | with_reducible assumption
    | with_reducible apply State.tellChildren_ok
    | with_reducible apply State.setColl_ok
    | with_reducible apply State.sendColl_ok
    | with_reducible apply State.failColl_ok
    | simp only [State.mk_ok]
    | with_reducible apply partsOk_same
    | dsimp only
    | split)

theorem State.collAddr_ok {q : Kept} : ∀ a0 a1, State.Ok q a0 → State.Ok q (State.collAddr a0 a1) := by
  intro _ _ _
  unfold State.collAddr
  try dsimp only
  repeat' (first
    | with_reducible assumption
    | with_reducible apply State.failColl_ok
    | dsimp only)

theorem State.landRun_ok {q : Kept} : ∀ a0 a1 a2 a3 a4 a5 a6 a7, State.Ok q a0 → State.Ok q (State.landRun a0 a1 a2 a3 a4 a5 a6 a7) := by
  intro _ _ _ _ _ _ _ _ _
  unfold State.landRun
  try dsimp only
  repeat' (first
    | with_reducible assumption
    | with_reducible apply State.setColl_ok
    | with_reducible apply State.putPieces_ok
    | with_reducible apply State.collAddr_ok
    | simp only [State.mk_ok]
    | with_reducible apply partsOk_same
    | dsimp only
    | split
    | with_reducible intro _)

theorem State.countChunk_ok {q : Kept} : ∀ a0 a1 a2, State.Ok q a0 → State.Ok q (State.countChunk a0 a1 a2) := by
  intro _ _ _ _
  unfold State.countChunk
  try dsimp only
  repeat' (first
    | with_reducible assumption
    | with_reducible apply State.setColl_ok
    | with_reducible apply State.doneBell_ok
    | simp only [State.mk_ok]
    | with_reducible apply partsOk_same
    | dsimp only
    | split
    | with_reducible intro _)

theorem State.sendDown_ok {q : Kept} : ∀ a0 a1 a2, State.Ok q a0 → State.Ok q (State.sendDown a0 a1 a2) := by
  intro _ _ _ _
  unfold State.sendDown
  try dsimp only
  repeat' (first
    | with_reducible assumption
    | with_reducible apply State.emit_ok
    | simp only [State.mk_ok]
    | with_reducible apply partsOk_same
    | with_reducible apply foldl_ok
    | with_reducible apply foldl_fst_ok
    | with_reducible apply foldl_st_ok
    | with_reducible apply foldl_out_ok
    | dsimp only
    | split
    | with_reducible intro _)

theorem State.confirmUp_ok {q : Kept} : ∀ a0 a1 a2, State.Ok q a0 → State.Ok q (State.confirmUp a0 a1 a2).1 := by
  intro _ _ _ _
  unfold State.confirmUp
  try dsimp only
  repeat' (first
    | with_reducible assumption
    | with_reducible apply State.setColl_ok
    | with_reducible apply State.sendColl_ok
    | simp only [State.mk_ok]
    | with_reducible apply partsOk_same
    | dsimp only
    | split)

theorem State.checkLanded_ok {q : Kept} : ∀ a0 a1 a2, State.Ok q a0 → State.Ok q (State.checkLanded a0 a1 a2) := by
  intro _ _ _ _
  unfold State.checkLanded
  try dsimp only
  repeat' (first
    | with_reducible assumption
    | with_reducible apply State.setColl_ok
    | with_reducible apply State.mapChunk_ok
    | with_reducible apply State.countChunk_ok
    | simp only [State.mk_ok]
    | with_reducible apply partsOk_same
    | dsimp only
    | split)

theorem State.rootDown_ok {q : Kept} : ∀ a0 a1 a2, State.Ok q a0 → State.Ok q (State.rootDown a0 a1 a2) := by
  intro _ _ _ _
  unfold State.rootDown
  try dsimp only
  repeat' (first
    | with_reducible assumption
    | with_reducible apply State.setColl_ok
    | with_reducible apply State.sendDown_ok
    | with_reducible apply State.landRun_ok
    | with_reducible apply State.checkLanded_ok
    | simp only [State.mk_ok]
    | with_reducible apply partsOk_same
    | dsimp only
    | split
    | with_reducible intro _)

theorem State.decideChunk_ok {q : Kept} : ∀ a0 a1 a2, State.Ok q a0 → State.Ok q (State.decideChunk a0 a1 a2) := by
  intro _ _ _ _
  unfold State.decideChunk
  try dsimp only
  repeat' (first
    | with_reducible assumption
    | with_reducible apply State.tellChildren_ok
    | with_reducible apply State.setColl_ok
    | with_reducible apply State.rootDown_ok
    | with_reducible apply State.inc_ok
    | with_reducible apply State.failColl_ok
    | with_reducible apply State.countChunk_ok
    | with_reducible apply State.confirmUp_ok
    | simp only [State.mk_ok]
    | with_reducible apply partsOk_same
    | dsimp only
    | split)

theorem State.confirm_ok {q : Kept} : ∀ a0 a1 a2, State.Ok q a0 → State.Ok q (State.confirm a0 a1 a2) := by
  intro _ _ _ _
  unfold State.confirm
  try dsimp only
  repeat' (first
    | with_reducible assumption
    | with_reducible apply State.decideChunk_ok
    | with_reducible apply State.confirmUp_ok
    | simp only [State.mk_ok]
    | with_reducible apply partsOk_same
    | dsimp only
    | split)

theorem State.chunkUp_ok {q : Kept} : ∀ a0 a1 a2, State.Ok q a0 → State.Ok q (State.chunkUp a0 a1 a2) := by
  intro _ _ _ _
  unfold State.chunkUp
  try dsimp only
  repeat' (first
    | with_reducible assumption
    | with_reducible apply State.sendUp_ok
    | with_reducible apply State.rootDown_ok
    | with_reducible apply State.confirm_ok
    | simp only [State.mk_ok]
    | with_reducible apply partsOk_same
    | dsimp only
    | split)

theorem State.collBegin_ok {q : Kept} : ∀ a0 a1 a2 a3, State.Ok q a0 → State.Ok q (State.collBegin a0 a1 a2 a3) := by
  intro _ _ _ _ _
  unfold State.collBegin
  try dsimp only
  repeat' (first
    | with_reducible assumption
    | with_reducible apply State.showGroup_ok
    | with_reducible apply State.setGroup_ok
    | with_reducible apply State.releaseWindows_ok
    | simp only [State.mk_ok]
    | with_reducible apply partsOk_same
    | dsimp only
    | split)

theorem State.gateTake_ok {q : Kept} : ∀ a0 a1 a2, State.Ok q a0 → State.Ok q (State.gateTake a0 a1 a2) := by
  intro _ _ _ _
  unfold State.gateTake
  try dsimp only
  repeat' (first
    | with_reducible assumption
    | with_reducible apply YardWork.count_ok
    | with_reducible apply State.set_ok
    | dsimp only)

theorem State.collRefuse_ok {q : Kept} : ∀ a0 a1 a2 a3 a4, State.Ok q a0 → State.Ok q (State.collRefuse a0 a1 a2 a3 a4) := by
  intro _ _ _ _ _ _
  unfold State.collRefuse
  try dsimp only
  repeat' (first
    | with_reducible assumption
    | with_reducible apply State.showGroup_ok
    | with_reducible apply State.setGroup_ok
    | with_reducible apply State.releaseWindows_ok
    | with_reducible apply State.failQueued_ok
    | simp only [State.mk_ok]
    | with_reducible apply partsOk_same
    | dsimp only)

theorem State.collStart_ok {q : Kept} : ∀ a0 a1 a2 a3, State.Ok q a0 → State.Ok q (State.collStart a0 a1 a2 a3) := by
  intro _ _ _ _ _
  unfold State.collStart
  try dsimp only
  repeat' (first
    | with_reducible assumption
    | with_reducible apply State.setGroup_ok
    | with_reducible apply State.gateTake_ok
    | with_reducible apply State.collRefuse_ok
    | with_reducible apply State.collBegin_ok
    | simp only [State.mk_ok]
    | with_reducible apply partsOk_same
    | dsimp only
    | split)

theorem State.contribute_ok {q : Kept} : ∀ a0 a1 a2, State.Ok q a0 → State.Ok q (State.contribute a0 a1 a2) := by
  intro _ _ _ _
  unfold State.contribute
  try dsimp only
  repeat' (first
    | with_reducible assumption
    | with_reducible apply State.setColl_ok
    | with_reducible apply State.countRead_ok
    | with_reducible apply State.collAddr_ok
    | with_reducible apply State.chunkUp_ok
    | simp only [State.mk_ok]
    | with_reducible apply partsOk_same
    | dsimp only
    | split)

theorem State.collUp_ok {q : Kept} : ∀ a0 a1 a2 a3, State.Ok q a0 → State.Ok q (State.collUp a0 a1 a2 a3) := by
  intro _ _ _ _ _
  unfold State.collUp
  try dsimp only
  repeat' (first
    | with_reducible assumption
    | with_reducible apply State.tryComplete_ok
    | with_reducible apply State.stepUp_ok
    | with_reducible apply State.setColl_ok
    | with_reducible apply State.failColl_ok
    | with_reducible apply State.chunkUp_ok
    | simp only [State.mk_ok]
    | with_reducible apply partsOk_same
    | dsimp only
    | split)

theorem State.collDown_ok {q : Kept} : ∀ a0 a1 a2 a3, State.Ok q a0 → State.Ok q (State.collDown a0 a1 a2 a3) := by
  intro _ _ _ _ _
  unfold State.collDown
  try dsimp only
  repeat' (first
    | with_reducible assumption
    | with_reducible apply State.tryComplete_ok
    | with_reducible apply State.stepUp_ok
    | with_reducible apply State.setColl_ok
    | with_reducible apply State.landRun_ok
    | with_reducible apply State.emit_ok
    | with_reducible apply State.confirm_ok
    | with_reducible apply State.checkLanded_ok
    | simp only [State.mk_ok]
    | with_reducible apply partsOk_same
    | with_reducible apply foldl_ok
    | with_reducible apply foldl_fst_ok
    | with_reducible apply foldl_st_ok
    | with_reducible apply foldl_out_ok
    | dsimp only
    | split
    | with_reducible intro _)

theorem State.collConfirm_ok {q : Kept} : ∀ a0 a1 a2 a3, State.Ok q a0 → State.Ok q (State.collConfirm a0 a1 a2 a3) := by
  intro _ _ _ _ _
  unfold State.collConfirm
  try dsimp only
  repeat' (first
    | with_reducible assumption
    | with_reducible apply State.tryComplete_ok
    | with_reducible apply State.setColl_ok
    | with_reducible apply State.confirm_ok
    | simp only [State.mk_ok]
    | with_reducible apply partsOk_same
    | dsimp only
    | split)

theorem State.collRelease_ok {q : Kept} : ∀ a0 a1 a2 a3, State.Ok q a0 → State.Ok q (State.collRelease a0 a1 a2 a3) := by
  intro _ _ _ _ _
  unfold State.collRelease
  try dsimp only
  repeat' (first
    | with_reducible assumption
    | with_reducible apply State.tryComplete_ok
    | with_reducible apply State.tellChildren_ok
    | with_reducible apply State.setColl_ok
    | with_reducible apply State.countChunk_ok
    | simp only [State.mk_ok]
    | with_reducible apply partsOk_same
    | dsimp only
    | split)

theorem State.collReject_ok {q : Kept} : ∀ a0 a1 a2 a3, State.Ok q a0 → State.Ok q (State.collReject a0 a1 a2 a3) := by
  intro _ _ _ _ _
  unfold State.collReject
  try dsimp only
  repeat' (first
    | with_reducible assumption
    | with_reducible apply State.tellChildren_ok
    | with_reducible apply State.setColl_ok
    | with_reducible apply State.inc_ok
    | with_reducible apply State.failColl_ok
    | simp only [State.mk_ok]
    | with_reducible apply partsOk_same
    | dsimp only
    | split)

theorem State.collError_ok {q : Kept} : ∀ a0 a1 a2, State.Ok q a0 → State.Ok q (State.collError a0 a1 a2) := by
  intro _ _ _ _
  unfold State.collError
  try dsimp only
  repeat' (first
    | with_reducible assumption
    | with_reducible apply State.failColl_ok
    | dsimp only)

theorem State.collAct_ok {q : Kept} : ∀ a0 a1 a2 a3, State.Ok q a0 → State.Ok q (State.collAct a0 a1 a2 a3) := by
  intro _ _ _ _ _
  unfold State.collAct
  try dsimp only
  repeat' (first
    | with_reducible assumption
    | with_reducible apply State.collUp_ok
    | with_reducible apply State.collRelease_ok
    | with_reducible apply State.collReject_ok
    | with_reducible apply State.collError_ok
    | with_reducible apply State.collDown_ok
    | with_reducible apply State.collConfirm_ok
    | simp only [State.mk_ok]
    | with_reducible apply partsOk_same
    | dsimp only
    | split)

theorem State.keepEarly_ok {q : Kept} : ∀ a0 a1 a2 a3, State.Ok q a0 → State.Ok q (State.keepEarly a0 a1 a2 a3) := by
  intro _ _ _ _ _
  unfold State.keepEarly
  try dsimp only
  repeat' (first
    | with_reducible assumption
    | with_reducible apply State.setGroup_ok
    | simp only [State.mk_ok]
    | with_reducible apply partsOk_same
    | dsimp only)

theorem State.collIn_ok {q : Kept} : ∀ a0 a1 a2 a3, State.Ok q a0 → State.Ok q (State.collIn a0 a1 a2 a3) := by
  intro _ _ _ _ _
  unfold State.collIn
  try dsimp only
  repeat' (first
    | with_reducible assumption
    | with_reducible apply YardWork.done_ok
    | with_reducible apply State.setGroup_ok
    | with_reducible apply State.keepEarly_ok
    | with_reducible apply State.failColl_ok
    | with_reducible apply State.collAct_ok
    | simp only [State.mk_ok]
    | with_reducible apply partsOk_same
    | dsimp only
    | split)

theorem State.collArrive_ok {q : Kept} : ∀ a0 a1 a2, State.Ok q a0 → State.Ok q (State.collArrive a0 a1 a2) := by
  intro _ _ _ _
  unfold State.collArrive
  try dsimp only
  repeat' (first
    | with_reducible assumption
    | with_reducible apply State.inc_ok
    | with_reducible apply State.collIn_ok
    | simp only [State.mk_ok]
    | with_reducible apply partsOk_same
    | dsimp only
    | split)

theorem State.replay_ok {q : Kept} : ∀ a0 a1, State.Ok q a0 → State.Ok q (State.replay a0 a1) := by
  intro _ _ _
  unfold State.replay
  try dsimp only
  repeat' (first
    | with_reducible assumption
    | with_reducible apply State.setGroup_ok
    | with_reducible apply State.collAct_ok
    | simp only [State.mk_ok]
    | with_reducible apply partsOk_same
    | with_reducible apply foldl_ok
    | with_reducible apply foldl_fst_ok
    | with_reducible apply foldl_st_ok
    | with_reducible apply foldl_out_ok
    | dsimp only
    | split
    | with_reducible intro _)

theorem State.ownPart_ok {q : Kept} : ∀ a0 a1 a2, State.Ok q a0 → OptOk q (State.ownPart a0 a1 a2) := by
  intro _ _ _ _
  unfold State.ownPart
  try dsimp only
  repeat' (first
    | with_reducible assumption
    | with_reducible exact optNone_ok
    | with_reducible apply optSome_ok
    | with_reducible apply YardWork.done_ok
    | with_reducible apply State.tryComplete_ok
    | with_reducible apply State.stepUp_ok
    | with_reducible apply State.setColl_ok
    | with_reducible apply State.replay_ok
    | with_reducible apply State.contribute_ok
    | simp only [State.mk_ok]
    | with_reducible apply partsOk_same
    | with_reducible apply foldl_ok
    | with_reducible apply foldl_fst_ok
    | with_reducible apply foldl_st_ok
    | with_reducible apply foldl_out_ok
    | dsimp only
    | split
    | with_reducible intro _)

theorem State.appendMessage_ok {q : Kept} : ∀ a0 a1 a2 a3 a4 a5 a6, State.Ok q a0 → State.Ok q (State.appendMessage a0 a1 a2 a3 a4 a5 a6) := by
  intro _ _ _ _ _ _ _ _
  unfold State.appendMessage
  try dsimp only
  repeat' (first
    | with_reducible assumption
    | with_reducible apply State.setGroup_ok
    | with_reducible apply State.ringName_ok
    | with_reducible apply State.localWrite_ok
    | simp only [State.mk_ok]
    | with_reducible apply partsOk_same
    | dsimp only
    | split)

theorem State.grpqArrive_ok {q : Kept} : ∀ a0 a1 a2, State.Ok q a0 → State.Ok q (State.grpqArrive a0 a1 a2) := by
  intro _ _ _ _
  unfold State.grpqArrive
  try dsimp only
  repeat' (first
    | with_reducible assumption
    | with_reducible apply State.inc_ok
    | with_reducible apply State.appendMessage_ok
    | simp only [State.mk_ok]
    | with_reducible apply partsOk_same
    | dsimp only
    | split)

theorem State.sendMessage_ok {q : Kept} : ∀ a0 a1, State.Ok q a0 → OptOk q (State.sendMessage a0 a1) := by
  intro _ _ _
  unfold State.sendMessage
  try dsimp only
  repeat' (first
    | with_reducible assumption
    | with_reducible exact optNone_ok
    | with_reducible apply optSome_ok
    | with_reducible apply YardWork.done_ok
    | with_reducible apply State.setGroup_ok
    | with_reducible apply State.messageLeft_ok
    | with_reducible apply State.emit_ok
    | with_reducible apply State.appendMessage_ok
    | simp only [State.mk_ok]
    | with_reducible apply partsOk_same
    | dsimp only
    | split)

theorem execGrpCmdPost_ok {q : Kept} : ∀ a0 a1 a2 a3 a4, State.Ok q a4 → OutOk q (execGrpCmdPost a0 a1 a2 a3 a4) := by
  intro _ _ _ _ _ _
  unfold execGrpCmdPost
  try dsimp only
  repeat' (first
    | with_reducible assumption
    | with_reducible apply outNext_ok
    | with_reducible apply notDue_ok
    | with_reducible exact reservedCode_ok
    | with_reducible exact outFault_ok _
    | with_reducible apply State.notDue_ok
    | with_reducible apply State.gwinWrite_ok
    | dsimp only
    | split)

theorem execCollStart_ok {q : Kept} : ∀ a0 a1, State.Ok q a1 → OutOk q (execCollStart a0 a1) := by
  intro _ _ _
  unfold execCollStart
  try dsimp only
  repeat' (first
    | with_reducible assumption
    | with_reducible apply outNext_ok
    | with_reducible apply notDue_ok
    | with_reducible exact reservedCode_ok
    | with_reducible exact outFault_ok _
    | with_reducible apply State.yardStep_ok
    | with_reducible apply State.notDue_ok
    | with_reducible apply State.collStart_ok
    | simp only [State.mk_ok]
    | with_reducible apply partsOk_same
    | dsimp only
    | split
    | with_reducible intro _)

theorem execCollGatePass_ok {q : Kept} : ∀ a0 a1, State.Ok q a1 → OutOk q (execCollGatePass a0 a1) := by
  intro _ _ _
  unfold execCollGatePass
  try dsimp only
  repeat' (first
    | with_reducible assumption
    | with_reducible apply outNext_ok
    | with_reducible apply notDue_ok
    | with_reducible exact reservedCode_ok
    | with_reducible exact outFault_ok _
    | with_reducible apply State.yardStep_ok
    | with_reducible apply State.notDue_ok
    | with_reducible apply State.gateTake_ok
    | with_reducible apply State.collBegin_ok
    | simp only [State.mk_ok]
    | with_reducible apply partsOk_same
    | dsimp only
    | split
    | with_reducible intro _)

theorem State.collRow_ok {q : Kept} : ∀ a0 a1 a2, State.Ok q a0 → OutOk q (State.collRow a0 a1 a2) := by
  intro s g op h
  refine State.yardStep_ok _ _ h fun t ht => ?_
  split
  · exact outNext_ok (State.ownPart_ok _ _ _ ht _ ‹_›)
  · exact State.notDue_ok _ ht

theorem execBarrier_ok {q : Kept} : ∀ a0 a1, State.Ok q a1 → OutOk q (execBarrier a0 a1) := by
  intro _ _ _
  unfold execBarrier
  try dsimp only
  repeat' (first
    | with_reducible assumption
    | with_reducible apply outNext_ok
    | with_reducible apply notDue_ok
    | with_reducible exact reservedCode_ok
    | with_reducible exact outFault_ok _
    | with_reducible apply State.collRow_ok
    | dsimp only)

theorem execCollBcast_ok {q : Kept} : ∀ a0 a1, State.Ok q a1 → OutOk q (execCollBcast a0 a1) := by
  intro _ _ _
  unfold execCollBcast
  try dsimp only
  repeat' (first
    | with_reducible assumption
    | with_reducible apply outNext_ok
    | with_reducible apply notDue_ok
    | with_reducible exact reservedCode_ok
    | with_reducible exact outFault_ok _
    | with_reducible apply State.collRow_ok
    | dsimp only)

theorem execCollReduce_ok {q : Kept} : ∀ a0 a1, State.Ok q a1 → OutOk q (execCollReduce a0 a1) := by
  intro _ _ _
  unfold execCollReduce
  try dsimp only
  repeat' (first
    | with_reducible assumption
    | with_reducible apply outNext_ok
    | with_reducible apply notDue_ok
    | with_reducible exact reservedCode_ok
    | with_reducible exact outFault_ok _
    | with_reducible apply State.collRow_ok
    | dsimp only)

theorem execAllreduce_ok {q : Kept} : ∀ a0 a1, State.Ok q a1 → OutOk q (execAllreduce a0 a1) := by
  intro _ _ _
  unfold execAllreduce
  try dsimp only
  repeat' (first
    | with_reducible assumption
    | with_reducible apply outNext_ok
    | with_reducible apply notDue_ok
    | with_reducible exact reservedCode_ok
    | with_reducible exact outFault_ok _
    | with_reducible apply State.collRow_ok
    | dsimp only)

theorem execSend_ok {q : Kept} : ∀ a0 a1, State.Ok q a1 → OutOk q (execSend a0 a1) := by
  intro g s h
  refine State.yardStep_ok _ _ h fun t ht => ?_
  split
  · exact outNext_ok (State.sendMessage_ok _ _ ht _ ‹_›)
  · exact notDue_ok ht

theorem execGcTimeout_ok {q : Kept} : ∀ a0 a1, State.Ok q a1 → OutOk q (execGcTimeout a0 a1) := by
  intro _ _ _
  unfold execGcTimeout
  try dsimp only
  repeat' (first
    | with_reducible assumption
    | with_reducible apply outNext_ok
    | with_reducible apply notDue_ok
    | with_reducible exact reservedCode_ok
    | with_reducible exact outFault_ok _
    | with_reducible apply YardWork.done_ok
    | with_reducible apply State.yardStep_ok
    | with_reducible apply State.notDue_ok
    | with_reducible apply State.failColl_ok
    | with_reducible apply State.emit_ok
    | simp only [State.mk_ok]
    | with_reducible apply partsOk_same
    | dsimp only
    | split
    | with_reducible intro _)

end Sys2Proof.Machine
end

