-- ==== Sys2Proof/Laws/KeepReset.lean ====
section
/-! SUPPORT. Laws/KeepReset.lean: the operations of Machine/Reset.lean keep the canonical form and the queue (Laws/Ok.lean). -/

namespace Sys2Proof.Machine

theorem State.dropRegs_ok {q : Kept} : ∀ a0 a1 a2 a3, State.Ok q a0 → State.Ok q (State.dropRegs a0 a1 a2 a3) := by
  intro _ _ _ _ _
  unfold State.dropRegs
  try dsimp only
  repeat' (first
    | with_reducible assumption
    | simp only [State.mk_ok]
    | with_reducible apply partsOk_same
    | with_reducible apply partsOk_regs
    | with_reducible apply Tab.filter_rising
    | (with_reducible apply State.Ok.rising (q := q)))

theorem Memory.clearRange_wf {m : Memory} (lo hi : Nat) (h : m.wf) : (m.clearRange lo hi).wf :=
  ⟨Tab.filter_rising _ h.1, Tab.filter_noDefault _ h.2.1, Tab.filter_rising _ h.2.2.1, Tab.filter_noDefault _ h.2.2.2⟩

theorem State.clearMem_ok {q : Kept} : ∀ a0 a1 a2, State.Ok q a0 → State.Ok q (State.clearMem a0 a1 a2) := by
  intro s lo hi h
  exact ⟨⟨Memory.clearRange_wf lo hi h.wf, h.rising⟩, h.2⟩

theorem State.clearHalf_ok {q : Kept} : ∀ a0 a1 a2, State.Ok q a0 → State.Ok q (State.clearHalf a0 a1 a2) := by
  intro _ _ _ _
  unfold State.clearHalf
  try dsimp only
  repeat' (first
    | with_reducible assumption
    | with_reducible apply State.setCtx_ok
    | with_reducible apply State.dropRegs_ok
    | with_reducible apply State.clearMem_ok
    | simp only [State.mk_ok]
    | with_reducible apply partsOk_same
    | dsimp only
    | with_reducible intro _)

theorem State.thaw_ok {q : Kept} : ∀ a0 a1, State.Ok q a0 → State.Ok q (State.thaw a0 a1) := by
  intro _ _ _
  unfold State.thaw
  try dsimp only
  repeat' (first
    | with_reducible assumption
    | with_reducible apply State.set_ok
    | dsimp only
    | split)

theorem State.dieReset_ok {q : Kept} : ∀ a0 a1, State.Ok q a0 → State.Ok q (State.dieReset a0 a1) := by
  intro _ _ _
  unfold State.dieReset
  try dsimp only
  repeat' (first
    | with_reducible assumption
    | with_reducible apply State.thaw_ok
    | with_reducible apply State.set_ok
    | with_reducible apply State.dropRegs_ok
    | with_reducible apply State.clearMem_ok
    | with_reducible apply State.clearHalf_ok
    | simp only [State.mk_ok]
    | with_reducible apply partsOk_same
    | dsimp only
    | split
    | with_reducible intro _)

theorem State.clearStore_ok {q : Kept} : ∀ a0 a1 a2 a3, State.Ok q a0 → State.Ok q (State.clearStore a0 a1 a2 a3) := by
  intro _ _ _ _ _
  unfold State.clearStore
  try dsimp only
  repeat' (first
    | with_reducible assumption
    | with_reducible apply State.clearMem_ok
    | dsimp only
    | split)

theorem State.clearGroup_ok {q : Kept} : ∀ a0 a1, State.Ok q a0 → State.Ok q (State.clearGroup a0 a1) := by
  intro _ _ _
  unfold State.clearGroup
  try dsimp only
  repeat' (first
    | with_reducible assumption
    | with_reducible apply State.setGroup_ok
    | with_reducible apply State.set_ok
    | with_reducible apply foldl_ok
    | with_reducible apply foldl_fst_ok
    | with_reducible apply foldl_st_ok
    | with_reducible apply foldl_out_ok
    | dsimp only
    | with_reducible intro _)

theorem State.clearPenGroups_ok {q : Kept} : ∀ a0 a1, State.Ok q a0 → State.Ok q (State.clearPenGroups a0 a1) := by
  intro _ _ _
  unfold State.clearPenGroups
  try dsimp only
  repeat' (first
    | with_reducible assumption
    | simp only [State.mk_ok]
    | with_reducible apply partsOk_same
    | with_reducible apply partsOk_regs
    | with_reducible apply Tab.filter_rising
    | (with_reducible apply State.Ok.rising (q := q))
    | with_reducible apply State.clearGroup_ok
    | with_reducible apply State.setGwin_ok
    | with_reducible apply State.clearFlds_ok
    | with_reducible apply foldl_ok
    | with_reducible apply foldl_fst_ok
    | with_reducible apply foldl_st_ok
    | dsimp only
    | split
    | with_reducible intro _)

theorem State.clearPen_ok {q : Kept} : ∀ a0 a1, State.Ok q a0 → State.Ok q (State.clearPen a0 a1) := by
  intro _ _ _
  unfold State.clearPen
  try dsimp only
  repeat' (first
    | with_reducible assumption
    | with_reducible apply State.setPen_ok
    | with_reducible apply State.set_ok
    | with_reducible apply State.clearFlds_ok
    | simp only [State.mk_ok]
    | with_reducible apply partsOk_same
    | dsimp only
    | split)

theorem State.resetCkp_ok {q : Kept} : ∀ a0 a1, State.Ok q a0 → State.Ok q (State.resetCkp a0 a1) := by
  intro _ _ _
  unfold State.resetCkp
  try dsimp only
  repeat' (first
    | with_reducible assumption
    | with_reducible apply State.dropCkp_ok
    | dsimp only
    | split)

theorem State.penReset_ok {q : Kept} : ∀ a0 a1, State.Ok q a0 → State.Ok q (State.penReset a0 a1) := by
  intro _ _ _
  unfold State.penReset
  try dsimp only
  repeat' (first
    | with_reducible assumption
    | simp only [State.mk_ok]
    | with_reducible apply partsOk_same
    | with_reducible apply partsOk_regs
    | with_reducible apply Tab.filter_rising
    | (with_reducible apply State.Ok.rising (q := q))
    | with_reducible apply State.stopYards_ok
    | with_reducible apply State.penFaultIfRunning_ok
    | with_reducible apply State.clearHalf_ok
    | with_reducible apply State.clearStore_ok
    | with_reducible apply State.clearPenGroups_ok
    | with_reducible apply State.keepEccAddr_ok
    | with_reducible apply State.clearStep_ok
    | with_reducible apply State.takeShare_ok
    | with_reducible apply State.clearPen_ok
    | with_reducible apply State.resetCkp_ok
    | with_reducible apply State.thaw_ok
    | with_reducible apply foldl_ok
    | with_reducible apply foldl_fst_ok
    | with_reducible apply foldl_st_ok
    | dsimp only
    | split
    | with_reducible intro _)

theorem State.warmReset_ok {q : Kept} : ∀ a0, State.Ok q a0 → State.Ok q (State.warmReset a0) := by
  intro s h
  unfold State.warmReset
  split
  · exact h
  · have h0 : State.Ok q ((List.range 8).foldl State.resetCkp s) := foldl_ok (fun t x ht => State.resetCkp_ok t x ht) h
    dsimp only
    simp only [State.mk_ok]
    generalize (List.range 8).foldl State.resetCkp s = u at h0 ⊢
    exact ⟨⟨Memory.clearRange_wf _ _ h0.wf, Tab.filter_rising _ h0.rising⟩, h0.2⟩

theorem State.reset_regs_rising : Tab.Rising State.reset.regs := by decide

theorem State.powerLost_ok {q : Kept} : ∀ a0, State.Ok q a0 → State.Ok q (State.powerLost a0) := by
  intro s h
  exact ⟨⟨Memory.empty_wf, State.reset_regs_rising⟩, h.2⟩

theorem State.railsOff_ok {q : Kept} : ∀ a0, State.Ok q a0 → State.Ok q (State.railsOff a0) := by
  intro _ _
  unfold State.railsOff
  try dsimp only
  repeat' (first
    | with_reducible assumption
    | with_reducible apply State.powerLost_ok
    | simp only [State.mk_ok]
    | with_reducible apply partsOk_same
    | dsimp only)

theorem execPowerOnReset_ok {q : Kept} : ∀ a0, State.Ok q a0 → OutOk q (execPowerOnReset a0) := by
  intro _ _
  unfold execPowerOnReset
  try dsimp only
  repeat' (first
    | with_reducible assumption
    | with_reducible apply outNext_ok
    | with_reducible apply notDue_ok
    | with_reducible exact reservedCode_ok
    | with_reducible exact outFault_ok _
    | with_reducible apply State.powerLost_ok
    | dsimp only)

theorem execPkgRstWarm_ok {q : Kept} : ∀ a0, State.Ok q a0 → OutOk q (execPkgRstWarm a0) := by
  intro _ _
  unfold execPkgRstWarm
  try dsimp only
  repeat' (first
    | with_reducible assumption
    | with_reducible apply outNext_ok
    | with_reducible apply notDue_ok
    | with_reducible exact reservedCode_ok
    | with_reducible exact outFault_ok _
    | with_reducible apply State.warmReset_ok
    | dsimp only)

theorem execResetPin_ok {q : Kept} : ∀ a0, State.Ok q a0 → OutOk q (execResetPin a0) := by
  intro _ _
  unfold execResetPin
  try dsimp only
  repeat' (first
    | with_reducible assumption
    | with_reducible apply outNext_ok
    | with_reducible apply notDue_ok
    | with_reducible exact reservedCode_ok
    | with_reducible exact outFault_ok _
    | with_reducible apply State.warmReset_ok
    | simp only [State.mk_ok]
    | with_reducible apply partsOk_same
    | dsimp only)

theorem State.diesReset_ok {q : Kept} : ∀ a0 a1, State.Ok q a0 → State.Ok q (State.diesReset a0 a1) := by
  intro _ _ _
  unfold State.diesReset
  try dsimp only
  repeat' (first
    | with_reducible assumption
    | with_reducible apply State.dieReset_ok
    | with_reducible apply foldl_ok
    | with_reducible apply foldl_fst_ok
    | with_reducible apply foldl_st_ok
    | with_reducible apply foldl_out_ok
    | dsimp only)

theorem execPkgRstDie_ok {q : Kept} : ∀ a0 a1, State.Ok q a1 → OutOk q (execPkgRstDie a0 a1) := by
  intro _ _ _
  unfold execPkgRstDie
  try dsimp only
  repeat' (first
    | with_reducible assumption
    | with_reducible apply outNext_ok
    | with_reducible apply notDue_ok
    | with_reducible exact reservedCode_ok
    | with_reducible exact outFault_ok _
    | with_reducible apply State.notDue_ok
    | with_reducible apply State.diesReset_ok
    | dsimp only
    | split)

theorem State.pensReset_ok {q : Kept} : ∀ a0 a1, State.Ok q a0 → State.Ok q (State.pensReset a0 a1) := by
  intro _ _ _
  unfold State.pensReset
  try dsimp only
  repeat' (first
    | with_reducible assumption
    | with_reducible apply State.penReset_ok
    | with_reducible apply foldl_ok
    | with_reducible apply foldl_fst_ok
    | with_reducible apply foldl_st_ok
    | with_reducible apply foldl_out_ok
    | dsimp only)

theorem execPkgRstPen_ok {q : Kept} : ∀ a0 a1, State.Ok q a1 → OutOk q (execPkgRstPen a0 a1) := by
  intro _ _ _
  unfold execPkgRstPen
  try dsimp only
  repeat' (first
    | with_reducible assumption
    | with_reducible apply outNext_ok
    | with_reducible apply notDue_ok
    | with_reducible exact reservedCode_ok
    | with_reducible exact outFault_ok _
    | with_reducible apply State.pensReset_ok
    | with_reducible apply State.notDue_ok
    | dsimp only
    | split)

theorem execResetNRelease_ok {q : Kept} : ∀ a0, State.Ok q a0 → OutOk q (execResetNRelease a0) := by
  intro _ _
  unfold execResetNRelease
  try dsimp only
  repeat' (first
    | with_reducible assumption
    | with_reducible apply outNext_ok
    | with_reducible apply notDue_ok
    | with_reducible exact reservedCode_ok
    | with_reducible exact outFault_ok _
    | with_reducible apply State.notDue_ok
    | simp only [State.mk_ok]
    | with_reducible apply partsOk_same
    | dsimp only
    | split)

end Sys2Proof.Machine
end

