-- ==== Sys2Proof/Laws/KeepPower.lean ====
section
/-! SUPPORT. Laws/KeepPower.lean: the operations of Machine/Power.lean keep the canonical form and the queue (Laws/Ok.lean). -/

namespace Sys2Proof.Machine

theorem State.timeTick_ok {q : Kept} : ∀ a0, State.Ok q a0 → State.Ok q (State.timeTick a0) := by
  intro _ _
  unfold State.timeTick
  try dsimp only
  repeat' (first
    | with_reducible assumption
    | with_reducible apply State.set_ok
    | simp only [State.mk_ok]
    | with_reducible apply partsOk_same
    | dsimp only)

theorem State.stretchTick_ok {q : Kept} : ∀ a0, State.Ok q a0 → State.Ok q (State.stretchTick a0) := by
  intro _ _
  unfold State.stretchTick
  try dsimp only
  repeat' (first
    | with_reducible assumption
    | with_reducible apply State.setPen_ok
    | with_reducible apply State.inc_ok
    | simp only [State.mk_ok]
    | with_reducible apply partsOk_same
    | with_reducible apply foldl_ok
    | with_reducible apply foldl_fst_ok
    | with_reducible apply foldl_st_ok
    | with_reducible apply foldl_out_ok
    | dsimp only
    | split
    | with_reducible intro _)

theorem State.stretchEvent_ok {q : Kept} : ∀ a0, State.Ok q a0 → State.Ok q (State.stretchEvent a0) := by
  intro _ _
  unfold State.stretchEvent
  try dsimp only
  repeat' (first
    | with_reducible assumption
    | with_reducible apply State.setPen_ok
    | with_reducible apply State.inc_ok
    | simp only [State.mk_ok]
    | with_reducible apply partsOk_same
    | with_reducible apply foldl_ok
    | with_reducible apply foldl_fst_ok
    | with_reducible apply foldl_st_ok
    | with_reducible apply foldl_out_ok
    | dsimp only
    | split
    | with_reducible intro _)

theorem State.stretchLevel_ok {q : Kept} : ∀ a0 a1 a2, State.Ok q a0 → State.Ok q (State.stretchLevel a0 a1 a2) := by
  intro _ _ _ _
  unfold State.stretchLevel
  try dsimp only
  repeat' (first
    | with_reducible assumption
    | with_reducible apply State.stretchEvent_ok
    | with_reducible apply State.set_ok
    | with_reducible apply State.alert_ok
    | simp only [State.mk_ok]
    | with_reducible apply partsOk_same
    | dsimp only
    | split)

theorem State.powerSample_ok {q : Kept} : ∀ a0 a1 a2 a3, State.Ok q a0 → State.Ok q (State.powerSample a0 a1 a2 a3) := by
  intro _ _ _ _ _
  unfold State.powerSample
  try dsimp only
  repeat' (first
    | with_reducible assumption
    | with_reducible apply State.stretchTick_ok
    | with_reducible apply State.stretchLevel_ok
    | with_reducible apply State.set_ok
    | simp only [State.mk_ok]
    | with_reducible apply partsOk_same
    | dsimp only
    | split)

theorem execPowerSample_ok {q : Kept} : ∀ a0 a1 a2 a3, State.Ok q a3 → OutOk q (execPowerSample a0 a1 a2 a3) := by
  intro _ _ _ _ _
  unfold execPowerSample
  try dsimp only
  repeat' (first
    | with_reducible assumption
    | with_reducible apply outNext_ok
    | with_reducible apply notDue_ok
    | with_reducible exact reservedCode_ok
    | with_reducible exact outFault_ok _
    | with_reducible apply State.timeTick_ok
    | with_reducible apply State.powerSample_ok
    | with_reducible apply State.notDue_ok
    | dsimp only
    | split)

theorem State.inputSeen_ok {q : Kept} : ∀ a0 a1 a2, State.Ok q a0 → State.Ok q (State.inputSeen a0 a1 a2) := by
  intro _ _ _ _
  unfold State.inputSeen
  try dsimp only
  repeat' (first
    | with_reducible assumption
    | with_reducible apply State.set_ok
    | simp only [State.mk_ok]
    | with_reducible apply partsOk_same
    | dsimp only)

theorem execInputOutOfRange_ok {q : Kept} : ∀ a0 a1 a2, State.Ok q a2 → OutOk q (execInputOutOfRange a0 a1 a2) := by
  intro _ _ _ _
  unfold execInputOutOfRange
  try dsimp only
  repeat' (first
    | with_reducible assumption
    | with_reducible apply outNext_ok
    | with_reducible apply notDue_ok
    | with_reducible exact reservedCode_ok
    | with_reducible exact outFault_ok _
    | with_reducible apply State.set_ok
    | with_reducible apply State.notDue_ok
    | with_reducible apply State.inputSeen_ok
    | dsimp only
    | split)

theorem execOutOfRangeTimeout_ok {q : Kept} : ∀ a0, State.Ok q a0 → OutOk q (execOutOfRangeTimeout a0) := by
  intro _ _
  unfold execOutOfRangeTimeout
  try dsimp only
  repeat' (first
    | with_reducible assumption
    | with_reducible apply outNext_ok
    | with_reducible apply notDue_ok
    | with_reducible exact reservedCode_ok
    | with_reducible exact outFault_ok _
    | with_reducible apply State.packageFault_ok
    | with_reducible apply State.notDue_ok
    | dsimp only
    | split)

theorem execInputBackInRange_ok {q : Kept} : ∀ a0 a1 a2, State.Ok q a2 → OutOk q (execInputBackInRange a0 a1 a2) := by
  intro _ _ _ _
  unfold execInputBackInRange
  try dsimp only
  repeat' (first
    | with_reducible assumption
    | with_reducible apply outNext_ok
    | with_reducible apply notDue_ok
    | with_reducible exact reservedCode_ok
    | with_reducible exact outFault_ok _
    | with_reducible apply State.notDue_ok
    | with_reducible apply State.inputSeen_ok
    | dsimp only
    | split)

theorem execInputCollapse_ok {q : Kept} : ∀ a0 a1, State.Ok q a1 → OutOk q (execInputCollapse a0 a1) := by
  intro _ _ _
  unfold execInputCollapse
  try dsimp only
  repeat' (first
    | with_reducible assumption
    | with_reducible apply outNext_ok
    | with_reducible apply notDue_ok
    | with_reducible exact reservedCode_ok
    | with_reducible exact outFault_ok _
    | with_reducible apply State.railsOff_ok
    | with_reducible apply State.notDue_ok
    | dsimp only
    | split)

theorem State.clrPeak_ok {q : Kept} : ∀ a0, State.Ok q a0 → State.Ok q (State.clrPeak a0) := by
  intro _ _
  unfold State.clrPeak
  try dsimp only
  repeat' (first
    | with_reducible assumption
    | with_reducible apply State.set_ok
    | dsimp only)

theorem execClrPeak_ok {q : Kept} : ∀ a0, State.Ok q a0 → OutOk q (execClrPeak a0) := by
  intro _ _
  unfold execClrPeak
  try dsimp only
  repeat' (first
    | with_reducible assumption
    | with_reducible apply outNext_ok
    | with_reducible apply notDue_ok
    | with_reducible exact reservedCode_ok
    | with_reducible exact outFault_ok _
    | with_reducible apply State.notDue_ok
    | with_reducible apply State.clrPeak_ok
    | dsimp only
    | split)

theorem State.tempSeen_ok {q : Kept} : ∀ a0 a1 a2, State.Ok q a0 → State.Ok q (State.tempSeen a0 a1 a2) := by
  intro _ _ _ _
  unfold State.tempSeen
  try dsimp only
  repeat' (first
    | with_reducible assumption
    | with_reducible apply State.setB_ok
    | with_reducible apply State.set_ok
    | dsimp only
    | with_reducible intro _)

theorem execTempWarning_ok {q : Kept} : ∀ a0 a1 a2, State.Ok q a2 → OutOk q (execTempWarning a0 a1 a2) := by
  intro _ _ _ _
  unfold execTempWarning
  try dsimp only
  repeat' (first
    | with_reducible assumption
    | with_reducible apply outNext_ok
    | with_reducible apply notDue_ok
    | with_reducible exact reservedCode_ok
    | with_reducible exact outFault_ok _
    | with_reducible apply State.tempSeen_ok
    | with_reducible apply State.notDue_ok
    | with_reducible apply State.alert_ok
    | dsimp only
    | split)

theorem execTempBelowWarn_ok {q : Kept} : ∀ a0 a1 a2, State.Ok q a2 → OutOk q (execTempBelowWarn a0 a1 a2) := by
  intro _ _ _ _
  unfold execTempBelowWarn
  try dsimp only
  repeat' (first
    | with_reducible assumption
    | with_reducible apply outNext_ok
    | with_reducible apply notDue_ok
    | with_reducible exact reservedCode_ok
    | with_reducible exact outFault_ok _
    | with_reducible apply State.tempSeen_ok
    | with_reducible apply State.notDue_ok
    | dsimp only
    | split)

theorem execTempTrip_ok {q : Kept} : ∀ a0 a1 a2, State.Ok q a2 → OutOk q (execTempTrip a0 a1 a2) := by
  intro _ _ _ _
  unfold execTempTrip
  try dsimp only
  repeat' (first
    | with_reducible assumption
    | with_reducible apply outNext_ok
    | with_reducible apply notDue_ok
    | with_reducible exact reservedCode_ok
    | with_reducible exact outFault_ok _
    | with_reducible apply State.tempSeen_ok
    | with_reducible apply State.pkgFault_ok
    | with_reducible apply State.packageFault_ok
    | with_reducible apply State.notDue_ok
    | with_reducible apply State.dieFault_ok
    | with_reducible apply State.alert_ok
    | dsimp only
    | split)

theorem execHardwareThermtrip_ok {q : Kept} : ∀ a0 a1, State.Ok q a1 → OutOk q (execHardwareThermtrip a0 a1) := by
  intro _ _ _
  unfold execHardwareThermtrip
  try dsimp only
  repeat' (first
    | with_reducible assumption
    | with_reducible apply outNext_ok
    | with_reducible apply notDue_ok
    | with_reducible exact reservedCode_ok
    | with_reducible exact outFault_ok _
    | with_reducible apply State.railsOff_ok
    | simp only [State.mk_ok]
    | with_reducible apply partsOk_same
    | dsimp only)

theorem execSoftStartDone_ok {q : Kept} : ∀ a0, State.Ok q a0 → OutOk q (execSoftStartDone a0) := by
  intro _ _
  unfold execSoftStartDone
  try dsimp only
  repeat' (first
    | with_reducible assumption
    | with_reducible apply outNext_ok
    | with_reducible apply notDue_ok
    | with_reducible exact reservedCode_ok
    | with_reducible exact outFault_ok _
    | with_reducible apply State.notDue_ok
    | simp only [State.mk_ok]
    | with_reducible apply partsOk_same
    | dsimp only
    | split)

theorem execBootVerifyDone_ok {q : Kept} : ∀ a0 a1 a2 a3 a4, State.Ok q a4 → OutOk q (execBootVerifyDone a0 a1 a2 a3 a4) := by
  intro _ _ _ _ _ _
  unfold execBootVerifyDone
  try dsimp only
  repeat' (first
    | with_reducible assumption
    | with_reducible apply outNext_ok
    | with_reducible apply notDue_ok
    | with_reducible exact reservedCode_ok
    | with_reducible exact outFault_ok _
    | with_reducible apply State.set_ok
    | with_reducible apply State.notDue_ok
    | simp only [State.mk_ok]
    | with_reducible apply partsOk_same
    | dsimp only
    | split
    | with_reducible intro _)

theorem execRailSequencingDone_ok {q : Kept} : ∀ a0, State.Ok q a0 → OutOk q (execRailSequencingDone a0) := by
  intro _ _
  unfold execRailSequencingDone
  try dsimp only
  repeat' (first
    | with_reducible assumption
    | with_reducible apply outNext_ok
    | with_reducible apply notDue_ok
    | with_reducible exact reservedCode_ok
    | with_reducible exact outFault_ok _
    | with_reducible apply State.notDue_ok
    | simp only [State.mk_ok]
    | with_reducible apply partsOk_same
    | dsimp only
    | split)

theorem State.memoryTrained_ok {q : Kept} : ∀ a0 a1, State.Ok q a0 → State.Ok q (State.memoryTrained a0 a1) := by
  intro _ _ _
  unfold State.memoryTrained
  try dsimp only
  repeat' (first
    | with_reducible assumption
    | with_reducible apply State.trained_ok
    | with_reducible apply State.setB_ok
    | with_reducible apply State.set_ok
    | with_reducible apply foldl_ok
    | with_reducible apply foldl_fst_ok
    | with_reducible apply foldl_st_ok
    | with_reducible apply foldl_out_ok
    | dsimp only
    | with_reducible intro _)

theorem execMemoryTrainingDone_ok {q : Kept} : ∀ a0 a1, State.Ok q a1 → OutOk q (execMemoryTrainingDone a0 a1) := by
  intro _ _ _
  unfold execMemoryTrainingDone
  try dsimp only
  repeat' (first
    | with_reducible assumption
    | with_reducible apply outNext_ok
    | with_reducible apply notDue_ok
    | with_reducible exact reservedCode_ok
    | with_reducible exact outFault_ok _
    | with_reducible apply State.notDue_ok
    | with_reducible apply State.memoryTrained_ok
    | simp only [State.mk_ok]
    | with_reducible apply partsOk_same
    | dsimp only
    | split)

theorem execBridgeTrainingDone_ok {q : Kept} : ∀ a0 a1 a2, State.Ok q a2 → OutOk q (execBridgeTrainingDone a0 a1 a2) := by
  intro _ _ _ _
  unfold execBridgeTrainingDone
  try dsimp only
  repeat' (first
    | with_reducible assumption
    | with_reducible apply outNext_ok
    | with_reducible apply notDue_ok
    | with_reducible exact reservedCode_ok
    | with_reducible exact outFault_ok _
    | with_reducible apply State.setB_ok
    | with_reducible apply State.packageFault_ok
    | with_reducible apply State.notDue_ok
    | simp only [State.mk_ok]
    | with_reducible apply partsOk_same
    | with_reducible apply foldl_ok
    | with_reducible apply foldl_fst_ok
    | with_reducible apply foldl_st_ok
    | with_reducible apply foldl_out_ok
    | dsimp only
    | split
    | with_reducible intro _)

theorem execPcieTrainingDone_ok {q : Kept} : ∀ a0 a1 a2, State.Ok q a2 → OutOk q (execPcieTrainingDone a0 a1 a2) := by
  intro _ _ _ _
  unfold execPcieTrainingDone
  try dsimp only
  repeat' (first
    | with_reducible assumption
    | with_reducible apply outNext_ok
    | with_reducible apply notDue_ok
    | with_reducible exact reservedCode_ok
    | with_reducible exact outFault_ok _
    | with_reducible apply State.set_ok
    | with_reducible apply State.notDue_ok
    | simp only [State.mk_ok]
    | with_reducible apply partsOk_same
    | dsimp only
    | split)

theorem execEthLinkDown_ok {q : Kept} : ∀ a0 a1, State.Ok q a1 → OutOk q (execEthLinkDown a0 a1) := by
  intro _ _ _
  unfold execEthLinkDown
  try dsimp only
  repeat' (first
    | with_reducible assumption
    | with_reducible apply outNext_ok
    | with_reducible apply notDue_ok
    | with_reducible exact reservedCode_ok
    | with_reducible exact outFault_ok _
    | with_reducible apply State.set_ok
    | with_reducible apply State.notDue_ok
    | dsimp only
    | split)

theorem execEthLinkUp_ok {q : Kept} : ∀ a0 a1, State.Ok q a1 → OutOk q (execEthLinkUp a0 a1) := by
  intro _ _ _
  unfold execEthLinkUp
  try dsimp only
  repeat' (first
    | with_reducible assumption
    | with_reducible apply outNext_ok
    | with_reducible apply notDue_ok
    | with_reducible exact reservedCode_ok
    | with_reducible exact outFault_ok _
    | with_reducible apply State.set_ok
    | with_reducible apply State.notDue_ok
    | dsimp only
    | split)

theorem execPtpTransmitterLost_ok {q : Kept} : ∀ a0, State.Ok q a0 → OutOk q (execPtpTransmitterLost a0) := by
  intro _ _
  unfold execPtpTransmitterLost
  try dsimp only
  repeat' (first
    | with_reducible assumption
    | with_reducible apply outNext_ok
    | with_reducible apply notDue_ok
    | with_reducible exact reservedCode_ok
    | with_reducible exact outFault_ok _
    | with_reducible apply State.set_ok
    | simp only [State.mk_ok]
    | with_reducible apply partsOk_same
    | dsimp only)

theorem execPtpMessage_ok {q : Kept} : ∀ a0 a1 a2 a3, State.Ok q a3 → OutOk q (execPtpMessage a0 a1 a2 a3) := by
  intro _ _ _ _ _
  unfold execPtpMessage
  try dsimp only
  repeat' (first
    | with_reducible assumption
    | with_reducible apply outNext_ok
    | with_reducible apply notDue_ok
    | with_reducible exact reservedCode_ok
    | with_reducible exact outFault_ok _
    | with_reducible apply State.setB_ok
    | with_reducible apply State.set_ok
    | simp only [State.mk_ok]
    | with_reducible apply partsOk_same
    | dsimp only
    | split)

end Sys2Proof.Machine
end

