-- ==== Sys2Proof/Laws/KeepCsr.lean ====
section
/-! SUPPORT. Laws/KeepCsr.lean: the operations of Machine/Csr.lean keep the canonical form and the queue (Laws/Ok.lean). -/

namespace Sys2Proof.Machine

theorem State.clusterView_ok {q : Kept} : ∀ a0 a1 a2, State.Ok q a0 → State.Ok q (State.clusterView a0 a1 a2) := by
  intro _ _ _ _
  unfold State.clusterView
  try dsimp only
  repeat' (first
    | with_reducible assumption
    | with_reducible apply State.settleCore_ok
    | with_reducible apply State.set_ok
    | dsimp only
    | split)

theorem State.plain_ok {q : Kept} : ∀ a0 a1 a2 a3 a4, State.Ok q a0 → State.Ok q (State.plain a0 a1 a2 a3 a4) := by
  intro _ _ _ _ _ _
  unfold State.plain
  try dsimp only
  repeat' (first
    | with_reducible assumption
    | with_reducible apply State.writeFlds_ok
    | dsimp only
    | with_reducible intro _)

theorem State.ctxWrite_ok {q : Kept} : ∀ a0 a1 a2 a3 a4 a5, State.Ok q a0 → State.Ok q (State.ctxWrite a0 a1 a2 a3 a4 a5) := by
  intro _ _ _ _ _ _ _
  unfold State.ctxWrite
  try dsimp only
  repeat' (first
    | with_reducible assumption
    | with_reducible apply State.plain_ok
    | with_reducible apply State.loadStart_ok
    | with_reducible apply State.goStart_ok
    | dsimp only
    | split)

theorem State.bellWrite_ok {q : Kept} : ∀ a0 a1 a2 a3 a4 a5, State.Ok q a0 → State.Ok q (State.bellWrite a0 a1 a2 a3 a4 a5) := by
  intro _ _ _ _ _ _ _
  unfold State.bellWrite
  try dsimp only
  repeat' (first
    | with_reducible assumption
    | with_reducible apply YardWork.count_ok
    | with_reducible apply State.plain_ok
    | dsimp only
    | split)

theorem State.dieWrite_ok {q : Kept} : ∀ a0 a1 a2 a3 a4, State.Ok q a0 → State.Ok q (State.dieWrite a0 a1 a2 a3 a4) := by
  intro _ _ _ _ _ _
  unfold State.dieWrite
  try dsimp only
  repeat' (first
    | with_reducible assumption
    | with_reducible apply State.plain_ok
    | with_reducible apply State.ctxWrite_ok
    | with_reducible apply State.bellWrite_ok
    | dsimp only
    | split)

theorem State.enableWrite_ok {q : Kept} : ∀ a0 a1 a2 a3 a4, State.Ok q a0 → State.Ok q (State.enableWrite a0 a1 a2 a3 a4) := by
  intro _ _ _ _ _ _
  unfold State.enableWrite
  try dsimp only
  repeat' (first
    | with_reducible assumption
    | with_reducible apply State.plain_ok
    | with_reducible apply State.funcEnable_ok
    | dsimp only
    | split)

theorem State.portWrite_ok {q : Kept} : ∀ a0 a1 a2 a3 a4, State.Ok q a0 → State.Ok q (State.portWrite a0 a1 a2 a3 a4) := by
  intro _ _ _ _ _ _
  unfold State.portWrite
  try dsimp only
  repeat' (first
    | with_reducible assumption
    | with_reducible apply State.plain_ok
    | with_reducible apply State.enableWrite_ok
    | dsimp only
    | split)

theorem State.fabWrite_ok {q : Kept} : ∀ a0 a1 a2 a3 a4, State.Ok q a0 → State.Ok q (State.fabWrite a0 a1 a2 a3 a4) := by
  intro _ _ _ _ _ _
  unfold State.fabWrite
  try dsimp only
  repeat' (first
    | with_reducible assumption
    | with_reducible apply State.portWrite_ok
    | with_reducible apply State.plain_ok
    | with_reducible apply State.enableWrite_ok
    | with_reducible apply State.bellWrite_ok
    | with_reducible apply State.armTable_ok
    | dsimp only
    | split)

theorem State.yardRegWrite_ok {q : Kept} : ∀ a0 a1 a2 a3 a4, State.Ok q a0 → State.Ok q (State.yardRegWrite a0 a1 a2 a3 a4) := by
  intro _ _ _ _ _ _
  unfold State.yardRegWrite
  try dsimp only
  repeat' (first
    | with_reducible assumption
    | with_reducible apply State.plain_ok
    | with_reducible apply State.enableWrite_ok
    | dsimp only
    | split)

theorem State.ledgerWrite_ok {q : Kept} : ∀ a0 a1 a2 a3 a4, State.Ok q a0 → State.Ok q (State.ledgerWrite a0 a1 a2 a3 a4) := by
  intro _ _ _ _ _ _
  unfold State.ledgerWrite
  try dsimp only
  repeat' (first
    | with_reducible assumption
    | with_reducible apply State.tailWrite_ok
    | with_reducible apply State.plain_ok
    | dsimp only
    | split)

theorem State.layCtlWrite_ok {q : Kept} : ∀ a0 a1 a2, State.Ok q a0 → State.Ok q (State.layCtlWrite a0 a1 a2) := by
  intro _ _ _ _
  unfold State.layCtlWrite
  try dsimp only
  repeat' (first
    | with_reducible assumption
    | with_reducible apply State.layUnload_ok
    | with_reducible apply State.layLoad_ok
    | with_reducible apply State.layDisarm_ok
    | with_reducible apply State.layArm_ok
    | dsimp only
    | split)

theorem State.layWrite_ok {q : Kept} : ∀ a0 a1 a2 a3, State.Ok q a0 → State.Ok q (State.layWrite a0 a1 a2 a3) := by
  intro _ _ _ _ _
  unfold State.layWrite
  try dsimp only
  repeat' (first
    | with_reducible assumption
    | with_reducible apply State.plain_ok
    | with_reducible apply State.layCtlWrite_ok
    | with_reducible apply State.enableWrite_ok
    | dsimp only
    | split)

theorem State.frzCtlWrite_ok {q : Kept} : ∀ a0 a1 a2, State.Ok q a0 → State.Ok q (State.frzCtlWrite a0 a1 a2) := by
  intro _ _ _ _
  unfold State.frzCtlWrite
  try dsimp only
  repeat' (first
    | with_reducible assumption
    | with_reducible apply State.plain_ok
    | with_reducible apply State.freezeResume_ok
    | with_reducible apply State.freezeRequest_ok
    | dsimp only
    | split)

theorem State.pkgRstWrite_ok {q : Kept} : ∀ a0 a1 a2, State.Ok q a0 → State.Ok q (State.pkgRstWrite a0 a1 a2) := by
  intro _ _ _ _
  unfold State.pkgRstWrite
  try dsimp only
  repeat' (first
    | with_reducible assumption
    | with_reducible apply State.warmReset_ok
    | with_reducible apply State.plain_ok
    | with_reducible apply State.pensReset_ok
    | with_reducible apply State.diesReset_ok
    | dsimp only
    | split)

theorem State.frzWrite_ok {q : Kept} : ∀ a0 a1 a2 a3, State.Ok q a0 → State.Ok q (State.frzWrite a0 a1 a2 a3) := by
  intro _ _ _ _ _
  unfold State.frzWrite
  try dsimp only
  repeat' (first
    | with_reducible assumption
    | with_reducible apply State.plain_ok
    | with_reducible apply State.pkgRstWrite_ok
    | with_reducible apply State.frzCtlWrite_ok
    | dsimp only
    | split)

theorem State.pwrWrite_ok {q : Kept} : ∀ a0 a1 a2 a3, State.Ok q a0 → State.Ok q (State.pwrWrite a0 a1 a2 a3) := by
  intro _ _ _ _ _
  unfold State.pwrWrite
  try dsimp only
  repeat' (first
    | with_reducible assumption
    | with_reducible apply State.tempSeen_ok
    | with_reducible apply State.plain_ok
    | with_reducible apply State.clrPeak_ok
    | dsimp only
    | split)

theorem State.svcWrite_ok {q : Kept} : ∀ a0 a1 a2 a3, State.Ok q a0 → State.Ok q (State.svcWrite a0 a1 a2 a3) := by
  intro _ _ _ _ _
  unfold State.svcWrite
  try dsimp only
  repeat' (first
    | with_reducible assumption
    | with_reducible apply State.yardRegWrite_ok
    | with_reducible apply State.pwrWrite_ok
    | with_reducible apply State.plain_ok
    | with_reducible apply State.ledgerWrite_ok
    | with_reducible apply State.layWrite_ok
    | with_reducible apply State.frzWrite_ok
    | dsimp only
    | split)

theorem State.dmaqTail_ok {q : Kept} : ∀ a0 a1 a2, State.Ok q a0 → State.Ok q (State.dmaqTail a0 a1 a2) := by
  intro _ _ _ _
  unfold State.dmaqTail
  try dsimp only
  repeat' (first
    | with_reducible assumption
    | with_reducible apply State.set_ok
    | dsimp only)

theorem State.dmaqWrite_ok {q : Kept} : ∀ a0 a1 a2 a3, State.Ok q a0 → State.Ok q (State.dmaqWrite a0 a1 a2 a3) := by
  intro _ _ _ _ _
  unfold State.dmaqWrite
  try dsimp only
  repeat' (first
    | with_reducible assumption
    | with_reducible apply State.plain_ok
    | with_reducible apply State.dmaqTail_ok
    | dsimp only
    | split)

theorem State.cdWrite_ok {q : Kept} : ∀ a0 a1 a2 a3, State.Ok q a0 → State.Ok q (State.cdWrite a0 a1 a2 a3) := by
  intro _ _ _ _ _
  unfold State.cdWrite
  try dsimp only
  repeat' (first
    | with_reducible assumption
    | with_reducible apply State.plain_ok
    | with_reducible apply State.dmaqWrite_ok
    | dsimp only
    | split)

theorem State.regWrite_ok {q : Kept} : ∀ a0 a1 a2 a3, State.Ok q a0 → State.Ok q (State.regWrite a0 a1 a2 a3) := by
  intro _ _ _ _ _
  unfold State.regWrite
  try dsimp only
  repeat' (first
    | with_reducible assumption
    | with_reducible apply State.svcWrite_ok
    | with_reducible apply State.fabWrite_ok
    | with_reducible apply State.dieWrite_ok
    | with_reducible apply State.cdWrite_ok
    | dsimp only
    | split)

theorem State.csrWrite_ok {q : Kept} : ∀ a0 a1 a2 a3 a4, State.Ok q a0 → State.Ok q (State.csrWrite a0 a1 a2 a3 a4) := by
  intro _ _ _ _ _ _
  unfold State.csrWrite
  try dsimp only
  repeat' (first
    | with_reducible assumption
    | with_reducible apply State.windowWrite_ok
    | with_reducible apply State.regWrite_ok
    | with_reducible apply State.gwinWrite_ok
    | with_reducible apply State.answer_ok
    | dsimp only
    | split)

theorem State.memberPublished_ok {q : Kept} : ∀ a0 a1, State.Ok q a0 → State.Ok q (State.memberPublished a0 a1) := by
  intro _ _ _
  unfold State.memberPublished
  try dsimp only
  repeat' (first
    | with_reducible assumption
    | with_reducible apply State.setCkp_ok
    | with_reducible apply State.set_ok
    | simp only [State.mk_ok]
    | with_reducible apply partsOk_same
    | dsimp only
    | split
    | with_reducible intro _)

theorem State.mgmtRegWrite_ok {q : Kept} : ∀ a0 a1 a2 a3 a4 a5, State.Ok q a0 → State.Ok q (State.mgmtRegWrite a0 a1 a2 a3 a4 a5) := by
  intro _ _ _ _ _ _ _
  unfold State.mgmtRegWrite
  try dsimp only
  repeat' (first
    | with_reducible assumption
    | with_reducible apply State.memberPublished_ok
    | with_reducible apply State.csrWrite_ok
    | with_reducible apply State.answer_ok
    | with_reducible apply State.abandonCkp_ok
    | dsimp only
    | split)

theorem execCsrWrite_ok {q : Kept} : ∀ a0 a1 a2 a3 a4, State.Ok q a4 → OutOk q (execCsrWrite a0 a1 a2 a3 a4) := by
  intro _ _ _ _ _ _
  unfold execCsrWrite
  try dsimp only
  repeat' (first
    | with_reducible assumption
    | with_reducible apply outNext_ok
    | with_reducible apply notDue_ok
    | with_reducible exact reservedCode_ok
    | with_reducible exact outFault_ok _
    | with_reducible apply State.yardStep_ok
    | with_reducible apply State.notDue_ok
    | with_reducible apply State.mgmtRegWrite_ok
    | with_reducible apply State.csrWrite_ok
    | with_reducible apply State.answer_ok
    | simp only [State.mk_ok]
    | with_reducible apply partsOk_same
    | dsimp only
    | split
    | with_reducible intro _)

theorem execCdDmaqTailWrite_ok {q : Kept} : ∀ a0 a1 a2, State.Ok q a2 → OutOk q (execCdDmaqTailWrite a0 a1 a2) := by
  intro _ _ _ _
  unfold execCdDmaqTailWrite
  try dsimp only
  repeat' (first
    | with_reducible assumption
    | with_reducible apply outNext_ok
    | with_reducible apply notDue_ok
    | with_reducible exact reservedCode_ok
    | with_reducible exact outFault_ok _
    | with_reducible apply State.notDue_ok
    | with_reducible apply State.dmaqTail_ok
    | dsimp only
    | split)

theorem execWatchPendingClear_ok {q : Kept} : ∀ a0 a1, State.Ok q a1 → OutOk q (execWatchPendingClear a0 a1) := by
  intro _ _ _
  unfold execWatchPendingClear
  try dsimp only
  repeat' (first
    | with_reducible assumption
    | with_reducible apply outNext_ok
    | with_reducible apply notDue_ok
    | with_reducible exact reservedCode_ok
    | with_reducible exact outFault_ok _
    | with_reducible apply State.set_ok
    | with_reducible apply State.notDue_ok
    | dsimp only
    | split)

end Sys2Proof.Machine
end

