-- ==== Sys2Proof/Laws/KeepDmaLine.lean ====
section
/-! SUPPORT. Laws/KeepDmaLine.lean: the operations of Machine/DmaLine.lean keep the canonical form and the queue (Laws/Ok.lean). -/

namespace Sys2Proof.Machine

theorem State.lineRead_ok {q : Kept} : ∀ a0 a1 a2 a3, State.Ok q a0 → State.Ok q (State.lineRead a0 a1 a2 a3).1 := by
  intro _ _ _ _ _
  unfold State.lineRead
  try dsimp only
  repeat' (first
    | with_reducible assumption
    | with_reducible apply State.countRead_ok
    | dsimp only
    | with_reducible intro _)

theorem State.lineWrite_ok {q : Kept} : ∀ a0 a1 a2 a3, State.Ok q a0 → State.Ok q (State.lineWrite a0 a1 a2 a3) := by
  intro _ _ _ _ _
  unfold State.lineWrite
  try dsimp only
  repeat' (first
    | with_reducible assumption
    | with_reducible apply State.putPieces_ok
    | dsimp only)

theorem State.loftOut_ok {q : Kept} : ∀ a0 a1 a2 a3 a4 a5, State.Ok q a0 → State.Ok q (State.loftOut a0 a1 a2 a3 a4 a5).1 := by
  intro _ _ _ _ _ _ _
  unfold State.loftOut
  try dsimp only
  repeat' (first
    | with_reducible assumption
    | with_reducible apply State.loftRead_ok
    | dsimp only
    | with_reducible intro _)

theorem State.loftIn_ok {q : Kept} : ∀ a0 a1 a2 a3 a4, State.Ok q a0 → State.Ok q (State.loftIn a0 a1 a2 a3 a4) := by
  intro _ _ _ _ _ _
  unfold State.loftIn
  try dsimp only
  repeat' (first
    | with_reducible assumption
    | with_reducible apply State.loftWrite_ok
    | with_reducible apply foldl_ok
    | with_reducible apply foldl_fst_ok
    | with_reducible apply foldl_st_ok
    | with_reducible apply foldl_out_ok
    | dsimp only
    | with_reducible intro _)

theorem State.setHead_ok {q : Kept} : ∀ a0 a1 a2 a3, State.Ok q a0 → State.Ok q (State.setHead a0 a1 a2 a3) := by
  intro _ _ _ _ _
  unfold State.setHead
  try dsimp only
  repeat' (first
    | with_reducible assumption
    | with_reducible apply State.setCtx_ok
    | simp only [State.mk_ok]
    | with_reducible apply partsOk_same
    | dsimp only
    | split)

theorem State.lineIssued_ok {q : Kept} : ∀ a0 a1 a2 a3 a4, State.Ok q a0 → State.Ok q (State.lineIssued a0 a1 a2 a3 a4) := by
  intro _ _ _ _ _ _
  unfold State.lineIssued
  try dsimp only
  repeat' (first
    | with_reducible assumption
    | with_reducible apply State.setHead_ok
    | simp only [State.mk_ok]
    | with_reducible apply partsOk_same
    | dsimp only
    | with_reducible intro _)

theorem State.remoteLine_ok {q : Kept} : ∀ a0 a1 a2 a3 a4 a5, State.Ok q a0 → State.Ok q (State.remoteLine a0 a1 a2 a3 a4 a5) := by
  intro _ _ _ _ _ _ _
  unfold State.remoteLine
  try dsimp only
  repeat' (first
    | with_reducible assumption
    | with_reducible apply State.route_ok
    | with_reducible apply State.refuse_ok
    | with_reducible apply State.loftOut_ok
    | with_reducible apply State.lineIssued_ok
    | simp only
    | with_reducible apply partsOk_same
    | dsimp only
    | split
    | with_reducible intro _)

theorem State.csrLine_ok {q : Kept} : ∀ a0 a1 a2 a3 a4, State.Ok q a0 → State.Ok q (State.csrLine a0 a1 a2 a3 a4).1 := by
  intro a0 a1 a2 a3 a4
  induction a2 generalizing a0 a1 a3 a4 with
  | zero =>
    intro _
    unfold State.csrLine
    try dsimp only
    repeat' (with_reducible assumption)
  | succ n ih =>
    intro _
    unfold State.csrLine
    try dsimp only
    repeat' (first
      | with_reducible assumption
      | with_reducible apply ih
      | with_reducible apply State.csrWrite_ok
      | with_reducible apply foldl_ok
      | with_reducible apply foldl_fst_ok
      | with_reducible apply foldl_st_ok
      | dsimp only
      | split)

theorem State.localLine_ok {q : Kept} : ∀ a0 a1 a2 a3 a4 a5, State.Ok q a0 → State.Ok q (State.localLine a0 a1 a2 a3 a4 a5) := by
  intro _ _ _ _ _ _ _
  unfold State.localLine
  try dsimp only
  repeat' (first
    | with_reducible assumption
    | with_reducible apply State.loftOut_ok
    | with_reducible apply State.loftIn_ok
    | with_reducible apply State.lineWrite_ok
    | with_reducible apply State.lineRead_ok
    | with_reducible apply State.lineIssued_ok
    | with_reducible apply State.dmaRetire_ok
    | with_reducible apply State.dmaFail_ok
    | with_reducible apply State.csrLine_ok
    | simp only [State.mk_ok]
    | with_reducible apply partsOk_same
    | dsimp only
    | split
    | with_reducible intro _)

theorem State.nextLine_ok {q : Kept} : ∀ a0 a1 a2 a3, State.Ok q a0 → State.Ok q (State.nextLine a0 a1 a2 a3) := by
  intro _ _ _ _ _
  unfold State.nextLine
  try dsimp only
  repeat' (first
    | with_reducible assumption
    | with_reducible apply State.remoteLine_ok
    | with_reducible apply State.localLine_ok
    | with_reducible apply State.dmaRetire_ok
    | with_reducible apply State.dmaFail_ok
    | dsimp only
    | split)

theorem execDmaLineIssue_ok {q : Kept} : ∀ a0 a1, State.Ok q a1 → OutOk q (execDmaLineIssue a0 a1) := by
  intro _ _ _
  unfold execDmaLineIssue
  try dsimp only
  repeat' (first
    | with_reducible assumption
    | with_reducible apply outNext_ok
    | with_reducible apply notDue_ok
    | with_reducible exact reservedCode_ok
    | with_reducible exact outFault_ok _
    | with_reducible apply State.yardStep_ok
    | with_reducible apply State.set_ok
    | with_reducible apply State.notDue_ok
    | with_reducible apply State.nextLine_ok
    | simp only [State.mk_ok]
    | with_reducible apply partsOk_same
    | dsimp only
    | split
    | with_reducible intro _)

end Sys2Proof.Machine
end

