-- ==== Sys2Proof/Laws/KeepEndpoint.lean ====
section
/-! SUPPORT. Laws/KeepEndpoint.lean: the operations of Machine/Endpoint.lean keep the canonical form and the queue (Laws/Ok.lean). -/

namespace Sys2Proof.Machine

theorem State.refuseAddr_ok {q : Kept} : ∀ a0 a1 a2, State.Ok q a0 → State.Ok q (State.refuseAddr a0 a1 a2) := by
  intro _ _ _ _
  unfold State.refuseAddr
  try dsimp only
  repeat' (first
    | with_reducible assumption
    | with_reducible apply State.refuse_ok
    | with_reducible apply State.inc_ok
    | dsimp only)

theorem State.rdReqAt_ok {q : Kept} : ∀ a0 a1 a2, State.Ok q a0 → State.Ok q (State.rdReqAt a0 a1 a2) := by
  intro _ _ _ _
  unfold State.rdReqAt
  try dsimp only
  repeat' (first
    | with_reducible assumption
    | with_reducible apply State.refuseAddr_ok
    | with_reducible apply State.lineRead_ok
    | with_reducible apply State.emit_ok
    | dsimp only
    | split)

theorem State.wrAt_ok {q : Kept} : ∀ a0 a1 a2, State.Ok q a0 → State.Ok q (State.wrAt a0 a1 a2) := by
  intro _ _ _ _
  unfold State.wrAt
  try dsimp only
  repeat' (first
    | with_reducible assumption
    | with_reducible apply State.refuseAddr_ok
    | with_reducible apply State.lineWrite_ok
    | with_reducible apply State.emit_ok
    | dsimp only
    | split)

theorem State.atomAt_ok {q : Kept} : ∀ a0 a1 a2, State.Ok q a0 → State.Ok q (State.atomAt a0 a1 a2) := by
  intro _ _ _ _
  unfold State.atomAt
  try dsimp only
  repeat' (first
    | with_reducible assumption
    | with_reducible apply State.refuseAddr_ok
    | with_reducible apply State.emit_ok
    | with_reducible apply State.atomic_ok
    | dsimp only
    | split)

theorem State.dmaData_ok {q : Kept} : ∀ a0 a1 a2 a3, State.Ok q a0 → State.Ok q (State.dmaData a0 a1 a2 a3) := by
  intro _ _ _ _ _
  unfold State.dmaData
  try dsimp only
  repeat' (first
    | with_reducible assumption
    | with_reducible apply State.loftIn_ok
    | with_reducible apply State.dmaRetire_ok
    | with_reducible apply State.dmaFail_ok
    | with_reducible apply State.dmaAnswered_ok
    | simp only [State.mk_ok]
    | with_reducible apply partsOk_same
    | dsimp only
    | split
    | with_reducible intro _)

theorem State.cdData_ok {q : Kept} : ∀ a0 a1 a2 a3, State.Ok q a0 → State.Ok q (State.cdData a0 a1 a2 a3) := by
  intro _ _ _ _ _
  unfold State.cdData
  try dsimp only
  repeat' (first
    | with_reducible assumption
    | with_reducible apply State.setCdrun_ok
    | with_reducible apply State.set_ok
    | with_reducible apply State.cdAnswered_ok
    | simp only [State.mk_ok]
    | with_reducible apply partsOk_same
    | dsimp only)

theorem State.rdRspAt_ok {q : Kept} : ∀ a0 a1, State.Ok q a0 → State.Ok q (State.rdRspAt a0 a1) := by
  intro _ _ _
  unfold State.rdRspAt
  try dsimp only
  repeat' (first
    | with_reducible assumption
    | with_reducible apply State.dmaData_ok
    | with_reducible apply State.cdData_ok
    | dsimp only
    | split)

theorem State.wrDoneAt_ok {q : Kept} : ∀ a0 a1, State.Ok q a0 → State.Ok q (State.wrDoneAt a0 a1) := by
  intro _ _ _
  unfold State.wrDoneAt
  try dsimp only
  repeat' (first
    | with_reducible assumption
    | with_reducible apply State.dmaRetire_ok
    | with_reducible apply State.dmaAnswered_ok
    | with_reducible apply State.cdAnswered_ok
    | simp only [State.mk_ok]
    | with_reducible apply partsOk_same
    | dsimp only
    | split)

theorem State.atomRspAt_ok {q : Kept} : ∀ a0 a1, State.Ok q a0 → State.Ok q (State.atomRspAt a0 a1) := by
  intro _ _ _
  unfold State.atomRspAt
  try dsimp only
  repeat' (first
    | with_reducible assumption
    | with_reducible apply State.answer_ok
    | dsimp only
    | split)

theorem State.bellAt_ok {q : Kept} : ∀ a0 a1 a2, State.Ok q a0 → State.Ok q (State.bellAt a0 a1 a2) := by
  intro _ _ _ _
  unfold State.bellAt
  try dsimp only
  repeat' (first
    | with_reducible assumption
    | with_reducible apply State.ringHere_ok
    | dsimp only
    | split)

theorem State.teamAt_ok {q : Kept} : ∀ a0 a1 a2, State.Ok q a0 → State.Ok q (State.teamAt a0 a1 a2) := by
  intro _ _ _ _
  unfold State.teamAt
  try dsimp only
  repeat' (first
    | with_reducible assumption
    | with_reducible apply State.teamFrame_ok
    | simp only [State.mk_ok]
    | with_reducible apply partsOk_same
    | dsimp only
    | split)

theorem State.drawBytes_ok {q : Kept} : ∀ a0 a1, State.Ok q a0 → State.Ok q (State.drawBytes a0 a1).1 := by
  intro a0 a1
  induction a1 generalizing a0 with
  | zero =>
    intro _
    unfold State.drawBytes
    try dsimp only
    repeat' (with_reducible assumption)
  | succ n ih =>
    intro _
    unfold State.drawBytes
    try dsimp only
    repeat' (first
      | with_reducible assumption
      | with_reducible apply ih
      | with_reducible apply State.draw_ok)

theorem State.ckpReported_ok {q : Kept} : ∀ a0 a1 a2 a3, State.Ok q a0 → State.Ok q (State.ckpReported a0 a1 a2 a3) := by
  intro _ _ _ _ _
  unfold State.ckpReported
  try dsimp only
  repeat' (first
    | with_reducible assumption
    | with_reducible apply State.setCkp_ok
    | with_reducible apply State.abandonCkp_ok
    | simp only [State.mk_ok]
    | with_reducible apply partsOk_same
    | dsimp only
    | split
    | with_reducible intro _)

theorem State.mgmtAt_ok {q : Kept} : ∀ a0 a1 a2, State.Ok q a0 → State.Ok q (State.mgmtAt a0 a1 a2) := by
  intro _ _ _ _
  unfold State.mgmtAt
  try dsimp only
  repeat' (first
    | with_reducible assumption
    | with_reducible apply State.mgmtRegWrite_ok
    | with_reducible apply State.emit_ok
    | with_reducible apply State.ckpReported_ok
    | with_reducible apply State.answer_ok
    | simp only [State.mk_ok]
    | with_reducible apply partsOk_same
    | dsimp only
    | split)

theorem State.deliver_ok {q : Kept} : ∀ a0 a1 a2, State.Ok q a0 → State.Ok q (State.deliver a0 a1 a2) := by
  intro _ _ _ _
  unfold State.deliver
  try dsimp only
  repeat' (first
    | with_reducible assumption
    | with_reducible apply State.wrDoneAt_ok
    | with_reducible apply State.wrAt_ok
    | with_reducible apply State.teamAt_ok
    | with_reducible apply State.rdRspAt_ok
    | with_reducible apply State.rdReqAt_ok
    | with_reducible apply State.mgmtAt_ok
    | with_reducible apply State.grpqArrive_ok
    | with_reducible apply State.errArrive_ok
    | with_reducible apply State.collArrive_ok
    | with_reducible apply State.bellAt_ok
    | with_reducible apply State.atomRspAt_ok
    | with_reducible apply State.atomAt_ok
    | simp only [State.mk_ok]
    | with_reducible apply partsOk_same
    | dsimp only
    | split)

theorem State.forward_ok {q : Kept} : ∀ a0 a1 a2 a3, State.Ok q a0 → State.Ok q (State.forward a0 a1 a2 a3).1 := by
  intro _ _ _ _ _
  unfold State.forward
  try dsimp only
  repeat' (first
    | with_reducible assumption
    | with_reducible apply State.route_ok
    | with_reducible apply State.returnCredit_ok
    | with_reducible apply State.refuse_ok
    | with_reducible apply State.inc_ok
    | simp only [State.mk_ok]
    | with_reducible apply partsOk_same
    | dsimp only
    | split)

theorem State.arrive_ok {q : Kept} : ∀ a0 a1 a2, State.Ok q a0 → State.Ok q (State.arrive a0 a1 a2) := by
  intro _ _ _ _
  unfold State.arrive
  try dsimp only
  repeat' (first
    | with_reducible assumption
    | with_reducible apply State.returnCredit_ok
    | with_reducible apply State.forward_ok
    | with_reducible apply State.deliver_ok
    | dsimp only
    | split)

theorem State.packetRow_ok {q : Kept} : ∀ a0 a1 a2 a3, State.Ok q a0 → OutOk q (State.packetRow a0 a1 a2 a3) := by
  intro _ _ _ _ _
  unfold State.packetRow
  try dsimp only
  repeat' (first
    | with_reducible assumption
    | with_reducible apply outNext_ok
    | with_reducible apply notDue_ok
    | with_reducible exact reservedCode_ok
    | with_reducible exact outFault_ok _
    | with_reducible apply State.yardStep_ok
    | with_reducible apply State.notDue_ok
    | with_reducible apply State.arrive_ok
    | dsimp only
    | split
    | with_reducible intro _)

theorem execRdReq_ok {q : Kept} : ∀ a0 a1 a2, State.Ok q a2 → OutOk q (execRdReq a0 a1 a2) := by
  intro _ _ _ _
  unfold execRdReq
  try dsimp only
  repeat' (first
    | with_reducible assumption
    | with_reducible apply outNext_ok
    | with_reducible apply notDue_ok
    | with_reducible exact reservedCode_ok
    | with_reducible exact outFault_ok _
    | with_reducible apply State.packetRow_ok
    | dsimp only)

theorem execRdRsp_ok {q : Kept} : ∀ a0 a1 a2, State.Ok q a2 → OutOk q (execRdRsp a0 a1 a2) := by
  intro _ _ _ _
  unfold execRdRsp
  try dsimp only
  repeat' (first
    | with_reducible assumption
    | with_reducible apply outNext_ok
    | with_reducible apply notDue_ok
    | with_reducible exact reservedCode_ok
    | with_reducible exact outFault_ok _
    | with_reducible apply State.packetRow_ok
    | dsimp only)

theorem execWr_ok {q : Kept} : ∀ a0 a1 a2, State.Ok q a2 → OutOk q (execWr a0 a1 a2) := by
  intro _ _ _ _
  unfold execWr
  try dsimp only
  repeat' (first
    | with_reducible assumption
    | with_reducible apply outNext_ok
    | with_reducible apply notDue_ok
    | with_reducible exact reservedCode_ok
    | with_reducible exact outFault_ok _
    | with_reducible apply State.packetRow_ok
    | dsimp only)

theorem execWrDone_ok {q : Kept} : ∀ a0 a1 a2, State.Ok q a2 → OutOk q (execWrDone a0 a1 a2) := by
  intro _ _ _ _
  unfold execWrDone
  try dsimp only
  repeat' (first
    | with_reducible assumption
    | with_reducible apply outNext_ok
    | with_reducible apply notDue_ok
    | with_reducible exact reservedCode_ok
    | with_reducible exact outFault_ok _
    | with_reducible apply State.packetRow_ok
    | dsimp only)

theorem execAtomPkt_ok {q : Kept} : ∀ a0 a1 a2, State.Ok q a2 → OutOk q (execAtomPkt a0 a1 a2) := by
  intro _ _ _ _
  unfold execAtomPkt
  try dsimp only
  repeat' (first
    | with_reducible assumption
    | with_reducible apply outNext_ok
    | with_reducible apply notDue_ok
    | with_reducible exact reservedCode_ok
    | with_reducible exact outFault_ok _
    | with_reducible apply State.packetRow_ok
    | dsimp only)

theorem execAtomRsp_ok {q : Kept} : ∀ a0 a1 a2, State.Ok q a2 → OutOk q (execAtomRsp a0 a1 a2) := by
  intro _ _ _ _
  unfold execAtomRsp
  try dsimp only
  repeat' (first
    | with_reducible assumption
    | with_reducible apply outNext_ok
    | with_reducible apply notDue_ok
    | with_reducible exact reservedCode_ok
    | with_reducible exact outFault_ok _
    | with_reducible apply State.packetRow_ok
    | dsimp only)

theorem execBell_ok {q : Kept} : ∀ a0 a1 a2, State.Ok q a2 → OutOk q (execBell a0 a1 a2) := by
  intro _ _ _ _
  unfold execBell
  try dsimp only
  repeat' (first
    | with_reducible assumption
    | with_reducible apply outNext_ok
    | with_reducible apply notDue_ok
    | with_reducible exact reservedCode_ok
    | with_reducible exact outFault_ok _
    | with_reducible apply State.packetRow_ok
    | dsimp only)

theorem execBellRing_ok {q : Kept} : ∀ a0 a1 a2 a3 a4, State.Ok q a4 → OutOk q (execBellRing a0 a1 a2 a3 a4) := by
  intro _ _ _ _ _ _
  unfold execBellRing
  try dsimp only
  repeat' (first
    | with_reducible assumption
    | with_reducible apply outNext_ok
    | with_reducible apply notDue_ok
    | with_reducible exact reservedCode_ok
    | with_reducible exact outFault_ok _
    | with_reducible apply State.ringName_ok
    | with_reducible apply State.notDue_ok
    | dsimp only
    | split)

theorem execTeam_ok {q : Kept} : ∀ a0 a1 a2, State.Ok q a2 → OutOk q (execTeam a0 a1 a2) := by
  intro _ _ _ _
  unfold execTeam
  try dsimp only
  repeat' (first
    | with_reducible assumption
    | with_reducible apply outNext_ok
    | with_reducible apply notDue_ok
    | with_reducible exact reservedCode_ok
    | with_reducible exact outFault_ok _
    | with_reducible apply State.packetRow_ok
    | dsimp only)

theorem execMgmtWrite_ok {q : Kept} : ∀ a0 a1 a2, State.Ok q a2 → OutOk q (execMgmtWrite a0 a1 a2) := by
  intro _ _ _ _
  unfold execMgmtWrite
  try dsimp only
  repeat' (first
    | with_reducible assumption
    | with_reducible apply outNext_ok
    | with_reducible apply notDue_ok
    | with_reducible exact reservedCode_ok
    | with_reducible exact outFault_ok _
    | with_reducible apply State.packetRow_ok
    | dsimp only)

theorem execMgmtRead_ok {q : Kept} : ∀ a0 a1 a2, State.Ok q a2 → OutOk q (execMgmtRead a0 a1 a2) := by
  intro _ _ _ _
  unfold execMgmtRead
  try dsimp only
  repeat' (first
    | with_reducible assumption
    | with_reducible apply outNext_ok
    | with_reducible apply notDue_ok
    | with_reducible exact reservedCode_ok
    | with_reducible exact outFault_ok _
    | with_reducible apply State.packetRow_ok
    | dsimp only)

theorem execMgmtReadResponse_ok {q : Kept} : ∀ a0 a1 a2, State.Ok q a2 → OutOk q (execMgmtReadResponse a0 a1 a2) := by
  intro _ _ _ _
  unfold execMgmtReadResponse
  try dsimp only
  repeat' (first
    | with_reducible assumption
    | with_reducible apply outNext_ok
    | with_reducible apply notDue_ok
    | with_reducible exact reservedCode_ok
    | with_reducible exact outFault_ok _
    | with_reducible apply State.packetRow_ok
    | dsimp only)

theorem execCheckpointReport_ok {q : Kept} : ∀ a0 a1 a2, State.Ok q a2 → OutOk q (execCheckpointReport a0 a1 a2) := by
  intro _ _ _ _
  unfold execCheckpointReport
  try dsimp only
  repeat' (first
    | with_reducible assumption
    | with_reducible apply outNext_ok
    | with_reducible apply notDue_ok
    | with_reducible exact reservedCode_ok
    | with_reducible exact outFault_ok _
    | with_reducible apply State.packetRow_ok
    | dsimp only)

theorem execErrRsp_ok {q : Kept} : ∀ a0 a1 a2, State.Ok q a2 → OutOk q (execErrRsp a0 a1 a2) := by
  intro _ _ _ _
  unfold execErrRsp
  try dsimp only
  repeat' (first
    | with_reducible assumption
    | with_reducible apply outNext_ok
    | with_reducible apply notDue_ok
    | with_reducible exact reservedCode_ok
    | with_reducible exact outFault_ok _
    | with_reducible apply State.packetRow_ok
    | dsimp only)

theorem execCollUp_ok {q : Kept} : ∀ a0 a1 a2, State.Ok q a2 → OutOk q (execCollUp a0 a1 a2) := by
  intro _ _ _ _
  unfold execCollUp
  try dsimp only
  repeat' (first
    | with_reducible assumption
    | with_reducible apply outNext_ok
    | with_reducible apply notDue_ok
    | with_reducible exact reservedCode_ok
    | with_reducible exact outFault_ok _
    | with_reducible apply State.packetRow_ok
    | dsimp only)

theorem execCollDown_ok {q : Kept} : ∀ a0 a1 a2, State.Ok q a2 → OutOk q (execCollDown a0 a1 a2) := by
  intro _ _ _ _
  unfold execCollDown
  try dsimp only
  repeat' (first
    | with_reducible assumption
    | with_reducible apply outNext_ok
    | with_reducible apply notDue_ok
    | with_reducible exact reservedCode_ok
    | with_reducible exact outFault_ok _
    | with_reducible apply State.packetRow_ok
    | dsimp only)

theorem execCollConfirm_ok {q : Kept} : ∀ a0 a1 a2, State.Ok q a2 → OutOk q (execCollConfirm a0 a1 a2) := by
  intro _ _ _ _
  unfold execCollConfirm
  try dsimp only
  repeat' (first
    | with_reducible assumption
    | with_reducible apply outNext_ok
    | with_reducible apply notDue_ok
    | with_reducible exact reservedCode_ok
    | with_reducible exact outFault_ok _
    | with_reducible apply State.packetRow_ok
    | dsimp only)

theorem execCollRelease_ok {q : Kept} : ∀ a0 a1 a2, State.Ok q a2 → OutOk q (execCollRelease a0 a1 a2) := by
  intro _ _ _ _
  unfold execCollRelease
  try dsimp only
  repeat' (first
    | with_reducible assumption
    | with_reducible apply outNext_ok
    | with_reducible apply notDue_ok
    | with_reducible exact reservedCode_ok
    | with_reducible exact outFault_ok _
    | with_reducible apply State.packetRow_ok
    | dsimp only)

theorem execCollReject_ok {q : Kept} : ∀ a0 a1 a2, State.Ok q a2 → OutOk q (execCollReject a0 a1 a2) := by
  intro _ _ _ _
  unfold execCollReject
  try dsimp only
  repeat' (first
    | with_reducible assumption
    | with_reducible apply outNext_ok
    | with_reducible apply notDue_ok
    | with_reducible exact reservedCode_ok
    | with_reducible exact outFault_ok _
    | with_reducible apply State.packetRow_ok
    | dsimp only)

theorem execCollError_ok {q : Kept} : ∀ a0 a1 a2, State.Ok q a2 → OutOk q (execCollError a0 a1 a2) := by
  intro _ _ _ _
  unfold execCollError
  try dsimp only
  repeat' (first
    | with_reducible assumption
    | with_reducible apply outNext_ok
    | with_reducible apply notDue_ok
    | with_reducible exact reservedCode_ok
    | with_reducible exact outFault_ok _
    | with_reducible apply State.packetRow_ok
    | dsimp only)

theorem execCollStatus_ok {q : Kept} : ∀ a0 a1 a2, State.Ok q a2 → OutOk q (execCollStatus a0 a1 a2) := by
  intro _ _ _ _
  unfold execCollStatus
  try dsimp only
  repeat' (first
    | with_reducible assumption
    | with_reducible apply outNext_ok
    | with_reducible apply notDue_ok
    | with_reducible exact reservedCode_ok
    | with_reducible exact outFault_ok _
    | with_reducible apply State.packetRow_ok
    | dsimp only)

theorem execGrpq_ok {q : Kept} : ∀ a0 a1 a2, State.Ok q a2 → OutOk q (execGrpq a0 a1 a2) := by
  intro _ _ _ _
  unfold execGrpq
  try dsimp only
  repeat' (first
    | with_reducible assumption
    | with_reducible apply outNext_ok
    | with_reducible apply notDue_ok
    | with_reducible exact reservedCode_ok
    | with_reducible exact outFault_ok _
    | with_reducible apply State.packetRow_ok
    | dsimp only)

end Sys2Proof.Machine
end

