-- ==== Sys2Proof/Laws/KeepReceive.lean ====
section
/-! SUPPORT. Laws/KeepReceive.lean: the operations of Machine/Receive.lean keep the canonical form and the queue (Laws/Ok.lean). -/

namespace Sys2Proof.Machine

theorem State.nakOnce_ok {q : Kept} : ∀ a0 a1, State.Ok q a0 → State.Ok q (State.nakOnce a0 a1) := by
  intro _ _ _
  unfold State.nakOnce
  try dsimp only
  repeat' (first
    | with_reducible assumption
    | with_reducible apply State.setPort_ok
    | simp only [State.mk_ok]
    | with_reducible apply partsOk_same
    | dsimp only
    | split)

theorem State.cellBad_ok {q : Kept} : ∀ a0 a1, State.Ok q a0 → State.Ok q (State.cellBad a0 a1) := by
  intro _ _ _
  unfold State.cellBad
  try dsimp only
  repeat' (first
    | with_reducible assumption
    | with_reducible apply State.nakOnce_ok
    | with_reducible apply State.inc_ok
    | dsimp only)

theorem State.passCell_ok {q : Kept} : ∀ a0 a1 a2 a3, State.Ok q a0 → State.Ok q (State.passCell a0 a1 a2 a3).1 := by
  intro _ _ _ _ _
  unfold State.passCell
  try dsimp only
  repeat' (first
    | with_reducible assumption
    | with_reducible apply State.setPort_ok
    | simp only [State.mk_ok]
    | with_reducible apply partsOk_same
    | dsimp only
    | split)

theorem State.passStart_ok {q : Kept} : ∀ a0 a1 a2 a3 a4, State.Ok q a0 → State.Ok q (State.passStart a0 a1 a2 a3 a4) := by
  intro _ _ _ _ _ _
  unfold State.passStart
  try dsimp only
  repeat' (first
    | with_reducible assumption
    | with_reducible apply State.setPort_ok
    | with_reducible apply State.forward_ok
    | dsimp only
    | split)

theorem State.entries_ok {q : Kept} : ∀ a0 a1 a2 a3 a4, State.Ok q a0 → State.Ok q (State.entries a0 a1 a2 a3 a4) := by
  intro s n exped fuel buf h
  induction fuel generalizing s buf with
  | zero => exact h
  | succ fuel ih =>
    unfold State.entries
    dsimp only
    repeat' (first
      | with_reducible assumption
      | with_reducible apply ih
      | with_reducible apply State.setPort_ok
      | with_reducible apply State.linkDown_ok
      | with_reducible apply State.controlEntry_ok
      | with_reducible apply State.passStart_ok
      | with_reducible apply State.arrive_ok
      | split)

theorem State.streamCell_ok {q : Kept} : ∀ a0 a1 a2 a3 a4, State.Ok q a0 → State.Ok q (State.streamCell a0 a1 a2 a3 a4) := by
  intro _ _ _ _ _ _
  unfold State.streamCell
  try dsimp only
  repeat' (first
    | with_reducible assumption
    | with_reducible apply State.setPort_ok
    | with_reducible apply State.passCell_ok
    | with_reducible apply State.nakOnce_ok
    | with_reducible apply State.entries_ok
    | simp only [State.mk_ok]
    | with_reducible apply partsOk_same
    | dsimp only
    | split)

theorem State.idleEntries_ok {q : Kept} : ∀ a0 a1 a2 a3, State.Ok q a0 → State.Ok q (State.idleEntries a0 a1 a2 a3) := by
  intro a0 a1 a2 a3
  induction a2 generalizing a0 a1 a3 with
  | zero =>
    intro _
    unfold State.idleEntries
    try dsimp only
    repeat' (with_reducible assumption)
  | succ n ih =>
    intro _
    unfold State.idleEntries
    try dsimp only
    repeat' (first
      | with_reducible assumption
      | with_reducible apply ih
      | with_reducible apply State.controlEntry_ok
      | with_reducible apply foldl_ok
      | with_reducible apply foldl_fst_ok
      | with_reducible apply foldl_st_ok
      | dsimp only
      | split)

theorem State.idleCell_ok {q : Kept} : ∀ a0 a1 a2 a3, State.Ok q a0 → State.Ok q (State.idleCell a0 a1 a2 a3) := by
  intro _ _ _ _ _
  unfold State.idleCell
  try dsimp only
  repeat' (first
    | with_reducible assumption
    | with_reducible apply State.nakOnce_ok
    | with_reducible apply State.idleEntries_ok
    | dsimp only
    | split)

theorem State.codewordIn_ok {q : Kept} : ∀ a0 a1 a2, State.Ok q a0 → State.Ok q (State.codewordIn a0 a1 a2) := by
  intro _ _ _ _
  unfold State.codewordIn
  try dsimp only
  repeat' (first
    | with_reducible assumption
    | with_reducible apply State.streamCell_ok
    | with_reducible apply State.setPort_ok
    | with_reducible apply State.inc_ok
    | with_reducible apply State.idleCell_ok
    | with_reducible apply State.cellBad_ok
    | simp only [State.mk_ok]
    | with_reducible apply partsOk_same
    | dsimp only
    | split)

theorem execCodewordReceive_ok {q : Kept} : ∀ a0 a1 a2, State.Ok q a2 → OutOk q (execCodewordReceive a0 a1 a2) := by
  intro _ _ _ _
  unfold execCodewordReceive
  try dsimp only
  repeat' (first
    | with_reducible assumption
    | with_reducible apply outNext_ok
    | with_reducible apply notDue_ok
    | with_reducible exact reservedCode_ok
    | with_reducible exact outFault_ok _
    | with_reducible apply State.yardStep_ok
    | with_reducible apply State.notDue_ok
    | with_reducible apply State.codewordIn_ok
    | dsimp only
    | split
    | with_reducible intro _)

end Sys2Proof.Machine
end

