-- ==== Sys2Proof/Laws/KeepCheckpoint.lean ====
section
/-! SUPPORT. Laws/KeepCheckpoint.lean: the operations of Machine/Checkpoint.lean keep the canonical form and the queue (Laws/Ok.lean). -/

namespace Sys2Proof.Machine

theorem State.homeRead_ok {q : Kept} : ∀ a0 a1 a2 a3, State.Ok q a0 → State.Ok q (State.homeRead a0 a1 a2 a3) := by
  intro _ _ _ _ _
  unfold State.homeRead
  try dsimp only
  repeat' (first
    | with_reducible assumption
    | with_reducible apply State.yardRead_ok
    | with_reducible apply State.setYard_ok
    | with_reducible apply State.set_ok
    | simp only [State.mk_ok]
    | with_reducible apply partsOk_same
    | dsimp only)

theorem State.sendNvme_ok {q : Kept} : ∀ a0 a1 a2, State.Ok q a0 → State.Ok q (State.sendNvme a0 a1 a2) := by
  intro _ _ _ _
  unfold State.sendNvme
  try dsimp only
  repeat' (first
    | with_reducible assumption
    | with_reducible apply State.setCkp_ok
    | simp only [State.mk_ok]
    | with_reducible apply partsOk_same
    | dsimp only)

theorem State.drainNext_ok {q : Kept} : ∀ a0 a1 a2 a3, State.Ok q a0 → State.Ok q (State.drainNext a0 a1 a2 a3) := by
  intro _ _ _ _ _
  unfold State.drainNext
  try dsimp only
  repeat' (first
    | with_reducible assumption
    | with_reducible apply State.showWaiting_ok
    | with_reducible apply State.sendNvme_ok
    | with_reducible apply State.homeRead_ok
    | with_reducible apply State.drainPage_ok
    | with_reducible apply State.abandonCkp_ok
    | dsimp only
    | split)

theorem State.drainDone_ok {q : Kept} : ∀ a0 a1 a2, State.Ok q a0 → State.Ok q (State.drainDone a0 a1 a2) := by
  intro _ _ _ _
  unfold State.drainDone
  try dsimp only
  repeat' (first
    | with_reducible assumption
    | with_reducible apply YardWork.block_ok
    | with_reducible apply State.setCkp_ok
    | with_reducible apply State.set_ok
    | with_reducible apply State.sendNvme_ok
    | with_reducible apply State.drawBytes_ok
    | with_reducible apply State.draw_ok
    | with_reducible apply State.abandonCkp_ok
    | with_reducible apply Import.block_ok
    | simp only
    | with_reducible apply partsOk_same
    | dsimp only
    | split
    | with_reducible intro _)

theorem State.manifestOut_ok {q : Kept} : ∀ a0 a1, State.Ok q a0 → State.Ok q (State.manifestOut a0 a1) := by
  intro _ _ _
  unfold State.manifestOut
  try dsimp only
  repeat' (first
    | with_reducible assumption
    | with_reducible apply State.setCkp_ok
    | with_reducible apply State.ckpReport_ok
    | simp only [State.mk_ok]
    | with_reducible apply partsOk_same
    | dsimp only
    | split
    | with_reducible intro _)

theorem State.writeJob_ok {q : Kept} : ∀ a0 a1 a2 a3 a4, State.Ok q a0 → State.Ok q (State.writeJob a0 a1 a2 a3 a4) := by
  intro _ _ _ _ _ _
  unfold State.writeJob
  try dsimp only
  repeat' (first
    | with_reducible assumption
    | with_reducible apply State.setCkp_ok
    | with_reducible apply State.set_ok
    | with_reducible apply State.sendNvme_ok
    | with_reducible apply State.abandonCkp_ok
    | simp only [State.mk_ok]
    | with_reducible apply partsOk_same
    | dsimp only
    | split)

theorem State.nvmeDone_ok {q : Kept} : ∀ a0 a1, State.Ok q a0 → State.Ok q (State.nvmeDone a0 a1) := by
  intro _ _ _
  unfold State.nvmeDone
  try dsimp only
  repeat' (first
    | with_reducible assumption
    | with_reducible apply YardWork.block_ok
    | with_reducible apply State.setCkp_ok
    | with_reducible apply State.sendNvme_ok
    | with_reducible apply State.manifestOut_ok
    | with_reducible apply Import.block_ok
    | simp only [State.mk_ok]
    | with_reducible apply partsOk_same
    | dsimp only
    | split
    | with_reducible intro _)

theorem State.published_ok {q : Kept} : ∀ a0 a1 a2 a3 a4 a5, State.Ok q a0 → State.Ok q (State.published a0 a1 a2 a3 a4 a5) := by
  intro _ _ _ _ _ _ _
  unfold State.published
  try dsimp only
  repeat' (first
    | with_reducible assumption
    | with_reducible apply State.tellMembers_ok
    | with_reducible apply State.setCkp_ok
    | with_reducible apply State.set_ok
    | simp only [State.mk_ok]
    | with_reducible apply partsOk_same
    | dsimp only
    | split)

theorem State.choose_ok {q : Kept} : ∀ a0 a1 a2 a3, State.Ok q a0 → State.Ok q (State.choose a0 a1 a2 a3).1 := by
  intro a0 a1 a2 a3
  induction a3 generalizing a0 a1 a2 with
  | nil =>
    intro _
    unfold State.choose
    try dsimp only
    repeat' (with_reducible assumption)
  | cons y l ih =>
    intro _
    unfold State.choose
    try dsimp only
    repeat' (first
      | with_reducible assumption
      | with_reducible apply ih
      | with_reducible apply State.ckpError_ok
      | with_reducible apply foldl_ok
      | with_reducible apply foldl_fst_ok
      | with_reducible apply foldl_st_ok
      | dsimp only
      | split)

theorem State.writePart_ok {q : Kept} : ∀ a0 a1 a2 a3 a4, State.Ok q a0 → State.Ok q (State.writePart a0 a1 a2 a3 a4) := by
  intro _ _ _ _ _ _
  unfold State.writePart
  try dsimp only
  repeat' (first
    | with_reducible assumption
    | with_reducible apply YardWork.start_ok
    | with_reducible apply State.localWrite_ok
    | dsimp only
    | split)

theorem State.restoreShard_ok {q : Kept} : ∀ a0 a1 a2, State.Ok q a0 → State.Ok q (State.restoreShard a0 a1 a2) := by
  intro _ _ _ _
  unfold State.restoreShard
  try dsimp only
  repeat' (first
    | with_reducible assumption
    | with_reducible apply State.writePart_ok
    | with_reducible apply State.put_ok
    | simp only [State.mk_ok]
    | with_reducible apply partsOk_same
    | with_reducible apply foldl_ok
    | with_reducible apply foldl_fst_ok
    | with_reducible apply foldl_st_ok
    | with_reducible apply foldl_out_ok
    | dsimp only
    | split
    | with_reducible intro _)

theorem State.readRoots_ok {q : Kept} : ∀ a0 a1 a2, State.Ok q a0 → State.Ok q (State.readRoots a0 a1 a2) := by
  intro _ _ _ _
  unfold State.readRoots
  try dsimp only
  repeat' (first
    | with_reducible assumption
    | with_reducible apply YardWork.block_ok
    | with_reducible apply State.setCkp_ok
    | with_reducible apply Import.block_ok
    | simp only [State.mk_ok]
    | with_reducible apply partsOk_same
    | dsimp only
    | split
    | with_reducible intro _)

theorem State.readMembers_ok {q : Kept} : ∀ a0 a1 a2, State.Ok q a0 → State.Ok q (State.readMembers a0 a1 a2) := by
  intro _ _ _ _
  unfold State.readMembers
  try dsimp only
  repeat' (first
    | with_reducible assumption
    | with_reducible apply State.setCkp_ok
    | simp only [State.mk_ok]
    | with_reducible apply partsOk_same
    | dsimp only
    | with_reducible intro _)

theorem State.restored_ok {q : Kept} : ∀ a0 a1 a2 a3, State.Ok q a0 → State.Ok q (State.restored a0 a1 a2 a3) := by
  intro _ _ _ _ _
  unfold State.restored
  try dsimp only
  repeat' (first
    | with_reducible assumption
    | with_reducible apply State.set_ok
    | with_reducible apply State.restoreShard_ok
    | with_reducible apply State.readRoots_ok
    | with_reducible apply State.readMembers_ok
    | with_reducible apply State.ckpError_ok
    | with_reducible apply State.choose_ok
    | simp only [State.mk_ok]
    | with_reducible apply partsOk_same
    | with_reducible apply foldl_ok
    | with_reducible apply foldl_fst_ok
    | with_reducible apply foldl_st_ok
    | with_reducible apply foldl_out_ok
    | dsimp only
    | split
    | with_reducible intro _)

theorem execDrainPageRead_ok {q : Kept} : ∀ a0 a1 a2, State.Ok q a2 → OutOk q (execDrainPageRead a0 a1 a2) := by
  intro _ _ _ _
  unfold execDrainPageRead
  try dsimp only
  repeat' (first
    | with_reducible assumption
    | with_reducible apply outNext_ok
    | with_reducible apply notDue_ok
    | with_reducible exact reservedCode_ok
    | with_reducible exact outFault_ok _
    | with_reducible apply State.yardStep_ok
    | with_reducible apply State.notDue_ok
    | with_reducible apply State.drainNext_ok
    | simp only [State.mk_ok]
    | with_reducible apply partsOk_same
    | dsimp only
    | split
    | with_reducible intro _)

theorem execCkpDrainDone_ok {q : Kept} : ∀ a0 a1 a2, State.Ok q a2 → OutOk q (execCkpDrainDone a0 a1 a2) := by
  intro _ _ _ _
  unfold execCkpDrainDone
  try dsimp only
  repeat' (first
    | with_reducible assumption
    | with_reducible apply outNext_ok
    | with_reducible apply notDue_ok
    | with_reducible exact reservedCode_ok
    | with_reducible exact outFault_ok _
    | with_reducible apply State.notDue_ok
    | with_reducible apply State.drainDone_ok
    | dsimp only
    | split
    | with_reducible intro _)

theorem execJobManifestWrite_ok {q : Kept} : ∀ a0 a1, State.Ok q a1 → OutOk q (execJobManifestWrite a0 a1) := by
  intro _ _ _
  unfold execJobManifestWrite
  try dsimp only
  repeat' (first
    | with_reducible assumption
    | with_reducible apply outNext_ok
    | with_reducible apply notDue_ok
    | with_reducible exact reservedCode_ok
    | with_reducible exact outFault_ok _
    | with_reducible apply State.writeJob_ok
    | with_reducible apply State.notDue_ok
    | dsimp only
    | split)

theorem execCkpPublished_ok {q : Kept} : ∀ a0 a1 a2 a3 a4 a5, State.Ok q a5 → OutOk q (execCkpPublished a0 a1 a2 a3 a4 a5) := by
  intro _ _ _ _ _ _ _
  unfold execCkpPublished
  try dsimp only
  repeat' (first
    | with_reducible assumption
    | with_reducible apply outNext_ok
    | with_reducible apply notDue_ok
    | with_reducible exact reservedCode_ok
    | with_reducible exact outFault_ok _
    | with_reducible apply State.published_ok
    | with_reducible apply State.notDue_ok
    | dsimp only
    | split)

theorem execNvmeCompletion_ok {q : Kept} : ∀ a0 a1 a2, State.Ok q a2 → OutOk q (execNvmeCompletion a0 a1 a2) := by
  intro _ _ _ _
  unfold execNvmeCompletion
  try dsimp only
  repeat' (first
    | with_reducible assumption
    | with_reducible apply outNext_ok
    | with_reducible apply notDue_ok
    | with_reducible exact reservedCode_ok
    | with_reducible exact outFault_ok _
    | with_reducible apply State.nvmeDone_ok
    | with_reducible apply State.notDue_ok
    | with_reducible apply State.dropCkp_ok
    | dsimp only
    | split)

theorem execCkPartial_ok {q : Kept} : ∀ a0 a1, State.Ok q a1 → OutOk q (execCkPartial a0 a1) := by
  intro _ _ _
  unfold execCkPartial
  try dsimp only
  repeat' (first
    | with_reducible assumption
    | with_reducible apply outNext_ok
    | with_reducible apply notDue_ok
    | with_reducible exact reservedCode_ok
    | with_reducible exact outFault_ok _
    | with_reducible apply State.notDue_ok
    | with_reducible apply State.abandonCkp_ok
    | dsimp only
    | split
    | with_reducible intro _)

theorem execRestore_ok {q : Kept} : ∀ a0 a1 a2 a3, State.Ok q a3 → OutOk q (execRestore a0 a1 a2 a3) := by
  intro _ _ _ _ _
  unfold execRestore
  try dsimp only
  repeat' (first
    | with_reducible assumption
    | with_reducible apply outNext_ok
    | with_reducible apply notDue_ok
    | with_reducible exact reservedCode_ok
    | with_reducible exact outFault_ok _
    | with_reducible apply State.yardStep_ok
    | with_reducible apply State.restored_ok
    | with_reducible apply State.notDue_ok
    | dsimp only
    | split
    | with_reducible intro _)

end Sys2Proof.Machine
end

