-- ==== Sys2Proof/Laws/KeepControlDma.lean ====
section
/-! SUPPORT. Laws/KeepControlDma.lean: the operations of Machine/ControlDma.lean keep the canonical form and the queue (Laws/Ok.lean). -/

namespace Sys2Proof.Machine

theorem State.cdTake_ok {q : Kept} : ∀ a0 a1, State.Ok q a0 → State.Ok q (State.cdTake a0 a1) := by
  intro _ _ _
  unfold State.cdTake
  try dsimp only
  repeat' (first
    | with_reducible assumption
    | with_reducible apply State.setCdrun_ok
    | with_reducible apply State.set_ok
    | simp only [State.mk_ok]
    | with_reducible apply partsOk_same
    | dsimp only
    | split)

theorem State.cdPut_ok {q : Kept} : ∀ a0 a1 a2, State.Ok q a0 → State.Ok q (State.cdPut a0 a1 a2) := by
  intro _ _ _ _
  unfold State.cdPut
  try dsimp only
  repeat' (first
    | with_reducible assumption
    | with_reducible apply State.put_ok
    | with_reducible apply foldl_ok
    | with_reducible apply foldl_fst_ok
    | with_reducible apply foldl_st_ok
    | with_reducible apply foldl_out_ok
    | dsimp only
    | with_reducible intro _)

theorem State.cdLoad_ok {q : Kept} : ∀ a0 a1 a2 a3 a4 a5, State.Ok q a0 → State.Ok q (State.cdLoad a0 a1 a2 a3 a4 a5) := by
  intro _ _ _ _ _ _ _
  unfold State.cdLoad
  try dsimp only
  repeat' (first
    | with_reducible assumption
    | with_reducible apply State.cdPut_ok
    | with_reducible apply foldl_ok
    | with_reducible apply foldl_fst_ok
    | with_reducible apply foldl_st_ok
    | with_reducible apply foldl_out_ok
    | dsimp only
    | with_reducible intro _)

theorem State.cdClean_ok {q : Kept} : ∀ a0, State.Ok q a0 → State.Ok q (State.cdClean a0) := by
  intro s h
  exact ⟨⟨⟨Tab.filter_rising _ h.wf.1, Tab.filter_noDefault _ h.wf.2.1, Tab.filter_rising _ h.wf.2.2.1, Tab.filter_noDefault _ h.wf.2.2.2⟩, h.rising⟩, h.2⟩

theorem State.cdPacket_ok {q : Kept} : ∀ a0 a1 a2, State.Ok q a0 → State.Ok q (State.cdPacket a0 a1 a2) := by
  intro _ _ _ _
  unfold State.cdPacket
  try dsimp only
  repeat' (first
    | with_reducible assumption
    | with_reducible apply State.setCdrun_ok
    | with_reducible apply State.route_ok
    | with_reducible apply State.refuse_ok
    | simp only [State.mk_ok]
    | with_reducible apply partsOk_same
    | dsimp only
    | split
    | with_reducible intro _)

theorem State.cdAsk_ok {q : Kept} : ∀ a0 a1 a2, State.Ok q a0 → State.Ok q (State.cdAsk a0 a1 a2) := by
  intro _ _ _ _
  unfold State.cdAsk
  try dsimp only
  repeat' (first
    | with_reducible assumption
    | with_reducible apply State.setCdrun_ok
    | with_reducible apply State.cdPacket_ok
    | simp only [State.mk_ok]
    | with_reducible apply partsOk_same
    | with_reducible apply foldl_ok
    | with_reducible apply foldl_fst_ok
    | with_reducible apply foldl_st_ok
    | with_reducible apply foldl_out_ok
    | dsimp only
    | with_reducible intro _)

theorem State.cdSend_ok {q : Kept} : ∀ a0 a1 a2 a3 a4 a5, State.Ok q a0 → State.Ok q (State.cdSend a0 a1 a2 a3 a4 a5) := by
  intro _ _ _ _ _ _ _
  unfold State.cdSend
  try dsimp only
  repeat' (first
    | with_reducible assumption
    | with_reducible apply State.cdPacket_ok
    | simp only [State.mk_ok]
    | with_reducible apply partsOk_same
    | with_reducible apply foldl_ok
    | with_reducible apply foldl_fst_ok
    | with_reducible apply foldl_st_ok
    | with_reducible apply foldl_out_ok
    | dsimp only
    | with_reducible intro _)

theorem State.copyWork_ok {q : Kept} : ∀ a0 a1 a2, State.Ok q a0 → State.Ok q (State.copyWork a0 a1 a2) := by
  intro _ _ _ _
  unfold State.copyWork
  try dsimp only
  repeat' (first
    | with_reducible assumption
    | with_reducible apply State.setCdrun_ok
    | with_reducible apply State.lineWrite_ok
    | with_reducible apply State.countRead_ok
    | with_reducible apply State.cdSend_ok
    | with_reducible apply State.cdLoad_ok
    | with_reducible apply State.cdClean_ok
    | simp only [State.mk_ok]
    | with_reducible apply partsOk_same
    | with_reducible apply foldl_ok
    | with_reducible apply foldl_fst_ok
    | with_reducible apply foldl_st_ok
    | with_reducible apply foldl_out_ok
    | dsimp only
    | split
    | with_reducible intro _)

theorem State.cdImport_ok {q : Kept} : ∀ a0 a1 a2 a3 a4, State.Ok q a0 → State.Ok q (State.cdImport a0 a1 a2 a3 a4) := by
  intro _ _ _ _ _ _
  unfold State.cdImport
  try dsimp only
  repeat' (first
    | with_reducible assumption
    | with_reducible apply State.setCdrun_ok
    | with_reducible apply State.putPieces_ok
    | with_reducible apply State.importRows_ok
    | with_reducible apply State.countRead_ok
    | with_reducible apply State.countPen_ok
    | with_reducible apply State.cdSend_ok
    | with_reducible apply State.cdLoad_ok
    | with_reducible apply State.cdClean_ok
    | simp only [State.mk_ok]
    | with_reducible apply partsOk_same
    | dsimp only
    | split)

theorem State.cdExport_ok {q : Kept} : ∀ a0 a1 a2 a3 a4, State.Ok q a0 → State.Ok q (State.cdExport a0 a1 a2 a3 a4) := by
  intro _ _ _ _ _ _
  unfold State.cdExport
  try dsimp only
  repeat' (first
    | with_reducible assumption
    | with_reducible apply State.setCdrun_ok
    | with_reducible apply State.putPieces_ok
    | with_reducible apply State.countRead_ok
    | with_reducible apply State.countPen_ok
    | with_reducible apply State.cdSend_ok
    | with_reducible apply State.cdLoad_ok
    | with_reducible apply State.cdClean_ok
    | simp only [State.mk_ok]
    | with_reducible apply partsOk_same
    | dsimp only
    | split)

theorem State.copyStep_ok {q : Kept} : ∀ a0 a1, State.Ok q a0 → State.Ok q (State.copyStep a0 a1) := by
  intro _ _ _
  unfold State.copyStep
  try dsimp only
  repeat' (first
    | with_reducible assumption
    | with_reducible apply State.copyWork_ok
    | with_reducible apply State.cdEnd_ok
    | with_reducible apply State.cdAsk_ok
    | dsimp only
    | split)

theorem State.tensorStep_ok {q : Kept} : ∀ a0 a1 a2 a3 a4, State.Ok q a0 → State.Ok q (State.tensorStep a0 a1 a2 a3 a4) := by
  intro _ _ _ _ _ _
  unfold State.tensorStep
  try dsimp only
  repeat' (first
    | with_reducible assumption
    | with_reducible apply State.cdImport_ok
    | with_reducible apply State.cdExport_ok
    | with_reducible apply State.cdEnd_ok
    | with_reducible apply State.cdAsk_ok
    | dsimp only
    | split)

theorem State.convertStep_ok {q : Kept} : ∀ a0 a1, State.Ok q a0 → State.Ok q (State.convertStep a0 a1) := by
  intro _ _ _
  unfold State.convertStep
  try dsimp only
  repeat' (first
    | with_reducible assumption
    | with_reducible apply State.tensorStep_ok
    | with_reducible apply State.cdEnd_ok
    | with_reducible apply State.cdAsk_ok
    | dsimp only
    | split)

theorem State.cdComplete_ok {q : Kept} : ∀ a0 a1, State.Ok q a0 → State.Ok q (State.cdComplete a0 a1) := by
  intro _ _ _
  unfold State.cdComplete
  try dsimp only
  repeat' (first
    | with_reducible assumption
    | with_reducible apply State.setCdrun_ok
    | with_reducible apply State.set_ok
    | with_reducible apply State.ringName_ok
    | with_reducible apply State.localWrite_ok
    | simp only [State.mk_ok]
    | with_reducible apply partsOk_same
    | dsimp only
    | split)

theorem execCopy_ok {q : Kept} : ∀ a0 a1, State.Ok q a1 → OutOk q (execCopy a0 a1) := by
  intro _ _ _
  unfold execCopy
  try dsimp only
  repeat' (first
    | with_reducible assumption
    | with_reducible apply outNext_ok
    | with_reducible apply notDue_ok
    | with_reducible exact reservedCode_ok
    | with_reducible exact outFault_ok _
    | with_reducible apply State.yardStep_ok
    | with_reducible apply State.notDue_ok
    | with_reducible apply State.copyStep_ok
    | with_reducible apply State.cdTake_ok
    | dsimp only
    | split
    | with_reducible intro _)

theorem execDmaImport_ok {q : Kept} : ∀ a0 a1, State.Ok q a1 → OutOk q (execDmaImport a0 a1) := by
  intro _ _ _
  unfold execDmaImport
  try dsimp only
  repeat' (first
    | with_reducible assumption
    | with_reducible apply outNext_ok
    | with_reducible apply notDue_ok
    | with_reducible exact reservedCode_ok
    | with_reducible exact outFault_ok _
    | with_reducible apply State.yardStep_ok
    | with_reducible apply State.notDue_ok
    | with_reducible apply State.convertStep_ok
    | with_reducible apply State.cdTake_ok
    | dsimp only
    | split
    | with_reducible intro _)

theorem execDmaExport_ok {q : Kept} : ∀ a0 a1, State.Ok q a1 → OutOk q (execDmaExport a0 a1) := by
  intro _ _ _
  unfold execDmaExport
  try dsimp only
  repeat' (first
    | with_reducible assumption
    | with_reducible apply outNext_ok
    | with_reducible apply notDue_ok
    | with_reducible exact reservedCode_ok
    | with_reducible exact outFault_ok _
    | with_reducible apply State.yardStep_ok
    | with_reducible apply State.notDue_ok
    | with_reducible apply State.convertStep_ok
    | with_reducible apply State.cdTake_ok
    | dsimp only
    | split
    | with_reducible intro _)

theorem execCdDmaComplete_ok {q : Kept} : ∀ a0 a1, State.Ok q a1 → OutOk q (execCdDmaComplete a0 a1) := by
  intro _ _ _
  unfold execCdDmaComplete
  try dsimp only
  repeat' (first
    | with_reducible assumption
    | with_reducible apply outNext_ok
    | with_reducible apply notDue_ok
    | with_reducible exact reservedCode_ok
    | with_reducible exact outFault_ok _
    | with_reducible apply State.yardStep_ok
    | with_reducible apply State.notDue_ok
    | with_reducible apply State.cdTake_ok
    | with_reducible apply State.cdComplete_ok
    | dsimp only
    | split
    | with_reducible intro _)

end Sys2Proof.Machine
end

