-- ==== Sys2Proof/Laws/KeepWatch.lean ====
section
/-! SUPPORT. Laws/KeepWatch.lean: the operations of Machine/Watch.lean keep the canonical form and the queue (Laws/Ok.lean). -/

namespace Sys2Proof.Machine

theorem State.interrupt_ok {q : Kept} : ∀ a0 a1 a2, State.Ok q a0 → State.Ok q (State.interrupt a0 a1 a2) := by
  intro _ _ _ _
  unfold State.interrupt
  try dsimp only
  repeat' (first
    | with_reducible assumption
    | with_reducible apply State.setHcore_ok
    | simp only [State.mk_ok]
    | with_reducible apply partsOk_same
    | dsimp only)

theorem State.sendTrailer_ok {q : Kept} : ∀ a0 a1 a2, State.Ok q a0 → State.Ok q (State.sendTrailer a0 a1 a2) := by
  intro _ _ _ _
  unfold State.sendTrailer
  try dsimp only
  repeat' (first
    | with_reducible assumption
    | with_reducible apply State.setHcore_ok
    | simp only [State.mk_ok]
    | with_reducible apply partsOk_same
    | dsimp only)

theorem State.watchFire_ok {q : Kept} : ∀ a0 a1, State.Ok q a0 → State.Ok q (State.watchFire a0 a1) := by
  intro _ _ _
  unfold State.watchFire
  try dsimp only
  repeat' (first
    | with_reducible assumption
    | with_reducible apply YardWork.count_ok
    | with_reducible apply State.set_ok
    | with_reducible apply State.sendTrailer_ok
    | with_reducible apply State.interrupt_ok
    | dsimp only
    | split)

theorem execWatchFire_ok {q : Kept} : ∀ a0 a1, State.Ok q a1 → OutOk q (execWatchFire a0 a1) := by
  intro _ _ _
  unfold execWatchFire
  try dsimp only
  repeat' (first
    | with_reducible assumption
    | with_reducible apply outNext_ok
    | with_reducible apply notDue_ok
    | with_reducible exact reservedCode_ok
    | with_reducible exact outFault_ok _
    | with_reducible apply State.watchFire_ok
    | with_reducible apply State.notDue_ok
    | dsimp only
    | split)

theorem execScoreRequest_ok {q : Kept} : ∀ a0 a1 a2 a3, State.Ok q a3 → OutOk q (execScoreRequest a0 a1 a2 a3) := by
  intro _ _ _ _ _
  unfold execScoreRequest
  try dsimp only
  repeat' (first
    | with_reducible assumption
    | with_reducible apply outNext_ok
    | with_reducible apply notDue_ok
    | with_reducible exact reservedCode_ok
    | with_reducible exact outFault_ok _
    | with_reducible apply State.setHcore_ok
    | with_reducible apply State.notDue_ok
    | with_reducible apply State.answer_ok
    | simp only [State.mk_ok]
    | with_reducible apply partsOk_same
    | dsimp only
    | split)

theorem execCnpReceive_ok {q : Kept} : ∀ a0 a1, State.Ok q a1 → OutOk q (execCnpReceive a0 a1) := by
  intro _ _ _
  unfold execCnpReceive
  try dsimp only
  repeat' (first
    | with_reducible assumption
    | with_reducible apply outNext_ok
    | with_reducible apply notDue_ok
    | with_reducible exact reservedCode_ok
    | with_reducible exact outFault_ok _
    | with_reducible apply State.setQpair_ok
    | with_reducible apply State.notDue_ok
    | simp only [State.mk_ok]
    | with_reducible apply partsOk_same
    | dsimp only
    | split)

theorem execRateRegainTimer_ok {q : Kept} : ∀ a0 a1, State.Ok q a1 → OutOk q (execRateRegainTimer a0 a1) := by
  intro _ _ _
  unfold execRateRegainTimer
  try dsimp only
  repeat' (first
    | with_reducible assumption
    | with_reducible apply outNext_ok
    | with_reducible apply notDue_ok
    | with_reducible exact reservedCode_ok
    | with_reducible exact outFault_ok _
    | with_reducible apply State.setQpair_ok
    | with_reducible apply State.notDue_ok
    | dsimp only
    | split)

theorem execEcnMarkedReceive_ok {q : Kept} : ∀ a0 a1, State.Ok q a1 → OutOk q (execEcnMarkedReceive a0 a1) := by
  intro _ _ _
  unfold execEcnMarkedReceive
  try dsimp only
  repeat' (first
    | with_reducible assumption
    | with_reducible apply outNext_ok
    | with_reducible apply notDue_ok
    | with_reducible exact reservedCode_ok
    | with_reducible exact outFault_ok _
    | with_reducible apply State.setQpair_ok
    | with_reducible apply State.notDue_ok
    | simp only [State.mk_ok]
    | with_reducible apply partsOk_same
    | dsimp only
    | split)

theorem State.rdma_ok {q : Kept} : ∀ a0 a1 a2 a3 a4, State.Ok q a0 → State.Ok q (State.rdma a0 a1 a2 a3 a4) := by
  intro _ _ _ _ _ _
  unfold State.rdma
  try dsimp only
  repeat' (first
    | with_reducible assumption
    | with_reducible apply State.put_ok
    | with_reducible apply State.answer_ok
    | dsimp only
    | split
    | with_reducible intro _)

theorem execRdmaTargetAccess_ok {q : Kept} : ∀ a0 a1 a2 a3 a4 a5, State.Ok q a5 → OutOk q (execRdmaTargetAccess a0 a1 a2 a3 a4 a5) := by
  intro _ _ _ _ _ _ _
  unfold execRdmaTargetAccess
  try dsimp only
  repeat' (first
    | with_reducible assumption
    | with_reducible apply outNext_ok
    | with_reducible apply notDue_ok
    | with_reducible exact reservedCode_ok
    | with_reducible exact outFault_ok _
    | with_reducible apply State.rdma_ok
    | with_reducible apply State.notDue_ok
    | with_reducible apply State.answer_ok
    | dsimp only
    | split)

theorem State.windowAccess_ok {q : Kept} : ∀ a0 a1 a2 a3, State.Ok q a0 → State.Ok q (State.windowAccess a0 a1 a2 a3) := by
  intro _ _ _ _ _
  unfold State.windowAccess
  try dsimp only
  repeat' (first
    | with_reducible assumption
    | with_reducible apply State.localWrite_ok
    | with_reducible apply State.countRead_ok
    | with_reducible apply State.answer_ok
    | simp only [State.mk_ok]
    | with_reducible apply partsOk_same
    | dsimp only
    | split
    | with_reducible intro _)

theorem State.mailboxAccess_ok {q : Kept} : ∀ a0 a1 a2, State.Ok q a0 → State.Ok q (State.mailboxAccess a0 a1 a2) := by
  intro _ _ _ _
  unfold State.mailboxAccess
  try dsimp only
  repeat' (first
    | with_reducible assumption
    | with_reducible apply State.drawBytes_ok
    | with_reducible apply State.answer_ok
    | simp only [State.mk_ok]
    | with_reducible apply partsOk_same
    | dsimp only
    | split)

theorem execPcieHostAccess_ok {q : Kept} : ∀ a0 a1 a2 a3 a4, State.Ok q a4 → OutOk q (execPcieHostAccess a0 a1 a2 a3 a4) := by
  intro _ _ _ _ _ _
  unfold execPcieHostAccess
  try dsimp only
  repeat' (first
    | with_reducible assumption
    | with_reducible apply outNext_ok
    | with_reducible apply notDue_ok
    | with_reducible exact reservedCode_ok
    | with_reducible exact outFault_ok _
    | with_reducible apply State.yardStep_ok
    | with_reducible apply State.windowAccess_ok
    | with_reducible apply State.notDue_ok
    | with_reducible apply State.mailboxAccess_ok
    | with_reducible apply State.answer_ok
    | simp only [State.mk_ok]
    | with_reducible apply partsOk_same
    | dsimp only
    | split
    | with_reducible intro _)

theorem execPcieInboundDma_ok {q : Kept} : ∀ a0 a1 a2, State.Ok q a2 → OutOk q (execPcieInboundDma a0 a1 a2) := by
  intro _ _ _ _
  unfold execPcieInboundDma
  try dsimp only
  repeat' (first
    | with_reducible assumption
    | with_reducible apply outNext_ok
    | with_reducible apply notDue_ok
    | with_reducible exact reservedCode_ok
    | with_reducible exact outFault_ok _
    | with_reducible apply State.yardStep_ok
    | with_reducible apply State.windowAccess_ok
    | with_reducible apply State.notDue_ok
    | with_reducible apply State.answer_ok
    | simp only [State.mk_ok]
    | with_reducible apply partsOk_same
    | dsimp only
    | split
    | with_reducible intro _)

theorem State.rotRefuse_ok {q : Kept} : ∀ a0, State.Ok q a0 → State.Ok q (State.rotRefuse a0) := by
  intro _ _
  unfold State.rotRefuse
  try dsimp only
  repeat' (first
    | with_reducible assumption
    | with_reducible apply State.inc_ok
    | with_reducible apply State.answer_ok
    | dsimp only)

theorem execRotEnrol_ok {q : Kept} : ∀ a0 a1, State.Ok q a1 → ∀ t, execRotEnrol a0 a1 = .next t →
    t.Inv ∧ t.pending = q.queue ∧ ∀ k, q.marks k ≤ Tab.get 0 t.rot.high k := by
  intro c s h t e
  have h1 := State.rotRefuse_ok s h
  have h2 := State.answer_ok s .refused h
  unfold execRotEnrol at e
  repeat' split at e
  all_goals (first
    | exact absurd e (by unfold notEnabled; intro h0; cases h0)
    | (cases e; exact ⟨h1.1, h1.2.1, h1.2.2.2⟩)
    | (cases e; exact ⟨h2.1, h2.2.1, h2.2.2.2⟩))

theorem execRotKeyLoad_ok {q : Kept} : ∀ a0 a1, State.Ok q a1 → ∀ t, execRotKeyLoad a0 a1 = .next t →
    t.Inv ∧ t.pending = q.queue ∧ ∀ k, q.marks k ≤ Tab.get 0 t.rot.high k := by
  intro c s h t e
  have h1 := State.rotRefuse_ok s h
  have h2 := State.answer_ok s .refused h
  unfold execRotKeyLoad at e
  repeat' split at e
  all_goals (first
    | exact absurd e (by unfold notEnabled; intro h0; cases h0)
    | (cases e; exact ⟨h1.1, h1.2.1, h1.2.2.2⟩)
    | (cases e; exact ⟨h2.1, h2.2.1, h2.2.2.2⟩))

end Sys2Proof.Machine
end

