-- ==== Sys2Proof/Laws/KeepHiold.lean ====
section
/-! SUPPORT. Laws/KeepHiold.lean: the operations of Machine/Hiold.lean keep the canonical form and the queue (Laws/Ok.lean). -/

namespace Sys2Proof.Machine

theorem State.loadRecord_ok {q : Kept} : ∀ a0 a1 a2 a3, State.Ok q a0 → State.Ok q (State.loadRecord a0 a1 a2 a3) := by
  intro _ _ _ _ _
  unfold State.loadRecord
  try dsimp only
  repeat' (first
    | with_reducible assumption
    | with_reducible apply State.setHcore_ok
    | with_reducible apply State.countRead_ok
    | with_reducible apply foldl_ok
    | with_reducible apply foldl_fst_ok
    | with_reducible apply foldl_st_ok
    | with_reducible apply foldl_out_ok
    | dsimp only
    | with_reducible intro _)

theorem State.storeRecord_ok {q : Kept} : ∀ a0 a1 a2 a3, State.Ok q a0 → State.Ok q (State.storeRecord a0 a1 a2 a3) := by
  intro _ _ _ _ _
  unfold State.storeRecord
  try dsimp only
  repeat' (first
    | with_reducible assumption
    | with_reducible apply State.localWrite_ok
    | dsimp only
    | with_reducible intro _)

theorem State.doRecord_ok {q : Kept} : ∀ a0 a1 a2 a3, State.Ok q a0 → State.Ok q (State.doRecord a0 a1 a2 a3) := by
  intro _ _ _ _ _
  unfold State.doRecord
  try dsimp only
  repeat' (first
    | with_reducible assumption
    | with_reducible apply State.storeRecord_ok
    | with_reducible apply State.loadRecord_ok
    | dsimp only
    | split)

theorem State.recordFault_ok {q : Kept} : ∀ a0 a1 a2 a3 a4, State.Ok q a0 → State.Ok q (State.recordFault a0 a1 a2 a3 a4) := by
  intro _ _ _ _ _ _
  unfold State.recordFault
  try dsimp only
  repeat' (first
    | with_reducible assumption
    | with_reducible apply State.setHcore_ok
    | simp only [State.mk_ok]
    | with_reducible apply partsOk_same
    | dsimp only
    | split)

theorem State.recordsDone_ok {q : Kept} : ∀ a0 a1 a2, State.Ok q a0 → State.Ok q (State.recordsDone a0 a1 a2) := by
  intro _ _ _ _
  unfold State.recordsDone
  try dsimp only
  repeat' (first
    | with_reducible assumption
    | with_reducible apply State.setHcore_ok
    | simp only [State.mk_ok]
    | with_reducible apply partsOk_same
    | dsimp only)

theorem State.recordsService_ok {q : Kept} : ∀ a0 a1 a2 a3 a4, State.Ok q a0 → State.Ok q (State.recordsService a0 a1 a2 a3 a4) := by
  intro a0 a1 a2 a3 a4
  induction a3 generalizing a0 a1 a2 a4 with
  | zero =>
    intro _
    unfold State.recordsService
    try dsimp only
    repeat' (first
      | with_reducible assumption
      | with_reducible apply State.recordsDone_ok)
  | succ n ih =>
    intro _
    unfold State.recordsService
    try dsimp only
    repeat' (first
      | with_reducible assumption
      | with_reducible apply ih
      | with_reducible apply State.recordsDone_ok
      | with_reducible apply State.recordFault_ok
      | with_reducible apply State.doRecord_ok
      | with_reducible apply foldl_ok
      | with_reducible apply foldl_fst_ok
      | with_reducible apply foldl_st_ok
      | dsimp only
      | split)

theorem State.recordsMain_ok {q : Kept} : ∀ a0 a1 a2, State.Ok q a0 → State.Ok q (State.recordsMain a0 a1 a2) := by
  intro _ _ _ _
  unfold State.recordsMain
  try dsimp only
  repeat' (first
    | with_reducible assumption
    | with_reducible apply State.recordsDone_ok
    | with_reducible apply State.recordFault_ok
    | with_reducible apply State.doRecord_ok
    | simp only [State.mk_ok]
    | with_reducible apply partsOk_same
    | with_reducible apply foldl_ok
    | with_reducible apply foldl_fst_ok
    | with_reducible apply foldl_st_ok
    | with_reducible apply foldl_out_ok
    | dsimp only
    | split
    | with_reducible intro _)

theorem State.recordRun_ok {q : Kept} : ∀ a0 a1 a2 a3, State.Ok q a0 → State.Ok q (State.recordRun a0 a1 a2 a3) := by
  intro _ _ _ _ _
  unfold State.recordRun
  try dsimp only
  repeat' (first
    | with_reducible assumption
    | with_reducible apply State.recordsService_ok
    | with_reducible apply State.recordsMain_ok
    | dsimp only
    | split)

theorem State.recordExec_ok {q : Kept} : ∀ a0 a1 a2, State.Ok q a0 → State.Ok q (State.recordExec a0 a1 a2) := by
  intro _ _ _ _
  unfold State.recordExec
  try dsimp only
  repeat' (first
    | with_reducible assumption
    | with_reducible apply State.setHcore_ok
    | with_reducible apply State.recordRun_ok
    | simp only [State.mk_ok]
    | with_reducible apply partsOk_same
    | dsimp only
    | split)

theorem State.trapReturn_ok {q : Kept} : ∀ a0 a1, State.Ok q a0 → State.Ok q (State.trapReturn a0 a1) := by
  intro _ _ _
  unfold State.trapReturn
  try dsimp only
  repeat' (first
    | with_reducible assumption
    | with_reducible apply State.setHcore_ok
    | with_reducible apply State.recordRun_ok
    | simp only [State.mk_ok]
    | with_reducible apply partsOk_same
    | dsimp only
    | split)

theorem State.recordRow_ok {q : Kept} : ∀ a0 a1 a2 a3 a4 a5 a6 a7, State.Ok q a0 → OutOk q (State.recordRow a0 a1 a2 a3 a4 a5 a6 a7) := by
  intro _ _ _ _ _ _ _ _ _
  unfold State.recordRow
  try dsimp only
  repeat' (first
    | with_reducible assumption
    | with_reducible apply outNext_ok
    | with_reducible apply notDue_ok
    | with_reducible exact reservedCode_ok
    | with_reducible exact outFault_ok _
    | with_reducible apply State.yardStep_ok
    | with_reducible apply State.recordExec_ok
    | with_reducible apply State.notDue_ok
    | with_reducible apply partsOk_regs
    | with_reducible apply Tab.set_rising
    | dsimp only
    | split
    | with_reducible intro _)

theorem execVunz2_ok {q : Kept} : ∀ a0 a1 a2 a3 a4 a5, State.Ok q a5 → OutOk q (execVunz2 a0 a1 a2 a3 a4 a5) := by
  intro _ _ _ _ _ _ _
  unfold execVunz2
  try dsimp only
  repeat' (first
    | with_reducible assumption
    | with_reducible apply outNext_ok
    | with_reducible apply notDue_ok
    | with_reducible exact reservedCode_ok
    | with_reducible exact outFault_ok _
    | with_reducible apply State.recordRow_ok
    | dsimp only)

theorem execVunz3_ok {q : Kept} : ∀ a0 a1 a2 a3 a4 a5, State.Ok q a5 → OutOk q (execVunz3 a0 a1 a2 a3 a4 a5) := by
  intro _ _ _ _ _ _ _
  unfold execVunz3
  try dsimp only
  repeat' (first
    | with_reducible assumption
    | with_reducible apply outNext_ok
    | with_reducible apply notDue_ok
    | with_reducible exact reservedCode_ok
    | with_reducible exact outFault_ok _
    | with_reducible apply State.recordRow_ok
    | dsimp only)

theorem execVunz4_ok {q : Kept} : ∀ a0 a1 a2 a3 a4 a5, State.Ok q a5 → OutOk q (execVunz4 a0 a1 a2 a3 a4 a5) := by
  intro _ _ _ _ _ _ _
  unfold execVunz4
  try dsimp only
  repeat' (first
    | with_reducible assumption
    | with_reducible apply outNext_ok
    | with_reducible apply notDue_ok
    | with_reducible exact reservedCode_ok
    | with_reducible exact outFault_ok _
    | with_reducible apply State.recordRow_ok
    | dsimp only)

theorem execVzip2_ok {q : Kept} : ∀ a0 a1 a2 a3 a4 a5, State.Ok q a5 → OutOk q (execVzip2 a0 a1 a2 a3 a4 a5) := by
  intro _ _ _ _ _ _ _
  unfold execVzip2
  try dsimp only
  repeat' (first
    | with_reducible assumption
    | with_reducible apply outNext_ok
    | with_reducible apply notDue_ok
    | with_reducible exact reservedCode_ok
    | with_reducible exact outFault_ok _
    | with_reducible apply State.recordRow_ok
    | dsimp only)

theorem execVzip3_ok {q : Kept} : ∀ a0 a1 a2 a3 a4 a5, State.Ok q a5 → OutOk q (execVzip3 a0 a1 a2 a3 a4 a5) := by
  intro _ _ _ _ _ _ _
  unfold execVzip3
  try dsimp only
  repeat' (first
    | with_reducible assumption
    | with_reducible apply outNext_ok
    | with_reducible apply notDue_ok
    | with_reducible exact reservedCode_ok
    | with_reducible exact outFault_ok _
    | with_reducible apply State.recordRow_ok
    | dsimp only)

theorem execVzip4_ok {q : Kept} : ∀ a0 a1 a2 a3 a4 a5, State.Ok q a5 → OutOk q (execVzip4 a0 a1 a2 a3 a4 a5) := by
  intro _ _ _ _ _ _ _
  unfold execVzip4
  try dsimp only
  repeat' (first
    | with_reducible assumption
    | with_reducible apply outNext_ok
    | with_reducible apply notDue_ok
    | with_reducible exact reservedCode_ok
    | with_reducible exact outFault_ok _
    | with_reducible apply State.recordRow_ok
    | dsimp only)

theorem execTrapReturn_ok {q : Kept} : ∀ a0 a1, State.Ok q a1 → OutOk q (execTrapReturn a0 a1) := by
  intro _ _ _
  unfold execTrapReturn
  try dsimp only
  repeat' (first
    | with_reducible assumption
    | with_reducible apply outNext_ok
    | with_reducible apply notDue_ok
    | with_reducible exact reservedCode_ok
    | with_reducible exact outFault_ok _
    | with_reducible apply State.yardStep_ok
    | with_reducible apply State.trapReturn_ok
    | with_reducible apply State.notDue_ok
    | dsimp only
    | split
    | with_reducible intro _)

end Sys2Proof.Machine
end

