-- ==== Sys2Proof/Laws/KeepServices.lean ====
section
/-! SUPPORT. Laws/KeepServices.lean: the operations of Machine/Services.lean keep the canonical form and the queue (Laws/Ok.lean). -/

namespace Sys2Proof.Machine

theorem State.readoutWrite_ok {q : Kept} : ∀ a0 a1 a2 a3 a4, State.Ok q a0 → State.Ok q (State.readoutWrite a0 a1 a2 a3 a4) := by
  intro _ _ _ _ _ _
  unfold State.readoutWrite
  try dsimp only
  repeat' (first
    | with_reducible assumption
    | with_reducible apply State.csrWrite_ok
    | with_reducible apply State.answer_ok
    | dsimp only
    | split)

theorem execReadoutRequest_ok {q : Kept} : ∀ a0 a1, State.Ok q a1 → OutOk q (execReadoutRequest a0 a1) := by
  intro _ _ _
  unfold execReadoutRequest
  try dsimp only
  repeat' (first
    | with_reducible assumption
    | with_reducible apply outNext_ok
    | with_reducible apply notDue_ok
    | with_reducible exact reservedCode_ok
    | with_reducible exact outFault_ok _
    | with_reducible apply State.readoutWrite_ok
    | with_reducible apply State.answer_ok
    | dsimp only
    | split)

theorem State.smbusRead_ok {q : Kept} : ∀ a0 a1, State.Ok q a0 → State.Ok q (State.smbusRead a0 a1) := by
  intro _ _ _
  unfold State.smbusRead
  try dsimp only
  repeat' (first
    | with_reducible assumption
    | with_reducible apply State.answer_ok
    | dsimp only
    | split)

theorem execVin_ok {q : Kept} : ∀ a0, State.Ok q a0 → OutOk q (execVin a0) := by
  intro _ _
  unfold execVin
  try dsimp only
  repeat' (first
    | with_reducible assumption
    | with_reducible apply outNext_ok
    | with_reducible apply notDue_ok
    | with_reducible exact reservedCode_ok
    | with_reducible exact outFault_ok _
    | with_reducible apply State.smbusRead_ok
    | dsimp only)

theorem execIin_ok {q : Kept} : ∀ a0, State.Ok q a0 → OutOk q (execIin a0) := by
  intro _ _
  unfold execIin
  try dsimp only
  repeat' (first
    | with_reducible assumption
    | with_reducible apply outNext_ok
    | with_reducible apply notDue_ok
    | with_reducible exact reservedCode_ok
    | with_reducible exact outFault_ok _
    | with_reducible apply State.smbusRead_ok
    | dsimp only)

theorem execPin_ok {q : Kept} : ∀ a0, State.Ok q a0 → OutOk q (execPin a0) := by
  intro _ _
  unfold execPin
  try dsimp only
  repeat' (first
    | with_reducible assumption
    | with_reducible apply outNext_ok
    | with_reducible apply notDue_ok
    | with_reducible exact reservedCode_ok
    | with_reducible exact outFault_ok _
    | with_reducible apply State.smbusRead_ok
    | dsimp only)

theorem execTempMax_ok {q : Kept} : ∀ a0, State.Ok q a0 → OutOk q (execTempMax a0) := by
  intro _ _
  unfold execTempMax
  try dsimp only
  repeat' (first
    | with_reducible assumption
    | with_reducible apply outNext_ok
    | with_reducible apply notDue_ok
    | with_reducible exact reservedCode_ok
    | with_reducible exact outFault_ok _
    | with_reducible apply State.smbusRead_ok
    | dsimp only)

theorem execTemps_ok {q : Kept} : ∀ a0, State.Ok q a0 → OutOk q (execTemps a0) := by
  intro _ _
  unfold execTemps
  try dsimp only
  repeat' (first
    | with_reducible assumption
    | with_reducible apply outNext_ok
    | with_reducible apply notDue_ok
    | with_reducible exact reservedCode_ok
    | with_reducible exact outFault_ok _
    | with_reducible apply State.smbusRead_ok
    | dsimp only
    | with_reducible intro _)

theorem execStatus_ok {q : Kept} : ∀ a0, State.Ok q a0 → OutOk q (execStatus a0) := by
  intro _ _
  unfold execStatus
  try dsimp only
  repeat' (first
    | with_reducible assumption
    | with_reducible apply outNext_ok
    | with_reducible apply notDue_ok
    | with_reducible exact reservedCode_ok
    | with_reducible exact outFault_ok _
    | with_reducible apply State.smbusRead_ok
    | dsimp only)

theorem execStretch_ok {q : Kept} : ∀ a0, State.Ok q a0 → OutOk q (execStretch a0) := by
  intro _ _
  unfold execStretch
  try dsimp only
  repeat' (first
    | with_reducible assumption
    | with_reducible apply outNext_ok
    | with_reducible apply notDue_ok
    | with_reducible exact reservedCode_ok
    | with_reducible exact outFault_ok _
    | with_reducible apply State.smbusRead_ok
    | dsimp only)

theorem execCap_ok {q : Kept} : ∀ a0, State.Ok q a0 → OutOk q (execCap a0) := by
  intro _ _
  unfold execCap
  try dsimp only
  repeat' (first
    | with_reducible assumption
    | with_reducible apply outNext_ok
    | with_reducible apply notDue_ok
    | with_reducible exact reservedCode_ok
    | with_reducible exact outFault_ok _
    | with_reducible apply State.smbusRead_ok
    | dsimp only
    | split)

theorem execFault_ok {q : Kept} : ∀ a0, State.Ok q a0 → OutOk q (execFault a0) := by
  intro _ _
  unfold execFault
  try dsimp only
  repeat' (first
    | with_reducible assumption
    | with_reducible apply outNext_ok
    | with_reducible apply notDue_ok
    | with_reducible exact reservedCode_ok
    | with_reducible exact outFault_ok _
    | with_reducible apply State.smbusRead_ok
    | dsimp only)

theorem execLayout_ok {q : Kept} : ∀ a0, State.Ok q a0 → OutOk q (execLayout a0) := by
  intro _ _
  unfold execLayout
  try dsimp only
  repeat' (first
    | with_reducible assumption
    | with_reducible apply outNext_ok
    | with_reducible apply notDue_ok
    | with_reducible exact reservedCode_ok
    | with_reducible exact outFault_ok _
    | with_reducible apply State.smbusRead_ok
    | dsimp only)

theorem execIdent_ok {q : Kept} : ∀ a0, State.Ok q a0 → OutOk q (execIdent a0) := by
  intro _ _
  unfold execIdent
  try dsimp only
  repeat' (first
    | with_reducible assumption
    | with_reducible apply outNext_ok
    | with_reducible apply notDue_ok
    | with_reducible exact reservedCode_ok
    | with_reducible exact outFault_ok _
    | with_reducible apply State.smbusRead_ok
    | dsimp only)

theorem State.alertOff_ok {q : Kept} : ∀ a0, State.Ok q a0 → State.Ok q (State.alertOff a0) := by
  intro _ _
  unfold State.alertOff
  try dsimp only
  repeat' (first
    | with_reducible assumption
    | simp only [State.mk_ok]
    | with_reducible apply partsOk_same
    | dsimp only)

theorem execClearAlert_ok {q : Kept} : ∀ a0 a1, State.Ok q a1 → OutOk q (execClearAlert a0 a1) := by
  intro _ _ _
  unfold execClearAlert
  try dsimp only
  repeat' (first
    | with_reducible assumption
    | with_reducible apply outNext_ok
    | with_reducible apply notDue_ok
    | with_reducible exact reservedCode_ok
    | with_reducible exact outFault_ok _
    | with_reducible apply State.answer_ok
    | with_reducible apply State.alertOff_ok
    | dsimp only
    | split)

theorem execAlertResponse_ok {q : Kept} : ∀ a0, State.Ok q a0 → OutOk q (execAlertResponse a0) := by
  intro _ _
  unfold execAlertResponse
  try dsimp only
  repeat' (first
    | with_reducible assumption
    | with_reducible apply outNext_ok
    | with_reducible apply notDue_ok
    | with_reducible exact reservedCode_ok
    | with_reducible exact outFault_ok _
    | with_reducible apply State.answer_ok
    | with_reducible apply State.alertOff_ok
    | dsimp only
    | split)

theorem State.jtagIr_ok {q : Kept} : ∀ a0 a1, State.Ok q a0 → State.Ok q (State.jtagIr a0 a1) := by
  intro _ _ _
  unfold State.jtagIr
  try dsimp only
  repeat' (first
    | with_reducible assumption
    | simp only [State.mk_ok]
    | with_reducible apply partsOk_same
    | dsimp only)

theorem State.jtagOut_ok {q : Kept} : ∀ a0 a1 a2, State.Ok q a0 → State.Ok q (State.jtagOut a0 a1 a2) := by
  intro _ _ _ _
  unfold State.jtagOut
  try dsimp only
  repeat' (first
    | with_reducible assumption
    | with_reducible apply State.answer_ok
    | simp only [State.mk_ok]
    | with_reducible apply partsOk_same
    | dsimp only)

theorem State.boundary_ok {q : Kept} : ∀ a0, State.Ok q a0 → State.Ok q (State.boundary a0).1 := by
  intro _ _
  unfold State.boundary
  try dsimp only
  repeat' (first
    | with_reducible assumption
    | with_reducible apply State.draw_ok
    | dsimp only)

theorem State.boundaryScan_ok {q : Kept} : ∀ a0 a1 a2, State.Ok q a0 → State.Ok q (State.boundaryScan a0 a1 a2) := by
  intro _ _ _ _
  unfold State.boundaryScan
  try dsimp only
  repeat' (first
    | with_reducible assumption
    | with_reducible apply State.jtagOut_ok
    | with_reducible apply State.jtagIr_ok
    | with_reducible apply State.boundary_ok
    | simp only [State.mk_ok]
    | with_reducible apply partsOk_same
    | dsimp only)

theorem execExtest_ok {q : Kept} : ∀ a0 a1, State.Ok q a1 → OutOk q (execExtest a0 a1) := by
  intro _ _ _
  unfold execExtest
  try dsimp only
  repeat' (first
    | with_reducible assumption
    | with_reducible apply outNext_ok
    | with_reducible apply notDue_ok
    | with_reducible exact reservedCode_ok
    | with_reducible exact outFault_ok _
    | with_reducible apply State.boundaryScan_ok
    | dsimp only)

theorem execSamplePreload_ok {q : Kept} : ∀ a0 a1, State.Ok q a1 → OutOk q (execSamplePreload a0 a1) := by
  intro _ _ _
  unfold execSamplePreload
  try dsimp only
  repeat' (first
    | with_reducible assumption
    | with_reducible apply outNext_ok
    | with_reducible apply notDue_ok
    | with_reducible exact reservedCode_ok
    | with_reducible exact outFault_ok _
    | with_reducible apply State.boundaryScan_ok
    | dsimp only)

theorem execIdcode_ok {q : Kept} : ∀ a0, State.Ok q a0 → OutOk q (execIdcode a0) := by
  intro _ _
  unfold execIdcode
  try dsimp only
  repeat' (first
    | with_reducible assumption
    | with_reducible apply outNext_ok
    | with_reducible apply notDue_ok
    | with_reducible exact reservedCode_ok
    | with_reducible exact outFault_ok _
    | with_reducible apply State.jtagOut_ok
    | with_reducible apply State.jtagIr_ok
    | dsimp only)

theorem execClamp_ok {q : Kept} : ∀ a0, State.Ok q a0 → OutOk q (execClamp a0) := by
  intro _ _
  unfold execClamp
  try dsimp only
  repeat' (first
    | with_reducible assumption
    | with_reducible apply outNext_ok
    | with_reducible apply notDue_ok
    | with_reducible exact reservedCode_ok
    | with_reducible exact outFault_ok _
    | with_reducible apply State.jtagOut_ok
    | with_reducible apply State.jtagIr_ok
    | dsimp only)

theorem execHighz_ok {q : Kept} : ∀ a0, State.Ok q a0 → OutOk q (execHighz a0) := by
  intro _ _
  unfold execHighz
  try dsimp only
  repeat' (first
    | with_reducible assumption
    | with_reducible apply outNext_ok
    | with_reducible apply notDue_ok
    | with_reducible exact reservedCode_ok
    | with_reducible exact outFault_ok _
    | with_reducible apply State.jtagOut_ok
    | with_reducible apply State.jtagIr_ok
    | dsimp only)

theorem execBypass_ok {q : Kept} : ∀ a0, State.Ok q a0 → OutOk q (execBypass a0) := by
  intro _ _
  unfold execBypass
  try dsimp only
  repeat' (first
    | with_reducible assumption
    | with_reducible apply outNext_ok
    | with_reducible apply notDue_ok
    | with_reducible exact reservedCode_ok
    | with_reducible exact outFault_ok _
    | with_reducible apply State.jtagOut_ok
    | with_reducible apply State.jtagIr_ok
    | dsimp only)

theorem execReadoutAddr_ok {q : Kept} : ∀ a0 a1, State.Ok q a1 → OutOk q (execReadoutAddr a0 a1) := by
  intro _ _ _
  unfold execReadoutAddr
  try dsimp only
  repeat' (first
    | with_reducible assumption
    | with_reducible apply outNext_ok
    | with_reducible apply notDue_ok
    | with_reducible exact reservedCode_ok
    | with_reducible exact outFault_ok _
    | with_reducible apply State.jtagOut_ok
    | with_reducible apply State.jtagIr_ok
    | with_reducible apply State.draw_ok
    | simp only [State.mk_ok]
    | with_reducible apply partsOk_same
    | dsimp only)

theorem State.jtagRead_ok {q : Kept} : ∀ a0 a1, State.Ok q a0 → State.Ok q (State.jtagRead a0 a1) := by
  intro _ _ _
  unfold State.jtagRead
  try dsimp only
  repeat' (first
    | with_reducible assumption
    | with_reducible apply State.draw_ok
    | with_reducible apply State.answer_ok
    | simp only [State.mk_ok]
    | with_reducible apply partsOk_same
    | dsimp only
    | split)

theorem execReadoutData_ok {q : Kept} : ∀ a0 a1, State.Ok q a1 → OutOk q (execReadoutData a0 a1) := by
  intro _ _ _
  unfold execReadoutData
  try dsimp only
  repeat' (first
    | with_reducible assumption
    | with_reducible apply outNext_ok
    | with_reducible apply notDue_ok
    | with_reducible exact reservedCode_ok
    | with_reducible exact outFault_ok _
    | with_reducible apply State.readoutWrite_ok
    | with_reducible apply State.jtagRead_ok
    | with_reducible apply State.jtagIr_ok
    | with_reducible apply State.answer_ok
    | simp only [State.mk_ok]
    | with_reducible apply partsOk_same
    | dsimp only
    | split)

theorem execTestReset_ok {q : Kept} : ∀ a0, State.Ok q a0 → OutOk q (execTestReset a0) := by
  intro _ _
  unfold execTestReset
  try dsimp only
  repeat' (first
    | with_reducible assumption
    | with_reducible apply outNext_ok
    | with_reducible apply notDue_ok
    | with_reducible exact reservedCode_ok
    | with_reducible exact outFault_ok _
    | with_reducible apply State.jtagIr_ok
    | dsimp only)

end Sys2Proof.Machine
end

