-- ==== Sys2Proof/Laws/Units.lean ====
section
/-!
SUPPORT. Laws/Units.lean: what a packet that leaves and a checkpoint that ends do not touch: cores, contexts, layout, groups, root of trust,
start-up, power, pins and test port. They change registers, memory, yards, ports, free values, the checkpoint unit and a pen's shed stall only.
-/

namespace Sys2Proof.Machine

/-- The part of the state that packets leaving and checkpoints ending do not touch. -/
def State.units (s : State) :
    (Tab Core × Tab Cluster × Tab Ctx × Tab Group × Tab GroupWindows) × Layout × Rot × (Stage × Power × Pins × Jtag) ×
      (Tab HCore × Tab QPair × Tab CdRun) × (Nat × Nat × Int) × Reply × List Instr :=
  ((s.cores, s.clusters, s.ctxs, s.groups, s.gwins), s.lay, s.rot, (s.stage, s.power, s.pins, s.jtag),
    (s.hcores, s.qps, s.cddma), (s.deadDies, s.pcieRole, s.ptpSlew), s.reply, s.pending)

theorem foldl_units {α : Type} {f : State → α → State} (l : List α) (h : ∀ t x, (f t x).units = t.units) (s : State) :
    (l.foldl f s).units = s.units := by
  induction l generalizing s with
  | nil => rfl
  | cons a l ih => exact (ih (f s a)).trans (h s a)

theorem State.set_units (s : State) (f : Fld) (v : Nat) : (s.set f v).units = s.units := rfl
theorem State.setB_units (s : State) (f : Fld) (b : Bool) : (s.setB f b).units = s.units := rfl
theorem State.inc_units (s : State) (f : Fld) (n : Nat) : (s.inc f n).units = s.units := rfl
theorem State.setYard_units (s : State) (y : Nat) (v : Yard) : (s.setYard y v).units = s.units := rfl
theorem State.setCkp_units (s : State) (p : Nat) (v : Ckp) : (s.setCkp p v).units = s.units := rfl
theorem State.setPen_units (s : State) (p : Nat) (v : Pen) : (s.setPen p v).units = s.units := rfl
theorem State.setMem_units (s : State) (m : Memory) : ({ s with mem := m } : State).units = s.units := rfl

theorem State.emit_units (s : State) (p : Option Nat) (k : Packet) : (s.emit p k).units = s.units := by
  unfold State.emit State.route
  cases p with
  | none => rfl
  | some p =>
    dsimp only
    split <;> rfl

theorem State.showWaiting_units (s : State) (y : Nat) : (s.showWaiting y).units = s.units := by
  refine foldl_units _ (fun t p => ?_) s
  dsimp only
  split
  · rfl
  · split <;> rfl

theorem State.setPage_units (s : State) (y pg : Nat) (v : Page) : (s.setPage y pg v).units = s.units := rfl

theorem State.queueWback_units (s : State) (y o : Nat) (b : Bool) : (s.queueWback y o b).units = s.units := by
  unfold State.queueWback
  dsimp only
  split <;> rfl

theorem State.codewordRead_units (s : State) (y o w : Nat) (b : Bool) : (s.codewordRead y o w b).units = s.units := by
  unfold State.codewordRead
  dsimp only
  repeat' split
  all_goals simp only [State.queueWback_units, State.set_units, State.setB_units, State.inc_units]

theorem State.clearFlds_units (s : State) (l : List Fld) : (s.clearFlds l).units = s.units :=
  foldl_units l (fun t f => State.set_units t f _) s

theorem State.draw_units (s : State) : s.draw.2.units = s.units := rfl

theorem State.injectYard_units (s : State) (y o : Nat) : (s.injectYard y o).units = s.units := by
  unfold State.injectYard
  dsimp only
  split
  · rw [State.clearFlds_units, State.setMem_units]
    split
    · exact State.draw_units s
    · rfl
  · rfl

theorem State.dropWbacks_units (s : State) (a n : Nat) : (s.dropWbacks a n).units = s.units := State.setYard_units s _ _

theorem State.copyPage_units (s : State) (y a b : Nat) : (s.copyPage y a b).units = s.units := by
  unfold State.copyPage
  generalize List.range 4096 = l
  refine foldl_units l (fun t i => ?_) s
  dsimp only
  rw [State.injectYard_units, State.dropWbacks_units, State.setMem_units]
  split
  · rfl
  · exact State.codewordRead_units t y _ _ false

theorem State.pageHome_units (s : State) (p y pg : Nat) : (s.pageHome p y pg).units = s.units := by
  unfold State.pageHome
  split
  · rfl
  · split <;> rfl
  · split
    · exact (State.set_units _ _ _).trans ((State.setPage_units _ _ _ _).trans (State.copyPage_units s y _ _))
    · rfl

theorem State.pagesHome_units (s : State) (p : Nat) : (s.pagesHome p).units = s.units :=
  foldl_units _ (fun t y => (State.showWaiting_units _ y).trans (foldl_units _ (fun u pg => State.pageHome_units u p y pg) t)) s

theorem State.ckpError_units (s : State) (p code step : Nat) : (s.ckpError p code step).units = s.units := by
  unfold State.ckpError
  split <;> rfl

theorem State.ckpIdle_units (s : State) (p : Nat) : (s.ckpIdle p).units = s.units := rfl

theorem State.tellMembers_units (s : State) (p addr v : Nat) : (s.tellMembers p addr v).units = s.units := by
  unfold State.tellMembers
  refine foldl_units _ (fun t r => ?_) s
  split
  · rfl
  · exact State.emit_units t _ _

theorem State.ckpReport_units (s : State) (p : Nat) : (s.ckpReport p).units = s.units := State.emit_units s _ _

theorem State.dropCkp_units (s : State) (p code : Nat) : (s.dropCkp p code).units = s.units := by
  unfold State.dropCkp
  have h : ((s.pagesHome p).ckpError p code (s.ckp p).step.toNat).units = s.units :=
    (State.ckpError_units _ p _ _).trans (State.pagesHome_units s p)
  dsimp only
  split
  · exact (State.tellMembers_units _ p _ _).trans ((State.ckpIdle_units _ p).trans h)
  · exact (State.ckpReport_units _ p).trans ((State.ckpIdle_units _ p).trans h)

theorem State.resetCkp_units (s : State) (p : Nat) : (s.resetCkp p).units = s.units := by
  unfold State.resetCkp
  split
  · rfl
  · exact State.dropCkp_units s p 7

theorem State.abandonCkp_units (s : State) (p code : Nat) : (s.abandonCkp p code).units = s.units := by
  unfold State.abandonCkp
  split
  · exact State.dropCkp_units s p code
  · rfl

/-! ## The registers they do not touch -/

/-- A register field outside the checkpoint blocks, the yards' blocks and the two counts of unroutable packets. -/
def Fld.Away (f : Fld) : Prop :=
  (f.key < 8 * ckpBlk 0 ∨ 8 * ckpBlk 8 ≤ f.key) ∧ (f.key < 8 * yardBlk 0 ∨ 8 * yardBlk 8 ≤ f.key) ∧ f.key ≠ (FAB_CNT.unroute 0).key ∧ f.key ≠ (FAB_CNT.unroute 1).key

theorem foldl_get {α : Type} {g : State → α → State} (l : List α) (f : Fld) (h : ∀ t x, x ∈ l → (g t x).get f = t.get f) (s : State) :
    (l.foldl g s).get f = s.get f := by
  induction l generalizing s with
  | nil => rfl
  | cons a l ih =>
    exact (ih (fun t x hx => h t x (List.mem_cons_of_mem a hx)) (g s a)).trans (h s a List.mem_cons_self)

/-- A field of checkpoint block p is none of those. -/
theorem Fld.Away.ne_ckp {f g : Fld} (hf : f.Away) {p : Nat} (hp : p < 8) (h1 : 8 * ckpBlk p ≤ g.key) (h2 : g.key < 8 * ckpBlk p + 8 * 0x1000) :
    f.key ≠ g.key := by
  have h := hf.1
  unfold ckpBlk at *
  omega

/-- Nor is a field of the block of yard y. -/
theorem Fld.Away.ne_yard {f g : Fld} (hf : f.Away) {y : Nat} (hy : y < 8) (h1 : 8 * yardBlk y ≤ g.key) (h2 : g.key < 8 * yardBlk y + 8 * 0x100000) :
    f.key ≠ g.key := by
  have h := hf.2.1
  unfold yardBlk at *
  omega

theorem State.inc_get_other (s : State) (f g : Fld) (n : Nat) (h : f.key ≠ g.key) : (s.inc g n).get f = s.get f :=
  State.get_set_other s g f _ h

theorem State.emit_get (s : State) (p : Option Nat) (k : Packet) (f : Fld) (hf : f.Away) : (s.emit p k).get f = s.get f := by
  unfold State.emit State.route
  cases p with
  | none => rfl
  | some p =>
    dsimp only
    split
    · rfl
    · unfold State.inc
      refine State.get_set_other s _ f _ ?_
      have hd : s.dieMap p k.dst.toNat = 0 ∨ s.dieMap p k.dst.toNat = 1 := by
        unfold State.dieMap bitsOf
        omega
      rcases hd with hd | hd
      · rw [hd]
        exact hf.2.2.1
      · rw [hd]
        exact hf.2.2.2

theorem State.showWaiting_get (s : State) (y : Nat) (hy : y < 8) (f : Fld) (hf : f.Away) : (s.showWaiting y).get f = s.get f := by
  refine foldl_get _ f (fun t p hp => ?_) s
  have h : (t.setB (CKP_SHED.waiting p y) ((t.yard y).waiting.any fun w =>
      (Tab.get Page.home (t.yard y).pages w.page).holder == some p)).get f = t.get f := by
    refine State.get_set_other _ _ f _ (hf.ne_ckp (List.mem_range.mp hp) ?_ ?_) <;> simp only [Fld.key] <;> omega
  dsimp only
  split
  · exact h
  · split <;> exact h

theorem State.setMem_get (s : State) (m : Memory) (f : Fld) : ({ s with mem := m } : State).get f = s.get f := rfl

/-- A channel number fits its six bits. -/
theorem channelOf_lt (o : Nat) : channelOf o < 64 := by
  have h (lo : Nat) : bitsOf o lo 6 < 2 ^ 6 := Nat.mod_lt _ (by decide)
  have h5 : bitsOf o 32 5 < 2 ^ 6 := Nat.lt_of_lt_of_le (Nat.mod_lt _ (by decide : 0 < 2 ^ 5)) (by decide)
  exact Nat.xor_lt_two_pow (Nat.xor_lt_two_pow (Nat.xor_lt_two_pow (Nat.xor_lt_two_pow (h 8) (h 14)) (h 20)) (h 26)) h5

theorem State.queueWback_get (s : State) (y o : Nat) (b : Bool) (f : Fld) : (s.queueWback y o b).get f = s.get f := by
  unfold State.queueWback
  dsimp only
  split <;> rfl

theorem State.codewordRead_get (s : State) (y o w : Nat) (b : Bool) (hy : y < 8) (f : Fld) (hf : f.Away) :
    (s.codewordRead y o w b).get f = s.get f := by
  have hc := channelOf_lt o
  have n (g : Fld) (h1 : 8 * yardBlk y ≤ g.key) (h2 : g.key < 8 * yardBlk y + 8 * 0x100000) (t : State) (v : Nat) : (t.set g v).get f = t.get f :=
    State.get_set_other t g f v (hf.ne_yard hy h1 h2)
  have e1 := n (YRD_ECC.poison_rd y) (by simp only [Fld.key]; omega) (by simp only [Fld.key]; omega)
  have e2 := n (YRD_ECC.ue y) (by simp only [Fld.key]; omega) (by simp only [Fld.key]; omega)
  have e3 := n (YRD_ECC.ce y) (by simp only [Fld.key]; omega) (by simp only [Fld.key]; omega)
  have e4 := n (MCH_ECC.ue y (channelOf o)) (by simp only [Fld.key, chanBlk]; omega) (by simp only [Fld.key, chanBlk]; omega)
  have e5 := n (MCH_ECC.ce y (channelOf o)) (by simp only [Fld.key, chanBlk]; omega) (by simp only [Fld.key, chanBlk]; omega)
  have e6 := n (YRD_ECC_ADDR.offset y) (by simp only [Fld.key]; omega) (by simp only [Fld.key]; omega)
  have e7 := n (YRD_ECC_ADDR.scrub y) (by simp only [Fld.key]; omega) (by simp only [Fld.key]; omega)
  have e8 := n (YRD_ECC_ADDR.valid y) (by simp only [Fld.key]; omega) (by simp only [Fld.key]; omega)
  unfold State.codewordRead State.inc State.setB
  dsimp only
  repeat' split
  all_goals simp only [State.queueWback_get, e1, e2, e3, e4, e5, e6, e7, e8]

theorem State.injectYard_get (s : State) (y o : Nat) (hy : y < 8) (f : Fld) (hf : f.Away) : (s.injectYard y o).get f = s.get f := by
  unfold State.injectYard
  dsimp only
  split
  · refine (foldl_get _ f (fun t g hg => State.get_set_other t g f _ (hf.ne_yard hy ?_ ?_)) _).trans ?_
    · simp only [List.mem_cons, List.not_mem_nil, or_false] at hg
      obtain rfl | rfl | rfl := hg <;> simp only [Fld.key] <;> omega
    · simp only [List.mem_cons, List.not_mem_nil, or_false] at hg
      obtain rfl | rfl | rfl := hg <;> simp only [Fld.key] <;> omega
    · rw [State.setMem_get]
      split <;> rfl
  · rfl

theorem State.dropWbacks_get (s : State) (a n : Nat) (f : Fld) : (s.dropWbacks a n).get f = s.get f := rfl

theorem State.copyPage_get (s : State) (y a b : Nat) (hy : y < 8) (f : Fld) (hf : f.Away) : (s.copyPage y a b).get f = s.get f := by
  unfold State.copyPage
  generalize List.range 4096 = l
  refine foldl_get l f (fun t i _ => ?_) s
  dsimp only
  rw [State.injectYard_get _ y _ hy f hf, State.dropWbacks_get, State.setMem_get]
  split
  · rfl
  · exact State.codewordRead_get t y _ _ false hy f hf

theorem State.setPage_get (s : State) (y pg : Nat) (v : Page) (f : Fld) : (s.setPage y pg v).get f = s.get f := rfl

theorem State.pageHome_get (s : State) (p y pg : Nat) (hp : p < 8) (hy : y < 8) (f : Fld) (hf : f.Away) : (s.pageHome p y pg).get f = s.get f := by
  unfold State.pageHome
  split
  · rfl
  · split <;> rfl
  · split
    · rename_i shed _ _
      have hk : f.key ≠ (CKP_SHED.in_use p y).key := hf.ne_ckp hp (by simp only [Fld.key]; omega) (by simp only [Fld.key]; omega)
      exact (State.get_set_other _ _ f _ hk).trans ((State.setPage_get (s.copyPage y shed (pg * 65536)) y pg .home f).trans (State.copyPage_get s y shed (pg * 65536) hy f hf))
    · rfl

theorem State.pagesHome_get (s : State) (p : Nat) (hp : p < 8) (f : Fld) (hf : f.Away) : (s.pagesHome p).get f = s.get f :=
  foldl_get _ f (fun t y hy => (State.showWaiting_get _ y (List.mem_range.mp hy) f hf).trans
    (foldl_get _ f (fun u pg _ => State.pageHome_get u p y pg hp (List.mem_range.mp hy) f hf) t)) s

theorem State.ckpError_get (s : State) (p code step : Nat) (hp : p < 8) (f : Fld) (hf : f.Away) : (s.ckpError p code step).get f = s.get f := by
  unfold State.ckpError
  split
  · rfl
  · have n1 : f.key ≠ (CKP_ERR.reason p).key := hf.ne_ckp hp (by simp only [Fld.key]; omega) (by simp only [Fld.key]; omega)
    have n2 : f.key ≠ (CKP_ERR.step p).key := hf.ne_ckp hp (by simp only [Fld.key]; omega) (by simp only [Fld.key]; omega)
    have n3 : f.key ≠ (CKP_ERR.valid p).key := hf.ne_ckp hp (by simp only [Fld.key]; omega) (by simp only [Fld.key]; omega)
    rw [State.get_set_other _ _ f _ n3, State.get_set_other _ _ f _ n2, State.get_set_other _ _ f _ n1]

theorem State.ckpIdle_get (s : State) (p : Nat) (hp : p < 8) (f : Fld) (hf : f.Away) : (s.ckpIdle p).get f = s.get f :=
  State.get_set_other _ _ f _ (hf.ne_ckp hp (by simp only [Fld.key]; omega) (by simp only [Fld.key]; omega))

theorem State.dropCkp_get (s : State) (p code : Nat) (hp : p < 8) (f : Fld) (hf : f.Away) : (s.dropCkp p code).get f = s.get f := by
  unfold State.dropCkp
  have h : (((s.pagesHome p).ckpError p code (s.ckp p).step.toNat).ckpIdle p).get f = s.get f :=
    ((State.ckpIdle_get _ p hp f hf).trans (State.ckpError_get _ p _ _ hp f hf)).trans (State.pagesHome_get s p hp f hf)
  dsimp only
  split
  · refine Eq.trans (foldl_get _ f (fun t r _ => ?_) _) h
    split
    · rfl
    · exact State.emit_get t _ _ f hf
  · exact (State.emit_get _ _ _ f hf).trans h

theorem State.abandonCkp_get (s : State) (p code : Nat) (hp : p < 8) (f : Fld) (hf : f.Away) : (s.abandonCkp p code).get f = s.get f := by
  unfold State.abandonCkp
  split
  · exact State.dropCkp_get s p code hp f hf
  · rfl

theorem State.resetCkp_get (s : State) (p : Nat) (hp : p < 8) (f : Fld) (hf : f.Away) : (s.resetCkp p).get f = s.get f := by
  unfold State.resetCkp
  split
  · rfl
  · exact State.dropCkp_get s p 7 hp f hf

end Sys2Proof.Machine
end

