-- ==== Sys2Proof/Laws/Sram.lean ====
section
/-! SUPPORT. Laws/Sram.lean: bytes written into lofts, stalls and cadence stores are read back, and every other byte stays. -/

namespace Sys2Proof.Machine

/-- SRAM addresses are where they stand. -/
theorem State.loc_sram (s : State) (a : Nat) (h : dramTop ≤ a) : s.loc a = a := by
  unfold State.loc
  rw [if_neg (by omega)]

theorem State.read_getD_sram (s : State) (a n i : Nat) (h : dramTop ≤ a) (hi : i < n) : (s.read a n).getD i 0 = s.mem.byte (a + i) := by
  unfold State.read
  rw [List.getD_eq_getElem?_getD, List.getElem?_map, List.getElem?_range hi]
  simp only [Option.map_some, Option.getD_some]
  rw [State.loc_sram s _ (by omega)]

theorem pieces_byte (p : Bool) (j : Nat) (fuel : Nat) : ∀ (a : Nat) (bs : List Byte) (s : State), dramTop ≤ a → bs.length < fuel →
    ((linePieces fuel a bs).foldl (fun (t : State) x => { t with mem := t.mem.write (t.loc x.1) x.2 p }) s).mem.byte j =
      if a ≤ j ∧ j < a + bs.length then bs.getD (j - a) 0 else s.mem.byte j := by
  induction fuel with
  | zero => intro a bs s _ h; omega
  | succ n ih =>
    intro a bs s ha hl
    unfold linePieces
    cases bs with
    | nil =>
      simp only [List.isEmpty_nil, if_true, List.foldl_nil, List.length_nil]
      rw [if_neg (by omega)]
    | cons b t =>
      simp only [List.isEmpty_cons, Bool.false_eq_true, if_false, List.foldl_cons]
      have h256 : 0 < 256 - a % 256 := by omega
      simp only [List.length_cons] at hl
      rw [ih (a + (256 - a % 256)) _ _ (by omega) (by simp only [List.length_drop, List.length_cons]; omega)]
      show (if _ then _ else (Memory.write s.mem (s.loc a) _ p).byte j) = _
      rw [State.loc_sram s a ha, Memory.write_byte]
      generalize 256 - a % 256 = m at h256
      generalize b :: t = l
      simp only [List.length_drop, List.length_take]
      by_cases h1 : a + m ≤ j ∧ j < a + m + (l.length - m)
      · rw [if_pos h1, if_pos (by omega)]
        rw [List.getD_eq_getElem?_getD, List.getD_eq_getElem?_getD, List.getElem?_drop]
        congr 2
        omega
      · rw [if_neg h1]
        by_cases h2 : a ≤ j ∧ j < a + min m l.length
        · rw [if_pos h2, if_pos (by omega)]
          rw [List.getD_eq_getElem?_getD, List.getD_eq_getElem?_getD, List.getElem?_take, if_pos (by omega)]
        · rw [if_neg h2, if_neg (by omega)]

/-- Bytes put into SRAM. -/
theorem State.put_byte (s : State) (a j : Nat) (bs : List Byte) (p : Bool) (h : dramTop ≤ a) :
    (s.put a bs p).mem.byte j = if a ≤ j ∧ j < a + bs.length then bs.getD (j - a) 0 else s.mem.byte j :=
  pieces_byte p j _ a bs s h (by omega)

theorem State.inject_byte (s : State) (f g : Fld) (a j : Nat) : (s.inject f g a).mem.byte j = s.mem.byte j := by
  unfold State.inject
  split
  · rfl
  · split <;> rfl

theorem foldl_mem {α : Type} {g : State → α → State} (l : List α) (h : ∀ t x, (g t x).mem = t.mem) (s : State) : (l.foldl g s).mem = s.mem := by
  induction l generalizing s with
  | nil => rfl
  | cons a l ih => exact (ih (g s a)).trans (h s a)

theorem State.loftCount_mem (s : State) (d c g : Nat) : (s.loftCount d c g).mem = s.mem := by
  unfold State.loftCount
  dsimp only
  split <;> split <;> (try split) <;> rfl

theorem State.stallEcc_mem (s : State) (d c k g : Nat) : (s.stallEcc d c k g).mem = s.mem := by
  unfold State.stallEcc
  dsimp only
  split <;> split <;> (try split) <;> rfl

theorem State.stallCount_mem (s : State) (d c k g : Nat) : (s.stallCount d c k g).mem = s.mem := by
  unfold State.stallCount
  dsimp only
  split
  · exact State.stallEcc_mem s d c k g
  · exact State.stallEcc_mem s d c k g

theorem State.loftRead_mem (s : State) (d c a n : Nat) : (s.loftRead d c a n).mem = s.mem := by
  unfold State.loftRead
  split
  · rfl
  · exact foldl_mem _ (fun t _ => State.loftCount_mem t d c _) s

theorem State.stallRead_mem (s : State) (d c k a n : Nat) : (s.stallRead d c k a n).mem = s.mem := by
  unfold State.stallRead
  split
  · rfl
  · exact foldl_mem _ (fun t _ => State.stallCount_mem t d c k _) s

theorem stallBase_sram (d c k a : Nat) : dramTop ≤ stallBase d c k + a := by
  unfold stallBase apertureBase dramTop
  omega

theorem loftBase_sram (d c a : Nat) : dramTop ≤ loftBase d c + a := by
  unfold loftBase apertureBase dramTop
  omega

/-- A stall write changes exactly its bytes. -/
theorem State.stallWrite_byte (s : State) (d c k a j : Nat) (bs : List Byte) (p : Bool) :
    (s.stallWrite d c k a bs p).mem.byte j =
      if stallBase d c k + a ≤ j ∧ j < stallBase d c k + a + bs.length then bs.getD (j - (stallBase d c k + a)) 0 else s.mem.byte j := by
  unfold State.stallWrite
  split
  · next h =>
    have : bs = [] := List.isEmpty_iff.mp h
    subst this
    rw [if_neg (by simp only [List.length_nil]; omega)]
  · rw [State.inject_byte, State.put_byte _ _ _ _ _ (stallBase_sram d c k a), foldl_mem _ (fun t _ => State.stallEcc_mem t d c k _) s]

/-- A loft write changes exactly its bytes. -/
theorem State.loftWrite_byte (s : State) (d c a j : Nat) (bs : List Byte) (p : Bool) :
    (s.loftWrite d c a bs p).mem.byte j =
      if loftBase d c + a ≤ j ∧ j < loftBase d c + a + bs.length then bs.getD (j - (loftBase d c + a)) 0 else s.mem.byte j := by
  unfold State.loftWrite
  split
  · next h =>
    have : bs = [] := List.isEmpty_iff.mp h
    subst this
    rw [if_neg (by simp only [List.length_nil]; omega)]
  · rw [State.inject_byte, State.put_byte _ _ _ _ _ (loftBase_sram d c a), foldl_mem _ (fun t _ => State.loftCount_mem t d c _) s]

/-- The words of a move, written one after the other by any writer that changes exactly its bytes. -/
theorem words_byte (s0 : State) (src b n j : Nat) (hs : dramTop ≤ src) (w : State → MoveWord → State)
    (hw : ∀ t m, (w t m).mem.byte j = if b + m.off ≤ j ∧ j < b + m.off + m.bytes.length then m.bytes.getD (j - (b + m.off)) 0 else t.mem.byte j)
    (t : State) : ((s0.moveWords src n).foldl w t).mem.byte j = if b ≤ j ∧ j < b + n then s0.mem.byte (src + (j - b)) else t.mem.byte j := by
  unfold State.moveWords
  have key : ∀ m, m ≤ ceilDiv n 8 → (((List.range m).map fun i =>
      (⟨8 * i, s0.read (src + 8 * i) (min 8 (n - 8 * i)), s0.readBad (src + 8 * i) (min 8 (n - 8 * i))⟩ : MoveWord)).foldl w t).mem.byte j =
      if b ≤ j ∧ j < b + min n (8 * m) then s0.mem.byte (src + (j - b)) else t.mem.byte j := by
    intro m
    induction m with
    | zero =>
      intro _
      simp only [List.range_zero, List.map_nil, List.foldl_nil]
      rw [if_neg (by omega)]
    | succ m ih =>
      intro hm
      rw [List.range_succ, List.map_append, List.foldl_append]
      simp only [List.map_cons, List.map_nil, List.foldl_cons, List.foldl_nil]
      rw [hw, ih (by omega)]
      dsimp only
      have hl : (s0.read (src + 8 * m) (min 8 (n - 8 * m))).length = min 8 (n - 8 * m) := by
        unfold State.read
        rw [List.length_map, List.length_range]
      rw [hl]
      by_cases h1 : b + 8 * m ≤ j ∧ j < b + 8 * m + min 8 (n - 8 * m)
      · rw [if_pos h1, if_pos (by omega), State.read_getD_sram _ _ _ _ (by omega) (by omega)]
        congr 1
        omega
      · rw [if_neg h1]
        by_cases h2 : b ≤ j ∧ j < b + min n (8 * m)
        · rw [if_pos h2, if_pos (by omega)]
        · rw [if_neg h2, if_neg (by omega)]
  have := key (ceilDiv n 8) (Nat.le_refl _)
  rw [this]
  have : min n (8 * ceilDiv n 8) = n := by unfold ceilDiv; omega
  rw [this]

theorem State.book_mem (s : State) (d c k : Nat) (l : List Access) : (s.book d c k l).mem = s.mem := rfl
theorem State.moveUntil_mem (s : State) (d c k t : Nat) : (s.moveUntil d c k t).mem = s.mem := rfl
theorem State.poisonSeen_mem (s : State) (d c k : Nat) (b : Bool) : (s.poisonSeen d c k b).mem = s.mem := by
  unfold State.poisonSeen
  split <;> rfl

/-- A core receives loft bytes: they stand in its stall, and every other byte of memory stays. -/
theorem State.receive_byte (s : State) (d c k la sa n j : Nat) :
    (s.receive d c k la sa n).mem.byte j = if stallBase d c k + sa ≤ j ∧ j < stallBase d c k + sa + n then
      s.mem.byte (loftBase d c + la + (j - (stallBase d c k + sa))) else s.mem.byte j := by
  unfold State.receive
  dsimp only
  rw [State.book_mem, State.moveUntil_mem, State.poisonSeen_mem]
  unfold State.wordsToStall
  exact words_byte s _ (stallBase d c k + sa) n j (loftBase_sram d c la) _
    (fun t m => by rw [State.stallWrite_byte, Nat.add_assoc (stallBase d c k) sa m.off]) s

/-- LD copies loft bytes into the stall, and changes no other byte. -/
theorem State.moveLd_byte (s : State) (d c k j : Nat) (r : MoveRud) :
    (s.moveLd d c k r).mem.byte j =
      if stallBase d c k + s.stallAddr d (s.hOf d c) k r.agS ≤ j ∧ j < stallBase d c k + s.stallAddr d (s.hOf d c) k r.agS + r.len then
        s.mem.byte (loftBase d c + s.loftAddr d (s.hOf d c) k r.agL + (j - (stallBase d c k + s.stallAddr d (s.hOf d c) k r.agS)))
      else s.mem.byte j := by
  unfold State.moveLd
  dsimp only
  rw [State.book_mem, State.receive_byte, State.loftRead_mem]

/-- ST copies stall bytes into the loft, and changes no other byte. -/
theorem State.moveSt_byte (s : State) (d c k j : Nat) (r : MoveRud) :
    (s.moveSt d c k r).mem.byte j =
      if loftBase d c + s.loftAddr d (s.hOf d c) k r.agL ≤ j ∧ j < loftBase d c + s.loftAddr d (s.hOf d c) k r.agL + r.len then
        s.mem.byte (stallBase d c k + s.stallAddr d (s.hOf d c) k r.agS + (j - (loftBase d c + s.loftAddr d (s.hOf d c) k r.agL)))
      else s.mem.byte j := by
  unfold State.moveSt
  dsimp only
  rw [State.book_mem, State.moveUntil_mem]
  unfold State.wordsToLoft
  rw [words_byte s _ (loftBase d c + s.loftAddr d (s.hOf d c) k r.agL) r.len j (stallBase_sram d c k _) _
    (fun t m => by rw [State.loftWrite_byte, Nat.add_assoc (loftBase d c) _ m.off]) _, State.stallRead_mem]

end Sys2Proof.Machine
end

