-- ==== Sys2Proof/WellFormed.lean ====
section
/-!
DEFINITION. WellFormed.lean: the commands whose operands lie in the ranges the spec's fields give them. Operand ranges that the Lean types already
say (unit numbers, register widths) are not repeated. The meanings are total: they do not assume it.
-/

namespace Sys2Proof

/-- `v` fits a signed field of `w` bits. -/
def fitsSigned (w : Nat) (v : Int) : Bool := decide (-(2 : Int) ^ (w - 1) ≤ v) && decide (v < (2 : Int) ^ (w - 1))

/-- A term names a counter 0 to 15 and has a signed stride of `w` bits (R129, R135, R148). -/
def AgTerm.wf (w : Nat) (t : AgTerm) : Bool := decide (t.ctr < 16) && fitsSigned w t.stride

/-- An address generator (R129). -/
def AG.wf (g : AG) : Bool := decide (g.base < 2 ^ 24) && fitsSigned 20 g.cstride && g.terms.length == 3 && g.terms.all (AgTerm.wf 19)

/-- An index generator (R135). -/
def IdxGen.wf (g : IdxGen) : Bool := decide (g.base < 2 ^ 64) && fitsSigned 32 g.cstride && g.terms.length == 2 && g.terms.all (AgTerm.wf 32)

/-- A matrix rudiment (R131): formats 0x0 to 0x4. -/
def MatRud.wf (r : MatRud) : Bool := decide (r.fmta ≤ 4) && decide (r.fmtb ≤ 4) && r.agA.wf && r.agB.wf

/-- A vector rudiment (R132): forms 0 to 4, formats 0x0 to 0xB, summary kinds of 4 bits. -/
def VecRud.wf (r : VecRud) : Bool :=
  decide (r.forma ≤ 4) && decide (r.formb ≤ 4) && decide (r.fmta ≤ 0xB) && decide (r.fmtb ≤ 0xB) && decide (r.ga < 256) && decide (r.gb < 256) &&
    decide (r.dest < 4) && decide (1 ≤ r.m) && decide (r.m ≤ 65536) && decide (1 ≤ r.n) && decide (r.n ≤ 65536) && decide (r.rlo < 16) &&
    decide (r.rhi < 16) && decide (r.smk < 4) && decide (r.skind < 16) && r.agA.wf && r.agB.wf && r.agD.wf

/-- A converter rudiment (R135). -/
def ConvRud.wf (r : ConvRud) : Bool :=
  (decide (r.src < 12) || r.src == 15) && fitsSigned 16 r.x && decide (r.eb < 128) && decide (r.ec < 128) && decide (1 ≤ r.chn) &&
    decide (r.chn ≤ 65536) && decide (r.desc < 4096) && decide (1 ≤ r.rows) && decide (r.rows ≤ 64) && decide (1 ≤ r.cols) && decide (r.cols ≤ 64) &&
    fitsSigned 64 r.lo && fitsSigned 64 r.hi && r.agD.wf && r.agC.wf && r.row.wf && r.col.wf

/-- A move rudiment (R137). -/
def MoveRud.wf (r : MoveRud) : Bool :=
  decide (1 ≤ r.len) && decide (r.len ≤ 2 ^ 24) && decide (r.efmt < 16) && decide (1 ≤ r.rowlen) && decide (r.rowlen ≤ 65536) && r.agL.wf && r.agS.wf

/-- A pivot rudiment (R212). -/
def PivRud.wf (r : PivRud) : Bool := decide (1 ≤ r.count) && decide (r.count ≤ 65536) && r.ag.wf

/-- A packet of this type (R346): at most 256 bytes of payload. -/
def Packet.wf (t : PType) (k : Packet) : Bool := k.ptype == t && decide (k.payload.length ≤ 256)

/-- The classes a port's requests carry (R257): a die's DMA engines any class their entries name, a fabric die P0 (an expedited read) or P2,
the control port what the control-die DMA's command names besides the ledger's P2, the scoring reads' P0 and the drain's P3, the
exchange unit and the engines P1 or P2, the scrubber P3. -/
def yardClassOk : YPort → Fin 4 → Bool
  | .die _, _ | .control, _ => true
  | .fabric _, c => c == 0 || c == 2
  | .exchange, c | .engines, c => c == 1 || c == 2
  | .scrubber, c => c == 3

/-- A request to a yard stays in one 256-byte line (R256), its bytes as many as its length. -/
def YReq.wf (q : YReq) : Bool :=
  yardClassOk q.port q.cls && decide (1 ≤ q.len) && decide (q.off.toNat % 256 + q.len ≤ 256) && (match q.write with | some b => b.length == q.len | none => true)

/-- A record instruction of nf fields (R465): distinct registers, a field width of 1, 2, 4 or 8 bytes. -/
def recordWf (nf : Nat) (regs : List Nat) (z : Nat) : Bool :=
  regs.length == nf && regs.eraseDups.length == nf && (z == 1 || z == 2 || z == 4 || z == 8)

/-- The command's operands are in range. -/
def Instr.wf : Instr → Bool
  | .chunk _ _ _ slot r | .chunkc _ _ _ slot r | .accst _ _ _ slot r | .accadd _ _ _ slot r => decide (slot.toNat < 12) && r.wf
  | .accclr _ _ _ slot => decide (slot.toNat < 12)
  | .vecAdd _ _ _ r cv | .vecSub _ _ _ r cv | .vecAdds _ _ _ r cv | .vecSubs _ _ _ r cv | .vecNegs _ _ _ r cv | .vecAbss _ _ _ r cv
  | .vecMin _ _ _ r cv | .vecMax _ _ _ r cv | .vecAnd _ _ _ r cv | .vecOr _ _ _ r cv | .vecXor _ _ _ r cv | .vecAndn _ _ _ r cv
  | .vecNot _ _ _ r cv | .vecShl _ _ _ r cv | .vecShls _ _ _ r cv | .vecShra _ _ _ r cv | .vecShrl _ _ _ r cv | .vecShrn _ _ _ r cv
  | .vecClz _ _ _ r cv | .vecPopc _ _ _ r cv | .vecCmpeq _ _ _ r cv | .vecCmplt _ _ _ r cv | .vecCmple _ _ _ r cv | .vecSel _ _ _ r cv
  | .vecClamp _ _ _ r cv | .vecMul _ _ _ r cv | .vecMulw _ _ _ r cv | .vecMulhs _ _ _ r cv | .vecRsum _ _ _ r cv | .vecRmax _ _ _ r cv
  | .vecRmin _ _ _ r cv | .vecCsum _ _ _ r cv | .vecCmax _ _ _ r cv | .vecCmin _ _ _ r cv | .vecExp2 _ _ _ r cv | .vecLog2 _ _ _ r cv
  | .vecRecip _ _ _ r cv | .vecRsqrt _ _ _ r cv | .vecSigm _ _ _ r cv | .vecTanh _ _ _ r cv | .smx1 _ _ _ r cv | .smx2 _ _ _ r cv
  | .smx3 _ _ _ r cv | .nrm1 _ _ _ r cv | .nrm2 _ _ _ r cv | .vecMov _ _ _ r cv => r.wf && cv.all ConvRud.wf
  | .conv _ _ _ r | .chld _ _ _ r => r.wf
  | .ld _ _ _ r | .st _ _ _ r | .ldt _ _ _ r | .bcast _ _ r => r.wf
  | .begin _ _ r | .run _ _ r | .dpt _ _ r | .cnt _ _ r => r.wf
  | .csrWrite _ addr size _ => (size == 8 && addr.toNat % 8 == 0) || (size == 4 && addr.toNat % 4 == 0)
  | .yardRequest _ q => q.wf
  | .rdReq _ k => k.wf .rdReq
  | .rdRsp _ k => k.wf .rdRsp
  | .wr _ k => k.wf .wr
  | .wrDone _ k => k.wf .wrDone
  | .atomPkt _ k => k.wf .atom
  | .atomRsp _ k => k.wf .atomRsp
  | .bell _ k => k.wf .bell
  | .team _ k => k.wf .team
  | .mgmtWrite _ k | .mgmtRead _ k | .mgmtReadResponse _ k | .checkpointReport _ k => k.wf .mgmt
  | .errRsp _ k => k.wf .errRsp
  | .collUp _ k | .collDown _ k | .collConfirm _ k | .collRelease _ k | .collReject _ k | .collError _ k | .collStatus _ k => k.wf .coll
  | .grpq _ k => k.wf .grpq
  | .codewordReceive _ bytes => bytes.length == 280
  | .linkControlEntry _ entry => entry.length == 16 && entry.head? == some 0x0F#8
  | .ckpPublished _ _ tUs _ _ => tUs != 0
  | .vunz2 _ regs _ z _ | .vzip2 _ regs _ z _ => recordWf 2 regs z
  | .vunz3 _ regs _ z _ | .vzip3 _ regs _ z _ => recordWf 3 regs z
  | .vunz4 _ regs _ z _ | .vzip4 _ regs _ z _ => recordWf 4 regs z
  | .pcieHostAccess bar _ len w => decide (bar < 6) && decide (1 ≤ (match w with | some b => b.length | none => len))
  | .memoryTrainingDone fails => fails.length == 8
  | .readoutRequest q => q.op == 1 || q.op == 2
  | .beatIssue .. | .nop .. | .loop .. | .br .. | .jmp .. | .step .. | .stepDrained .. | .stepBarrierPass .. | .stepAction5 .. | .rebaseDone ..
  | .halt .. | .haltComplete .. | .ring .. | .await .. | .awaitPass .. | .awaitTmo .. | .ringx .. | .dmaIssue .. | .dmaQueueFree ..
  | .dmaLineIssue .. | .dmaTransferDone .. | .seqLoadStart .. | .scanComplete .. | .seqGo .. | .storeApertureWrite .. | .coreInjStallCe ..
  | .coreInjStallUe .. | .loftInjCe .. | .loftInjUe .. | .xcmdPost .. | .windowRoom .. | .yardCmdStart .. | .narrow .. | .widen .. | .imp ..
  | .exp .. | .yardCmdComplete .. | .spmv .. | .resid .. | .gather .. | .reduce .. | .convert .. | .eqrow .. | .eqcol .. | .eqapply .. | .digest ..
  | .atomList .. | .atomAdd .. | .atomMin .. | .atomMax .. | .atomAnd .. | .atomOr .. | .atomXor .. | .fadd .. | .swap .. | .cas .. | .fmin ..
  | .fmax .. | .slotGrant .. | .cowWriteResume .. | .refresh .. | .targetedRefresh .. | .scrubRead .. | .yrdInjCe .. | .yrdInjUe ..
  | .yrdInjPoison .. | .bellRing .. | .tmLost .. | .ldgTailWrite .. | .retryTimeout .. | .codewordSend .. | .linkDown .. | .lossOfSignal ..
  | .partnerTraining .. | .trainingDone .. | .retrainTimer .. | .portEnableWrite .. | .portDrain .. | .penEnableWrite .. | .grpqEnableWrite ..
  | .xchEnableWrite .. | .engEnableWrite .. | .optEnableWrite .. | .drainComplete .. | .grpCmdPost .. | .collStart .. | .collGatePass ..
  | .barrier .. | .collBcast .. | .collReduce .. | .allreduce .. | .send .. | .gcTimeout .. | .grpSwapArm .. | .drainPageRead .. | .ckpDrainDone ..
  | .jobManifestWrite .. | .nvmeCompletion .. | .ckPartial .. | .restore .. | .layoutLoad | .layoutChecksDone | .layoutUnload | .unloadComplete
  | .layoutArm | .armChecksDone | .layoutDisarm | .copy .. | .dmaImport .. | .dmaExport .. | .cdDmaComplete .. | .cdDmaqTailWrite .. | .watchFire ..
  | .watchPendingClear .. | .scoreRequest .. | .trapReturn .. | .ptpMessage .. | .rotEnrol .. | .rotKeyLoad .. | .cnpReceive .. | .rateRegainTimer ..
  | .ecnMarkedReceive .. | .rdmaTargetAccess .. | .dieFault .. | .packageFault .. | .freezePin | .freezeRequest .. | .freezeResume | .powerOnReset
  | .pkgRstWarm | .resetPin | .pkgRstDie .. | .pkgRstPen .. | .powerSample .. | .inputOutOfRange .. | .outOfRangeTimeout | .inputCollapse ..
  | .tempWarning .. | .tempTrip .. | .hardwareThermtrip .. | .bootVerifyDone .. | .railSequencingDone | .bridgeTrainingDone .. | .vin | .iin | .pin
  | .tempMax | .temps | .status | .stretch | .cap | .fault | .layout | .ident | .clearAlert .. | .alertResponse | .extest .. | .idcode
  | .samplePreload .. | .clamp | .highz | .readoutAddr .. | .readoutData .. | .bypass | .clrPeak | .inputBackInRange .. | .tempBelowWarn ..
  | .resetNRelease | .softStartDone | .pcieTrainingDone .. | .pcieInboundDma .. | .ethLinkDown .. | .ethLinkUp .. | .ptpTransmitterLost
  | .refreshDone .. | .testReset => true

end Sys2Proof
end

