-- ==== Sys2Proof/Tests/Slice0.lean ====
section
/-!
SUPPORT. Slice0.lean: the model's own tests, each one step on a small state or one function on the figures of an example of the spec; the terms
WellFormed refuses; and, for each statement with hypotheses, a state and operands that meet them (`test_meets_…`).
-/

namespace Sys2Proof.Tests

open Sys2Proof.Machine

set_option Elab.async false

/-! ## States and helpers -/

/-- A package that has started up, with nothing loaded. -/
def up : State := { State.reset with stage := .ready, pins := { pwrOk := true, ready := true, thermtripN := true, alertN := true } }

/-- It has calm yards. -/
theorem up_calm : calm up := by
  unfold calm idleYards noWait
  decide +kernel

/-- s with register fields set. -/
def sets (s : State) (l : List (Fld × Nat)) : State := l.foldl (fun t x => t.set x.1 x.2) s

/-- s with bytes stored with valid check bits. -/
def wr (s : State) (a : Nat) (bs : List Byte) : State := s.put a bs false

/-- The command completes, and p holds of the state after. -/
def after (c : Instr) (s : State) (p : State → Bool) : Bool := match exec c s with | .next t => p t | _ => false

/-- The cycles a context has been held in all, once a free count is added (log entry 23). -/
def heldAfter (s : State) (d h : Nat) : Nat :=
  min (s.get (SEQ_HELD.cycles d h) + (1 + (Config.freeValue s.fresh).toNat % 2 ^ 32)) (2 ^ 64 - 1) % 2 ^ 64

/-- `State.countHeld` with its count listed: the count is never the reset value. -/
theorem countHeld_eq (s : State) (d h : Nat) : s.countHeld d h =
    { s with fresh := s.fresh + 1,
             regs := Tab.ins (Tab.erase s.regs (SEQ_HELD.cycles d h).key) (SEQ_HELD.cycles d h).key (heldAfter s d h) } := by
  have h0 : heldAfter s d h ≠ 0 := by
    have h1 : min (s.get (SEQ_HELD.cycles d h) + (1 + (Config.freeValue s.fresh).toNat % 2 ^ 32)) (2 ^ 64 - 1) < 2 ^ 64 := by omega
    rw [heldAfter, Nat.mod_eq_of_lt h1]
    omega
  have e : s.countHeld d h = { s with fresh := s.fresh + 1, regs := Tab.set 0 s.regs (SEQ_HELD.cycles d h).key (heldAfter s d h) } := rfl
  rw [e, Tab.set, if_neg h0]

/-- An address generator without counters. -/
def ag (b : Nat) : AG := { base := b, cstride := 0, terms := [⟨0, false, 0⟩, ⟨0, false, 0⟩, ⟨0, false, 0⟩] }

def idx0 : IdxGen := { base := 0, cstride := 0, terms := [⟨0, false, 0⟩, ⟨0, false, 0⟩] }

def matRud : MatRud := { fmta := 1, fmtb := 1, agA := ag 0, agB := ag 4096 }

def vecRud : VecRud :=
  { forma := 3, formb := 4, fmta := 9, fmtb := 9, ga := 0, gb := 0, dest := 2, m := 1, n := 1, imm := 5, rlo := 0, rhi := 0, smk := 0, skind := 15,
    var := false, agA := ag 1, agB := ag 2, agD := ag 3 }

def convRud : ConvRud :=
  { src := 0, x := 0, eb := 0, clip := false, ec := 0, rmode := false, chn := 4, desc := 0, rows := 2, cols := 16, lo := 0, hi := 0, agD := ag 100,
    agC := ag 200, row := idx0, col := idx0 }

def moveRud : MoveRud := { len := 8, efmt := 15, bset := 0x20, rowlen := 4, agL := ag 8, agS := ag 100 }

def pivRud : PivRud := { dl := false, count := 1, ag := ag 8 }

def pkt (t : PType) (dst src : U16) (a b : U64) (data : List Byte) : Packet :=
  { ptype := t, exped := false, hops := 3, dst := dst, src := src, group := 0, mask := 0, tag := 0, wordA := a, wordB := b, payload := data }

def yreq (off : BitVec 37) (len : Nat) (w : Option (List Byte)) : YReq := { port := .control, cls := 1, pen := none, off := off, len := len, write := w }

/-! ## WellFormed: a term for each check, and terms it passes -/

/-- Ill-formed commands, one for each check of the rudiments. -/
def badRudiments : List Instr :=
  [.chunk 0 0 0 12 matRud, .accclr 0 0 0 15, .chunk 0 0 0 0 { matRud with fmta := 5 }, .chunkc 0 0 0 0 { matRud with fmtb := 5 },
   .accst 0 0 0 0 { matRud with agA := ag (2 ^ 24) }, .accadd 0 0 0 0 { matRud with agB := { ag 0 with cstride := 2 ^ 19 } },
   .chunk 0 0 0 0 { matRud with agA := { ag 0 with terms := [] } },
   .chunk 0 0 0 0 { matRud with agA := { ag 0 with terms := [⟨16, false, 0⟩, ⟨0, false, 0⟩, ⟨0, false, 0⟩] } },
   .chunk 0 0 0 0 { matRud with agA := { ag 0 with terms := [⟨0, false, -2 ^ 18 - 1⟩, ⟨0, false, 0⟩, ⟨0, false, 0⟩] } }] ++
  ([{ vecRud with forma := 5 }, { vecRud with formb := 5 }, { vecRud with fmta := 12 }, { vecRud with fmtb := 12 }, { vecRud with ga := 256 },
    { vecRud with gb := 256 }, { vecRud with dest := 4 }, { vecRud with m := 0 }, { vecRud with m := 65537 }, { vecRud with n := 0 },
    { vecRud with n := 65537 }, { vecRud with rlo := 16 }, { vecRud with rhi := 16 }, { vecRud with smk := 4 }, { vecRud with skind := 16 },
    { vecRud with agD := ag (2 ^ 24) }] : List VecRud).map (fun r => .vecAdd 0 0 0 r none) ++
  [.vecMov 0 0 0 vecRud (some { convRud with src := 12 })]

def badConversions : List Instr :=
  ([{ convRud with src := 13 }, { convRud with x := 2 ^ 15 }, { convRud with eb := 128 }, { convRud with ec := 128 }, { convRud with chn := 0 },
    { convRud with chn := 65537 }, { convRud with desc := 4096 }, { convRud with rows := 0 }, { convRud with rows := 65 }, { convRud with cols := 0 },
    { convRud with cols := 65 }, { convRud with lo := 2 ^ 63 }, { convRud with hi := -2 ^ 63 - 1 }, { convRud with row := { idx0 with base := 2 ^ 64 } },
    { convRud with col := { idx0 with cstride := 2 ^ 31 } }] : List ConvRud).map (fun r => .conv 0 0 0 r) ++
  ([{ moveRud with len := 0 }, { moveRud with len := 2 ^ 24 + 1 }, { moveRud with efmt := 16 }, { moveRud with rowlen := 0 },
    { moveRud with rowlen := 65537 }] : List MoveRud).map (fun r => .ldt 0 0 0 r) ++
  [.run 0 0 { pivRud with count := 0 }, .run 0 0 { pivRud with count := 65537 }, .begin 0 0 { pivRud with ag := ag (2 ^ 24) }]

def badOthers : List Instr :=
  [.csrWrite .controlDie 0x010000000004 8 0, .csrWrite .controlDie 0x010000000002 4 0, .csrWrite .controlDie 0x010000000000 2 0,
   .yardRequest 0 (yreq 0 0 none), .yardRequest 0 (yreq 200 100 none), .yardRequest 0 (yreq 0 2 (some [1])),
   .wr 0 (pkt .rdReq 0 0 0 0 []), .wr 0 (pkt .wr 0 0 0 0 (List.replicate 257 0)), .codewordReceive 0 [], .linkControlEntry 0 [0x0F],
   .linkControlEntry 0 (List.replicate 16 0), .ckpPublished 0 0 0 0 0, .vunz2 0 [1] 0 1 1, .vunz3 0 [1, 2, 1] 0 1 1, .vzip4 0 [1, 2, 3, 4] 0 3 1,
   .pcieHostAccess 6 0 1 none, .pcieHostAccess 0 0 0 none, .memoryTrainingDone [],
   .readoutRequest { port := 0, magic := 0, op := 3, addr := 0, len := 8, tag := 0, data := 0 }]

theorem test_wf_refuses_rudiments : badRudiments.all (fun i => !i.wf) = true := by decide +kernel
theorem test_wf_refuses_conversions : badConversions.all (fun i => !i.wf) = true := by decide +kernel
theorem test_wf_refuses_others : badOthers.all (fun i => !i.wf) = true := by decide +kernel

theorem test_wf_passes :
    ([.chunk 0 0 0 11 matRud, .vecAdd 0 0 0 vecRud (some convRud), .conv 0 0 0 { convRud with src := 15 }, .ldt 0 0 0 moveRud, .run 0 0 pivRud,
      .csrWrite .controlDie 0x010000000004 4 0, .yardRequest 0 (yreq 0xF0 16 none), .wr 0 (pkt .wr 0 0 0 0 [1]),
      .vunz3 0 [1, 2, 3] 0 8 1] : List Instr).all Instr.wf = true := by decide +kernel

/-! ## Figures of the spec's examples -/

/-- The address example of 00_scope: package 291, stack M5, offset 0x4000; the stack's mapped range ends at 0x00B7_FFFF_FFFF. -/
theorem test_address_example :
    (0x012300A000004000 / 2 ^ 48 = 291 ∧ localOf 0x012300A000004000 = 0x00A000004000 ∧ stackBase 5 + 0x4000 = 0x00A000004000 ∧
      stackBase 5 + 0x1800000000 = 0x00B800000000) := by decide +kernel

/-- The dot product of 01_scaled_integers: the three terms and their sum. -/
theorem test_dot_product_example :
    chunkTerm 16 (100, 0, false) (-90, 0, false) = -589824000 ∧ chunkTerm 16 (-3, 10, false) (5, 9, false) = -2 ∧
      chunkTerm 16 (7, 12, false) (7, 8, false) = 3 ∧ (-589824000 : Int) - 2 + 3 = -589823999 := by decide +kernel

/-- Its conversion to I8 at E = 2: shift 2 and code −70. -/
theorem test_conversion_example :
    (roundBlock 8 2 (-30) (fun _ v d => roundNe v d) (-589823999 :: List.replicate 31 0)).shift = 2 ∧
      (roundBlock 8 2 (-30) (fun _ v d => roundNe v d) (-589823999 :: List.replicate 31 0)).codes.head? = some (-70) := by decide +kernel

/-- Stochastic rounding of 04_training_numerics: 4 with u = 40,000, 3 with u = 0x1000, and the border at u = 32,768. -/
theorem test_stochastic_example :
    roundSr 40000 29360133 23 = 4 ∧ roundSr 0x1000 29360133 23 = 3 ∧ roundSr 32768 29360133 23 = 4 ∧ roundSr 32767 29360133 23 = 3 := by
  decide +kernel

/-- Halving of codes to nearest even (04_training_numerics). -/
theorem test_halving_example : roundNe 5 1 = 2 ∧ roundNe (-3) 1 = -2 ∧ roundNe 1 1 = 0 ∧ roundNe 6 1 = 3 := by decide +kernel

/-- The function-unit results of 02_engines. -/
theorem test_function_unit_example :
    fuExp2 0x8000 = (0x5A82799A, 0) ∧ fuExp2 (-65536) = (0x40000000, -1) ∧ (fuLog2 8 0).fst = 0x300000000 ∧
      fuRecip 3 = { fuRecip 3 with fst := 0x55555555, snd := some 1 } ∧ fuRsqrt 2 = { fuRsqrt 2 with fst := 0x5A827999, snd := some 0 } ∧
      fuRsqrt 4 = { fuRsqrt 4 with fst := 0x40000000, snd := some 0 } ∧ fuSigm 0 = 0x20000000 ∧ (fuTanh 0).fst = 0 := by decide +kernel

/-- The stack offset of 07_memory_and_yards: channel 59, channel line 0x48_D159. -/
theorem test_stack_hash_example : channelOf 0x1234567800 = 59 ∧ channelLine 0x1234567800 = 0x48D159 := by decide +kernel

/-- The header of the remote write of 09_fabric. -/
theorem test_packet_header_example :
    (packetBytes { pkt .wr 0x0413 0x0123 0x00A000004000 0 (List.replicate 256 0) with hops := 0, tag := 0x0A17 }).take 32 =
      [0x03, 0x00, 0x13, 0x04, 0x23, 0x01, 0x00, 0x00, 0x00, 0x01, 0x00, 0x00, 0x17, 0x0A, 0x00, 0x00, 0x00, 0x40, 0x00, 0x00, 0xA0, 0x00, 0x00,
       0x00, 0x00, 0x00, 0x00, 0x00, 0x00, 0x00, 0x00, 0x00] := by decide +kernel

/-- The interval of 11_checkpoint_and_shrink: C = 1.8 s, t = 20 ms, T_run + m0 = 108,000 s over 4, max_lost 10,000. -/
theorem test_interval_example :
    intervalOf 1800 20000 108000 4 10000 = (9910, 90, 27000, false) ∧ bestInterval 1800 20000 108000 4 = 15588 := by decide +kernel

/-- DIAG of the nearly singular system of 05_solvers on the grid 2^-62: l10 = 0.5, the second pivot is replaced by 2^-40, and l11 = 2^-20. -/
theorem test_pivot_example :
    let r := pivDiag 0 2 (-62) ⟨1, -40⟩ 0 [[⟨2 ^ 62, -62⟩, ⟨2 ^ 61, -62⟩], [⟨2 ^ 61, -62⟩, ⟨2 ^ 60 + 4, -62⟩]]
    r.1 = [[⟨2 ^ 62, -62⟩, ⟨0, 0⟩], [⟨2 ^ 61, -62⟩, ⟨2 ^ 42, -62⟩]] ∧ r.2.2.pert = 1 ∧ r.2.2.col = some 1 := by decide +kernel

/-- CRC-32C of the nine digits, the check value by which that polynomial is known. -/
theorem test_crc : crc32c [0x31, 0x32, 0x33, 0x34, 0x35, 0x36, 0x37, 0x38, 0x39] = 0xE3069283 := by decide +kernel

/-! ## States that meet the statements' hypotheses: queue, reset, power -/

theorem test_meets_StepRunsTheFrontCommand :
    (State.reset.pending = [] ∧ State.reset.mem.wf ∧ Tab.Rising State.reset.regs) ∧ ∃ t, exec .freezeResume State.reset = .next t :=
  ⟨by decide +kernel, _, rfl⟩

theorem test_meets_EveryStepKeepsCanonicalForm :
    ∃ s t : State, (s.mem.wf ∧ Tab.Rising s.regs) ∧ s.mem.cells ≠ [] ∧ s.regs ≠ [] ∧ noWait s ∧ step s = .next t :=
  ⟨{ wr (sets up [(BEL_VAL.count 0 9, 5)]) 64 [1, 2] with pending := [.freezeResume] }, _, by decide +kernel, by decide +kernel, by decide +kernel,
    rfl, rfl⟩

theorem test_meets_KeysComeOnlyFromTheirCommands :
    (up.mem.wf ∧ Tab.Rising up.regs) ∧ (∀ k, Instr.freezeResume ≠ .rotEnrol k ∧ Instr.freezeResume ≠ .rotKeyLoad k) ∧
      (∃ t, exec .freezeResume up = .next t) ∧ ∃ t, step { up with pending := [.freezeResume] } = .next t :=
  ⟨by decide +kernel, fun _ => ⟨nofun, nofun⟩, ⟨_, rfl⟩, ⟨_, rfl⟩⟩

theorem test_meets_WarmResetClearsAndKeeps :
    (up.power.badIn = false ∧ up.stage ≠ .off ∧ ∀ p, p < 8 → up.get (CKP_STAT.state p) = 0) ∧
      ({ up with power := { up.power with badV := true } } : State).power.badIn = true := by decide +kernel

theorem test_meets_DieAndPenResetsClear :
    up.awake = true ∧ (up.diePens 1).any up.penRunning = false ∧
      (let s := { sets up [(PEN_INFO.used 1, 1), (PEN_INFO.halves 1, 12), (SEQ_STATUS.state 1 0, 3)] with
        lay := { up.lay with clusters := 0xFFFFFFFF } }
      s.awake = true ∧ (s.diePens 1).any s.penRunning = true) := by decide +kernel

theorem test_meets_StartUpStagesFollow :
    State.reset.stage = .softStart ∧ ({ up with power := { up.power with resetLow := true } } : State).power.resetLow = true ∧
      (∀ g ∈ [Stage.rails, .memory, .bridges, .boot], ({ up with stage := g } : State).stage = g) ∧ up.power.resetLow = false ∧
      (true && decide (Config.rollback.toNat ≤ (65535 : U16).toNat)) = true ∧
      (false && decide (Config.rollback.toNat ≤ (65535 : U16).toNat)) = false := by
  refine ⟨rfl, rfl, by decide, rfl, ?_, rfl⟩
  have h := Config.rollback.isLt
  simp only [Bool.true_and, decide_eq_true_eq]
  show Config.rollback.toNat ≤ 65535
  omega

theorem test_boot_without_a_slot :
    after (.bootVerifyDone false false 65535 65535) { up with stage := .boot } (fun t => t.stage == .failed && t.get CD_BOOT.fail == 1) = true := by
  decide +kernel

theorem test_meets_StretchLevelFollowsR513 :
    (State.reset.stage ≠ .off ∧ State.reset.managed = false) ∧ up.managed = true ∧ up.get PWR_STRETCH.level ≤ 8 ∧
      (sets up [(PWR_STRETCH.level, 8)]).get PWR_STRETCH.level ≤ 8 := by decide +kernel

/-- The cap of R513 at its edge (2,500 W with no layout active): one watt above it stretches, the cap itself does not. -/
theorem test_stretch_at_the_cap :
    after (.powerSample 48000 10 2501) up (fun t => t.get PWR_STRETCH.level == 1) = true ∧
      after (.powerSample 48000 10 2500) up (fun t => t.get PWR_STRETCH.level == 0) = true := by decide +kernel

theorem test_meets_InputOutOfRangeActsByDuration :
    let bad := { up with power := { up.power with badV := true } }
    up.stage ≠ .off ∧ bad.power.badIn = true ∧ up.awake = true ∧ 36000 ≤ (36000 : U16).toNat ∧ (36000 : U16).toNat < 40000 ∧
      58000 < (58001 : U16).toNat ∧ (60000 : U16).toNat ≤ 60000 ∧ 40000 ≤ (40000 : U16).toNat ∧ (58000 : U16).toNat ≤ 58000 ∧
      (6500 : U16).toNat ≤ 6500 ∧ ((35999 : U16).toNat < 36000 ∨ 60000 < (35999 : U16).toNat) := by decide +kernel

/-- The input limits of R512 at their edges. -/
theorem test_input_limits :
    after (.inputOutOfRange 39999 0) up (fun t => t.get PWR_STAT.uv == 1 && t.get PWR_STAT.ov == 0) = true ∧
      after (.inputOutOfRange 58001 0) up (fun t => t.get PWR_STAT.ov == 1 && t.get PWR_STAT.uv == 0) = true := by decide +kernel

theorem test_meets_TemperaturesWarnAndTrip :
    let warm := sets up [(PWR_THERM.over 3, 1)]
    up.stage ≠ .off ∧ up.pkgFrozen = false ∧ 16 * (up.get (PWR_THERM.warn 3) : Int) ≤ (0x7FFF : BitVec 16).toInt ∧
      (warm.get (PWR_THERM.over 3) = 1 ∧ (0 : BitVec 16).toInt < 16 * (warm.get (PWR_THERM.warn 3) : Int)) ∧
      16 * (tripOf 4 : Int) ≤ (0x7FFF : BitVec 16).toInt ∧ 16 * (tripOf 3 : Int) ≤ (0x7FFF : BitVec 16).toInt := by decide +kernel

theorem test_meets_PackageTimeStepsForwardOnly :
    let s := sets up [(CD_PTP_CTL.enable, 1), (CD_PTP_CTL.domain, 7), (CD_PTP_CTL.udp, 1)]
    up.flag CD_PTP_CTL.enable = false ∧ s.flag CD_PTP_CTL.enable = true ∧ s.get CD_PTP_CTL.domain = (7 : Byte).toNat ∧
      s.flag CD_PTP_CTL.udp = true := by decide +kernel

theorem test_meets_LinksTrainWithinTheirCaps :
    let s := { sets up [(CD_PCIE.role, 1), (CD_ETH.up 2, 1)] with lay := { up.lay with pcieWidth := 4, pcieSpeed := 6 } }
    s.get (CD_ETH.up 2) = 1 ∧ s.ethLive 2 = true ∧ s.get (CD_ETH.up 4) = 0 ∧ s.ethLive 4 = true ∧ s.stage = .ready ∧ s.awake = true ∧
      (s.get CD_PCIE.role = 1 ∨ s.get CD_PCIE.role = 2) ∧ s.pcieRole = 0 ∧ (4 ≤ 4 ∧ 4 ≤ s.lay.pcieWidth ∧ (16 : BitVec 5).toNat = 2 ^ 4) ∧
      (6 : BitVec 3).toNat ≤ s.lay.pcieSpeed := by decide +kernel

/-! ## The service domain, registers, faults -/

theorem test_meets_SmbusAnswersAndClearsItsAlert :
    (up.stage ≠ .off ∧ up.stage ≠ .softStart ∧ up.pins.alertN = true) ∧ State.reset.stage = .softStart ∧
      ({ up with pins := { up.pins with alertN := false } } : State).pins.alertN = false := by decide +kernel

theorem test_meets_TestPortShiftsItsRegisters :
    let s := { sets up [(FRZ_RO.enable, 1), (FRZ_STAT.state, 2), (FRZ_STAT.halves, 255)] with
      jtag := { up.jtag with addr := BitVec.ofNat 64 FRZ_STAT.state.addr } }
    s.jtag.write = false ∧ s.readoutOn true = true ∧ s.readoutSram s.jtag.addr.toNat 8 = false ∧ readoutCsr s.jtag.addr.toNat 8 = true := by
  decide +kernel

/-- A frozen package with read-out on and its service link up. -/
def frozen : State := sets up [(FRZ_RO.enable, 1), (FRZ_RO.udp_port, 9000), (FRZ_STAT.state, 2), (FRZ_STAT.halves, 255), (CD_ETH.up 4, 1)]

theorem test_meets_ReadoutAnswersFrozenState :
    frozen.readoutOn false = true ∧ (9000 : U16).toNat = frozen.get FRZ_RO.udp_port ∧ (9001 : U16).toNat ≠ frozen.get FRZ_RO.udp_port ∧
      (8 ≤ (8 : U32).toNat ∧ (1024 : U32).toNat ≤ 1024 ∧ (1024 : U32).toNat % 8 = 0) ∧ (1025 : U32).toNat % 8 ≠ 0 ∧
      (readoutWritable 0 && 0 % 8 == 0 && 8 == 8) = false := by decide +kernel

theorem test_meets_AccessCodesSayWhatAWriteDoes :
    ([SEQ_AWAIT_TMO.cycles 0 0, PWR_STAT.uv, FRZ_CTL.req] : List Fld).all
      (fun f => decide (up.get f < 2 ^ f.w ∧ 0 < f.w ∧ f.lo + f.w ≤ 64)) = true := by decide +kernel

theorem test_meets_CsrWritesFaultOrAct :
    csrOk 0x010000000000 8 = true ∧ csrOk 0x010000000004 8 = false ∧ csrOk 0x010000000000 2 = false ∧ csrOk 0x00B800000000 8 = false ∧
      noWait up ∧ up.awake = true ∧ up.split 2 = false ∧ (sets up [(SEQ_DIE.split 2, 1)]).split 2 = true := by
  unfold noWait
  decide +kernel

theorem test_meets_FaultsFreezePackageOrDie :
    (up.pkgFrozen = false ∧ up.get FRZ_STAT.state = 0 ∧ up.get PKG_FAULT.valid = 0 ∧ ∀ p ∈ up.diePens 1, up.penRunning p = false) ∧
      ((sets up [(PKG_FAULT.valid, 1)]).pkgFrozen = false ∧ (sets up [(PKG_FAULT.valid, 1)]).get PKG_FAULT.valid = 1) ∧
      (frozen.pkgFrozen = true ∧ (sets frozen [(PKG_FAULT.valid, 1)]).get PKG_FAULT.valid = 1) := by decide +kernel

theorem test_meets_FreezeRequestsFreeze :
    State.reset.pins.ready = false ∧ (up.pins.ready = true ∧ up.pkgFrozen = false) ∧
      ((sets up [(PEN_INFO.used 1, 1), (PEN_INFO.halves 1, 12), (SEQ_STATUS.state 1 0, 3)]).penRunning 1 = true) ∧
      (up.penRunning 1 = false ∧ up.penInFlight 1 = false ∧ up.get FRZ_STAT.state = 0 ∧ up.get FRZ_STAT.halves = 0) := by decide +kernel

theorem test_meets_FreezeRequestsFreeze_resume :
    (noWait up ∧ up.get FRZ_STAT.state ≠ 1) ∧
      (let s := sets up [(FRZ_STAT.state, 1), (FRZ_STAT.resumable, 1), (FRZ_STAT.halves, 3)]
      s.get FRZ_STAT.state = 1 ∧ s.get FRZ_STAT.resumable = 1 ∧ ∀ p, p < 8 → s.pen p = Pen.clear) := by
  unfold noWait
  decide +kernel

/-! ## The sequencer -/

/-- Die 0 in whole mode runs context 0 for pen 1, which holds both halves; SEQ_PC is at record 16 of a region of 64 KiB. -/
def running : State :=
  { sets up [(PEN_INFO.used 1, 1), (PEN_INFO.halves 1, 3), (SEQ_CTL.region_size 0 0, 1), (SEQ_STATUS.state 0 0, 3), (SEQ_PC.record 0 0, 16),
      (SEQ_CYC.cycles 0 0, 100), (LAY_STATUS.state, 2), (PEN_CTL.state 1, 2)] with lay := { up.lay with clusters := 0xFFFFFFFF } }

/-- The record at SEQ_PC is the die word n, with no cluster word. -/
def beat (n : Nat) : State := wr running (running.regionAt 0 0 + 16 * 16) (leBytes 16 n)

theorem test_meets_NopAndJmpMoveThePc :
    let s := beat (5 * 16)
    s.issues 0 0 = true ∧ s.clash 0 0 100 (nextCycle s 0 0 0) = none ∧ s.clash 0 0 100 (nextCycle s 0 0 4) = none ∧ s.target 0 0 16 20 = some 36 ∧
      s.busyCores 0 0 = [] ∧ s.busyPivs 0 0 = [] ∧
      s.target 0 0 16 0xFFFF00 = none ∧ s.activeLoops 0 0 = [] := by decide +kernel

theorem test_nop_rests :
    after (.nop 0 0) (beat (5 * 16)) (fun t => t.get (SEQ_CYC.cycles 0 0) == nextCycle (beat (5 * 16)) 0 0 0) = true := by decide +kernel

/-- The record after the LOOP record: a body of one unit ends on a record. -/
def loopBeat : State := wr (beat 1) (running.regionAt 0 0 + 16 * 17) (leBytes 16 0)

theorem test_meets_LoopStartsItsCounter :
    let s := loopBeat
    s.issues 0 0 = true ∧ s.nestBad 0 0 16 (s.pcLen 0 0) 3 0 = true ∧ s.nestBad 0 0 16 (s.pcLen 0 0) 3 1 = false ∧
      s.busyCores 0 0 = [] ∧ s.busyPivs 0 0 = [] ∧ s.clash 0 0 100 (nextCycle s 0 0 0) = none ∧ (5 : BitVec 24).toNat ≠ 0 ∧ s.activeLoops 0 0 = [] := by decide +kernel

/-- A BR beat over core set 1, which names cores 0 and 1 of cluster 1, summaries 2 of kind 2, the first with value v, the second of kind k and with
poison p; the set table begins at unit 8 and has 2 entries. -/
def branchBeat (v k p : Nat) : State :=
  wr (wr (wr (sets (beat 2) [(CORE_SM.value 0 1 0 2, v), (CORE_SMCTL.kind 0 1 0 2, 2), (CORE_SMCTL.kind 0 1 1 2, k), (CORE_SMCTL.poison 0 1 1 2, p)])
    (running.regionAt 0 0 + 33) [2]) (running.regionAt 0 0 + 36) [8]) (running.regionAt 0 0 + 16 * 9) (leBytes 16 (3 * 2 ^ 16))

theorem test_meets_BranchFollowsItsSummary :
    let s := branchBeat 5 2 0
    let l := s.coreSet 0 0 1
    s.issues 0 0 = true ∧ l = [(1, 0), (1, 1)] ∧ (∀ x ∈ l, ∀ y ∈ l, s.get (CORE_SMCTL.kind 0 x.1 x.2 2) = s.get (CORE_SMCTL.kind 0 y.1 y.2 2)) ∧
      l.find? (fun x => s.get (CORE_SMCTL.poison 0 x.1 x.2 2) == 1) = none ∧ combined 2 (l.map fun x => sext 64 (s.get (CORE_SM.value 0 x.1 x.2 2))) = 5 ∧
      brTaken 1 5 ∧ ¬ brTaken 0 5 ∧ (s.target 0 0 16 7 = some 23 ∧ s.target 0 0 16 0xFFFF00 = none) ∧
      (s.busyCores 0 0 = [] ∧ s.busyPivs 0 0 = [] ∧ s.clash 0 0 100 (nextCycle s 0 0 4) = none ∧ s.clash 0 0 100 (nextCycle s 0 0 0) = none) ∧
      s.activeLoops 0 0 = [] ∧ s.coreSet 0 0 5 = [] := by
  unfold brTaken
  decide +kernel

/-- Two kinds in one set, and a poisoned summary. -/
theorem test_meets_BranchFollowsItsSummary_faults :
    let s := branchBeat 5 2 1
    let l := s.coreSet 0 0 1
    (s.issues 0 0 = true ∧ (∀ x ∈ l, ∀ y ∈ l, s.get (CORE_SMCTL.kind 0 x.1 x.2 2) = s.get (CORE_SMCTL.kind 0 y.1 y.2 2)) ∧
        l.find? (fun x => s.get (CORE_SMCTL.poison 0 x.1 x.2 2) == 1) = some (1, 1)) ∧
      (let u := branchBeat 5 3 0
      u.issues 0 0 = true ∧ u.get (CORE_SMCTL.kind 0 1 0 2) ≠ u.get (CORE_SMCTL.kind 0 1 1 2) ∧ u.coreSet 0 0 1 = [(1, 0), (1, 1)]) := by
  decide +kernel

/-- The signs BR tests (R123): zero, nonzero, negative, not negative. -/
theorem test_branch_conditions :
    (condMet 0 0 ∧ ¬condMet 0 1) ∧ (condMet 1 (-1) ∧ ¬condMet 1 0) ∧ (condMet 2 (-1) ∧ ¬condMet 2 0) ∧ condMet 3 0 ∧ ¬condMet 3 (-1) := by
  decide

/-- An AWAIT beat of bell 9 and count 3, whose bell has `have`. -/
def awaitBeat (count err : Nat) : State :=
  sets (beat (2 * 2 ^ 60 + 9 * 2 ^ 64 + 3 * 2 ^ 76)) [(BEL_OWN.pen 0 9, 1), (BEL_VAL.count 0 9, count), (BEL_VAL.err 0 9, err)]

theorem test_meets_BeatIssuesOrHolds_ready :
    let s := beat 0
    s.issues 0 0 = true ∧ beatReady s 0 0 false ∧
      (beatWork s (awaitTaken s 0 0) 0 0).2 = none ∧ (beatWork s (awaitTaken s 0 0) 0 0).1.clash 0 0 100 101 = none := by
  unfold beatReady
  decide +kernel

theorem test_meets_BeatIssuesOrHolds_await :
    let s := awaitBeat 2 0
    let n := s.dieWord 0 0 (s.pc 0 0)
    s.issues 0 0 = true ∧ s.fetchFault 0 0 (s.pc 0 0) = 0 ∧ dwSeq n ≠ 4 ∧ dwBop n = 2 ∧ s.awaitTest 0 0 (dwBell n) (dwCount n) = .wait := by
  decide +kernel

/-- A DMA issue beat; the queue holds `n` entries. -/
def dmaBeat (n : Nat) : State :=
  let s := beat (2 ^ 62)
  s.setCtx 0 0 { s.ctx 0 0 with dmaq := List.replicate n (s.dmaEntry 0 0 0 0 (dmaOf [])) }

theorem test_meets_BeatIssuesOrHolds_dma :
    let s := dmaBeat 64
    let n := s.dieWord 0 0 (s.pc 0 0)
    s.issues 0 0 = true ∧ s.fetchFault 0 0 (s.pc 0 0) = 0 ∧ dwSeq n ≠ 4 ∧ dwBop n ≠ 2 ∧ dwDop n = 1 ∧ s.dmaFull 0 0 = true := by decide +kernel

theorem test_meets_BeatIssuesOrHolds_step :
    let s := beat 4
    s.issues 0 0 = true ∧ s.fetchFault 0 0 (s.pc 0 0) = 0 ∧ dwSeq (s.dieWord 0 0 (s.pc 0 0)) = 4 ∧ (s.ctx 0 0).phase ≠ .resumed := by decide +kernel

theorem test_meets_StepAndHaltWaitForWorkInFlight :
    let s := beat 4
    let c := s.get (SEQ_CYC.cycles 0 0)
    let d := s.setCtx 0 0 { s.ctx 0 0 with phase := .draining }
    (s.issues 0 0 = true ∧ (s.ctx 0 0).phase ≠ .resumed ∧ s.busyCores 0 0 = [] ∧ s.busyPivs 0 0 = [] ∧ s.clash 0 0 c (s.drainedAt 0 0) = none ∧
        s.clash 0 0 c (max (c + 1) (s.drainedAt 0 0)) = none) ∧
      (d.ctxLive 0 0 = true ∧ (d.ctx 0 0).phase = .draining ∧ (d.ctx 0 0).dmaq = [] ∧ d.ctxCommands 0 0 = false ∧ d.ctxColls 0 = false) := by
  decide +kernel

/-- A halting context at a HALT beat with the bell operation `op` (1 is RING) on bell 9 with count 3. -/
def halting (op : Nat) : State :=
  let s := sets (beat (5 + op * 2 ^ 60 + 9 * 2 ^ 64 + 3 * 2 ^ 76)) [(BEL_OWN.pen 0 9, 1)]
  s.setCtx 0 0 { s.ctx 0 0 with phase := .halting }

theorem test_meets_StepAndHaltWaitForWorkInFlight_halt :
    let n := (halting 1).dieWord 0 0 ((halting 1).pc 0 0)
    (∀ op, op < 2 → (halting op).runs 0 0 = true ∧ ((halting op).ctx 0 0).phase = .halting ∧ ((halting op).ctx 0 0).dmaq = []) ∧
      dwBop ((halting 0).dieWord 0 0 ((halting 0).pc 0 0)) = 0 ∧ noShare (halting 0) ∧
      dwSeq n = 5 ∧ dwBop n = 1 ∧ dwCount n ≠ 0 ∧ 2 ≤ (halting 1).get LAY_STATUS.state ∧ dwBell n < bellsOf 0 ∧
      (halting 1).ctxPen 0 0 = some ((halting 1).get (BEL_OWN.pen 0 (dwBell n))) ∧ (halting 1).get (BEL_VAL.count 0 (dwBell n)) < 2 ^ 32 := by
  unfold noShare
  decide +kernel

/-- A RINGX rudiment that names bell 9 of die 0 on this package (number 0), at unit 8. -/
def ringxBeat : State :=
  wr (wr (sets running [(BEL_OWN.pen 0 9, 1), (BEL_VAL.count 0 9, 2 ^ 32 - 3)]) (running.regionAt 0 0 + 16) [8])
    (running.regionAt 0 0 + 16 * 8 + 8) (leBytes 8 9)

theorem test_meets_RingAddsToItsOwnBell :
    let s := ringxBeat
    let name := s.readNat (s.rudPlace 0 0 0 + 8) 8
    let far := wr s (running.regionAt 0 0 + 16 * 8 + 8) (leBytes 8 (9 + 65536))
    s.get (BEL_VAL.count 0 9) < 2 ^ 32 ∧ 2 ≤ s.get LAY_STATUS.state ∧ (9 : BitVec 12).toNat < bellsOf 0 ∧
      s.ctxPen 0 0 = some (s.get (BEL_OWN.pen 0 9)) ∧
      (s.ctxPen 0 0 ≠ some (s.get (BEL_OWN.pen 0 10)) ∧ (sets s [(LAY_STATUS.state, 1)]).get LAY_STATUS.state < 2) ∧
      (bellPackage name = s.package ∧ bellDie name = 0 ∧ bellReserved name = false ∧ bellIndex name = 9) ∧
      bellPackage (far.readNat (far.rudPlace 0 0 0 + 8) 8) ≠ far.package := by decide +kernel

/-- A bell saturates at 2^32 − 1 (R376). -/
theorem test_ring_saturates :
    after (.ring 0 0 9 5) ringxBeat (fun t => t.get (BEL_VAL.count 0 9) == 2 ^ 32 - 1) = true ∧
      after (.ringx 0 0 0 2) ringxBeat (fun t => t.get (BEL_VAL.count 0 9) == 2 ^ 32 - 1) = true := by decide +kernel

theorem test_meets_AwaitTakesItsCountOrHolds :
    let s := awaitBeat 3 0
    let e := awaitBeat 3 1
    let t := sets s [(SEQ_STATUS.state 0 0, 4), (SEQ_STATUS.held_reason 0 0, 1), (SEQ_AWAIT_TMO.cycles 0 0, 50)]
    (s.issues 0 0 = true ∧ s.get (BEL_VAL.err 0 9) = 0 ∧ (3 : U16).toNat ≤ s.get (BEL_VAL.count 0 9) ∧ s.get (BEL_VAL.count 0 9) < 2 ^ 32) ∧
      s.get (BEL_VAL.count 0 9) < (4 : U16).toNat ∧ (e.issues 0 0 = true ∧ e.get (BEL_VAL.err 0 9) = 1) ∧
      (t.cstate 0 0 = 4 ∧ t.get (SEQ_STATUS.held_reason 0 0) = 1 ∧ t.ctxLive 0 0 = true ∧ t.get (SEQ_AWAIT_TMO.cycles 0 0) ≠ 0 ∧
        t.get (SEQ_AWAIT_TMO.cycles 0 0) ≤ (50 : BitVec 48).toNat) := by decide +kernel

/-- A split die: context 0 is HELD at its AWAIT beat of bell 9 for 3, context 1 runs. -/
def bothAwait (count : Nat) : State :=
  sets (awaitBeat count 0) [(SEQ_DIE.split 0, 1), (SEQ_STATUS.state 0 0, 4), (SEQ_STATUS.held_reason 0 0, 1), (SEQ_STATUS.state 0 1, 3)]

/-- Context 1 of the die holds for 2 when the bell has 4, and takes them when it has 5 (R146). -/
theorem test_meets_AwaitTakesItsCountOrHolds_both :
    let s := bothAwait 4
    let o := sets (bothAwait 5) [(SEQ_STATUS.state 0 0, 3)]
    (s.issues 0 1 = true ∧ s.get (BEL_VAL.err 0 9) ≠ 1 ∧ s.zeroAwaits 0 9 = some 3 ∧ s.get (BEL_VAL.count 0 9) < 3 + (2 : U16).toNat) ∧
      (o.issues 0 1 = true ∧ (2 : U16).toNat ≤ o.get (BEL_VAL.count 0 9) ∧ o.cstate 0 0 ≠ 4) ∧
      after (.await 0 1 9 2) (bothAwait 5) (fun t => t.get (BEL_VAL.count 0 9) == 3) = true := by decide +kernel

theorem test_await_at_its_count :
    after (.await 0 0 9 3) (awaitBeat 3 0) (fun t => t.get (BEL_VAL.count 0 9) == 0 && t.get (SEQ_STATUS.state 0 0) == 3) = true ∧
      after (.await 0 0 9 4) (awaitBeat 3 0) (fun t => t.get (BEL_VAL.count 0 9) == 3 && t.get (SEQ_STATUS.state 0 0) == 4) = true := by
  decide +kernel

/-! ## Boundaries, DMA, loading, the store -/

/-- Pen 1's one context has arrived at the step barrier; pen and ledger as given. -/
def atBarrier (b : Boundary) (l : List (Fld × Nat)) : State :=
  let s := sets running ((SEQ_STATUS.state 0 0, 4) :: l)
  (s.setCtx 0 0 { s.ctx 0 0 with phase := .arrived }).setPen 1 { s.pen 1 with boundary := b }

theorem test_meets_StepBoundaryRunsItsActions :
    let s := atBarrier .none []
    (s.barrierReady 1 = true ∧ s.ringHolds 1 = false) ∧ allTaken s (s.latch 1) ∧ calm s ∧
      (s.teamOn 1 = false ∧ (s.pen 1).failed = none ∧ (s.pen 1).atBound = false ∧ s.ledgerTrigger 1 = false) ∧ (0, 0) ∈ s.penCtxs 1 := by
  unfold allTaken calm idleYards noWait State.latch
  simp only [countHeld_eq]
  decide +kernel

theorem test_meets_StepBoundaryRunsItsActions_hold :
    let f := atBarrier .none [(LDG_CTL.enable 1, 1), (LDG_CTL.full_mode 1, 0)]
    noWait f ∧ f.barrierReady 1 = true ∧ f.ringHolds 1 = true := by
  unfold noWait
  decide +kernel

theorem test_meets_StepBoundaryRunsItsActions_five :
    ((atBarrier .latched []).teamPending 1 = false ∧ allTaken (atBarrier .latched []) ((atBarrier .latched []).runAction5 1 false)) ∧
      allTaken (atBarrier .rebasing []) ((atBarrier .rebasing []).runAction5 1 true) ∧
      ∀ b ∈ [Boundary.latched, .rebasing], noWait (atBarrier b []) ∧ (atBarrier b []).penFrozen 1 = false ∧
        ((atBarrier b []).pen 1).boundary = b ∧ (atBarrier b []).teamPending 1 = false ∧
        (∀ c ∈ (atBarrier b []).penCtxs 1, (atBarrier b []).get (SEQ_GOV_PARAM.enable c.1 c.2) = 0) ∧
        (atBarrier b []).get (CKP_CTL.enable 1) = 0 := by
  unfold allTaken noWait
  decide +kernel

/-- The boundary `b` of pen 1 with its checkpoint unit in state `k`. -/
def unitAt (b : Boundary) (k : Nat) : State := atBarrier b [(CKP_STAT.state 1, k)]

theorem test_meets_StepBoundaryRunsItsActions_unit :
    (∀ x ∈ ([(.allstop, 0), (.allstop, 1), (.unitBusy, 0), (.unitBusy, 3)] : List (Boundary × Nat)),
      noWait (unitAt x.1 x.2) ∧ (unitAt x.1 x.2).penFrozen 1 = false ∧ ((unitAt x.1 x.2).pen 1).boundary = x.1 ∧
        (unitAt x.1 x.2).get (CKP_STAT.state 1) = x.2 ∧ (unitAt x.1 x.2).manifestDue 1 = (x.2 == 1)) ∧
      noWait (((unitAt .unitBusy 0).holdEnds 1).markAndGo 1) := by
  unfold noWait
  decide +kernel

theorem test_meets_DmaQueueIsFirstInFirstOut :
    let s := dmaBeat 63
    let e := { s.dmaEntry 0 0 0 0 (dmaOf []) with len := 256, issued := 256, waiting := 0, failed := none, done := 9 }
    let d := { sets s [(BEL_OWN.pen 0 9, 1)] with ctxs := (s.setCtx 0 0 { s.ctx 0 0 with dmaq := [e] }).ctxs }
    let l := s.setCtx 0 0 { s.ctx 0 0 with dmaq := [{ e with issued := 0 }] }
    (s.dmaDefined 0 0 0 = true ∧ (s.ctx 0 0).dmaq.length = 63) ∧ ((dmaBeat 64).ctx 0 0).dmaq.length = 64 ∧
      ((d.ctx 0 0).dmaq = [e] ∧ d.ctxLive 0 0 = true ∧ d.postHeld 0 0 = false ∧ 2 ≤ d.get LAY_STATUS.state ∧ 9 < bellsOf 0 ∧
        d.ctxPen 0 0 = some (d.get (BEL_OWN.pen 0 9)) ∧ d.get (BEL_VAL.count 0 9) < 2 ^ 32 - 1) ∧
      (l.lineTurn 0 = some 0 ∧ Tab.get 1 l.dmaLast 0 = 1 - 0 ∧ l.lineReady 0 0 = true) := by decide +kernel

/-- A transfer of one line between stack 3 and the loft of cluster 1. -/
def lineEntry (toMem : Bool) : DmaEntry :=
  { rud := 0, cls := 0, toMem := toMem, gaddr := BitVec.ofNat 64 (stackBase 3 + 0x400), cluster := 1, laddr := 0x40, len := 256, done := 0,
    errb := none, issued := 0, waiting := 0, failed := none, noted := false }

/-- It is at the head of the queue of the HELD context; pattern 0 of the loft gives every group to the DMA port (owner code 17), and pen 1 has a range
of stack 3. -/
def dmaLine (toMem : Bool) : State :=
  let s := sets (dmaBeat 0) [(SEQ_STATUS.state 0 0, 4)]
  let p := wr (wr (wr s (storeBase 0 + 28) (leBytes 4 4)) (storeBase 0 + 32) [1]) (storeBase 0 + 64)
    (leBytes 16 ((List.range 16).foldl (fun n g => n + 17 * 2 ^ (5 * g)) 0))
  { p.setCtx 0 0 { p.ctx 0 0 with dmaq := [lineEntry toMem] } with
    lay := { p.lay with ranges := [{ stack := 3, start := 0, len := 0x100000, pen := some 1, cacheable := false, snapshot := false, index := 0 }] } }

/-- It is the turn's next line, and everything lets it move. -/
theorem test_meets_DmaQueueIsFirstInFirstOut_line : ∀ m ∈ [true, false],
    ((dmaLine m).ctx 0 0).dmaq = [lineEntry m] ∧ (dmaLine m).lineTurn 0 = some 0 ∧
      allTaken (dmaLine m) (({ dmaLine m with dmaLast := Tab.set 1 (dmaLine m).dmaLast 0 0 } : State).nextLine 0 0 (lineEntry m)) ∧
      calm (dmaLine m) ∧ lineLen (stackBase 3 + 0x400) 256 0 = 256 ∧ (dmaLine m).ownPackage (stackBase 3 + 0x400) = true ∧
      (dmaLine m).penRange ((dmaLine m).ctxPen 0 0) (localOf (stackBase 3 + 0x400)) 256 = true ∧ (dmaLine m).dmaSlots 0 1 0x40 256 = true ∧
      (dmaLine m).get (YRD_RETIRE.mask 3) = 0 := by
  unfold allTaken calm idleYards noWait
  decide +kernel

theorem test_meets_LoadScanAndGo :
    let s := fun v => sets running [(SEQ_STATUS.state 0 0, v)]
    ((s 0).get (SEQ_STATUS.state 0 0) = 0 ∧ (s 0).takesLoad 0 0 = true) ∧ ((s 1).get (SEQ_STATUS.state 0 0) = 1 ∧ (s 1).ctxLive 0 0 = true) ∧
      ((s 2).get (SEQ_STATUS.state 0 0) = 2 ∧ (s 2).takesLoad 0 0 = true) ∧ (s 3).get (SEQ_STATUS.state 0 0) ≠ 0 ∧
      (s 3).get (SEQ_STATUS.state 0 0) ≠ 2 := by decide +kernel

theorem test_meets_StoreWritesOnlyItsBytes :
    (0x1FFFFFF : BitVec 25).toNat + [(7 : Byte)].length ≤ 0x2000000 ∧ running.storeClosed 0 0x1FFFFFF 1 = false ∧
      running.storeClosed 0 0xFFFF 1 = true ∧ 0x2000000 < (0x1FFFFFF : BitVec 25).toNat + [(7 : Byte), 8].length := by decide +kernel

theorem test_meets_BeatIssuesOrHolds_awaitPass :
    let s := sets (awaitBeat 3 0) [(SEQ_STATUS.state 0 0, 4), (SEQ_STATUS.held_reason 0 0, 1)]
    let n := s.dieWord 0 0 (s.pc 0 0)
    let w := s.unhold 0 0
    s.cstate 0 0 = 4 ∧ s.get (SEQ_STATUS.held_reason 0 0) = 1 ∧ s.ctxLive 0 0 = true ∧ s.awaitTest 0 0 (dwBell n) (dwCount n) ≠ .wait ∧
      beatReady w 0 0 false ∧ (beatWork w (awaitTaken w 0 0) 0 0).2 = none ∧
      (beatWork w (awaitTaken w 0 0) 0 0).1.clash 0 0 (w.get (SEQ_CYC.cycles 0 0)) (w.get (SEQ_CYC.cycles 0 0) + 1) = none := by
  unfold beatReady State.unhold
  simp only [countHeld_eq]
  decide +kernel

theorem test_meets_BeatIssuesOrHolds_dmaFree :
    let s := sets (dmaBeat 63) [(SEQ_STATUS.state 0 0, 4), (SEQ_STATUS.held_reason 0 0, 2)]
    let w := s.unhold 0 0
    s.cstate 0 0 = 4 ∧ s.get (SEQ_STATUS.held_reason 0 0) = 2 ∧ s.ctxLive 0 0 = true ∧ s.dmaFull 0 0 = false ∧ beatReady w 0 0 true ∧
      (beatWork w w 0 0).2 = none ∧
      (beatWork w w 0 0).1.clash 0 0 (w.get (SEQ_CYC.cycles 0 0)) (w.get (SEQ_CYC.cycles 0 0) + 1) = none := by
  unfold beatReady State.unhold
  simp only [countHeld_eq]
  decide +kernel

/-! ## The cluster's engines -/

/-- Core 5 of cluster 2 of die 1 has sums of I8 in slot 0. -/
def held : State := up.setSlot 1 2 5 0 { up.slotAt 1 2 5 0 with tag := some .a48 }

theorem test_meets_MatrixOperationsRunOrFault :
    let busy := held.setCore 1 2 5 { held.core 1 2 5 with mBusy := 9 }
    let odd := { matRud with fmta := 5 }
    (∀ mop ∈ [1, 2, 3, 4], matCodesOk held 1 2 5 mop 0 matRud ∧ held.matFault 1 2 5 mop 0 matRud = 0 ∧ busy.matFault 1 2 5 mop 0 matRud ≠ 0) ∧
      (∀ mop ∈ [1, 2], ¬ matCodesOk up 1 2 5 mop 0 odd) ∧ ¬ matCodesOk up 1 2 5 4 0 odd ∧ matCodesOk held 1 2 5 4 0 odd ∧ matCodesOk up 1 2 5 3 0 odd ∧
      (0 : BitVec 4).toNat < 12 ∧ 12 ≤ (12 : BitVec 4).toNat := by
  unfold matCodesOk
  decide +kernel

theorem test_meets_MatrixOperationsRunOrFault_results :
    ((held.core 1 2 5).mBusy ≤ held.cycOf 1 2 ∧ (held.slotAt 1 2 5 0).tag = some .a48 ∧ slotTakes (held.slotAt 1 2 5 0) .a48 (halfOf 0)) ∧
      ((up.core 1 2 5).mBusy ≤ up.cycOf 1 2 ∧ (up.slotAt 1 2 5 0).tag = none ∧ (wideOf matRud).acc = .a48 ∧ matRud.fmta ≤ 4 ∧ matRud.fmtb ≤ 4 ∧
        slotTakes (up.slotAt 1 2 5 0) .a48 (halfOf 0)) ∧ halfOf 0 = 0 := by
  unfold slotTakes
  decide +kernel

/-- An odd slot code refuses A48 and A192 (R75). -/
theorem test_slot_halves :
    up.matFault 1 2 5 1 3 matRud ≠ 0 ∧ up.matFault 1 2 5 1 3 { matRud with fmta := 2, fmtb := 2 } = 0 ∧
      up.matFault 1 2 5 1 3 { matRud with fmta := 4, fmtb := 2 } ≠ 0 := by decide +kernel

/-- A chunk of I4 with I64, and one of I16 in the last half slot. -/
theorem test_meets_ChunkSumsItsProductsExactly :
    ∀ x ∈ ([(0, { matRud with fmta := 0, fmtb := 4 }), (11, { matRud with fmta := 2, fmtb := 2 })] : List (Nat × MatRud)),
      x.2.fmta ≤ 4 ∧ x.2.fmtb ≤ 4 ∧ x.1 < 12 ∧ (up.core 1 2 5).mBusy ≤ up.cycOf 1 2 ∧
        slotTakes (up.slotAt 1 2 5 x.1) (wideOf x.2).acc (halfOf x.1) := by
  unfold slotTakes
  decide +kernel

/-- Operands a vector row may have: the first passes of the sequences write the stall, the last ones feed the converter (R86). -/
def vecOperands (op : Nat) : VecRud × Option ConvRud :=
  if op = 0x39 ∨ op = 0x3C then ({ vecRud with dest := 0 }, none)
  else if op = 0x3A ∨ op = 0x3D then ({ vecRud with dest := 3 }, some { convRud with src := 15 })
  else (vecRud, none)

theorem test_meets_VectorOperationsRunOrFault :
    let busy := up.setCore 1 2 5 { up.core 1 2 5 with vBusy := 9 }
    vectorRows.all (fun x => let r := vecOperands x.2
      up.vecDefined 1 2 x.2 r.1 r.2 && up.vecFault 1 2 5 x.2 r.1 r.2 == 0 && busy.vecFault 1 2 5 x.2 r.1 r.2 != 0 &&
        !up.vecDefined 1 2 x.2 { r.1 with forma := 5 } none) = true := by decide +kernel

/-- Sources that are no slots, for each destination. -/
theorem test_meets_VectorOperationsRunOrFault_completes :
    (up.core 1 2 5).vBusy ≤ up.cycOf 1 2 ∧ ∀ r ∈ ([{ vecRud with forma := 0, formb := 2, fmta := 4, fmtb := 0xA, dest := 0 }, { vecRud with dest := 1 },
      vecRud] : List VecRud), r.forma ≤ 4 ∧ r.formb ≤ 4 ∧ (r.forma ≤ 2 → r.fmta < 0xB) ∧ (r.formb ≤ 2 → r.fmtb < 0xB) ∧ r.dest ≤ 2 := by
  decide +kernel

theorem test_meets_LaneOperationsComputeTheirResult :
    (vecRud.forma = 3 ∧ vecRud.formb = 4 ∧ vecRud.dest = 2 ∧ vecRud.m = 1 ∧ vecRud.n = 1 ∧ vecRud.skind = 15 ∧ vecRud.var = false) ∧
      (up.core 1 2 5).vBusy ≤ up.cycOf 1 2 := by decide +kernel

/-- The state with lane register 1 of core 5 at v. -/
def lane (v : U64) : State := up.setCore 1 2 5 { up.core 1 2 5 with lanes := [(1, ⟨v, false⟩)] }

/-- Row b of the shift edges of R84 and the saturation of R83, with the immediate as the second operand. -/
def laneGives (op : Fin 4 → Fin 8 → Fin 16 → VecRud → Option ConvRud → Instr) (a : U64) (b : U16) (want : U64) : Bool :=
  after (op 1 2 5 { vecRud with imm := b } none) (lane a) fun t => (Tab.get LaneReg.zero (t.core 1 2 5).lanes 3).val == want

theorem test_lane_edges :
    (laneGives .vecAdds 0x7FFFFFFFFFFFFFFF 1 0x7FFFFFFFFFFFFFFF && laneGives .vecAdd 0x7FFFFFFFFFFFFFFF 1 0x8000000000000000 &&
      laneGives .vecShl 1 64 0 && laneGives .vecShl 1 63 0x8000000000000000 && laneGives .vecShra 0x8000000000000000 127 0xFFFFFFFFFFFFFFFF &&
      laneGives .vecShrl 0x8000000000000000 63 1 && laneGives .vecNegs 0x8000000000000000 0 0x7FFFFFFFFFFFFFFF) = true := by decide +kernel

/-- Bytes in the loft of cluster 2 of die 1 and in the stall of its core 5. -/
def moved : State := wr (wr up (loftBase 1 2 + 64) [1, 2, 3, 4, 5, 6, 7, 8, 9]) (stallBase 1 2 5 + 800) [11, 12, 13, 14, 15, 16, 17, 18, 19]

theorem test_meets_MovesCopyTheirBytes :
    let busy := moved.setCore 1 2 5 { moved.core 1 2 5 with lBusy := 7 }
    (decide (moved.cycOf 1 2 < (moved.core 1 2 5).lBusy) = false ∧ decide (busy.cycOf 1 2 < (busy.core 1 2 5).lBusy) = true) ∧
      (moveRud.efmt = 15 ∧ { moveRud with efmt := 0 }.rowlen % 2 = 0 ∧ { moveRud with efmt := 0, rowlen := 5 }.rowlen % 2 = 1 ∧ 4 < 14) ∧ busy.bcastBusy 1 2 moveRud = some 5 ∧
      moved.bcastBusy 1 2 moveRud = none ∧ bcastCores moveRud = [5] := by decide +kernel

theorem test_moves :
    let at8 := fun (t : State) (a : Nat) => t.readNat a 8
    after (.ld 1 2 5 moveRud) moved (fun t => at8 t (stallBase 1 2 5 + 800) == 0x0807060504030201 && t.mem.byte (stallBase 1 2 5 + 808) == 19) = true ∧
      after (.st 1 2 5 moveRud) moved (fun t => at8 t (loftBase 1 2 + 64) == 0x1211100F0E0D0C0B && t.mem.byte (loftBase 1 2 + 72) == 9) = true ∧
      after (.bcast 1 2 moveRud) moved (fun t => at8 t (stallBase 1 2 5 + 800) == 0x0807060504030201) = true := by decide +kernel

theorem test_meets_BeatOperationsActInTheirCycles :
    let h := moved.hOf 1 2
    let u := (moved.opStart 1 (.move 2 5 1 moveRud)).1
    moved.busyCores 1 h = [] ∧ moved.busyPivs 1 h = [] ∧ moveRud.len ≤ 64 ∧ (u.core 1 2 5).jobs ≠ [] ∧
      (u.enginesRun 1 h 1 0).1.readNat (stallBase 1 2 5 + 800) 8 = 0x1211100F0E0D0C0B ∧
      (u.enginesRun 1 h 2 0).1.readNat (stallBase 1 2 5 + 800) 8 = 0x0807060504030201 ∧ (u.enginesRun 1 h 2 0).2.2 = none := by decide +kernel

theorem test_meets_BeatOperationsActInTheirCycles_chunk :
    let w : ChunkWork := ⟨.i8, .i8, 0, 0, 0, false, 0, false, [], [], [⟨0, 9, [], []⟩]⟩
    (∀ t ∈ w.ks, t.vis ≠ 8) ∧ moved.chunkLand 1 2 5 8 w = (moved, w) ∧ ∀ c op r, BeatOp.move 2 5 1 moveRud ≠ .piv c op r :=
  ⟨by decide +kernel, by decide +kernel, nofun⟩

/-- The format of descriptor 0 of that core's context is n. -/
def outputs (n : Nat) : State := wr held (held.descPlace 1 (held.hOf 1 2) 0 + 44) [BitVec.ofNat 8 n]

theorem test_meets_ConversionsRunOrFault :
    let busy := up.setCore 1 2 5 { up.core 1 2 5 with cBusy := 9 }
    (∀ n ∈ [0, 5], (outputs n).convFault 1 2 5 convRud false = 0 ∧ (Fmt.ofCode ((outputs n).ctxDesc 1 ((outputs n).hOf 1 2) 0).fmt).isSome = true) ∧
      ((outputs 14).convFault 1 2 5 convRud false = 0 ∧ Fmt.ofCode ((outputs 14).ctxDesc 1 ((outputs 14).hOf 1 2) 0).fmt = none) ∧
      up.convFault 1 2 5 convRud false ≠ 0 ∧ ({ convRud with src := 15 } : ConvRud).src = 15 ∧ busy.cycOf 1 2 < (busy.core 1 2 5).cBusy ∧
      (up.core 1 2 5).cBusy ≤ up.cycOf 1 2 := by
  decide +kernel

/-- An accumulator format as the output. -/
theorem test_meets_ConversionsRunOrFault_wide :
    let s := outputs 5
    Fmt.ofCode (s.ctxDesc 1 (s.hOf 1 2) 0).fmt = some .a48 ∧ Fmt.a48.block = false ∧ convRud.src < 12 ∧
      (s.slotAt 1 2 5 convRud.src).tag = some .a48 ∧ slotTakes (s.slotAt 1 2 5 convRud.src) .a48 (halfOf convRud.src) ∧
      convRud.rows ≤ Fmt.a48.accEdge ∧ convRud.cols ≤ Fmt.a48.accEdge ∧ s.descBad 1 (s.hOf 1 2) convRud.desc = false ∧
      (s.core 1 2 5).cBusy ≤ s.cycOf 1 2 := by
  unfold slotTakes
  decide +kernel

/-- Pattern 0 of the loft gives every slot to owner code 16, the pivot engine. -/
def pivotSlots : State :=
  wr (wr (wr (sets up [(SEQ_CTL.region_size 1 0, 1)]) (storeBase 1 + 28) (leBytes 4 4)) (storeBase 1 + 32) [1]) (storeBase 1 + 64)
    (leBytes 16 ((List.range 16).foldl (fun n g => n + 16 * 2 ^ (5 * g)) 0))

theorem test_meets_PivotOperationsRunOrFault :
    let s := pivotSlots
    let b := s.setCluster 1 2 { s.cluster 1 2 with pBusy := 5 }
    let a := s.loftAddr 1 0 0 pivRud.ag
    let t := s.cycOf 1 2
    b.pivBusy 1 2 = true ∧ s.pivBusy 1 2 = false ∧ s.hOf 1 2 = 0 ∧ pivRud.dl = false ∧ s.pivOwned 1 2 t 12 (groupsOf a 16) = some true ∧
      s.pivOwned 1 2 t 5 (groupsOf a 16) = some true ∧ s.pivOwned 1 2 t 7 (groupsOf a 8) = some true ∧
      up.pivOwned 1 2 (up.cycOf 1 2) 5 (groupsOf a 16) = some false := by decide +kernel

/-! ## Yards and memory -/

def cmd128 : List Byte := (List.range 128).map fun i => BitVec.ofNat 8 (i + 1)

/-- A function of yard 3 that is ON, its window 8 (the control die's) with 128 staged bytes, `q` queued commands and one held. -/
def yardAt (eng : Bool) (q : Nat) (held : List Byte) : State :=
  let s := sets up [(xStateF 3 eng, 2)]
  s.setEngine 3 eng { s.engine 3 eng with
    staged := Tab.set [] [] 8 cmd128, queue := Tab.set [] [] 8 (List.replicate q [1]), held := Tab.set [] [] 8 held }

theorem test_meets_YardCommandsQueueInOrder :
    [true, false].all (fun eng =>
      let s := yardAt eng 7 []
      let f := yardAt eng 8 []
      let h := yardAt eng 7 [9]
      !s.windowOk (.dma 0 0) 3 eng 8 && s.windowOk .controlDie 3 eng 8 && (Tab.get [] (s.engine 3 eng).staged 8).length == 128 &&
        decide (((s.engine 3 eng).queueOf 8).length < 8) && f.windowOk .controlDie 3 eng 8 && decide (8 ≤ ((f.engine 3 eng).queueOf 8).length) &&
        !(Tab.get [] (h.engine 3 eng).held 8).isEmpty && decide (((h.engine 3 eng).queueOf 8).length < 8) && (s.engine 3 eng).run.isNone &&
        s.nextWindow 3 eng == some 8) = true ∧ ∀ eng, calm (yardAt eng 7 []) := by
  unfold calm idleYards noWait
  decide +kernel

/-- A running command of op `op`, its record at offset `o` of stack 3. -/
def runOf (op : Nat) (fin : Bool) (o : Nat) : Run :=
  { w := 8, cmd := overlay ([BitVec.ofNat 8 op] ++ List.replicate 127 0) 128 96 (leBytes 8 (stackBase 3 + o)), status := 0, detail := 0, finished := fin,
    rows := 0, sat := 0, unf := 0, nan := none, poisoned := false, errRow := 0 }

def yardRuns (eng : Bool) (op : Nat) (fin : Bool) (o : Nat) : State :=
  let s := sets up [(xStateF 3 eng, 2)]
  s.setEngine 3 eng { s.engine 3 eng with run := some (runOf op fin o) }

/-- A finished command, its record inside the stack and at its end. -/
theorem test_meets_YardCommandsQueueInOrder_complete :
    ∀ x ∈ [(true, 0x200), (true, 0x17FFFFFFF0), (false, 0x200), (false, 0x17FFFFFFF0)],
      let s := yardRuns x.1 1 true x.2
      let r := runOf 1 true x.2
      (s.engine 3 x.1).run = some r ∧ r.finished = true ∧ s.yardLive 3 = true ∧ allTaken s (s.completeRun 3 x.1 r) ∧ calm s ∧
        s.get (YRD_RETIRE.mask 3) = 0 ∧ s.inStack (s.windowPen 3 x.1 r.w) 3 (cmdRec r.cmd) 32 = (x.2 == 0x200) := by
  unfold allTaken calm idleYards noWait
  decide +kernel

theorem test_meets_RunningCommandsFinish :
    (runRows.all fun x => ((yardRuns x.2.1 x.2.2 false 0).engine 3 x.2.1).run == some (runOf x.2.2 false 0) && cmdOp (runOf x.2.2 false 0).cmd == x.2.2) =
      true ∧ ∀ eng, calm (yardRuns eng 1 false 0) ∧ ∀ z, z < 8 → (yardRuns eng 1 false 0).get (YRD_RETIRE.mask z) = 0 := by
  unfold calm idleYards noWait
  decide +kernel

theorem test_meets_AtomicsUpdateOneWord :
    let f := up.setYard 3 { up.yard 3 with fifo := Tab.set [] [] atomVia.key [yreq 0 1 none] }
    (noWait up ∧ noWait f) ∧ (up.atomOk 3 4 = false ∧ up.atomOk 3 0x1800000000 = false) ∧ (up.atomOk 3 0x17FFFFFFF8 = true ∧ (up.yard 3).pages = [] ∧
      up.takes atomVia 3 (0x17FFFFFFF8 / 256 * 256) = true ∧ up.get (YRD_RETIRE.mask 3) = 0 ∧ up.mem.bad (stackBase 3 + 0x17FFFFFFF8) = false) ∧
      (f.atomOk 3 0 = true ∧ (f.yard 3).pages = [] ∧ f.takes atomVia 3 0 = false) := by
  unfold noWait
  decide +kernel

/-- FMIN and FMAX compare as signed words and answer the old one (R292); CAS stores only on equality. -/
theorem test_atomics :
    let s := wr up (stackBase 3 + 64) (leBytes 8 (2 ^ 64 - 1))
    let word := fun (t : State) => t.readNat (stackBase 3 + 64) 8
    after (.fmin 3 64 1) s (fun t => word t == 2 ^ 64 - 1 && t.reply == .data (leBytes 8 (2 ^ 64 - 1)) []) = true ∧
      after (.fmax 3 64 1) s (fun t => word t == 1) = true ∧ after (.fadd 3 64 1) s (fun t => word t == 0) = true ∧
      after (.cas 3 64 7 5) s (fun t => word t == 2 ^ 64 - 1) = true := by decide +kernel

theorem test_meets_RequestsReachTheirStack :
    let r := fun off w => yreq off 128 w
    let h := up.setYard 3 { up.yard 3 with fifo := Tab.set [] [] (fifoKey (r 0 none)) [r 0 none] }
    let l := { up with lay := { up.lay with
      ranges := [{ stack := 3, start := 0, len := 0x1000, pen := some 1, cacheable := false, snapshot := false, index := 0 }] } }
    let free := fun (s : State) (q : YReq) =>
      (Tab.get [] (s.yard 3).fifo (fifoKey q)).isEmpty && !s.heldByCow 3 q && !s.stuck 3 q
    let out := fun (s : State) (q : YReq) => decide (s.stackSize 3 < q.off.toNat + q.len) || s.inShed 3 q.off.toNat ||
      q.pen.any fun p => !s.penReach (some p.val) (stackBase 3 + q.off.toNat) q.len
    up.yardLive 3 = true ∧ (out up (r 0x17FFFFFFC0 none) = true ∧ out l { r 0 none with pen := some 2 } = true ∧
      out l { r 0 none with pen := some 1 } = false) ∧ (out up (r 0x17FFFFFF80 (some cmd128)) = false ∧
      free up (r 0x17FFFFFF80 (some cmd128)) = true ∧ (r 0 (some cmd128)).len = cmd128.length ∧ (up.yard 3).pages = [] ∧
      up.get (YRD_RETIRE.mask 3) = 0) ∧ free up (r 0 none) = true ∧ (h.yardLive 3 = true ∧ out h (r 128 none) = false ∧ free h (r 128 none) = false) := by
  decide +kernel

/-- A held write of yard 3. -/
def heldWrite : CowWait := ⟨0, 0, 0, some (yreq 0 1 (some [1]))⟩

/-- It waits at the yard, and its page can take it; a row is at its threshold; scrubbing is on. -/
def waitingYard : State :=
  let s := sets up [(YRD_CTL.scrub_en 3, 1), (YRD_CTL.trr_thresh 3, 4000)]
  s.setYard 3 { s.yard 3 with acts := Tab.set 0 [] (bankIx 5 1 2 * 8192 + 77) 4000, waiting := [heldWrite] }

theorem test_meets_ChannelsKeepTheirSteps :
    let s := waitingYard
    let b := s.setYard 3 { s.yard 3 with blocked := [bankIx 5 1 2] }
    s.yardLive 3 = true ∧ (s.yard 3).blocked.contains (bankIx 5 1 2) = false ∧ (b.yard 3).blocked.contains (bankIx 5 1 2) = true ∧
      0 < s.get (YRD_CTL.trr_thresh 3) ∧ s.get (YRD_CTL.trr_thresh 3) ≤ Tab.get 0 (s.yard 3).acts (bankIx 5 1 2 * 8192 + 77) ∧
      (s.get (YRD_CTL.scrub_en 3) = 1 ∧ (s.yard 3).queueFull (channelOf (s.fold 3 (s.yard 3).scrub)) 3 = false) ∧
      (s.cowReadyWrite 3 = some (heldWrite, yreq 0 1 (some [1])) ∧ Tab.get Page.home (s.yard 3).pages 0 = .home ∧
        s.get (YRD_RETIRE.mask 3) = 0 ∧ (s.yard 3).fifo = []) := by decide +kernel

/-- A read's only unit is the next of its channel. -/
theorem test_meets_ChannelsKeepTheirSteps_slot :
    after (.yardRequest 3 (yreq 0x2000 64 none)) up (fun t =>
      t.yardLive 3 && t.slotClass 3 (channelOf 0x2000) == some 1 && (t.yard 3).fifo == [] &&
        match (t.yard 3).firstReady (channelOf 0x2000) 1 with
        | some (_, q) => (match q.kind with | .read _ _ => true | _ => false) && decide (q.len ≤ 64 - q.pos % 64)
        | none => false) = true := by decide +kernel

/-! ## The fabric -/

/-- Group 5 of pen 2, which has one member, this package (11); window 8 is the control die's for pen 2. -/
def grouped : State :=
  let s := sets up [(FAB_ID.package 0, 11), (FAB_ID.package 1, 11), (GRP_TBL.base 0, 0x10), (GRP_TBL.base 1, 0x10), (GRP_QCTL.state 0 5, 2),
    (PEN_INFO.used 2, 1), (PEN_INFO.halves 2, 1), (BEL_VAL.count 4 3, 1)]
  let d := [5, 12] ++ leBytes 2 0 ++ leBytes 2 0 ++ leBytes 2 100 ++ leBytes 8 0x8000 ++ List.replicate 6 (0xFF#8) ++ [0, 0] ++
    List.replicate 6 (0xFF#8) ++ [0, 0] ++ List.replicate 32 0
  { wr (wr s (0x10 * 64 + 64 * 5) d) 0x8000 (leBytes 2 11) with lay := { up.lay with grpWin8 := 2 } }

/-- Pen 2 drains, state 1 or another, for the two-member group 5; its snapshot range has two pages of stack 3. -/
def draining (state : Nat) (l : List (Fld × Nat)) : State :=
  let s := sets up ([(FAB_ID.package 0, 11), (PEN_INFO.used 2, 1), (PEN_INFO.halves 2, 1), (CKP_STAT.state 2, state), (GRP_TBL.base 0, 0x10),
    (GRP_TBL.base 1, 0x10), (CKP_CTL.group 2, 5)] ++ l)
  { wr (wr s (0x10 * 64 + 64 * 5) ([5, 12] ++ leBytes 2 1 ++ leBytes 2 0 ++ leBytes 2 100 ++ leBytes 8 0x8000)) 0x8000 (leBytes 2 11 ++ leBytes 2 12) with
    lay := { up.lay with ranges := [{ stack := 3, start := 0x10000, len := 0x20000, pen := some 2, cacheable := false, snapshot := true, index := 0 }] } }

/-- Package 11: port 7 is up and owned by pen 2, which has bells 9 of CP1 and FB0 and compares with its team; a layout is active. -/
def linkRegs : List (Fld × Nat) :=
  [(FAB_ID.package 0, 11), (FAB_ID.package 1, 11), (PRT_LINK.link 7, 2), (PRT_CTL.state 7, 2), (PRT_CTL.owner 7, 2), (PRT_CTL.enable 7, 1),
   (BEL_OWN.pen 1 9, 2), (BEL_OWN.pen 4 9, 2), (BEL_VAL.count 1 9, 2 ^ 32 - 2), (LAY_STATUS.state, 2), (LDG_TEAM.enable 2, 1), (LDG_TEAM.port 2, 7)]

/-- Pen 2 has a range of stack 3. -/
def linked : State :=
  { sets up linkRegs with lay := { up.lay with
    ranges := [{ stack := 3, start := 0, len := 0x100000, pen := some 2, cacheable := false, snapshot := false, index := 0 }] } }

/-- A packet of each row. -/
def packetFor (dst : U16) (n : Nat) : Packet :=
  if n < 8 then pkt ([PType.rdReq, .rdRsp, .wr, .wrDone, .atom, .atomRsp, .bell, .team].getD n .team) dst 5 0 0 []
  else if n < 12 then pkt .mgmt dst 5 (BitVec.ofNat 64 (n - 7)) 0 []
  else if n = 12 then pkt .errRsp dst 5 0 0 []
  else if n < 20 then pkt .coll dst 5 (BitVec.ofNat 64 ((n - 13) * 2 ^ 33)) 0 []
  else pkt .grpq dst 5 0 0 []

theorem test_meets_PacketsGoWhereTheyAreAddressed :
    (linked.linkUp 7 = true ∧ linked.awake = true ∧ linked.package = 11) ∧
      (packetRows.zipIdx.all fun x => x.1.2 (packetFor 11 x.2) && x.1.2 (packetFor 12 x.2)) = true ∧
      (∀ i, i < 21 → allTaken linked ((linked.returnCredit 7 ⟨packetFor 11 i, 0⟩).deliver 7 (packetFor 11 i))) ∧
      (packetFor 12 0).dst.toNat ≠ 11 ∧ (packetFor 12 0).src.toNat ≠ 11 ∧ (packetFor 11 0).dst.toNat = 11 ∧
      (sets linked [(FAB_CTL.max_hops 0, 3)]).get (FAB_CTL.max_hops (7 / 32)) < (packetFor 12 0).hops.toNat + 1 := by
  unfold allTaken noWait
  decide +kernel

/-- A transfer from another package waits for two lines. -/
theorem test_meets_PacketsGoWhereTheyAreAddressed_dma :
    let e := { lineEntry false with issued := 256, waiting := 2 }
    let s := sets (dmaLine false) linkRegs
    let u := s.setCtx 0 0 { s.ctx 0 0 with dmaq := [e] }
    u.linkUp 7 = true ∧ u.awake = true ∧ u.package = 11 ∧ tagCd 0 = false ∧ (u.ctx (tagDie 0) (tagHalf 0)).dmaq = [e] ∧ 2 ≤ e.waiting ∧
      e.failed = none ∧ u.dmaSlots 0 e.cluster (e.laddr + lineOffset e.gaddr.toNat (tagLine 0)) 16 = true ∧ tagCd (2 ^ 31) = true := by
  decide +kernel

/-- A team frame of step 0, a management write, read, response and report, and an ERR_RSP of pen 1. -/
theorem test_meets_PacketsGoWhereTheyAreAddressed_pen :
    let s := sets (draining 2 [(CKP_STAT.coordinator 2, 1)]) linkRegs
    let f := pkt .team 11 5 0 0 (leBytes 4 0x4D414554 ++ List.replicate 60 0)
    let m := fun (op addr v : Nat) => pkt .mgmt 11 12 (BitVec.ofNat 64 (op + addr * 2 ^ 16)) (BitVec.ofNat 64 v) []
    (s.linkUp 7 = true ∧ s.awake = true ∧ s.package = 11 ∧ s.portPen 7 = some 2 ∧ noWait linked) ∧
      (fieldNat f.payload 0 4 = 0x4D414554 ∧ s.get (LDG_TEAM.enable 2) = 1 ∧ s.get (LDG_TEAM_STAT.solo_active 2) = 0 ∧ s.penFrozen 2 = false ∧
        (s.pen 2).own.find? (fun o => o.step == (teamOf f.payload).step) = none ∧ s.teamPending 2 = false ∧
        s.get (LDG_STEP.step 2) = (teamOf f.payload).step.toNat ∧ (s.pen 2).partner = []) ∧
      (mgOp (m 1 (ckpBlk 2 + 0x18) 5) = 1 ∧ mgAddr (m 1 (ckpBlk 2 + 0x18) 5) = ckpBlk 2 + 0x18 ∧ linked.get (CKP_STAT.state 2) ≠ 2 ∧
        linked.get (LDG_STEP.step 2) + 1 < 5 ∧ linked.portPen 7 = some 2) ∧
      (mgOp (m 2 (ldgBlk 2) 0) = 2 ∧ mgmtTarget (some 2) (mgAddr (m 2 (ldgBlk 2) 0)) = true) ∧ mgOp (m 3 0 0) = 3 ∧
      (mgOp (m 4 (ckpBlk 2) 2) = 4 ∧ mgmtTarget (some 2) (mgAddr (m 4 (ckpBlk 2) 2)) = true ∧ s.get (CKP_STAT.coordinator 2) = 1 ∧
        s.get (CKP_STAT.state 2) = 2 ∧ (List.range (s.gdesc (s.get (CKP_CTL.group 2))).n).find? (fun i =>
          s.memberAt (s.gdesc (s.get (CKP_CTL.group 2))) i == (m 4 0 0).src.toNat) = some 1) ∧
      (mgmtTag 1 ≠ groupTag ∧ mgmtTag 0 ≤ mgmtTag 1 ∧ mgmtTag 1 % 8 = 1 ∧ s.penRunning 1 = false ∧ s.get (FAB_ERR.valid (7 / 32)) = 0) := by
  unfold noWait
  decide +kernel

/-- The address in global form of offset `o` of stack 3 of package 11. -/
def farAddr (o : Nat) : U64 := BitVec.ofNat 64 (stackBase 3 + o + 11 * 2 ^ 48)

theorem linked_calm : calm linked := by
  unfold calm idleYards noWait
  decide +kernel

theorem test_meets_RequestsAreServedInRange :
    let w := pkt .wr 11 5 (farAddr 0x240) 0 [1, 2]
    let o := pkt .wr 11 5 (farAddr 0x100000) 0 [1, 2]
    let r := pkt .rdReq 11 5 (farAddr 0x2C0) 63 []
    let a := pkt .atom 11 5 (farAddr 0x2C0) 12 []
    let b := pkt .bell 11 5 (BitVec.ofNat 64 (9 + 4 * 4096 + 11 * 65536)) (BitVec.ofNat 64 (65536 + 3)) []
    (linked.linkUp 7 = true ∧ linked.awake = true ∧ w.dst.toNat = linked.package ∧ w.src.toNat ≠ linked.package) ∧
      (linked.requestOk 7 (localOf w.wordA.toNat) 2 = true ∧ w.mask = 0 ∧ linked.get (YRD_RETIRE.mask 3) = 0) ∧
      linked.requestOk 7 (localOf o.wordA.toNat) 2 = false ∧ (readLen r = 64 ∧ linked.requestOk 7 (localOf r.wordA.toNat) 64 = true) ∧
      (linked.requestOk 7 (localOf a.wordA.toNat) 8 = true ∧ localOf a.wordA.toNat % 8 = 0 ∧ atomKind (a.wordB.toNat % 16) = true) ∧
      (bellPackage b.wordA.toNat = linked.package ∧ 2 ≤ linked.get LAY_STATUS.state ∧ bellDie b.wordA.toNat = 4 ∧
        bellReserved b.wordA.toNat = false ∧ bellIndex b.wordA.toNat = 9 ∧ 9 < bellsOf 4 ∧ linked.portPen 7 = some (linked.get (BEL_OWN.pen 4 9)) ∧
        b.wordB.toNat % 65536 ≠ 0 ∧ linked.get (BEL_VAL.count 4 9) < 2 ^ 32 ∧ bitOf b.wordB.toNat 16 = true) := by decide +kernel

/-- A message for group 5, whose ring of one entry is empty. -/
theorem test_meets_RequestsAreServedInRange_message :
    let s := sets grouped linkRegs
    let d := s.gdesc 5
    let r := localOf d.ring
    (s.linkUp 7 = true ∧ s.awake = true ∧ s.package = 11) ∧ calm s ∧ (∀ z, z < 8 → s.get (YRD_RETIRE.mask z) = 0) ∧
      s.groupUsable d (s.portPen 7) = true ∧ r + 64 + 64 * 2 ^ d.ringLog ≤ dramTop ∧
      (s.readNat r 8 + 2 ^ 64 - s.readNat (r + 8) 8) % 2 ^ 64 < 2 ^ d.ringLog := by
  unfold calm idleYards noWait
  decide +kernel

/-- A range ends with its last byte, and a request crosses no line (R348, R349). -/
theorem test_request_edges :
    linked.requestOk 7 (stackBase 3 + 0xFFFFF) 1 = true ∧ linked.requestOk 7 (stackBase 3 + 0xFFFFF) 2 = false ∧
      linked.requestOk 7 (stackBase 3 + 0x2C1) 64 = false := by decide +kernel

/-- Team comparison of pen 3 runs alone or not, with one published value. -/
def teamed (solo : Nat) : State :=
  let s := sets linked [(LDG_TEAM.enable 3, 1), (LDG_TEAM.solo 3, solo)]
  s.setPen 3 { s.pen 3 with own := [{ TeamVal.none with void := false, step := 5 }] }

theorem test_meets_BellsRingAndFramesExpire :
    let name := 9 + 1 * 4096 + 11 * 65536
    (linked.awake = true ∧ bellPackage name = linked.package ∧ bellDie name = 1 ∧ bellIndex name = 9 ∧ bellReserved name = false ∧ 9 < bellsOf 1 ∧
        2 ≤ linked.get LAY_STATUS.state ∧ linked.get (BEL_OWN.pen 1 9) = 2 ∧ linked.get (BEL_OWN.pen 1 9) ≠ 3 ∧
        linked.get (BEL_VAL.count 1 9) < 2 ^ 32 ∧ (sets linked [(LAY_STATUS.state, 1)]).get LAY_STATUS.state < 2) ∧
      bellPackage (name + 65536) ≠ linked.package ∧ linked.get (LDG_STAT.full_hold 3) = 0 ∧ noWait linked ∧
      ∀ v ∈ [0, 1], (teamed v).awake = true ∧ (teamed v).teamOn 3 = true ∧ (teamed v).penFrozen 3 = false ∧ (teamed v).teamPending 3 = false ∧
        ((teamed v).pen 3).failed = none ∧ ((teamed v).pen 3).own.find? (fun x => !x.void) = some { TeamVal.none with void := false, step := 5 } ∧
        (teamed v).get (LDG_TEAM.solo 3) = v ∧ calm (teamed v) := by
  unfold calm idleYards noWait
  decide +kernel

def goodTraining : Training := { signal := true, eq := true, lanes := true, package := 5, port := 9, rttNs := 500 }

theorem test_meets_LinksChangeStage :
    let p := fun (link state : Nat) => sets linked [(PRT_LINK.link 7, link), (PRT_CTL.state 7, state)]
    ((p 1 2).awake = true ∧ (p 1 2).get (PRT_LINK.link 7) = 1 ∧ (p 1 2).get (PRT_CTL.state 7) = 2 ∧ (p 1 2).trainFault 7 goodTraining = 0 ∧
        (p 1 2).trainFault 7 { goodTraining with rttNs := 501 } ≠ 0) ∧
      ((p 4 2).get (PRT_LINK.link 7) = 4 ∧ (sets (p 4 2) [(PRT_CTL.auto_retrain 7, 1)]).get (PRT_CTL.auto_retrain 7) = 1 ∧
        (p 4 2).mayTrain 7 = true) ∧
      ((p 3 2).get (PRT_LINK.link 7) = 3 ∧ ((p 3 2).port 7).inFlight = []) ∧ ((p 2 2).get (PRT_LINK.link 7) = 2 ∧ ((p 2 2).port 7).inFlight = []) ∧
      ((p 0 1).get (PRT_CTL.state 7) = 1 ∧ (p 0 1).get (PRT_CTL.rearm 7) = 0 ∧ ((p 0 1).port 7).inFlight = [] ∧ ((p 0 1).port 7).queues = []) ∧
      ((p 0 0).get (PRT_CTL.state 7) = 0 ∧ (p 0 0).portFree 7 = true) ∧
      (((p 1 2).setPort 7 { (p 1 2).port 7 with left := true }).port 7).left = true := by decide +kernel

def cell : StreamCell := ⟨5, true, [], []⟩

/-- The port has told its partner its state. -/
def told : State := linked.setPort 7 { linked.port 7 with lastEntry := linked.entryNow 7 false }

theorem test_meets_CodewordsKeepTheirLink :
    let u := fun n => linked.setPort 7 { linked.port 7 with unacked := [cell], resends := n }
    let r := told.setPort 7 { told.port 7 with again := [cell] }
    (linked.awake = true ∧ linked.linkUp 7 = true) ∧ bitOf (fieldNat [0x0F, 4] 1 1) 0 = false ∧ ((u 15).port 7).unacked ≠ [] ∧
      ((u 15).port 7).resends < 16 ∧ 16 ≤ ((u 16).port 7).resends ∧ (r.entryOwed 7 = false ∧ (r.port 7).again = [cell]) ∧
      (told.linkUp 7 = true ∧ told.entryOwed 7 = false ∧ (told.port 7).again = [] ∧ (told.port 7).ready 7 true = false ∧
        (told.port 7).ready 7 false = false) ∧ (linked.port 7).nakOut = false := by decide +kernel

theorem test_meets_CodewordsKeepTheirLink_taken : allTaken linked (linked.codewordIn 7 [1, 2, 3]) := by
  unfold allTaken noWait
  decide +kernel

/-- Three bytes are no codeword: they do not decode. -/
theorem test_meets_CodewordsKeepTheirLink_undecodable : rsDecode (scramble [1, 2, 3] (linked.port 7).scrRx).1 = none := by decide +kernel

theorem test_meets_EnablesTurnFunctionsOnAndOff :
    (enableRows 3 4 1 77 2).all (fun x =>
      let st := (funcFlds x.2).2.1
      let d := sets up [(st, 1)]
      up.awake && up.get st == 0 && (sets up [(st, 2)]).get st == 2 && d.get st == 1 && d.drainMet x.2 && !d.funcFrozen x.2) = true ∧
      ∀ i, i < 64 → up.get (PRT_LINK.link i) ≠ 1 := by decide +kernel

/-! ## Collectives, checkpoints, the layout -/

/-- A command of operation `op` for group 5, with a gate field. -/
def gcmd (op gate : Nat) : List Byte :=
  [BitVec.ofNat 8 op, 0, (if op = 2 then 9 else if op = 3 ∨ op = 4 then 5 else 0), 0] ++ leBytes 2 5 ++ leBytes 2 0 ++
    leBytes 8 (11 * 2 ^ 48 + 0x40000) ++ leBytes 8 (11 * 2 ^ 48 + 0x50000) ++
    leBytes 8 (if op = 1 ∨ op = 5 then 0 else 31) ++ List.replicate 2 0 ++ leBytes 2 gate ++ List.replicate 92 0

def queued (op gate : Nat) (gated : Bool) : State := grouped.setGroup 5 { grouped.group 5 with queue := [(8, gcmd op gate)], gated := gated }

def collOf (op : Nat) (done : Bool) : Coll :=
  { cmd := gcmd op 0, w := 8, step := 0, chunks := [], minStep := 0, maxStep := 0, stepFrom := [], stepSent := false, sats := 0, poisons := 0,
    done := done }

def collAt (op : Nat) (done : Bool) : State := grouped.setGroup 5 { grouped.group 5 with coll := some (collOf op done) }

theorem test_meets_CollectivesRunTheirPart_post :
    let s := grouped.setGwin 0 { grouped.gwin 0 with staged := Tab.set [] [] 8 (gcmd 1 0) }
    let cmd := overlay (Tab.get [] (s.gwin 0).staged 8) 128 120 (leBytes 8 0)
    s.awake = true ∧ windowOf .controlDie = some 8 ∧ windowOf (.dma 0 0) ≠ some 8 ∧ s.gwinPen 8 ≠ none ∧ gcGroup cmd = 5 ∧
      s.get (GRP_QCTL.state (s.homeOf 5) 5) = 2 := by decide +kernel

theorem test_meets_CollectivesRunTheirPart_start :
    [1, 2, 3, 4, 5].all (fun op =>
      let s := queued op 0 false
      let w := queued op 0x8004 false
      let p := queued op 0x8003 true
      (s.group 5).queue == [(8, gcmd op 0)] && (s.group 5).coll.isNone && s.groupLive 5 && !gcBad (gcmd op 0) && 8 / 16 == s.homeOf 5 &&
        s.groupUsable (s.gdesc 5) (s.gwinPen 8) && (!rankNamed (gcOp (gcmd op 0)) || decide (gcRank (gcmd op 0) < (s.gdesc 5).n)) &&
        gcGate (gcmd op 0) == none && gcGate (gcmd op 0x8004) == some 4 && !w.gatePasses 5 4 && w.groupLive 5 && !gcBad (gcmd op 0x8004) &&
        w.yardHold.isNone && gcGate (gcmd op 0x8003) == some 3 && (p.group 5).gated && p.gatePasses 5 3 && p.groupLive 5) = true ∧
      gcBad (gcmd 6 0) = true ∧ (queued 6 0 false).groupLive 5 = true ∧ allTaken (queued 6 0 false) ((queued 6 0 false).collRefuse 5 8 (gcmd 6 0) 1) := by
  unfold allTaken noWait
  decide +kernel

/-- Group 5 with four members, this package (11) the child of rank 1 and the parent of ranks 2 and 3 in both trees. -/
def peered : State :=
  wr (wr grouped (0x10 * 64 + 64 * 5) ([5, 12] ++ leBytes 2 3 ++ leBytes 2 0 ++ leBytes 2 100 ++ leBytes 8 0x8000 ++ leBytes 2 1 ++ leBytes 2 2 ++
    leBytes 2 3 ++ [0, 0] ++ leBytes 2 1 ++ leBytes 2 2 ++ leBytes 2 3 ++ [0, 0])) 0x8000 (leBytes 2 11 ++ leBytes 2 12 ++ leBytes 2 13 ++ leBytes 2 14)

def peerAt (op : Nat) (done : Bool) : State := peered.setGroup 5 { peered.group 5 with coll := some (collOf op done) }

theorem test_meets_CollectivesRunTheirPart_run :
    (∀ op ∈ [1, 2, 3, 4], gcOp (collOf op false).cmd = op ∧ (∀ dn, ((peerAt op dn).group 5).coll = some (collOf op dn) ∧ (peerAt op dn).groupLive 5 = true) ∧
      allTaken (peerAt op false) (((peerAt op false).ownPart 5 op).getD up) ∧ calm (peerAt op false) ∧ noWait (peerAt op true) ∧
      ((peerAt op false).gdesc 5).root 0 = false ∧ ((peerAt op false).gdesc 5).root 1 = false ∧ ((peerAt op false).group 5).early = [] ∧
      (collOf op false).stepFrom.contains 3 = false ∧ ((collOf op false).chunk 0).releaseIn = false ∧
      ∀ k, k < chunkCount ((peerAt op false).gdesc 5) (gcmd op 0) →
        (peerAt op false).groupReach ((peerAt op false).gdesc 5) (gcSrc (gcmd op 0) + k * ((peerAt op false).gdesc 5).size)
          (chunkLen ((peerAt op false).gdesc 5) (gcmd op 0) k) = true) ∧
      (({ up with lay := Layout.none } : State).penList = [] ∧ Tab.get 0 up.lay.grpTaken 1 = 0) := by
  unfold allTaken calm idleYards noWait
  decide +kernel

/-- A SEND to this package and one to another; a member that waits. -/
theorem test_meets_CollectivesRunTheirPart_ends :
    let far := { collOf 5 false with cmd := overlay (gcmd 5 0) 128 6 [1] }
    let s := peered.setGroup 5 { peered.group 5 with coll := some far }
    (gcOp far.cmd = 5 ∧ (s.group 5).coll = some far ∧ s.groupLive 5 = true ∧ s.memberAt (s.gdesc 5) (gcRank far.cmd) ≠ s.package) ∧
      (gcOp (collOf 5 false).cmd = 5 ∧ (peerAt 5 false).memberAt ((peerAt 5 false).gdesc 5) (gcRank (gcmd 5 0)) = (peerAt 5 false).package ∧
        calm (peerAt 5 false)) ∧
      (allTaken (peerAt 4 true) ((peerAt 4 true).failColl 5 7 0 ((peerAt 4 true).gdesc 5).rank) ∧ gcOp (collOf 4 true).cmd = 4 ∧
        calm (peerAt 4 true)) := by
  unfold allTaken calm idleYards noWait
  decide +kernel

/-- The member has sent its step and waits. -/
def waits : Coll := { collOf 4 true with stepSent := true }

def peerWaits : State := (sets peered linkRegs).setGroup 5 { peered.group 5 with coll := some waits }

/-- A packet of phase `ph` of collective m, chunk 0, from rank 2, with one element. -/
def collPkt (ph m : Nat) : Packet :=
  { pkt .coll 11 13 (BitVec.ofNat 64 (ph * 2 ^ 33)) (BitVec.ofNat 64 (m + 5 * 2 ^ 32)) (leBytes 8 7) with group := 5 }

theorem test_meets_CollectivesRunTheirPart_packets :
    (∀ ph, ph < 7 → ∀ m ∈ [0, 1], collFor peerWaits 7 (collPkt ph m) ph m) ∧ peerWaits.get (GRP_QCTL.number (peerWaits.homeOf 5) 5) = 0 ∧
      ((peerWaits.group 5).coll = some waits ∧ waits.done = true ∧ peerWaits.groupLive 5 = true ∧ gcOp waits.cmd = 4 ∧ gcEager waits.cmd = false) ∧
      ∀ ph, ph < 6 → allTaken peerWaits ((peerWaits.returnCredit 7 ⟨collPkt ph 0, 0⟩).collAct 5 waits (collPkt ph 0)) := by
  unfold collFor allTaken noWait
  decide +kernel

theorem test_meets_CollectivesRunTheirPart_chunks :
    let d := peerWaits.gdesc 5
    let k := collPkt 0 0
    (cpEtype k = gcElem waits.cmd ∧ cpX k = gcX waits.cmd ∧ cpTree k = 0 ∧ cpChunk k = 0 ∧ waits.stepSent = true ∧ waits.stepFrom.contains 3 = false ∧
        0 < chunkElems d waits.cmd 0 ∧ peerWaits.childOf d 0 k = some 1 ∧ 2 ∈ (d.children 0).map (·.1) ∧ (waits.chunk 0).from_ = []) ∧
      (calm peerWaits ∧ (∀ z, z < 8 → peerWaits.get (YRD_RETIRE.mask z) = 0) ∧ cpOff k + k.payload.length ≠ chunkLen d waits.cmd 0 + 20 ∧
        k.payload.length % cmdElem waits.cmd = 0 ∧ peerWaits.lands d waits 0 = true ∧
        peerWaits.groupReach d (gcDst waits.cmd) k.payload.length = true) ∧
      ((waits.chunk 0).landed = false ∧ (waits.chunk 0).rejects = 0) := by
  unfold calm idleYards noWait
  decide +kernel

/-- The same with poison in the third page of stack 3. -/
def poisonedPage : State := let s := draining 1 []; { s with mem := s.mem.write (stackBase 3 + 0x10040) (List.replicate 16 1) true }

theorem test_meets_CheckpointUnitFollowsItsStages_drain :
    (∀ x ∈ [(draining 1 [], false), (poisonedPage, true)], idleYards x.1 ∧ x.1.ckpLive 2 1 = true ∧ x.1.pagesLeft 2 3 = [1, 2] ∧
      x.1.get (CKP_ERR.valid 2) = 0 ∧ x.1.homeBad 3 1 = x.2) ∧
    (let e := draining 1 []
    let n := { e with lay := { e.lay with ranges := [] } }
    n.ckpLive 2 1 = true ∧ (∀ y, y < 8 → n.pagesLeft 2 y = []) ∧ (n.ckp 2).nvme = [] ∧ n.get (CKP_ERR.valid 2) = 0) := by
  unfold idleYards noWait
  decide +kernel

/-- The coordinator of group 5 writes, with both members' manifests held, a command in flight and `left` blocks of free space. -/
def writing (left : Nat) : State :=
  let s := draining 2 [(CKP_STAT.coordinator 2, 1)]
  s.setCkp 2 { s.ckp 2 with held := [0, 1], nvme := [.write], left := left }

def member : MemberManifest := ⟨0, 0, []⟩

theorem test_meets_CheckpointUnitFollowsItsStages_publish :
    let s := writing 100
    let d := s.gdesc (s.get (CKP_CTL.group 2))
    s.ckpLive 2 2 = true ∧ s.get (CKP_STAT.coordinator 2) = 1 ∧ s.manifestsHeld 2 = true ∧ [member, member].length = d.n ∧
      (s.ckp 2).nvme ≠ [] ∧ s.awake = true ∧ s.get (CKP_STAT.state 2) = 2 ∧ s.get (CKP_ERR.valid 2) = 0 ∧ d.rank = 0 := by decide +kernel

/-- A signature is 96 bytes. -/
theorem signed_length (b : List Byte) : (signed b).length = b.length + 96 := by simp [signed]

/-- The job manifest takes one block: it fits into 100, and not into none. -/
theorem test_meets_CheckpointUnitFollowsItsStages_space :
    let n := fun left => (((writing left).jobManifest 2 60 0 [member, member]).length + 4095) / 4096
    (n 100 = 1 ∧ 1 ≤ ((writing 100).ckp 2).left ∧ 1 ≤ ((writing 100).ckp 2).room) ∧ n 0 = 1 ∧ ((writing 0).ckp 2).left < 1 := by
  refine ⟨⟨?_, by decide +kernel, Nat.le_max_left 1 _⟩, ?_, by decide +kernel⟩ <;>
    · unfold State.jobManifest
      simp only [signed_length]
      decide +kernel

/-- Its root is being written, in stage i. -/
def rootWrite (i : Nat) : State := (draining 3 []).setCkp 2 { up.ckp 2 with rootStage := i, nvme := [.write] }

theorem test_meets_CheckpointUnitFollowsItsStages_root :
    ([1, 2, 3, 4].all fun i => !((rootWrite i).ckp 2).nvme.isEmpty && (rootWrite i).awake && (rootWrite i).get (CKP_STAT.state 2) == 3 &&
      ((rootWrite i).ckp 2).rootStage == i) = true ∧ ((rootWrite 5).ckpLive 2 3 = true ∧ ((rootWrite 5).ckp 2).rootStage = 5) ∧
      (let s := (draining 0 []).setCkp 2 { up.ckp 2 with nvme := [.write] }
      (s.ckp 2).nvme ≠ [] ∧ s.awake = true ∧ s.get (CKP_STAT.state 2) ≠ 2 ∧ s.get (CKP_STAT.state 2) ≠ 3) := by decide +kernel

theorem test_meets_CheckpointUnitFollowsItsStages_partial :
    (∀ k ∈ [1, 2], let s := draining k [(CKP_STAT.coordinator 2, 1)]
      let d := s.gdesc (s.get (CKP_CTL.group 2))
      s.ckpLive 2 k = true ∧ s.get (CKP_STAT.coordinator 2) = 1 ∧ 1 < d.n ∧ 1 ≠ d.rank ∧ (s.ckp 2).held.contains 1 = false ∧
        s.get (CKP_ERR.valid 2) = 0) ∧ up.penRunning 2 = false ∧ up.penFrozen 2 = false ∧ up.get (CKP_ERR.valid 2) = 0 := by
  decide +kernel

/-- A layout that is unloading, with every function OFF. -/
def unloading : State := { up with regs := [(LAY_STATUS.state.key, 3)] }

theorem unloading_all_off (f : Func) : unloading.get (funcFlds f).2.1 = 0 := by
  have key : ∀ a : Nat, Tab.get 0 [(8 * LAY_STATUS.state.addr + 0, 3)] (8 * a + 1) = 0 := by
    intro a
    simp only [Tab.get]
    rw [if_neg (by omega)]
  cases f <;> exact key _

/-- A package whose layout and shadow are in these states. -/
def layoutIn (state shadow : Nat) : State := sets up [(LAY_STATUS.state, state), (LAY_STATUS.shadow, shadow)]

theorem test_meets_LayoutFollowsItsStates :
    (up.awake = true ∧ up.get LAY_STATUS.state = 0 ∧ ((layoutIn 2 0).get LAY_STATUS.state = 2 ∧ (layoutIn 2 0).anyRunning = false) ∧
      (sets (layoutIn 2 0) [(SEQ_STATUS.state 1 1, 4)]).anyRunning = true ∧ (layoutIn 2 0).get LAY_STATUS.shadow = 0 ∧
      (layoutIn 2 2).get LAY_STATUS.shadow = 2 ∧ (layoutIn 2 2).get LAY_STATUS.pending = maskOf (layoutIn 2 2).penList) ∧
      (unloading.get LAY_STATUS.state = 3 ∧ ∀ f ∈ allFuncs, unloading.get (funcFlds f).2.1 = 0) :=
  ⟨by decide +kernel, by decide +kernel, fun f _ => unloading_all_off f⟩

theorem test_meets_LayoutFollowsItsStates_calm : ∀ x ∈ [(0, 0), (1, 0), (2, 0), (2, 1)], calm (layoutIn x.1 x.2) := by
  unfold calm idleYards noWait
  decide +kernel

/-- Checks at their end: an image without its magic; and an image of the model's own, empty and thus the same as the one loaded. -/
theorem test_meets_LayoutFollowsItsStates_checks :
    ((layoutIn 1 0).get LAY_STATUS.state = 1 ∧ (layoutIn 2 1).get LAY_STATUS.shadow = 1 ∧
      ((layoutIn 1 0).imageFault (layoutIn 1 0).lay.checking ((layoutIn 1 0).imageClean 0 0)).isSome = true) ∧
      armDiff (layoutIn 2 1).lay.image (layoutIn 2 1).lay.checking = none := by decide +kernel

/-! ## The control die -/

/-- A descriptor of op `op`: `flags`, source and destination in stack 3, and a tensor descriptor there. -/
def cdDesc (op flags : Nat) : List Byte :=
  [BitVec.ofNat 8 op, BitVec.ofNat 8 flags, 0, 0] ++ List.replicate 4 0 ++ leBytes 8 (stackBase 3 + 0x100) ++ leBytes 8 (stackBase 3 + 0x200) ++
    leBytes 8 (stackBase 3 + 0x40) ++ List.replicate 32 0

/-- Channel 3 has a ring of 16 entries of the package in use, entry 0 next, with that descriptor; the tensor is one element of A48. -/
def ringOf (op flags : Nat) : State :=
  wr (wr (sets up [(CD_DMAQ.base 3, 16), (CD_DMAQ.tail 3, 2), (CD_DMAQ.owner 3, 15)]) (sharedBase + 1024) (cdDesc op flags)) (stackBase 3 + 0x40)
    (leBytes 8 (stackBase 3 + 0x1000) ++ List.replicate 24 0 ++ leBytes 4 1 ++ leBytes 4 1 ++ leBytes 4 1 ++ [5] ++ List.replicate 19 0)

/-- Watch 9 waits for 5 on bell 77 of CP2, which has `n`, for main core 31. -/
def watched (n err : Nat) : State :=
  sets up [(CD_WATCH.enable 9, 1), (CD_WATCH.bell 9, 2 * 4096 + 77), (CD_WATCH.threshold 9, 5), (CD_WATCH.core 9, 31), (BEL_VAL.count 2 77, n),
    (BEL_VAL.err 2 77, err)]

theorem ringOf_calm : ∀ op ∈ [0, 1, 2, 9], calm (ringOf op 0) := by
  unfold calm idleYards noWait
  decide +kernel

theorem test_meets_ControlDieDmaAndWatches_copy :
    let s := ringOf 0 0
    let c := ((s.cdTake 3).cdrun 3).desc
    (∀ z, z < 8 → s.get (YRD_RETIRE.mask z) = 0) ∧ s.cdWorks 3 0 = true ∧ cdBadOp c = false ∧ cdSrcSram c = false ∧ cdDstSram c = false ∧
      s.ownPackage (cdSrc c) = true ∧ s.ownPackage (cdDst c) = true ∧ s.cdRange 3 false (cdSrc c) (cdRows c) = true ∧
      s.cdRange 3 false (cdDst c) (cdRows c) = true := by decide +kernel

theorem test_meets_ControlDieDmaAndWatches_convert :
    ∀ op ∈ [1, 2], let s := ringOf op 0
      let r := (s.cdTake 3).cdrun 3
      let e := (s.cdTake 3).cdDescBytes r
      s.cdWorks 3 op = true ∧ cdBadOp r.desc = false ∧ s.ownPackage (cdDescAt r.desc) = true ∧ s.cdRange 3 false (cdDescAt r.desc) 64 = true ∧
        s.cdCheck 3 r.desc (descOf e.1) e.2 = (0, 0) ∧ s.cdNeeds r.desc (descOf e.1) = [] := by decide +kernel

theorem test_meets_ControlDieDmaAndWatches_complete :
    (ringOf 9 0).cdReady 3 = true ∧ (((ringOf 9 0).cdTake 3).cdrun 3).worked = true ∧ (((ringOf 9 0).cdTake 3).cdrun 3).acks = 0 ∧
      (((ringOf 9 0).cdTake 3).cdrun 3).status ≠ 0 := by decide +kernel

theorem test_meets_ControlDieDmaAndWatches_watch :
    [(5, 0), (0, 1)].all (fun v => let s := watched v.1 v.2
      s.awake && s.watchDie 9 == 2 && s.watchBell 9 == 77 && s.dieLive 2 && s.watchMet 9 && !s.watchBefore 9 && !s.awaitFirst 2 0 77 &&
        !s.awaitFirst 2 1 77 && s.get (BEL_VAL.err 2 77) == v.2) = true := by decide +kernel

/-- A watch fires at its threshold and takes it; one less, it does not run. -/
theorem test_watch_at_its_threshold :
    after (.watchFire 9) (watched 5 0) (fun t => t.get (BEL_VAL.count 2 77) == 0 && t.get (CD_WATCH.pending 9) == 1) = true ∧
      (watched 4 0).watchMet 9 = false := by decide +kernel

theorem test_meets_OutsideRequestsReachTheirTargets :
    let e := sets up [(CD_ETH.up 2, 1), (CD_ETH.role 2, 2), (CD_SCORE.udp_port, 500)]
    let q := up.setQpair 4 { up.qpair 4 with buffer := some (100, 50) }
    let d := { up with pcieRole := 2 }
    let r := { up with pcieRole := 1 }
    (e.awake = true ∧ e.get (CD_ETH.up 2) = 1 ∧ e.get CD_SCORE.udp_port = (500 : U16).toNat ∧ (500 : U16) ≠ 0 ∧ bitOf (e.get (CD_ETH.role 2)) 1 = true ∧
        e.get CD_SCORE.udp_port ≠ (501 : U16).toNat) ∧
      ((q.qpair 4).inBuffer 148 2 = true ∧ 148 + 2 ≤ 0x04000000 ∧ (q.qpair 4).inBuffer 148 3 = false) ∧
      ((up.qpair 4).rate ≤ 20 * 2 ^ (up.qpair 4).halvings) ∧ (d.pcieRole = 2 ∧ noWait d ∧ r.pcieRole = 1 ∧ noWait r ∧
        r.ownPackage (2 ^ 48) = false) := by
  unfold noWait
  decide +kernel

/-- The window range of the PCIe section: a range of the image's list, wide enough for one access and not for the next. -/
theorem test_meets_OutsideRequestsReachTheirTargets_window :
    let l := { up.lay with ranges := [{ stack := 3, start := 0, len := 0x1000, pen := none, cacheable := false, snapshot := false, index := 0 }] }
    let d := { up with pcieRole := 2, lay := l }
    let r := { up with pcieRole := 1, lay := l }
    (d.pcieRange = some (stackBase 3, 0x1000) ∧ 0x1000 ≤ 0x1000000000 ∧ 0xFF8 + 8 ≤ 0x1000 ∧ 0x1000 < 0xFF9 + 8 ∧ calm d ∧
        (∀ z, z < 8 → d.get (YRD_RETIRE.mask z) = 0) ∧ stackBase 3 + 0x1000 ≤ dramTop ∧ noWait d) ∧
      (r.pcieRange = some (stackBase 3, 0x1000) ∧ r.ownPackage (stackBase 3 + 8) = true ∧ stackBase 3 ≤ localOf (stackBase 3 + 8) ∧
        localOf (stackBase 3 + 8) + [(1 : Byte)].length ≤ stackBase 3 + 0x1000 ∧ calm r ∧ (∀ z, z < 8 → r.get (YRD_RETIRE.mask z) = 0)) := by
  unfold calm idleYards noWait
  decide +kernel

/-- An operand list of a record row on core 0, at 64 bytes into the shared SRAM. -/
def record (x : (Fin 36 → List Nat → U64 → Nat → U64 → Instr) × Nat × Bool) (base : Nat) (count : U64) : VecPending :=
  { store := x.2.2, nf := x.2.1, regs := (List.range x.2.1).map fun i => 10 - 2 * i, base := BitVec.ofNat 64 base, z := 8, count := count }

theorem test_meets_RecordsKeysAndTraps_records :
    recordRows.all (fun x =>
      let g := record x (sharedBase + 64) 1
      let f := record x 0x010000000000 1
      let b := { g with regs := g.regs.map fun _ => 3 }
      up.awake && !b.legal && g.legal && f.legal && decide (0 < f.records 0) && up.recFault f 0 == some Exc.access && g.records 0 == 1 &&
        (List.range 1).all (fun i => (up.recFault g i).isNone) && decide (dramTop ≤ localOf (sharedBase + 64))) = true := by decide +kernel

/-- The second record of a list that starts in the last record of the shared SRAM may not be accessed, the first may. -/
theorem test_meets_RecordsKeysAndTraps_denied :
    recordRows.all (fun x =>
      let v := record x (sharedBase + 0x4000000 - 8 * x.2.1) 2
      v.legal && decide (1 < v.records 0) && !up.recDenied v 0 && up.recDenied v 1) = true := by decide +kernel

/-- An enrolment of the first owner needs no signature; a command whose sequence number was used is not fresh. -/
theorem test_meets_RecordsKeysAndTraps_keys :
    let k : RotCmd := { owner := true, slot := 3, key := [1, 2], msg := [], sig := [], seq := 5 }
    let used := { up with rot := { up.rot with lastSeq := 6 } }
    up.awake = true ∧ noWait up ∧ noWait (up.trapReturn 3) ∧ up.rotFresh k = true ∧ up.rot.owner = none ∧ used.rotFresh k = false ∧ up.rotSigned { k with owner := false } = false ∧
      (up.hcore 3).vec = none := by
  unfold noWait
  decide +kernel

/-- A P-384 key, and its signature over "hello world" (made outside the model, by FIPS 186-5). -/
def ownerKey : List Byte := be 48 0x9209f5f84fba2024e4ec51e9b18a82a4230a8c2b8f1fec9014f6e66aaea270092f6177ecf8ced9ce88f4023f04f9e027 ++
  be 48 0xccd000a995941caafe9ffd9ce0f12617c28dd81458ee20b1dc691bd045aa8da9cbd77bac245533c0a1896846315e6a3d

def helloSig : List Byte := be 48 0x108433abb4960145fdfdedbf15e7aa3637f876fb2229f80dc3be7d5ae3d364272d0646ffa81ea816996d402c06a8f324 ++
  be 48 0x3998c293976aedc892acd9dda56c5c420e4e6f1cb961b5bc420285eb49ecabc8d40252595bbd7a6b574b7afd4d0733f3

/-- The signature verifies, and no longer does over another message (R446). -/
theorem test_ecdsa : ecdsaVerify ownerKey (ascii "hello world") helloSig = true ∧ ecdsaVerify ownerKey (ascii "hello") helloSig = false := by
  decide +kernel

/-- A checkpoint of no member and no range, its job manifest and root signed with that key. -/
def stored : StoredCheckpoint :=
  let job := leBytes 4 0x4E4D424A ++ leBytes 4 1 ++ leBytes 8 0 ++ leBytes 8 5 ++ leBytes 8 1 ++ List.replicate 32 0 ++
    be 48 0x8c2bc86c94464b7546381bb582c74f1597f4fa40cac64d8c8f59e2449e3535e71a2cecef51ca3abdfbb627da2fdfb0bc ++
    be 48 0x421742d0fa48b6d6fc1295a3d6ab58bff68f6fd539c88d12c8977e66fb143c501f2a9c1bb7913cfa2c84d51f3ac353a1
  let root := leBytes 4 0x544F4F52 ++ leBytes 4 1 ++ leBytes 8 1 ++ leBytes 8 0 ++ leBytes 8 5 ++ List.replicate 8 0 ++ leBytes 8 1 ++ leBytes 8 160 ++
    sha256 job ++ (sha256 (List.replicate 16 0)).take 8 ++
    be 48 0x7f97bc4826018499e931dbfbb134605e8e2e182cb796df9689ec435f58f1ca6e9ad7c9dd95c7ce8198d18c78909bb88e ++
    be 48 0xc331c2f5bb005d8708981a68cef94cf144ff737e5588802c08ffc2452d888fd2592cba55a9135d955a74a1b9efc23f8f
  { slot := 0, root := root, job := some job, packages := [], shards := [] }

/-- A restore may take it. -/
theorem test_meets_CheckpointUnitFollowsItsStages_restore :
    up.penRunning 2 = false ∧ up.penFrozen 2 = false ∧ signedBy [ownerKey] stored.root = true ∧ up.checkStored 2 [ownerKey] stored = 0 := by
  decide +kernel

/-- With an owner, a command signed by its key. -/
theorem test_meets_RecordsKeysAndTraps_signed :
    let k : RotCmd := { owner := false, slot := 3, key := [1, 2], msg := ascii "hello world", sig := helloSig, seq := 5 }
    let s := { up with rot := { up.rot with owner := some ownerKey } }
    s.rotFresh k = true ∧ s.rotSigned k = true ∧ k.owner = false ∧ k.slot.val < 8 :=
  ⟨by decide +kernel, test_ecdsa.1, rfl, by decide⟩

/-- SHA-256 and SHA-384 of "abc" (FIPS 180-4's own examples). -/
theorem test_hashes :
    beNat (sha256 (ascii "abc")) = 0xBA7816BF8F01CFEA414140DE5DAE2223B00361A396177A9CB410FF61F20015AD ∧
      beNat (sha384 (ascii "abc")) =
        0xCB00753F45A35E8BB5A03D699AC65007272C32AB0EDED1631A8B605A43FF5BED8086072BA1E7CC2358BAECA134C825A7 := by decide +kernel

/-- FIPS 197: an entry of the S-box, the first column of its MixColumns example, the first new word of the key expansion of A.3; and GHASH of a block of
SP 800-38D. -/
theorem test_cipher_parts :
    subByte 0x53 = 0xED ∧ (mixColumns [0xD4, 0xBF, 0x5D, 0x30]).take 4 = [0x04, 0x66, 0x81, 0xE5] ∧
      (keyWords 1 8 1 [[0x09, 0x14, 0xDF, 0xF4], [], [], [], [], [], [], [0x60, 0x3D, 0xEB, 0x10]]).headD [] = [0x9B, 0xA3, 0x54, 0x11] ∧
      ghash 0xDC95C078A2408989AD48A21492842087#128
        (be 16 0xCEA7403D4D606B6E074EC5D3BAF39D18 ++ be 8 0 ++ be 8 128) = 0x83DE425C5EDC5D498F382C441041CA92#128 := by decide +kernel

/-! ## Arithmetic -/

theorem test_meets_ReciprocalsAreFloors : (-3 : Int) ≠ 0 ∧ (0 : Int) < 2 ∧ (⟨-3, 5⟩ : Dy).m ≠ 0 ∧ 0 < (⟨3, 5⟩ : Dy).m := by decide

theorem test_meets_RoundingIsToNearestEven : (0 : Int) ≤ 0 ∧ 0 < 1 ∧ 65535 < 65536 ∧ (4 : Int) % 2 ^ 1 = 0 := by decide

/-- Ties go to even, on both sides of zero (R51). -/
theorem test_ties_to_even : roundNe 1 1 = 0 ∧ roundNe 3 1 = 2 ∧ roundNe (-1) 1 = 0 ∧ roundNe (-3) 1 = -2 ∧ roundNe 5 (-2) = 20 := by decide +kernel

theorem test_meets_StackHashIsOneToOne : 0x17FFFFFFFF < 0x1800000000 ∧ 63 < 64 ∧ 6291455 ≤ 6291455 ∧ 255 < 256 := by decide

/-! ## The queue -/

/-- The front command runs and leaves the rest; a word spells no command. -/
theorem test_queue :
    (match step { up with pending := [.freezeResume, .testReset] } with | .next t => t.pending | _ => []) = [.testReset] ∧
      decodeTableWord 0 0 = none ∧ up.withFetchWord 8 7 = up := by decide +kernel

end Sys2Proof.Tests
end

section
/-!
SUPPORT. The scope (spec/00_scope.md): what a write of a register does to its fields (O17), which register accesses fault and what the control
die's writes of a context's block do (O18), and a step that leaves an access noted as waiting (O3).
-/

namespace Sys2Proof.Machine

/-! ## Writes by the access codes (R16) -/

/-- Taking the bits that a and b have in common out of a clears in a every bit of b: no place borrows. -/
theorem testBit_sub_and (a b i : Nat) : (a - (a &&& b)).testBit i = (a.testBit i && !b.testBit i) := by
  have hle : (a &&& b) ≤ a := Nat.and_le_left
  have hmod : (a &&& b) % 2 = a % 2 &&& b % 2 := Nat.and_mod_two_pow (n := 1)
  have hlow : (a &&& b) % 2 ≤ a % 2 := hmod ▸ Nat.and_le_left
  induction i generalizing a b with
  | zero =>
    have hsub : (a - (a &&& b)) % 2 = a % 2 - (a &&& b) % 2 := by omega
    rw [Nat.testBit_zero, Nat.testBit_zero, Nat.testBit_zero, hsub, hmod]
    rcases Nat.mod_two_eq_zero_or_one a with ha | ha <;> rcases Nat.mod_two_eq_zero_or_one b with hb | hb <;> simp [ha, hb]
  | succ i ih =>
    have hdiv : (a - (a &&& b)) / 2 = a / 2 - (a / 2 &&& b / 2) := by
      have hand : (a &&& b) / 2 = a / 2 &&& b / 2 := Nat.and_div_two
      omega
    have hmod2 : (a / 2 &&& b / 2) % 2 = a / 2 % 2 &&& b / 2 % 2 := Nat.and_mod_two_pow (n := 1)
    rw [Nat.testBit_succ, Nat.testBit_succ, Nat.testBit_succ, hdiv]
    exact ih (a / 2) (b / 2) Nat.and_le_left hmod2 (hmod2 ▸ Nat.and_le_left)

theorem bitsOf_lt (n lo w : Nat) : bitsOf n lo w < 2 ^ w := Nat.mod_lt _ (Nat.two_pow_pos w)

/-- An access of all 64 bits covers every bit of a field that lies in the register. -/
theorem bitsOf_allOnes {lo w : Nat} (h : lo + w ≤ 64) : bitsOf (2 ^ 64 - 1) lo w = 2 ^ w - 1 := by
  apply Nat.eq_of_testBit_eq
  intro i
  rw [bitsOf, Nat.testBit_mod_two_pow, Nat.testBit_div_two_pow, Nat.testBit_two_pow_sub_one, Nat.testBit_two_pow_sub_one]
  by_cases hi : i < w
  · simp [hi, show i + lo < 64 by omega]
  · simp [hi]

/-- A field takes the bits of a value that fit its width. -/
theorem State.set_congr_mod (s : State) (f : Fld) {u v : Nat} (h : u % 2 ^ f.w = v % 2 ^ f.w) : s.set f u = s.set f v := by
  rw [State.set, State.set, h]

/-- Where the access covers the whole field, nothing of its old value is left. -/
theorem merged_mod (old v w : Nat) : (old - (old &&& (2 ^ w - 1)) ||| v) % 2 ^ w = v % 2 ^ w := by
  have hcleared : (old - old % 2 ^ w) % 2 ^ w = 0 := Nat.sub_mod_eq_zero_of_mod_eq (Nat.mod_mod _ _).symm
  rw [Nat.and_two_pow_sub_one_eq_mod, Nat.or_mod_two_pow, hcleared, Nat.zero_or]

/-- An access that covers no bit of a field leaves the state. -/
theorem State.writeFld_uncovered (s : State) (mask data : Nat) (f : Fld) (h : bitsOf mask f.lo f.w = 0) : s.writeFld mask data f = s := by
  rw [State.writeFld, if_pos h]

/-- What an access of the whole register does to a field, by its access code. -/
theorem State.writeFld_whole (s : State) (data : Nat) (f : Fld) (hw : 0 < f.w) (hlo : f.lo + f.w ≤ 64) :
    s.writeFld (2 ^ 64 - 1) data f =
      match f.acc with
      | .RW => s.set f (bitsOf data f.lo f.w)
      | .RWL => if s.layoutActive then s else s.set f (bitsOf data f.lo f.w)
      | .RO | .WO => s
      | .W1C => s.set f (s.get f - (s.get f &&& bitsOf data f.lo f.w))
      | .W1S => s.set f (s.get f ||| bitsOf data f.lo f.w) := by
  have hcovered : 2 ^ f.w - 1 ≠ 0 := by
    have hpow : 1 < 2 ^ f.w := Nat.one_lt_two_pow (by omega)
    omega
  have hdata : bitsOf data f.lo f.w &&& (2 ^ f.w - 1) = bitsOf data f.lo f.w := Nat.and_two_pow_sub_one_of_lt_two_pow (bitsOf_lt _ _ _)
  have hset := State.set_congr_mod s f (merged_mod (s.get f) (bitsOf data f.lo f.w) f.w)
  cases hacc : f.acc <;> simp only [State.writeFld, hacc, bitsOf_allOnes hlo, hcovered, if_false, hdata, hset]

/-- No access writes another field. -/
theorem State.writeFld_get_other (s : State) (mask data : Nat) (f g : Fld) (h : g.key ≠ f.key) : (s.writeFld mask data f).get g = s.get g := by
  have hset (v : Nat) : (s.set f v).get g = s.get g := State.get_set_other s f g v h
  rw [State.writeFld]
  split
  · rfl
  · cases f.acc with
    | RW | W1C | W1S => exact hset _
    | RO | WO => rfl
    | RWL =>
      dsimp only
      split
      · rfl
      · exact hset _

/-- Settles O17: an access of the whole register, code by code; a value that fits the field's width is read back as it was set. -/
theorem accessCodesSayWhatAWriteDoes : Obligations.AccessCodesSayWhatAWriteDoes := by
  intro s f data hs hw hlo
  have hwhole := State.writeFld_whole s data f hw hlo
  have hv : bitsOf data f.lo f.w < 2 ^ f.w := bitsOf_lt data f.lo f.w
  have hset {v : Nat} (h : v < 2 ^ f.w) : (s.set f v).get f = v := (State.get_set_self s f v).trans (Nat.mod_eq_of_lt h)
  refine ⟨fun hacc => ?rw, fun hacc => ?rwl, fun hacc => ?readOnly, fun hacc i => ?w1c, fun hacc i => ?w1s, ?uncovered, fun g hg => ?others⟩
  case rw =>
    rw [hwhole, hacc]
    exact hset hv
  case rwl =>
    rw [hwhole, hacc]
    dsimp only
    split
    · rfl
    · exact hset hv
  case readOnly => rcases hacc with hacc | hacc <;> rw [hwhole, hacc]
  case w1c =>
    rw [hwhole, hacc]
    dsimp only
    rw [hset (Nat.lt_of_le_of_lt (Nat.sub_le _ _) hs)]
    exact testBit_sub_and _ _ i
  case w1s =>
    rw [hwhole, hacc]
    dsimp only
    rw [hset (Nat.or_lt_two_pow hs hv)]
    exact Nat.testBit_or _ _ i
  case uncovered => exact State.writeFld_uncovered s 0 data f (by rw [bitsOf, Nat.zero_div, Nat.zero_mod])
  case others => exact State.writeFld_get_other s _ data f g hg

/-! ## Writes of registers (R13 to R17) -/

/-- A command whose effect notes no access as waiting has that effect. -/
theorem State.yardStep_next {s t : State} {f : State → Host.Outcome State Fault Refusal} (hs : noWait s) (hf : f s = .next t) (ht : noWait t) :
    s.yardStep f = .next t := by
  have hn : ({ s with yardHold := none } : State) = s := by
    rw [← show s.yardHold = none from hs]
  have ht' : t.yardHold = none := ht
  simp only [State.yardStep, hn, hf, ht']

/-- A CSR_WRITE of the control die, to a package that is not frozen (R16). -/
theorem execCsrWrite_controlDie {s t : State} {a : BitVec 48} {size : Nat} {v : U64} (hs : noWait s) (hawake : s.awake = true)
    (hwrite : s.csrWrite .controlDie a.toNat size v.toNat = t) (ht : noWait t) : exec (.csrWrite .controlDie a size v) s = .next t := by
  subst hwrite
  exact State.yardStep_next (f := fun s => if s.awake then .next (s.csrWrite .controlDie a.toNat size v.toNat) else s.notDue) hs (if_pos hawake) ht

/-- An access of a wrong size, alignment or place is answered with an access fault (R13, R14). -/
theorem State.csrWrite_not_ok (s : State) (src : Source) {a size : Nat} (data : Nat) (h : csrOk a size = false) :
    s.csrWrite src a size data = s.answer .accessFault := by
  rw [State.csrWrite, h]
  rfl

/-- The accesses that are accepted are aligned, of 4 or 8 bytes, in the CSR space (R12, R14). -/
theorem csrOk_aligned_mapped {a size : Nat} (h : csrOk a size = true) :
    (size = 8 ∧ a % 8 = 0 ∨ size = 4 ∧ a % 4 = 0) ∧ 0x010000000000 ≤ a ∧ a < 0x010020000000 := by
  simp only [csrOk, csrSizeOk, csrMapped, Bool.and_eq_true, Bool.or_eq_true, beq_iff_eq, decide_eq_true_eq] at h
  obtain ⟨hsize, ⟨hlow, hslot⟩, -⟩ := h
  omega

/-- A register of 8 bytes below the cluster blocks of its CSR slot is mapped. -/
theorem csrOk_below_clusters {a : Nat} (h8 : a % 8 = 0) (hlow : 0x010000000000 ≤ a) (hslot : (a - 0x010000000000) / 0x04000000 < 8)
    (hoff : (a - 0x010000000000) % 0x04000000 < 0x2000000) : csrOk a 8 = true := by
  have hnot : ¬ 0x2000000 ≤ (a - 0x010000000000) % 0x04000000 := by omega
  simp [csrOk, csrSizeOk, csrMapped, h8, hlow, hslot, hnot]

/-- The compute dies' CSR slots hold no command windows and come before those that do (R12): a write there acts on its register. -/
theorem State.csrWrite_die (s : State) (src : Source) (d : Fin 4) {o : Nat} (ho : o < 0x2000000) (h8 : o % 8 = 0) (data : Nat) :
    s.csrWrite src (dieBlk d + o) 8 data = (s.dieWrite d o (2 ^ 64 - 1) (data % 2 ^ 64)).answer .accepted := by
  have hd := d.isLt
  have hbase : dieBlk d = 0x010000000000 + (1 + d) * 0x04000000 := rfl
  have hyards : yardBlk 0 = 0x01001D000000 := rfl
  have hfab0 : grpBlk 0 = 0x010014200000 := rfl
  have hfab1 : grpBlk 1 = 0x010018200000 := rfl
  have hslot : (dieBlk d + o - 0x010000000000) / 0x04000000 = 1 + d := by omega
  have hoff : (dieBlk d + o - 0x010000000000) % 0x04000000 = o := by omega
  have hok : csrOk (dieBlk d + o) 8 = true := csrOk_below_clusters (by omega) (by omega) (by omega) (by omega)
  have halign : (dieBlk d + o) / 8 * 8 = dieBlk d + o := by omega
  have hyard : ¬ yardBlk 0 ≤ dieBlk d + o := by omega
  have hgrp0 : ¬ grpBlk 0 ≤ dieBlk d + o := by omega
  have hgrp1 : ¬ grpBlk 1 ≤ dieBlk d + o := by omega
  have hreg : s.regWrite (dieBlk d + o) (2 ^ 64 - 1) (data % 2 ^ 64) = s.dieWrite d o (2 ^ 64 - 1) (data % 2 ^ 64) := by
    rw [State.regWrite]
    simp only [hslot, hoff]
    rw [if_neg (by omega), if_pos (by omega), Nat.add_sub_cancel_left]
  rw [State.csrWrite, hok]
  simp only [hyard, hgrp0, hgrp1, false_and, if_false, Bool.not_true, Bool.false_eq_true, halign, csrMask, csrData, if_true, hreg]

/-- A write in a context's register block. -/
theorem State.csrWrite_ctx (s : State) (src : Source) (d : Fin 4) (h : Fin 2) {r : Nat} (hr : r < 0x1000) (h8 : r % 8 = 0) (data : Nat) :
    s.csrWrite src (ctxBlk d h + r) 8 data = (s.ctxWrite d h r (2 ^ 64 - 1) (data % 2 ^ 64)).answer .accepted := by
  have hh := h.isLt
  have haddr : ctxBlk d h + r = dieBlk d + (0x100000 + h * 0x1000 + r) := by
    have hctx : ctxBlk d h = dieBlk d + 0x100000 + h * 0x1000 := rfl
    omega
  have hblk : (0x100000 + h * 0x1000 + r - 0x100000) / 0x1000 = (h : Nat) := by omega
  have hoff : (0x100000 + h * 0x1000 + r) % 0x1000 = r := by omega
  rw [haddr, State.csrWrite_die s src d (by omega) (by omega), State.dieWrite]
  simp only [hblk, hoff]
  rw [if_pos (by omega)]

/-- The register at 0x28 of a context's block holds SEQ_AWAIT_TMO alone (R165). -/
theorem regFlds_awaitTmo (q : Nat → Nat) {d h : Nat} (hd : d < 4) (hh : h < 2) : regFlds q (ctxBlk d h + 0x28) = [SEQ_AWAIT_TMO.cycles d h] := by
  have hd4 : d = 0 ∨ d = 1 ∨ d = 2 ∨ d = 3 := by omega
  have hh2 : h = 0 ∨ h = 1 := by omega
  rcases hd4 with rfl | rfl | rfl | rfl <;> rcases hh2 with rfl | rfl <;> rfl

/-- The register at 0x10 of a context's block holds SEQ_PC alone (R163). -/
theorem regFlds_pc (q : Nat → Nat) {d h : Nat} (hd : d < 4) (hh : h < 2) : regFlds q (ctxBlk d h + 0x10) = [SEQ_PC.record d h] := by
  have hd4 : d = 0 ∨ d = 1 ∨ d = 2 ∨ d = 3 := by omega
  have hh2 : h = 0 ∨ h = 1 := by omega
  rcases hd4 with rfl | rfl | rfl | rfl <;> rcases hh2 with rfl | rfl <;> rfl

/-- A register of one field, none left out, is written as that field is. -/
theorem State.plain_singleton (s : State) {a : Nat} {f : Fld} (mask data : Nat) (h : regFlds s.qsel a = [f]) :
    s.plain a mask data [] = s.writeFld mask data f := by
  rw [State.plain, h]
  rfl

/-- The block of context 1 ignores writes in whole mode (R159). -/
theorem State.ctxWrite_whole (s : State) {d : Nat} (r mask data : Nat) (h : s.split d = false) : s.ctxWrite d 1 r mask data = s := by
  rw [State.ctxWrite, if_pos ⟨rfl, h⟩]

/-- Otherwise a register of the block but SEQ_CTL, the seeds and the governor's addresses is written by its fields' access codes. -/
theorem State.ctxWrite_plain (s : State) (d : Fin 4) (h : Fin 2) {r : Nat} (hr0 : 0 < r) (hr : r < 0x80) (mask data : Nat)
    (hsplit : h = 0 ∨ s.split d = true) : s.ctxWrite d h r mask data = s.plain (ctxBlk d h + r) mask data [] := by
  have hblock : ¬((h : Nat) = 1 ∧ s.split d = false) := by
    rintro ⟨h1, h2⟩
    rcases hsplit with rfl | hsplit
    · exact absurd h1 (by decide)
    · exact absurd (hsplit.symm.trans h2) (by decide)
  rw [State.ctxWrite, if_neg hblock, if_neg (by omega), if_neg (by omega)]

/-- A write of SEQ_AWAIT_TMO sets its 48 bits (R165). -/
theorem State.ctxWrite_awaitTmo (s : State) (d : Fin 4) (h : Fin 2) (data : Nat) (hsplit : h = 0 ∨ s.split d = true) :
    s.ctxWrite d h 0x28 (2 ^ 64 - 1) data = s.set (SEQ_AWAIT_TMO.cycles d h) (bitsOf data 0 48) := by
  rw [State.ctxWrite_plain s d h (by decide) (by decide) _ _ hsplit, State.plain_singleton s _ _ (regFlds_awaitTmo s.qsel d.isLt h.isLt)]
  exact State.writeFld_whole s data (SEQ_AWAIT_TMO.cycles d h) (Nat.zero_lt_succ 47) (Nat.le_of_ble_eq_true rfl)

/-- A write of SEQ_PC does nothing: its field is read-only (R16, R163). -/
theorem State.ctxWrite_pc (s : State) (d : Fin 4) (h : Fin 2) (data : Nat) : s.ctxWrite d h 0x10 (2 ^ 64 - 1) data = s := by
  by_cases hsplit : h = 0 ∨ s.split d = true
  · rw [State.ctxWrite_plain s d h (by decide) (by decide) _ _ hsplit, State.plain_singleton s _ _ (regFlds_pc s.qsel d.isLt h.isLt)]
    exact State.writeFld_whole s data (SEQ_PC.record d h) (Nat.zero_lt_succ 20) (Nat.le_of_ble_eq_true rfl)
  · obtain ⟨h0, hwhole⟩ := not_or.mp hsplit
    obtain rfl : h = 1 := match h, h0 with
      | 0, h0 => absurd rfl h0
      | 1, _ => rfl
    exact State.ctxWrite_whole s _ _ _ (Bool.not_eq_true _ ▸ hwhole)

/-- The control die's CSR_WRITE of a register in a context's block. -/
theorem execCsrWrite_ctx {s t : State} (hs : noWait s) (hawake : s.awake = true) (d : Fin 4) (h : Fin 2) {r : Nat} (hr : r < 0x1000) (h8 : r % 8 = 0)
    {v : U64} (hwrite : s.ctxWrite d h r (2 ^ 64 - 1) v.toNat = t) (ht : noWait t) :
    exec (.csrWrite .controlDie (BitVec.ofNat 48 (ctxBlk d h + r)) 8 v) s = .next (t.answer .accepted) := by
  have haddr : (BitVec.ofNat 48 (ctxBlk d h + r)).toNat = ctxBlk d h + r := by
    have hctx : ctxBlk d h = 0x010000000000 + (1 + d) * 0x04000000 + 0x100000 + h * 0x1000 := rfl
    rw [BitVec.toNat_ofNat, Nat.mod_eq_of_lt (by omega)]
  refine execCsrWrite_controlDie hs hawake ?_ ht
  rw [haddr, State.csrWrite_ctx s _ d h hr h8, Nat.mod_eq_of_lt v.isLt, hwrite]

/-- Settles O18: a faulting access is answered as such; the other writes are to a context's block, and go through `execCsrWrite_ctx`. -/
theorem csrWritesFaultOrAct : Obligations.CsrWritesFaultOrAct := by
  refine ⟨fun a size => csrOk_aligned_mapped, fun s a size v hs hawake hbad => ?fault, fun s d h v hs hawake hsplit => ?tmo,
    fun s d v hs hawake hwhole => ?whole, fun s d h v hs hawake => ?pc⟩
  case fault => exact execCsrWrite_controlDie hs hawake (State.csrWrite_not_ok s .controlDie v.toNat hbad) hs
  case tmo =>
    have hwrite := State.ctxWrite_awaitTmo s d h v.toNat hsplit
    refine ⟨_, execCsrWrite_ctx hs hawake d h (by decide) (by decide) hwrite hs, ?_, rfl, rfl, rfl, fun g hg => State.get_set_other s _ g _ hg⟩
    rw [State.answer_get, State.get_set_self, bitsOf, Nat.pow_zero, Nat.div_one, Nat.mod_mod]
  case whole => exact execCsrWrite_ctx hs hawake d 1 (by decide) (by decide) (State.ctxWrite_whole s 0x28 _ v.toNat hwhole) hs
  case pc => exact execCsrWrite_ctx hs hawake d h (by decide) (by decide) (State.ctxWrite_pc s d h v.toNat) hs

/-! ## A step that leaves an access noted as waiting (log entry 108) -/

/-- Where the completion record of the collective of `recordHeld` goes, in stack 0. -/
def heldRecordAt : Nat := 0x40000

/-- A BARRIER of group 0 that runs, posted through window 0. -/
def heldBarrier : Coll :=
  { cmd := overlay (1 :: List.replicate 127 0) 128 64 (leBytes 8 heldRecordAt), w := 0, step := 0, chunks := [], minStep := 0, maxStep := 0,
    stepFrom := [], stepSent := false, sats := 0, poisons := 0, done := false }

/-- Pen 0 runs on context 0 of die 0, and with it a BARRIER of its group 0 (its descriptor, valid, at address 0). A refresh blocks the bank that the
BARRIER's completion record lies in. A fault of die 0 comes next. -/
def recordHeld : State :=
  let s := ((State.reset.set (PEN_INFO.used 0) 1).set (PEN_INFO.halves 0) 1).set (SEQ_STATUS.state 0 0) 3
  { s with
    mem := s.mem.write 0 ([1, 12, 0, 0, 0, 0, 100, 0] ++ leBytes 8 0x8000) false
    groups := [(0, { Group.clear with coll := some heldBarrier })]
    yards := [(0, { Yard.clear with blocked := [bankKey (channelOf heldRecordAt) (channelLine heldRecordAt)] })]
    pending := [.dieFault 0 .clock] }

/-- The access noted as waiting after a step. -/
def heldAfterStep (s : State) : Option YardHold :=
  match step s with
  | .next t => t.yardHold
  | _ => none

theorem exists_next_of_heldAfterStep {s : State} {w : YardHold} (h : heldAfterStep s = some w) : ∃ t, step s = .next t ∧ t.yardHold = some w := by
  unfold heldAfterStep at h
  split at h
  · next t hstep => exact ⟨t, hstep, h⟩
  · cases h

theorem recordHeld_inv : recordHeld.Inv := by
  unfold State.Inv
  decide +kernel

/-- DIE_FAULT voids the step, which ends the BARRIER; the write of its record (port of fabric die 0, class 2) is noted, and no `State.yardStep`
takes the note back. -/
theorem heldAfterStep_recordHeld : heldAfterStep recordHeld = some ⟨0, 18, 64, none⟩ := by decide +kernel

/-- Even from canonical form, a step can leave an access noted as waiting where none was. -/
theorem exists_step_leaves_hold : ∃ s t : State, s.Inv ∧ noWait s ∧ step s = .next t ∧ ¬ noWait t := by
  obtain ⟨t, hstep, hhold⟩ := exists_next_of_heldAfterStep heldAfterStep_recordHeld
  refine ⟨recordHeld, t, recordHeld_inv, rfl, hstep, fun ht => ?_⟩
  exact absurd (hhold.symm.trans ht) (Option.some_ne_none _)

/-- Refutes O3 in its last clause: a fault that ends a running collective writes the completion record outside any `State.yardStep`, and where the
yard does not take that write (here `recordHeld`: a refresh blocks its bank), the note stays after the step. -/
theorem not_everyStepKeepsCanonicalForm : ¬ Obligations.EveryStepKeepsCanonicalForm := by
  rintro ⟨-, -, hkeeps⟩
  obtain ⟨s, t, -, hs, hstep, ht⟩ := exists_step_leaves_hold
  exact ht (hkeeps s t hs hstep)

end Sys2Proof.Machine
end

section
/-!
SUPPORT. Rounding of scaled integers (spec/01_scaled_integers.md, R51, R52): to the nearest multiple with ties to even, and stochastically to a
neighbour (O59).
-/

namespace Sys2Proof.Machine

/-! ## Rounding (R51, R52) -/

/-- At a power of two that is no fraction bit, nothing is rounded (R51). -/
theorem roundNe_nonpos (v : Int) {d : Int} (h : d ≤ 0) : roundNe v d = v * 2 ^ (-d).toNat := if_pos h

/-- Above, the floor of the quotient goes up where the remainder lies above the half, or at the half of an odd quotient (R51). -/
theorem roundNe_pos (v : Int) {e : Nat} (h : 0 < e) :
    roundNe v e = if 2 ^ (e - 1) < v - v / 2 ^ e * 2 ^ e ∨ v - v / 2 ^ e * 2 ^ e = 2 ^ (e - 1) ∧ v / 2 ^ e % 2 = 1 then v / 2 ^ e + 1 else v / 2 ^ e :=
  if_neg (by omega)

theorem two_pow_pos_int (e : Nat) : (0 : Int) < 2 ^ e := Int.pow_pos (by decide)

/-- The remainder of a division by 2^e, which is twice the half, lies in [0, 2^e). -/
theorem remainder_bounds (v : Int) {e : Nat} (h : 0 < e) :
    (2 : Int) ^ e = 2 * 2 ^ (e - 1) ∧ 0 ≤ v - v / 2 ^ e * 2 ^ e ∧ v - v / 2 ^ e * 2 ^ e < 2 ^ e := by
  have hpos := two_pow_pos_int e
  have hdiv := Int.emod_add_mul_ediv v (2 ^ e)
  have hcomm := Int.mul_comm (2 ^ e) (v / 2 ^ e)
  have hlow := Int.emod_nonneg v (Int.ne_of_gt hpos)
  have hhigh := Int.emod_lt_of_pos v hpos
  have hsucc : (2 : Int) ^ (e - 1 + 1) = 2 ^ (e - 1) * 2 := Int.pow_succ 2 (e - 1)
  rw [Nat.sub_add_cancel h] at hsucc
  exact ⟨hsucc.trans (Int.mul_comm _ _), by omega, by omega⟩

/-- No multiple of 2^e is nearer to v than the rounded one, and where it is as far as half of 2^e it is even. -/
theorem roundNe_nearest (v : Int) {e : Nat} (h : 0 < e) :
    2 * (roundNe v e * 2 ^ e - v).natAbs ≤ 2 ^ e ∧ (2 * (roundNe v e * 2 ^ e - v).natAbs = 2 ^ e → roundNe v e % 2 = 0) := by
  obtain ⟨hhalf, hlow, hhigh⟩ := remainder_bounds v h
  have hcast : ((2 ^ e : Nat) : Int) = 2 ^ e := Int.natCast_pow 2 e
  rw [roundNe_pos v h]
  generalize v / 2 ^ e = q at *
  generalize (2 : Int) ^ (e - 1) = half at *
  split
  case isTrue hup =>
    have hnext : (q + 1) * 2 ^ e = q * 2 ^ e + 2 ^ e := by rw [Int.add_mul, Int.one_mul]
    generalize q * 2 ^ e = m at *
    omega
  case isFalse hdown =>
    generalize q * 2 ^ e = m at *
    omega

/-- What the random bits add before the floor is taken (R52). -/
def srAddend (u e : Nat) : Int := if 16 ≤ e then u * 2 ^ (e - 16) else (u / 2 ^ (16 - e) : Nat)

theorem roundSr_pos (u : Nat) (v : Int) {e : Nat} (h : 0 < e) : roundSr u v e = (v + srAddend u e) / 2 ^ e := by
  have hd : ¬ (e : Int) ≤ 0 := by omega
  rw [roundSr, if_neg hd, srAddend]
  dsimp only [Int.toNat_natCast]
  split <;> rfl

/-- 16 random bits add less than one multiple. -/
theorem srAddend_bounds {u : Nat} (hu : u < 65536) (e : Nat) : 0 ≤ srAddend u e ∧ srAddend u e < 2 ^ e := by
  rw [srAddend]
  split
  case isTrue he =>
    have hsum : (2 : Int) ^ (16 + (e - 16)) = 2 ^ 16 * 2 ^ (e - 16) := Int.pow_add 2 16 (e - 16)
    rw [Nat.add_sub_cancel' he] at hsum
    have hpos := two_pow_pos_int (e - 16)
    rw [hsum]
    exact ⟨Int.mul_nonneg (Int.natCast_nonneg u) (Int.le_of_lt hpos), Int.mul_lt_mul_of_pos_right (Int.ofNat_lt.mpr hu) hpos⟩
  case isFalse he =>
    have hsum : 2 ^ (16 - e + e) = 2 ^ (16 - e) * 2 ^ e := Nat.pow_add 2 (16 - e) e
    rw [Nat.sub_add_cancel (by omega)] at hsum
    have hlt : u / 2 ^ (16 - e) < 2 ^ e := Nat.div_lt_of_lt_mul (hsum ▸ hu)
    exact ⟨Int.natCast_nonneg _, Int.natCast_pow 2 e ▸ Int.ofNat_lt.mpr hlt⟩

/-- Stochastic rounding gives the multiple below or the one above. -/
theorem roundSr_neighbour {u : Nat} (hu : u < 65536) (v : Int) {e : Nat} (h : 0 < e) :
    roundSr u v e = v / 2 ^ e ∨ roundSr u v e = v / 2 ^ e + 1 := by
  obtain ⟨ha, ha'⟩ := srAddend_bounds hu e
  obtain ⟨-, hlow, hhigh⟩ := remainder_bounds v h
  have hpos := two_pow_pos_int e
  have hge : v / 2 ^ e ≤ roundSr u v e := by
    rw [roundSr_pos u v h]
    exact Int.ediv_le_ediv hpos (by omega)
  have hlt : roundSr u v e < v / 2 ^ e + 2 := by
    rw [roundSr_pos u v h, Int.ediv_lt_iff_lt_mul hpos, Int.add_mul]
    omega
  omega

/-- An exact multiple is kept. -/
theorem roundSr_exact {u : Nat} (hu : u < 65536) {v : Int} {e : Nat} (h : 0 < e) (hv : v % 2 ^ e = 0) : roundSr u v e * 2 ^ e = v := by
  obtain ⟨ha, ha'⟩ := srAddend_bounds hu e
  have hmul : v / 2 ^ e * 2 ^ e = v := Int.ediv_mul_cancel (Int.dvd_of_emod_eq_zero hv)
  rw [roundSr_pos u v h, Int.add_ediv_of_dvd_left (Int.dvd_of_emod_eq_zero hv), Int.ediv_eq_zero_of_lt ha ha', Int.add_zero, hmul]

/-- Settles O59: the two cases of the floor, the nearest multiple from the remainder's bounds, and the two neighbours from the addend's. -/
theorem roundingIsToNearestEven : Obligations.RoundingIsToNearestEven := by
  refine ⟨fun v d hd => roundNe_nonpos v hd, fun v e he => ?nearest, fun u v e hu he => ⟨roundSr_neighbour hu v he, roundSr_exact hu he⟩⟩
  refine ⟨fun hup => ?_, fun hdown => ?_, roundNe_nearest v he⟩
  · exact (roundNe_pos v he).trans (if_pos hup)
  · exact (roundNe_pos v he).trans (if_neg hdown)

end Sys2Proof.Machine
end

section
/-!
SUPPORT. The converter (spec/01_scaled_integers.md, R48 to R56): what an operation that touches its own cluster alone is made of; the elements a conversion
takes from its accumulator slot and the containers it writes; the read of the output descriptor; the channel cache; CONV and CHLD (O39).
-/

namespace Sys2Proof.Machine

/-! ## What an operation that touches its own cluster alone is made of -/

/-- A field of the register block of core k (R103). -/
def Fld.ofCore (f : Fld) (d c k : Nat) : Prop := 8 * coreBlk d c k ≤ f.key ∧ f.key < 8 * (coreBlk d c k + 0x1000)

theorem Fld.ofCore_mk {d c k o lo w rst : Nat} {acc : Acc} (ho : 8 * o + lo < 8 * 0x1000) : Fld.ofCore ⟨coreBlk d c k + o, lo, w, acc, rst⟩ d c k := by
  simp only [Fld.ofCore, Fld.key]
  omega

theorem State.setCore_core_other (s : State) {d c k e x j : Nat} (v : Core) (h : coreIx e x j ≠ coreIx d c k) :
    (s.setCore d c k v).core e x j = s.core e x j := Tab.get_set_other _ _ _ _ _ _ h

end Sys2Proof.Machine
end

section
open Sys2Proof Sys2Proof.Machine

variable {s t u : State} {d c : Nat}

theorem clusterOnly.refl (s : State) (d c : Nat) : clusterOnly s s d c :=
  ⟨fun _ _ => rfl, fun _ _ => rfl, fun _ _ _ _ _ _ _ => rfl, rfl, rfl, rfl, rfl, rfl⟩

theorem clusterOnly.trans (h : clusterOnly s t d c) (h' : clusterOnly t u d c) : clusterOnly s u d c := by
  obtain ⟨hget, hbyte, hcore, hlay, hrot, hyards, hports, hpins⟩ := h
  obtain ⟨hget', hbyte', hcore', hlay', hrot', hyards', hports', hpins'⟩ := h'
  exact ⟨fun f hf => (hget' f hf).trans (hget f hf), fun a ha => (hbyte' a ha).trans (hbyte a ha),
    fun e x k he hx hk hne => (hcore' e x k he hx hk hne).trans (hcore e x k he hx hk hne), hlay'.trans hlay, hrot'.trans hrot,
    hyards'.trans hyards, hports'.trans hports, hpins'.trans hpins⟩

theorem clusterOnly.ite {p : Prop} [Decidable p] (ht : clusterOnly s t d c) (hu : clusterOnly s u d c) : clusterOnly s (if p then t else u) d c := by
  split
  · exact ht
  · exact hu

theorem clusterOnly.foldl {α : Type} {g : State → α → State} (l : List α) (h : ∀ t x, clusterOnly t (g t x) d c) (s : State) :
    clusterOnly s (l.foldl g s) d c := by
  induction l generalizing s with
  | nil => exact .refl s d c
  | cons x l ih => exact (h s x).trans (ih (g s x))

/-- The register blocks of the cores lie in their cluster's block. -/
theorem clusterOnly.set {f : Fld} {k : Nat} (hk : k < 16) (hf : f.ofCore d c k) (s : State) (v : Nat) : clusterOnly s (s.set f v) d c := by
  obtain ⟨hlow, hhigh⟩ := hf
  refine ⟨fun g hg => State.get_set_other s f g v ?_, fun _ _ => rfl, fun _ _ _ _ _ _ _ => rfl, rfl, rfl, rfl, rfl, rfl⟩
  have hblk : coreBlk d c k = clusterBlk d c + 0x1000 * (1 + k) := rfl
  omega

theorem clusterOnly.inc {f : Fld} {k : Nat} (hk : k < 16) (hf : f.ofCore d c k) (s : State) (n : Nat) : clusterOnly s (s.inc f n) d c :=
  .set hk hf s _

theorem clusterOnly.setCore {k : Nat} (hc : c < 8) (hk : k < 16) (s : State) (v : Core) : clusterOnly s (s.setCore d c k v) d c := by
  refine ⟨fun _ _ => rfl, fun _ _ => rfl, fun e x j _ hx hj hne => State.setCore_core_other s v ?_, rfl, rfl, rfl, rfl, rfl⟩
  simp only [coreIx]
  omega

theorem clusterOnly.setMem {m : Memory} (h : ∀ a, a < dramTop → m.byte a = s.mem.byte a) : clusterOnly s { s with mem := m } d c :=
  ⟨fun _ _ => rfl, h, fun _ _ _ _ _ _ _ => rfl, rfl, rfl, rfl, rfl, rfl⟩

theorem clusterOnly.setPen (s : State) (p : Nat) (v : Pen) : clusterOnly s (s.setPen p v) d c :=
  ⟨fun _ _ => rfl, fun _ _ => rfl, fun _ _ _ _ _ _ _ => rfl, rfl, rfl, rfl, rfl, rfl⟩

theorem clusterOnly.setCtx (s : State) (e h : Nat) (v : Ctx) : clusterOnly s (s.setCtx e h v) d c :=
  ⟨fun _ _ => rfl, fun _ _ => rfl, fun _ _ _ _ _ _ _ => rfl, rfl, rfl, rfl, rfl, rfl⟩

end

section
namespace Sys2Proof.Machine

section
variable {d c : Nat}

theorem State.countPen_clusterOnly (s : State) (p : Option Nat) (n : Counts) : clusterOnly s (s.countPen p n) d c := by
  cases p with
  | none => exact .refl s d c
  | some p => exact .setPen s p _

theorem State.foldWrite_clusterOnly (s : State) (e h : Nat) (x : Desc) (l : List (Nat × Nat × List U64)) (p : Bool) :
    clusterOnly s (s.foldWrite e h x l p) d c := .ite (.refl s d c) (.setCtx s e h _)

theorem State.govBlock_clusterOnly (s : State) (e h x : Nat) (r : BlockOut) (bad : Bool) : clusterOnly s (s.govBlock e h x r bad) d c :=
  .setCtx s e h _

/-- Bytes put anywhere change the memory alone. -/
theorem State.put_mem_only (s : State) (a : Nat) (bs : List Byte) (p : Bool) : ∃ m, s.put a bs p = { s with mem := m } := by
  unfold State.put
  generalize linePieces (bs.length + 1) a bs = l
  induction l generalizing s with
  | nil => exact ⟨s.mem, rfl⟩
  | cons x l ih => exact ih _

/-- Bytes put into SRAM leave DRAM as it is. -/
theorem State.put_clusterOnly (s : State) {a : Nat} (bs : List Byte) (p : Bool) (h : dramTop ≤ a) : clusterOnly s (s.put a bs p) d c := by
  have hbyte (j : Nat) := State.put_byte s a j bs p h
  obtain ⟨m, hm⟩ := State.put_mem_only s a bs p
  rw [hm] at hbyte ⊢
  exact .setMem fun j hj => (hbyte j).trans (if_neg (by omega))

end

section
variable {d c k : Nat}

theorem State.inject_clusterOnly {f g : Fld} (hk : k < 16) (hf : f.ofCore d c k) (hg : g.ofCore d c k) (s : State) (a : Nat) :
    clusterOnly s (s.inject f g a) d c :=
  .ite (((clusterOnly.set hk hg s 0).trans (.set hk hf _ 0)).trans (.setMem fun j _ => Memory.setMark_byte s.mem a j _))
    (.ite ((clusterOnly.set hk hf s 0).trans (.setMem fun j _ => Memory.setMark_byte s.mem a j _)) (.refl s d c))

theorem State.poisonSeen_clusterOnly (hk : k < 16) (s : State) (b : Bool) : clusterOnly s (s.poisonSeen d c k b) d c :=
  .ite (.set hk (Fld.ofCore_mk (by decide)) s 1) (.refl s d c)

theorem State.stallEcc_clusterOnly (hk : k < 16) (s : State) (g : Nat) : clusterOnly s (s.stallEcc d c k g) d c := by
  have hue (t : State) := clusterOnly.inc hk (Fld.ofCore_mk (by decide)) t 1 (f := CORE_ECC.stall_ue d c k)
  have haddr (t : State) := (clusterOnly.set hk (Fld.ofCore_mk (by decide)) t (g / 8) (f := CORE_ECC_ADDR.word d c k)).trans
    (.set hk (Fld.ofCore_mk (by decide)) _ 1 (f := CORE_ECC_ADDR.valid d c k))
  refine clusterOnly.trans ?single (.ite ((hue _).trans (.ite (.refl _ d c) (haddr _))) (.refl _ d c))
  exact .ite (.inc hk (Fld.ofCore_mk (by decide)) s 1) (.refl s d c)

theorem State.stallCount_clusterOnly (hk : k < 16) (s : State) (g : Nat) : clusterOnly s (s.stallCount d c k g) d c :=
  (State.stallEcc_clusterOnly hk s g).trans (.ite (.set hk (Fld.ofCore_mk (by decide)) _ 1) (.refl _ d c))

theorem State.stallRead_clusterOnly (hk : k < 16) (s : State) (a n : Nat) : clusterOnly s (s.stallRead d c k a n) d c :=
  .ite (.refl s d c) (.foldl _ (fun t _ => State.stallCount_clusterOnly hk t _) s)

theorem State.stallWrite_clusterOnly (hk : k < 16) (s : State) (a : Nat) (bs : List Byte) (p : Bool) :
    clusterOnly s (s.stallWrite d c k a bs p) d c :=
  .ite (.refl s d c) (((clusterOnly.foldl _ (fun t g => State.stallEcc_clusterOnly hk t g) s).trans
    (State.put_clusterOnly _ bs p (stallBase_sram d c k a))).trans
      (State.inject_clusterOnly hk (Fld.ofCore_mk (by decide)) (Fld.ofCore_mk (by decide)) _ _))

theorem State.setSlot_clusterOnly (hc : c < 8) (hk : k < 16) (s : State) (code : Nat) (sl : Slot) : clusterOnly s (s.setSlot d c k code sl) d c :=
  .setCore hc hk s _

theorem State.book_clusterOnly (hc : c < 8) (hk : k < 16) (s : State) (l : List Access) : clusterOnly s (s.book d c k l) d c :=
  .setCore hc hk s _

theorem State.accParity_clusterOnly (hc : c < 8) (hk : k < 16) (s : State) (code lo n : Nat) : clusterOnly s (s.accParity d c k code lo n) d c :=
  .ite (.refl s d c) ((State.setSlot_clusterOnly hc hk s code _).trans (.inc hk (Fld.ofCore_mk (by decide)) _ _))

end

/-! ## The elements a conversion takes from its slot (R41, R48) -/

/-- One more element of the tile is accepted, after those before it. -/
theorem State.convTakes_succ (s : State) (m : ConvJob) (t rate n : Nat) :
    s.convTakes m t rate 0 (n + 1) =
      (((s.convTakes m t rate 0 n).1.convTake m (n / m.r.cols) (n % m.r.cols) (t + n / rate)).1,
        (s.convTakes m t rate 0 n).2 ++ [((s.convTakes m t rate 0 n).1.convTake m (n / m.r.cols) (n % m.r.cols) (t + n / rate)).2]) := by
  simp only [State.convTakes, Nat.sub_zero, List.range_succ, List.foldl_append, List.foldl_cons, List.foldl_nil, List.reverse_cons, Nat.zero_add]

/-- The slot a conversion reads. -/
def State.convSource (s : State) (m : ConvJob) : Slot := s.slotAt m.d m.c m.k m.r.src

/-- A conversion would take the same values and channel entries from both states. -/
def sameSource (m : ConvJob) (s t : State) : Prop :=
  (t.convSource m).tag = (s.convSource m).tag ∧ (∀ key, ((t.convSource m).at key).val = ((s.convSource m).at key).val) ∧
    ∀ j, t.chan m.d m.c m.k j = s.chan m.d m.c m.k j

theorem sameSource.refl (m : ConvJob) (s : State) : sameSource m s s := ⟨rfl, fun _ => rfl, fun _ => rfl⟩

theorem sameSource.trans {m : ConvJob} {s t u : State} (h : sameSource m s t) (h' : sameSource m t u) : sameSource m s u := by
  obtain ⟨htag, hval, hchan⟩ := h
  obtain ⟨htag', hval', hchan'⟩ := h'
  exact ⟨htag'.trans htag, fun key => (hval' key).trans (hval key), fun j => (hchan' j).trans (hchan j)⟩

theorem State.setSlot_slotAt (s : State) (d c k code : Nat) (sl : Slot) : (s.setSlot d c k code sl).slotAt d c k code = sl := by
  simp only [State.setSlot, State.slotAt, State.setCore_core, Tab.get_set_self]

theorem State.setSlot_chan (s : State) (d c k code j : Nat) (sl : Slot) : (s.setSlot d c k code sl).chan d c k j = s.chan d c k j := by
  simp only [State.setSlot, State.chan, State.setCore_core]

/-- A slot with the tag and the values of the one it replaces. -/
theorem sameSource_setSlot {m : ConvJob} {s : State} {sl : Slot} (htag : sl.tag = (s.convSource m).tag)
    (hval : ∀ key, (sl.at key).val = ((s.convSource m).at key).val) : sameSource m s (s.setSlot m.d m.c m.k m.r.src sl) := by
  have hself : (s.setSlot m.d m.c m.k m.r.src sl).convSource m = sl := State.setSlot_slotAt ..
  rw [sameSource, hself]
  exact ⟨htag, hval, fun j => State.setSlot_chan ..⟩

/-- A change of the elements that keeps keys and values shows in no value read. -/
theorem Tab.get_map_val (l : Tab AccElem) {g : Nat × AccElem → Nat × AccElem} (hkey : ∀ e, (g e).1 = e.1) (hval : ∀ e, (g e).2.val = e.2.val) (key : Nat) :
    (Tab.get AccElem.zero (l.map g) key).val = (Tab.get AccElem.zero l key).val := by
  induction l with
  | nil => rfl
  | cons e l ih =>
    simp only [List.map_cons, Tab.get, hkey]
    split
    · exact hval e
    · exact ih

theorem sameSource_of_core {m : ConvJob} {s t : State} (h : t.core m.d m.c m.k = s.core m.d m.c m.k) : sameSource m s t := by
  simp only [sameSource, State.convSource, State.slotAt, State.chan, h, implies_true, and_self]

/-- What a parity check finds poisons elements, and changes no value (R102). -/
theorem sameSource_accParity (m : ConvJob) (s : State) (lo n : Nat) : sameSource m s (s.accParity m.d m.c m.k m.r.src lo n) := by
  rw [State.accParity]
  dsimp only
  split
  · exact .refl m s
  · refine sameSource.trans ?_ (sameSource_of_core (State.set_core _ _ _ _ _ _))
    refine sameSource_setSlot rfl fun key => ?_
    refine Tab.get_map_val _ (fun e => ?_) (fun e => ?_) key <;> split <;> rfl

theorem Slot.at_put_val {sl : Slot} {key : Nat} {e : AccElem} (he : e.val = (sl.at key).val) (x : Nat) : ((sl.put key e).at x).val = (sl.at x).val := by
  rw [Slot.at, Slot.put, Tab.get_set]
  split
  · next hx => rw [hx, he]
  · rfl

theorem State.countPen_core (s : State) (p : Option Nat) (n : Counts) (d c k : Nat) : (s.countPen p n).core d c k = s.core d c k := by
  cases p <;> rfl

/-- An element is marked as saturated. -/
theorem sameSource_markSat (m : ConvJob) (s : State) (key : Nat) :
    sameSource m s (s.setSlot m.d m.c m.k m.r.src ((s.convSource m).put key { (s.convSource m).at key with sat := true })) :=
  sameSource_setSlot rfl fun x => Slot.at_put_val (e := { (s.convSource m).at key with sat := true }) rfl x

/-- Taking an element sets flags of it and counts, and changes no value (R41, R102). -/
theorem sameSource_convTake (m : ConvJob) (s : State) (i j cyc : Nat) : sameSource m s (s.convTake m i j cyc).1 := by
  rw [State.convTake]
  dsimp only
  split
  · exact sameSource_accParity m s _ _
  · exact ((sameSource_accParity m s _ _).trans (sameSource_markSat m _ _)).trans (sameSource_of_core (State.countPen_core _ _ _ _ _ _))

/-- What the converter computes with of an element: its place, its value, its channel entry. -/
def ConvElem.shown (e : ConvElem) : Nat × Nat × Int × Channel := (e.i, e.j, e.v, e.ch)

/-- What it sees of element number x of its tile in row order: the visible value (R41). -/
def State.convShown (s : State) (m : ConvJob) (x : Nat) : Nat × Nat × Int × Channel :=
  let f := (s.convSource m).tag.getD .a48
  (x / m.r.cols, x % m.r.cols, visible f.accW ((s.convSource m).at (accKey f (halfOf m.r.src) (x / m.r.cols) (x % m.r.cols))).val,
    s.chan m.d m.c m.k (x % m.r.cols))

theorem State.convShown_congr {m : ConvJob} {s t : State} (h : sameSource m s t) (x : Nat) : t.convShown m x = s.convShown m x := by
  obtain ⟨htag, hval, hchan⟩ := h
  simp only [State.convShown, htag, hval, hchan]

theorem State.convTake_shown (s : State) (m : ConvJob) (x cyc : Nat) :
    (s.convTake m (x / m.r.cols) (x % m.r.cols) cyc).2.shown = s.convShown m x := by
  obtain ⟨-, hval, -⟩ := sameSource_accParity m s (accKey ((s.convSource m).tag.getD .a48) (halfOf m.r.src) (x / m.r.cols) (x % m.r.cols)) 1
  simp only [State.convTake, ConvElem.shown, State.convShown]
  rw [← hval]
  rfl

/-- The elements of the tile in row order, each as it stood at the start. -/
theorem State.convTakes_shown (s : State) (m : ConvJob) (t rate n : Nat) :
    sameSource m s (s.convTakes m t rate 0 n).1 ∧ (s.convTakes m t rate 0 n).2.map ConvElem.shown = (List.range n).map (s.convShown m) := by
  induction n with
  | zero => exact ⟨.refl m s, rfl⟩
  | succ n ih =>
    obtain ⟨hsame, hshown⟩ := ih
    rw [State.convTakes_succ]
    refine ⟨hsame.trans (sameSource_convTake m _ (n / m.r.cols) (n % m.r.cols) (t + n / rate)), ?_⟩
    rw [List.map_append, hshown, List.range_succ, List.map_append, List.map_singleton, List.map_singleton, State.convTake_shown,
      State.convShown_congr hsame]

/-! ## The conversion touches its own cluster alone -/

section
variable {m : ConvJob}

theorem State.convTake_clusterOnly (hc : m.c < 8) (hk : m.k < 16) (s : State) (i j cyc : Nat) : clusterOnly s (s.convTake m i j cyc).1 m.d m.c := by
  rw [State.convTake]
  dsimp only
  have hparity := State.accParity_clusterOnly hc hk s m.r.src (accKey ((s.slotAt m.d m.c m.k m.r.src).tag.getD .a48) (halfOf m.r.src) i j) 1 (d := m.d)
  exact .ite hparity ((hparity.trans (State.setSlot_clusterOnly hc hk _ _ _)).trans (State.countPen_clusterOnly _ _ _))

theorem State.convTakes_clusterOnly (hc : m.c < 8) (hk : m.k < 16) (s : State) (t rate n : Nat) :
    clusterOnly s (s.convTakes m t rate 0 n).1 m.d m.c := by
  induction n with
  | zero => exact .refl s m.d m.c
  | succ n ih =>
    rw [State.convTakes_succ]
    exact ih.trans (State.convTake_clusterOnly hc hk _ (n / m.r.cols) (n % m.r.cols) (t + n / rate))

theorem State.convAcc_clusterOnly (hk : m.k < 16) (s : State) (e : ConvElem) : clusterOnly s (s.convAcc m e) m.d m.c :=
  ((State.stallWrite_clusterOnly hk s _ _ _).trans (State.countPen_clusterOnly _ _ _)).trans (State.foldWrite_clusterOnly _ _ _ _ _ _)

theorem State.convBlock_clusterOnly (hk : m.k < 16) (s : State) (i q : Nat) (es : List ConvElem) : clusterOnly s (s.convBlock m i q es) m.d m.c :=
  ((((State.stallWrite_clusterOnly hk s _ _ _).trans (State.stallWrite_clusterOnly hk _ _ _ _)).trans (State.countPen_clusterOnly _ _ _)).trans
    (State.govBlock_clusterOnly _ _ _ _ _ _)).trans (State.foldWrite_clusterOnly _ _ _ _ _ _)

theorem State.convertElems_clusterOnly (hc : m.c < 8) (hk : m.k < 16) (s : State) (es : List ConvElem) (last : Nat) :
    clusterOnly s (s.convertElems m es last) m.d m.c := by
  rw [State.convertElems]
  refine ((State.poisonSeen_clusterOnly hk s _).trans (.foldl _ (fun t b => ?_) _)).trans
    ((clusterOnly.setCore hc hk _ _).trans (State.book_clusterOnly hc hk _ _))
  exact .ite (State.convBlock_clusterOnly hk t _ _ _) (.foldl _ (fun t e => State.convAcc_clusterOnly hk t e) t)

theorem State.convSlot_clusterOnly {d c k : Nat} (hc : c < 8) (hk : k < 16) (s : State) (r : ConvRud) : clusterOnly s (s.convSlot d c k r) d c :=
  (State.convTakes_clusterOnly (m := s.convJob d c k r) hc hk s _ _ _).trans (State.convertElems_clusterOnly (m := s.convJob d c k r) hc hk _ _ _)

end

/-! ## The containers an A-format output is written as (R56) -/

theorem leBytes_length (n v : Nat) : (leBytes n v).length = n := by
  induction n generalizing v with
  | zero => rfl
  | succ n ih => rw [leBytes, List.length_cons, ih]

theorem State.foldWrite_mem (s : State) (d h : Nat) (t : Desc) (l : List (Nat × Nat × List U64)) (p : Bool) : (s.foldWrite d h t l p).mem = s.mem := by
  rw [State.foldWrite]
  split <;> rfl

theorem State.countPen_mem (s : State) (p : Option Nat) (n : Counts) : (s.countPen p n).mem = s.mem := by
  cases p <;> rfl

/-- Where the container of tile element (i, j) lies. -/
def ConvJob.containerAt (m : ConvJob) (i j : Nat) : Nat := stallBase m.d m.c m.k + m.place i j

/-- The bytes of a container: the value that stages 1 to 3 make, extended (R56). -/
def ConvJob.containerBytes (m : ConvJob) (v : Int) (ch : Channel) : List Byte :=
  let f := m.desc.format
  leBytes (f.bits / 8) (uns f.bits (extended f.accW (stage123 ch m.r.eb (convClip m.r) v)))

theorem State.convAcc_byte (s : State) (m : ConvJob) (e : ConvElem) (a : Nat) :
    (s.convAcc m e).mem.byte a =
      if m.containerAt e.i e.j ≤ a ∧ a < m.containerAt e.i e.j + m.desc.format.bits / 8 then
        (m.containerBytes e.v e.ch).getD (a - m.containerAt e.i e.j) 0
      else s.mem.byte a := by
  rw [State.convAcc, State.foldWrite_mem, State.countPen_mem, State.stallWrite_byte, leBytes_length]
  rfl

/-- A byte that some container of a list holds, and to which every container of it gives the same value, has that value. -/
theorem State.foldl_convAcc_byte {m : ConvJob} {a : Nat} {b : Byte} (l : List ConvElem)
    (hsame : ∀ e ∈ l, m.containerAt e.i e.j ≤ a → a < m.containerAt e.i e.j + m.desc.format.bits / 8 →
      (m.containerBytes e.v e.ch).getD (a - m.containerAt e.i e.j) 0 = b) (s : State)
    (hsome : s.mem.byte a = b ∨ ∃ e ∈ l, m.containerAt e.i e.j ≤ a ∧ a < m.containerAt e.i e.j + m.desc.format.bits / 8) :
    (l.foldl (fun t e => t.convAcc m e) s).mem.byte a = b := by
  induction l generalizing s with
  | nil => exact hsome.resolve_right (by simp)
  | cons e l ih =>
    refine ih (fun e' he' => hsame e' (List.mem_cons_of_mem e he')) _ ?_
    rw [State.convAcc_byte]
    by_cases hin : m.containerAt e.i e.j ≤ a ∧ a < m.containerAt e.i e.j + m.desc.format.bits / 8
    · rw [if_pos hin]
      exact .inl (hsame e List.mem_cons_self hin.1 hin.2)
    · rw [if_neg hin]
      refine hsome.imp_right fun ⟨e', he', hin'⟩ => ⟨e', ?_, hin'⟩
      exact (List.mem_cons.mp he').resolve_left fun heq => hin (heq ▸ hin')

/-- The elements that the blocks of a tile hold, in the order they are written. -/
def ConvJob.written (m : ConvJob) (es : List ConvElem) : List ConvElem := (m.blocks es).flatMap (·.2.2)

theorem ConvJob.mem_written_iff (m : ConvJob) (es : List ConvElem) (e : ConvElem) :
    e ∈ m.written es ↔ ∃ i < m.r.rows, ∃ q < ceilDiv m.r.cols m.desc.format.len,
      let b := (es.filter fun e => e.i == i).filter fun e => e.j / m.desc.format.len == q && decide (e.j < m.r.cols)
      b.length = min m.desc.format.len (m.r.cols - q * m.desc.format.len) ∧ e ∈ b := by
  simp only [ConvJob.written, ConvJob.blocks, List.mem_flatMap, List.mem_filterMap, List.mem_range]
  constructor
  · rintro ⟨b, ⟨i, hi, q, hq, hb⟩, he⟩
    split at hb
    · next hlen =>
      obtain rfl := Option.some.inj hb
      exact ⟨i, hi, q, hq, hlen, he⟩
    · exact absurd hb (Option.some_ne_none b).symm
  · rintro ⟨i, hi, q, hq, hlen, he⟩
    exact ⟨_, ⟨i, hi, q, hq, if_pos hlen⟩, he⟩

theorem ConvJob.of_mem_written {m : ConvJob} {es : List ConvElem} {e : ConvElem} (h : e ∈ m.written es) : e ∈ es ∧ e.j < m.r.cols := by
  obtain ⟨i, -, q, -, -, he⟩ := (m.mem_written_iff es e).mp h
  obtain ⟨hrow, hblock⟩ := List.mem_filter.mp he
  exact ⟨(List.mem_filter.mp hrow).1, by simpa using (Bool.and_eq_true_iff.mp hblock).2⟩

/-- In a tile given in row order, one element stands at each place. -/
theorem countP_place {rows cols i j : Nat} (hi : i < rows) (hj : j < cols) :
    (List.range (rows * cols)).countP (fun x => x / cols == i && x % cols == j) = 1 := by
  have hplace : ∀ x ∈ List.range (rows * cols), ((x / cols == i && x % cols == j) = true ↔ (x == i * cols + j) = true) := by
    intro x _
    simp only [Bool.and_eq_true, beq_iff_eq]
    constructor
    · rintro ⟨rfl, rfl⟩
      exact (Nat.div_add_mod' x cols).symm
    · rintro rfl
      rw [Nat.mul_comm, Nat.mul_add_div (by omega), Nat.div_eq_of_lt hj, Nat.mul_add_mod, Nat.mod_eq_of_lt hj]
      exact ⟨rfl, rfl⟩
  have hmem : i * cols + j < rows * cols :=
    calc i * cols + j < (i + 1) * cols := by rw [Nat.succ_mul]; omega
      _ ≤ rows * cols := Nat.mul_le_mul_right cols hi
  rw [List.countP_congr hplace]
  exact List.nodup_range.count.trans (if_pos (List.mem_range.mpr hmem))

/-- A container is a block of its own: every element of a tile given in row order is written. -/
theorem ConvJob.exists_mem_written {m : ConvJob} {es : List ConvElem} (hlen : m.desc.format.len = 1)
    (hes : es.map (fun e => (e.i, e.j)) = (List.range (m.r.rows * m.r.cols)).map fun x => (x / m.r.cols, x % m.r.cols)) {i j : Nat}
    (hi : i < m.r.rows) (hj : j < m.r.cols) : ∃ e ∈ m.written es, e.i = i ∧ e.j = j := by
  have hone : (es.filter fun e => e.i == i && e.j == j).length = 1 := by
    have hmap := congrArg (List.countP fun p : Nat × Nat => p.1 == i && p.2 == j) hes
    rw [List.countP_map, List.countP_map] at hmap
    rw [← List.countP_eq_length_filter]
    exact hmap.trans (countP_place hi hj)
  have hblock : (es.filter fun e => e.i == i).filter (fun e => e.j / m.desc.format.len == j && decide (e.j < m.r.cols)) =
      es.filter fun e => e.i == i && e.j == j := by
    rw [List.filter_filter, hlen]
    refine List.filter_congr fun e _ => ?_
    by_cases hej : e.j = j
    · simp [hej, hj]
    · simp [beq_eq_false_iff_ne.mpr hej]
  obtain ⟨e, he⟩ := List.length_eq_one_iff.mp hone
  have hmem : e ∈ es.filter fun e => e.i == i && e.j == j := he ▸ List.mem_singleton_self e
  refine ⟨e, (m.mem_written_iff es e).mpr ⟨i, hi, j, ?_, ?_, hblock ▸ hmem⟩, by simpa using (List.mem_filter.mp hmem).2⟩
  · rw [hlen, ceilDiv]
    omega
  · rw [hblock, hone, hlen]
    omega

theorem State.convertElems_mem {m : ConvJob} (hf : m.desc.format.block = false) (s : State) (es : List ConvElem) (last : Nat) :
    (s.convertElems m es last).mem = ((m.written es).foldl (fun t e => t.convAcc m e) (s.poisonSeen m.d m.c m.k (es.any (·.poison)))).mem := by
  rw [ConvJob.written, List.foldl_flatMap, State.convertElems]
  simp only [hf, Bool.false_eq_true, if_false, State.book_mem, State.setCore_mem]

theorem Fmt.len_of_not_block {f : Fmt} (h : f.block = false) : f.len = 1 := by
  revert h
  cases f <;> decide

/-- Cells of w bytes that share a byte are one. -/
theorem eq_of_shared_cell {p q w n : Nat} (hn : n < w) (hle : p * w ≤ q * w + n) (hlt : q * w + n < p * w + w) : p = q := by
  rcases Nat.lt_trichotomy p q with h | h | h
  · have hmul : (p + 1) * w ≤ q * w := Nat.mul_le_mul_right w h
    rw [Nat.succ_mul] at hmul
    omega
  · exact h
  · have hmul : (q + 1) * w ≤ p * w := Nat.mul_le_mul_right w h
    rw [Nat.succ_mul] at hmul
    omega

theorem ConvJob.containerAt_eq {m : ConvJob} (hf : m.desc.format.block = false) (i j : Nat) :
    m.containerAt i j = stallBase m.d m.c m.k + m.dest + (i * m.r.cols + j) * (m.desc.format.bits / 8) := by
  simp only [ConvJob.containerAt, ConvJob.place, hf, Bool.false_eq_true, if_false, Nat.add_assoc]

/-- Containers of two places share no byte. -/
theorem ConvJob.eq_of_shared_container {m : ConvJob} (hf : m.desc.format.block = false) {i j i' j' n : Nat} (hj : j < m.r.cols) (hj' : j' < m.r.cols)
    (hn : n < m.desc.format.bits / 8) (hle : m.containerAt i' j' ≤ m.containerAt i j + n)
    (hlt : m.containerAt i j + n < m.containerAt i' j' + m.desc.format.bits / 8) : i' = i ∧ j' = j := by
  rw [ConvJob.containerAt_eq hf, ConvJob.containerAt_eq hf] at hle hlt
  have hcell : i' * m.r.cols + j' = i * m.r.cols + j := eq_of_shared_cell hn (by omega) (by omega)
  have hrow : i' = i := eq_of_shared_cell hj (by omega) (by omega)
  subst hrow
  exact ⟨rfl, Nat.add_left_cancel hcell⟩

/-- Elements given in row order are written to an A format as their containers, each in its place (R56). -/
theorem State.convertElems_byte {m : ConvJob} (hf : m.desc.format.block = false) (s : State) {es : List ConvElem} (last : Nat) {v : Nat → Nat → Int}
    {ch : Nat → Channel} (hes : es.map ConvElem.shown = (List.range (m.r.rows * m.r.cols)).map fun x =>
      (x / m.r.cols, x % m.r.cols, v (x / m.r.cols) (x % m.r.cols), ch (x % m.r.cols))) {i j n : Nat} (hi : i < m.r.rows) (hj : j < m.r.cols)
    (hn : n < m.desc.format.bits / 8) :
    (s.convertElems m es last).mem.byte (m.containerAt i j + n) = (m.containerBytes (v i j) (ch j)).getD n 0 := by
  have hplaces : es.map (fun e => (e.i, e.j)) = (List.range (m.r.rows * m.r.cols)).map fun x => (x / m.r.cols, x % m.r.cols) := by
    have h := congrArg (List.map fun y : Nat × Nat × Int × Channel => (y.1, y.2.1)) hes
    rwa [List.map_map, List.map_map] at h
  rw [State.convertElems_mem hf]
  refine State.foldl_convAcc_byte _ (fun e he hle hlt => ?same) _ (.inr ?some)
  case same =>
    obtain ⟨hmem, hcol⟩ := ConvJob.of_mem_written he
    obtain ⟨x, -, hx⟩ := List.mem_map.mp (hes ▸ List.mem_map_of_mem (f := ConvElem.shown) hmem)
    simp only [ConvElem.shown, Prod.mk.injEq] at hx
    obtain ⟨hxi, hxj, hv, hch⟩ := hx
    obtain ⟨hei, hej⟩ := ConvJob.eq_of_shared_container hf hj hcol hn hle hlt
    rw [← hv, ← hch, hxi, hxj, hei, hej, Nat.add_sub_cancel_left]
  case some =>
    obtain ⟨e, he, rfl, rfl⟩ := ConvJob.exists_mem_written (Fmt.len_of_not_block hf) hplaces hi hj
    exact ⟨e, he, Nat.le_add_right _ _, Nat.add_lt_add_left hn _⟩

/-- A conversion of a slot to an A format writes of every element what its visible value gives (R41, R56). -/
theorem State.convSlot_byte (s : State) {d c k : Nat} {r : ConvRud} (hf : (s.convJob d c k r).desc.format.block = false) {i j n : Nat}
    (hi : i < r.rows) (hj : j < r.cols) (hn : n < (s.convJob d c k r).desc.format.bits / 8) :
    let f := (s.slotAt d c k r.src).tag.getD .a48
    (s.convSlot d c k r).mem.byte ((s.convJob d c k r).containerAt i j + n) =
      ((s.convJob d c k r).containerBytes (visible f.accW ((s.slotAt d c k r.src).at (accKey f (halfOf r.src) i j)).val) (s.chan d c k j)).getD n 0 := by
  intro f
  obtain ⟨-, hshown⟩ := s.convTakes_shown (s.convJob d c k r) (s.cycOf d c) (s.convSlotRate (s.convJob d c k r)) (r.rows * r.cols)
  exact State.convertElems_byte (v := fun i j => visible f.accW ((s.slotAt d c k r.src).at (accKey f (halfOf r.src) i j)).val)
    (ch := s.chan d c k) hf _ _ hshown hi hj hn

/-! ## The read of the output descriptor (R119) -/

theorem State.read_sram {s t : State} {a : Nat} (hmem : t.mem = s.mem) (ha : dramTop ≤ a) (n : Nat) : t.read a n = s.read a n := by
  refine List.map_congr_left fun i _ => ?_
  rw [State.loc_sram t _ (by omega), State.loc_sram s _ (by omega), hmem]

theorem dramTop_le_of_mem_granules {a n g : Nat} (ha : dramTop ≤ a) (hg : g ∈ granules a n) : dramTop ≤ g := by
  have h8 : granule a = 8 := if_neg (by omega)
  rw [granules, h8] at hg
  split at hg
  · exact absurd hg List.not_mem_nil
  · obtain ⟨i, -, rfl⟩ := List.mem_map.mp hg
    rw [dramTop] at *
    omega

theorem State.readBad_sram {s t : State} {a : Nat} (hmem : t.mem = s.mem) (ha : dramTop ≤ a) (n : Nat) : t.readBad a n = s.readBad a n := by
  rw [State.readBad, State.readBad, Bool.eq_iff_iff, List.any_eq_true, List.any_eq_true]
  refine exists_congr fun g => and_congr_right fun hg => ?_
  have hsram := dramTop_le_of_mem_granules ha hg
  rw [State.loc_sram t g hsram, State.loc_sram s g hsram, hmem]

theorem State.cores_of_units {s t : State} (h : t.units = s.units) : t.cores = s.cores := congrArg (·.1.1) h

theorem State.ctxs_of_units {s t : State} (h : t.units = s.units) : t.ctxs = s.ctxs := congrArg (·.1.2.2.1) h

theorem State.storeCount_units (s : State) (d h g : Nat) : (s.storeCount d h g).units = s.units := by
  rw [State.storeCount]
  dsimp only
  repeat' split
  all_goals simp only [State.inc_units, State.set_units]

theorem State.storeCount_mem (s : State) (d h g : Nat) : (s.storeCount d h g).mem = s.mem := by
  rw [State.storeCount]
  dsimp only
  repeat' split
  all_goals simp only [State.inc_mem, State.set_mem]

/-- A field of the register that counts a context's cadence-store errors (R166). -/
def Fld.ofStoreEcc (f : Fld) (d h : Nat) : Prop := 8 * (ctxBlk d h + 0x30) ≤ f.key ∧ f.key < 8 * (ctxBlk d h + 0x38)

theorem State.storeCount_get (s : State) (d h g : Nat) {f : Fld} (hf : ¬ f.ofStoreEcc d h) : (s.storeCount d h g).get f = s.get f := by
  have hother {x : Fld} (hx : x.ofStoreEcc d h) (t : State) (v : Nat) : (t.set x v).get f = t.get f :=
    State.get_set_other t x f v fun hkey => hf (by simpa only [Fld.ofStoreEcc, hkey] using hx)
  have hce := hother (x := SEQ_STORE_ECC.ce d h) (by simp only [Fld.ofStoreEcc, Fld.key]; omega)
  have hue := hother (x := SEQ_STORE_ECC.ue d h) (by simp only [Fld.ofStoreEcc, Fld.key]; omega)
  have hunit := hother (x := SEQ_STORE_ECC.ue_unit d h) (by simp only [Fld.ofStoreEcc, Fld.key]; omega)
  have hvalid := hother (x := SEQ_STORE_ECC.valid d h) (by simp only [Fld.ofStoreEcc, Fld.key]; omega)
  rw [State.storeCount]
  dsimp only
  repeat' split
  all_goals simp only [State.inc, hce, hue, hunit, hvalid]

theorem State.storeRead_units (s : State) (d h a n : Nat) : (s.storeRead d h a n).units = s.units := by
  rw [State.storeRead]
  split
  · rfl
  · exact foldl_units _ (fun t _ => State.storeCount_units t _ _ _) s

theorem State.storeRead_mem (s : State) (d h a n : Nat) : (s.storeRead d h a n).mem = s.mem := by
  rw [State.storeRead]
  split
  · rfl
  · exact foldl_mem _ (fun t _ => State.storeCount_mem t _ _ _) s

theorem State.storeRead_get (s : State) (d h a n : Nat) {f : Fld} (hf : ¬ f.ofStoreEcc d h) : (s.storeRead d h a n).get f = s.get f := by
  rw [State.storeRead]
  split
  · rfl
  · exact foldl_get _ f (fun t _ _ => State.storeCount_get t _ _ _ hf) s

section
variable (s : State) (d c : Nat) (r : ConvRud)

theorem State.ctxOfCluster_lt (s : State) (d c : Nat) : s.ctxOfCluster d c < 2 := by
  rw [State.ctxOfCluster]
  split <;> omega

theorem State.descRead_units : (s.descRead d c r).units = s.units := by
  rw [State.descRead, State.storeRead_units]

theorem State.descRead_mem : (s.descRead d c r).mem = s.mem := by
  rw [State.descRead, State.storeRead_mem]

theorem State.descRead_cores : (s.descRead d c r).cores = s.cores := State.cores_of_units (s.descRead_units d c r)

theorem State.descRead_ctxs : (s.descRead d c r).ctxs = s.ctxs := State.ctxs_of_units (s.descRead_units d c r)

/-- The read counts in the error register of the cluster's context, and changes no other. -/
theorem State.descRead_get {f : Fld} (hf : ¬ f.ofStoreEcc d (s.hOf d c)) : (s.descRead d c r).get f = s.get f := by
  rw [State.descRead, State.storeRead_get s _ _ _ _ hf]

theorem State.descRead_split : (s.descRead d c r).split d = s.split d := by
  have hh := s.ctxOfCluster_lt d c
  rw [State.split, State.split, State.flag, State.flag, State.descRead_get]
  simp only [Fld.ofStoreEcc, Fld.key, ctxBlk, seqDieBlk, State.hOf]
  omega

theorem State.descRead_hOf : (s.descRead d c r).hOf d c = s.hOf d c := by
  rw [State.hOf, State.hOf, State.ctxOfCluster, State.ctxOfCluster, State.descRead_split]

theorem State.descRead_physCtr (h x : Nat) : (s.descRead d c r).physCtr d h x = s.physCtr d h x := by
  rw [State.physCtr, State.physCtr, State.descRead_split]

theorem State.descRead_ctr (h x : Nat) : (s.descRead d c r).ctr d h x = s.ctr d h x := by
  have hown := s.ctxOfCluster_lt d c
  have hphys : s.physCtr d h x < 16 := by
    rw [State.physCtr]
    split <;> omega
  rw [State.ctr, State.ctr, State.descRead_physCtr, State.flag, State.flag, State.descRead_get, State.descRead_get]
  all_goals
    simp only [Fld.ofStoreEcc, Fld.key, ctxBlk, State.hOf]
    omega

theorem State.descRead_terms (h : Nat) (l : List AgTerm) : (s.descRead d c r).terms d h l = s.terms d h l := by
  simp only [State.terms, State.descRead_ctr s d c r h _]

theorem State.descRead_stallAddr (h k : Nat) (g : AG) : (s.descRead d c r).stallAddr d h k g = s.stallAddr d h k g := by
  simp only [State.stallAddr, State.agAddr, State.descRead_terms s d c r h]

theorem State.descRead_idx (h k : Nat) (g : IdxGen) : (s.descRead d c r).idx d h k g = s.idx d h k g := by
  simp only [State.idx, State.descRead_terms s d c r h]

theorem State.regionAt_sram (h : Nat) : dramTop ≤ s.regionAt d h := by
  rw [State.regionAt]
  simp only [storeBase, apertureBase, dramTop]
  omega

theorem State.descPlace_sram (h x : Nat) : dramTop ≤ s.descPlace d h x := by
  have hregion := s.regionAt_sram d h
  rw [State.descPlace]
  omega

theorem State.descRead_ctxDesc (h x : Nat) : (s.descRead d c r).ctxDesc d h x = s.ctxDesc d h x := by
  have hown := s.ctxOfCluster_lt d c
  have hregion : (s.descRead d c r).regionAt d h = s.regionAt d h := by
    rw [State.regionAt, State.regionAt, State.descRead_get]
    simp only [Fld.ofStoreEcc, Fld.key, ctxBlk, State.hOf]
    omega
  have hplace : (s.descRead d c r).descPlace d h x = s.descPlace d h x := by
    have hsram := s.regionAt_sram d h
    rw [State.descPlace, State.descPlace, State.hdr, State.hdr, State.readNat, State.readNat, hregion,
      State.read_sram (s.descRead_mem d c r) (by omega)]
  rw [State.ctxDesc, State.ctxDesc, hplace, State.read_sram (s.descRead_mem d c r) (s.descPlace_sram d h x)]

/-- The conversion is the same before and after the read. -/
theorem State.descRead_convJob (k : Nat) : (s.descRead d c r).convJob d c k r = s.convJob d c k r := by
  simp only [State.convJob, State.descRead_hOf, State.descRead_ctxDesc s d c r _ _, State.descRead_idx s d c r _ _,
    State.descRead_stallAddr s d c r _ _]

end

/-! ## CONV (R48) -/

/-- The fault of a conversion of what a vector operation hands over, with none in its beat (R139). -/
theorem State.convFault_lanes (s : State) (d c k : Nat) {r : ConvRud} (h : r.src = 15) : s.convFault d c k r false = 0x30 := by
  rw [State.convFault, h]
  rfl

/-- A slot that may be used with its own format may be read (R75). -/
theorem Slot.readBad_of_takes {sl : Slot} {f : Fmt} {half : Nat} (htag : sl.tag = some f) (htakes : slotTakes sl f half) : sl.readBad half = false := by
  obtain ⟨-, hhalf⟩ := htakes
  rw [Slot.readBad, htag]
  rcases hhalf with rfl | ⟨h48, h192⟩
  · rfl
  · simp [beq_eq_false_iff_ne.mpr h48, beq_eq_false_iff_ne.mpr h192]

/-- A conversion of a slot of its format, a tile that fits it, a descriptor in sound words and a free converter raise nothing. -/
theorem State.convFault_eq_zero {s : State} {d c k : Nat} {r : ConvRud} {f : Fmt} (hsrc : r.src < 12) (htag : (s.slotAt d c k r.src).tag = some f)
    (htakes : slotTakes (s.slotAt d c k r.src) f (halfOf r.src)) (hrows : r.rows ≤ f.accEdge) (hcols : r.cols ≤ f.accEdge)
    (hdesc : s.descBad d (s.hOf d c) r.desc = false) (hfree : (s.core d c k).cBusy ≤ s.cycOf d c) : s.convFault d c k r false = 0 := by
  have h15 : (r.src == 15) = false := beq_eq_false_iff_ne.mpr (by omega)
  have h12 : ¬ 12 ≤ r.src := by omega
  simp only [State.convFault, h15, h12, hdesc, Slot.readBad_of_takes htag htakes, htag, Option.getD_some, Nat.not_lt.mpr hrows, Nat.not_lt.mpr hcols,
    Nat.not_lt.mpr hfree, decide_false, Bool.false_and, Bool.and_false, Bool.or_false, Bool.false_eq_true, if_false]

theorem exec_conv_run {s : State} {d : Fin 4} {c : Fin 8} {k : Fin 16} {r : ConvRud} (h0 : s.convFault d c k r false = 0)
    (hfmt : (Fmt.ofCode (s.ctxDesc d (s.hOf d c) r.desc).fmt).isSome = true) :
    exec (.conv d c k r) s = .next ((s.descRead d c r).convSlot d c k r) := by
  show execConv d c k r s = _
  rw [execConv]
  rw [if_neg (Decidable.not_not.mpr h0)]
  exact if_pos hfmt

theorem exec_conv_reserved {s : State} {d : Fin 4} {c : Fin 8} {k : Fin 16} {r : ConvRud} (h0 : s.convFault d c k r false = 0)
    (hfmt : Fmt.ofCode (s.ctxDesc d (s.hOf d c) r.desc).fmt = none) : exec (.conv d c k r) s = .fault .reservedCode := by
  show execConv d c k r s = _
  rw [execConv]
  rw [if_neg (Decidable.not_not.mpr h0), State.convDefined, hfmt]
  rfl

theorem exec_conv_fault {s : State} {d : Fin 4} {c : Fin 8} {k : Fin 16} {r : ConvRud} (h0 : s.convFault d c k r false ≠ 0) :
    exec (.conv d c k r) s = .next ((s.descRead d c r).raise d (s.hOf d c) (s.convFault d c k r false) c k) :=
  if_pos h0

/-! ## CHLD (R49, R136) -/

theorem State.chldTake_clusterOnly {d c k : Nat} (hc : c < 8) (hk : k < 16) (s : State) (a j : Nat) : clusterOnly s (s.chldTake d c k a j) d c :=
  (State.stallRead_clusterOnly hk s a 16).trans (.setCore hc hk _ _)

theorem State.chld_clusterOnly {d c k : Nat} (hc : c < 8) (hk : k < 16) (s : State) (r : ConvRud) : clusterOnly s (s.chld d c k r) d c := by
  rw [State.chld]
  exact ((clusterOnly.foldl _ (fun t _ => State.chldTake_clusterOnly hc hk t _ _) s).trans (.setCore hc hk _ _)).trans
    (State.book_clusterOnly hc hk _ _)

theorem State.stallEcc_units (s : State) (d c k g : Nat) : (s.stallEcc d c k g).units = s.units := by
  rw [State.stallEcc]
  dsimp only
  repeat' split
  all_goals simp only [State.inc_units, State.set_units]

theorem State.stallCount_units (s : State) (d c k g : Nat) : (s.stallCount d c k g).units = s.units := by
  rw [State.stallCount]
  split
  all_goals exact State.stallEcc_units s d c k g

theorem State.stallRead_units (s : State) (d c k a n : Nat) : (s.stallRead d c k a n).units = s.units := by
  rw [State.stallRead]
  split
  · rfl
  · exact foldl_units _ (fun t _ => State.stallCount_units t d c k _) s

theorem State.stallRead_cores (s : State) (d c k a n : Nat) : (s.stallRead d c k a n).cores = s.cores :=
  State.cores_of_units (s.stallRead_units d c k a n)

theorem State.stallRead_core (s : State) (d c k a n e x y : Nat) : (s.stallRead d c k a n).core e x y = s.core e x y :=
  congrArg (Tab.get Core.clear · (coreIx e x y)) (s.stallRead_cores d c k a n)

theorem State.chldTake_mem (s : State) (d c k a j : Nat) : (s.chldTake d c k a j).mem = s.mem := s.stallRead_mem d c k a 16

theorem State.chldTake_ctxs (s : State) (d c k a j : Nat) : (s.chldTake d c k a j).ctxs = s.ctxs :=
  (State.setCore_ctxs _ _ _ _ _).trans (State.ctxs_of_units (s.stallRead_units d c k a 16))

/-- The channel entry that stands at a stall byte (R136). -/
def State.stallChannel (s : State) (d c k a : Nat) : Channel :=
  { channelEntry (s.read (stallBase d c k + a) 16) with poison := s.readBad (stallBase d c k + a) 16 }

theorem State.chldTake_chan (s : State) (d c k a j i : Nat) :
    (s.chldTake d c k a j).chan d c k i = if i = j then s.stallChannel d c k a else s.chan d c k i := by
  simp only [State.chldTake, State.chan, State.setCore_core, State.stallRead_core, Tab.get_set]
  rfl

theorem State.stallChannel_congr {s t : State} (hmem : t.mem = s.mem) (d c k a : Nat) : t.stallChannel d c k a = s.stallChannel d c k a := by
  rw [State.stallChannel, State.stallChannel, State.read_sram hmem (stallBase_sram d c k a), State.readBad_sram hmem (stallBase_sram d c k a)]

/-- The first n places of the channel cache filled, each from its own stall bytes. -/
theorem State.foldl_chldTake (s : State) (d c k : Nat) (place : Nat → Nat) (n : Nat) :
    let t := (List.range n).foldl (fun u j => u.chldTake d c k (place j) j) s
    t.mem = s.mem ∧ t.ctxs = s.ctxs ∧ ∀ j, j < n → t.chan d c k j = s.stallChannel d c k (place j) := by
  induction n with
  | zero => exact ⟨rfl, rfl, fun j hj => absurd hj (Nat.not_lt_zero j)⟩
  | succ n ih =>
    obtain ⟨hmem, hctxs, hchan⟩ := ih
    simp only [List.range_succ, List.foldl_append, List.foldl_cons, List.foldl_nil]
    refine ⟨(State.chldTake_mem _ _ _ _ _ _).trans hmem, (State.chldTake_ctxs _ _ _ _ _ _).trans hctxs, fun j hj => ?_⟩
    rw [State.chldTake_chan]
    split
    · next hjn => rw [hjn, State.stallChannel_congr hmem]
    · next hjn => exact hchan j (by omega)

theorem State.book_chan (s : State) (d c k j : Nat) (l : List Access) : (s.book d c k l).chan d c k j = s.chan d c k j := by
  simp only [State.book, State.chan, State.setCore_core]

theorem State.setBusy_chan (s : State) (d c k j n : Nat) : (s.setCore d c k { s.core d c k with cBusy := n }).chan d c k j = s.chan d c k j := by
  simp only [State.chan, State.setCore_core]

/-- CHLD reads memory and writes the channel cache of its core (R136). -/
theorem State.chld_spec (s : State) (d c k : Nat) (r : ConvRud) :
    (s.chld d c k r).mem = s.mem ∧ (s.chld d c k r).ctxs = s.ctxs ∧ ∀ j, j < r.cols → (s.chld d c k r).chan d c k j =
      s.stallChannel d c k (chldAt r (s.stallAddr d (s.hOf d c) k r.agC) (s.idx d (s.hOf d c) k r.col) j) := by
  obtain ⟨hmem, hctxs, hchan⟩ := s.foldl_chldTake d c k (chldAt r (s.stallAddr d (s.hOf d c) k r.agC) (s.idx d (s.hOf d c) k r.col)) r.cols
  refine ⟨hmem, hctxs, fun j hj => ?_⟩
  rw [State.chld, State.book_chan, State.setBusy_chan, hchan j hj]

theorem exec_chld_run {s : State} {d : Fin 4} {c : Fin 8} {k : Fin 16} {r : ConvRud} (h : (s.core d c k).cBusy ≤ s.cycOf d c) :
    exec (.chld d c k r) s = .next (s.chld d c k r) := by
  show execChld d c k r s = _
  rw [execChld, State.chldFault, if_neg (Nat.not_lt.mpr h), if_pos rfl]

theorem exec_chld_busy {s : State} {d : Fin 4} {c : Fin 8} {k : Fin 16} {r : ConvRud} (h : s.cycOf d c < (s.core d c k).cBusy) :
    exec (.chld d c k r) s = .next (s.raise d (s.hOf d c) 0x25 c k) := by
  show execChld d c k r s = _
  rw [execChld, State.chldFault, if_pos h, if_neg (by decide)]

theorem Desc.format_eq {x : Desc} {g : Fmt} (h : Fmt.ofCode x.fmt = some g) : x.format = g := by
  rw [Desc.format, h]
  rfl

/-- The containers a CONV writes, by the state before its descriptor is read. -/
theorem State.descRead_convSlot_byte (s : State) (d c k : Nat) (r : ConvRud) (hf : (s.convJob d c k r).desc.format.block = false) {i j n : Nat}
    (hi : i < r.rows) (hj : j < r.cols) (hn : n < (s.convJob d c k r).desc.format.bits / 8) :
    let f := (s.slotAt d c k r.src).tag.getD .a48
    ((s.descRead d c r).convSlot d c k r).mem.byte ((s.convJob d c k r).containerAt i j + n) =
      ((s.convJob d c k r).containerBytes (visible f.accW ((s.slotAt d c k r.src).at (accKey f (halfOf r.src) i j)).val) (s.chan d c k j)).getD n 0 := by
  have hcore : (s.descRead d c r).core d c k = s.core d c k := congrArg (Tab.get Core.clear · (coreIx d c k)) (s.descRead_cores d c r)
  have hbyte := (s.descRead d c r).convSlot_byte (d := d) (c := c) (k := k) (r := r) (i := i) (j := j) (n := n)
  simp only [State.descRead_convJob, State.slotAt, State.chan, hcore] at hbyte
  exact hbyte hf hi hj hn

/-- Settles O39: CONV by the cases of its fault and its output format, an A-format output by the container of each element, CHLD by whether the
converter is free. -/
theorem conversionsRunOrFault : Obligations.ConversionsRunOrFault := by
  intro s d c k r
  dsimp only
  refine ⟨fun h0 hfmt => ?run, fun h0 hfmt => exec_conv_reserved h0 hfmt, fun h0 => exec_conv_fault h0, State.convFault_lanes s d c k,
    fun g sf hfmt hg hsrc htag htakes hrows hcols hdesc hfree => ?accumulator, fun hbusy => exec_chld_busy hbusy, fun hfree => ?chld⟩
  case run =>
    exact ⟨exec_conv_run h0 hfmt, State.convSlot_clusterOnly c.isLt k.isLt _ r, s.descRead_mem d c r, s.descRead_cores d c r, s.descRead_ctxs d c r⟩
  case accumulator =>
    have h0 := State.convFault_eq_zero hsrc htag htakes hrows hcols hdesc hfree
    refine ⟨_, exec_conv_run h0 (Option.isSome_of_eq_some hfmt), fun i j n hi hj hn => ?_⟩
    have hformat : (s.convJob d c k r).desc.format = g := Desc.format_eq hfmt
    have hbyte := s.descRead_convSlot_byte d c k r (hformat ▸ hg) hi hj (hformat ▸ hn)
    simp only [ConvJob.containerAt_eq (m := s.convJob d c k r) (hformat ▸ hg), ConvJob.containerBytes, hformat, htag, Option.getD_some] at hbyte
    exact hbyte
  case chld =>
    obtain ⟨hmem, hctxs, hchan⟩ := s.chld_spec d c k r
    exact ⟨_, exec_chld_run hfree, hmem, State.chld_clusterOnly c.isLt k.isLt s r, hctxs, hchan⟩

end Sys2Proof.Machine
end

section
/-!
SUPPORT. The pivot engine (spec/05_solvers.md, R200 to R225): what loft accesses leave unchanged outside the registers of their cluster; BEGIN, DPT and
CNT on slots the engine owns; the pivot operations as steps of their own (O40).
-/

namespace Sys2Proof.Machine

section
variable {d c : Nat}

/-! ## What loft accesses leave unchanged -/

/-- A field of the registers of cluster c that belong to no core of it (R103). -/
def Fld.ofCluster (f : Fld) (d c : Nat) : Prop := 8 * clusterBlk d c ≤ f.key ∧ f.key < 8 * (clusterBlk d c + 0x1000)

theorem Fld.ofCluster_mk {o lo w rst : Nat} {acc : Acc} (ho : 8 * o + lo < 8 * 0x1000) :
    Fld.ofCluster ⟨clusterBlk d c + o, lo, w, acc, rst⟩ d c := by
  simp only [Fld.ofCluster, Fld.key]
  omega

/-- The registers of a die below its cluster blocks, those of its contexts among them, are no cluster's (R103, R159). -/
theorem Fld.not_ofCluster_die {o lo w rst : Nat} {acc : Acc} (ho : 8 * o + lo < 8 * 0x2000000) :
    ¬ Fld.ofCluster ⟨dieBlk d + o, lo, w, acc, rst⟩ d c := by
  simp only [Fld.ofCluster, Fld.key, clusterBlk]
  omega

theorem Fld.not_ofCluster_ctx {h o lo w rst : Nat} {acc : Acc} (hh : h < 2) (ho : 8 * o + lo < 8 * 0x1000) :
    ¬ Fld.ofCluster ⟨ctxBlk d h + o, lo, w, acc, rst⟩ d c := by
  simp only [Fld.ofCluster, Fld.key, ctxBlk, clusterBlk]
  omega

theorem State.set_get_of_cluster {f g : Fld} (hf : ¬ f.ofCluster d c) (hg : g.ofCluster d c) (s : State) (v : Nat) : (s.set g v).get f = s.get f :=
  State.get_set_other s g f v fun hkey => hf (by rwa [Fld.ofCluster, hkey])

theorem State.inject_units (s : State) (f g : Fld) (a : Nat) : (s.inject f g a).units = s.units := by
  rw [State.inject]
  repeat' split
  all_goals rfl

theorem State.inject_get {f g x : Fld} (hx : ¬ x.ofCluster d c) (hf : f.ofCluster d c) (hg : g.ofCluster d c) (s : State) (a : Nat) :
    (s.inject f g a).get x = s.get x := by
  rw [State.inject]
  repeat' split
  · exact (State.set_get_of_cluster hx hf _ 0).trans (State.set_get_of_cluster hx hg s 0)
  · exact State.set_get_of_cluster hx hf s 0
  · rfl

theorem State.put_units (s : State) (a : Nat) (bs : List Byte) (p : Bool) : (s.put a bs p).units = s.units := by
  obtain ⟨m, hm⟩ := s.put_mem_only a bs p
  rw [hm, State.setMem_units]

theorem State.put_get (s : State) (a : Nat) (bs : List Byte) (p : Bool) (f : Fld) : (s.put a bs p).get f = s.get f := by
  obtain ⟨m, hm⟩ := s.put_mem_only a bs p
  rw [hm, State.setMem_get]

theorem State.loftCount_units (s : State) (d c g : Nat) : (s.loftCount d c g).units = s.units := by
  rw [State.loftCount]
  dsimp only
  repeat' split
  all_goals rfl

/-- A loft word that is read counts in the registers of its cluster, and changes no other (R101, R112). -/
theorem State.loftCount_get {f : Fld} (hf : ¬ f.ofCluster d c) (s : State) (g : Nat) : (s.loftCount d c g).get f = s.get f := by
  have hother {x : Fld} (hx : x.ofCluster d c) (t : State) (v : Nat) : (t.set x v).get f = t.get f := State.set_get_of_cluster hf hx t v
  have hce := hother (x := CORE_LOFT_ECC.ce d c) (Fld.ofCluster_mk (by decide))
  have hue := hother (x := CORE_LOFT_ECC.ue d c) (Fld.ofCluster_mk (by decide))
  have hquarantine := hother (x := CORE_LOFT_ECC.quarantine_pending d c) (Fld.ofCluster_mk (by decide))
  have hword := hother (x := CORE_LOFT_UEADDR.word d c) (Fld.ofCluster_mk (by decide))
  have hvalid := hother (x := CORE_LOFT_UEADDR.valid d c) (Fld.ofCluster_mk (by decide))
  rw [State.loftCount]
  dsimp only
  repeat' split
  all_goals simp only [State.inc, hce, hue, hquarantine, hword, hvalid]

theorem State.loftRead_units (s : State) (d c a n : Nat) : (s.loftRead d c a n).units = s.units := by
  rw [State.loftRead]
  split
  · rfl
  · exact foldl_units _ (fun t _ => State.loftCount_units t d c _) s

theorem State.loftRead_get {f : Fld} (hf : ¬ f.ofCluster d c) (s : State) (a n : Nat) : (s.loftRead d c a n).get f = s.get f := by
  rw [State.loftRead]
  split
  · rfl
  · exact foldl_get _ f (fun t _ _ => State.loftCount_get hf t _) s

theorem State.loftWrite_units (s : State) (d c a : Nat) (bs : List Byte) (p : Bool) : (s.loftWrite d c a bs p).units = s.units := by
  rw [State.loftWrite]
  split
  · rfl
  · rw [State.inject_units, State.put_units]
    exact foldl_units _ (fun t g => State.loftCount_units t d c g) s

theorem State.loftWrite_get {f : Fld} (hf : ¬ f.ofCluster d c) (s : State) (a : Nat) (bs : List Byte) (p : Bool) :
    (s.loftWrite d c a bs p).get f = s.get f := by
  rw [State.loftWrite]
  split
  · rfl
  · rw [State.inject_get hf (Fld.ofCluster_mk (by decide)) (Fld.ofCluster_mk (by decide)), State.put_get]
    exact foldl_get _ f (fun t g _ => State.loftCount_get hf t g) s

/-! ## Fields cleared -/

theorem State.clearFlds_mem (s : State) (l : List Fld) : (s.clearFlds l).mem = s.mem :=
  foldl_mem l (fun t f => State.set_mem t f f.rst) s

/-- Among fields that reset to 0, one that is 0 or cleared reads 0. -/
theorem State.clearFlds_get_zero {l : List Fld} (hl : ∀ g ∈ l, g.rst = 0) {f : Fld} (hf : f.rst = 0) {s : State} (h : s.get f = 0 ∨ f ∈ l) :
    (s.clearFlds l).get f = 0 := by
  induction l generalizing s with
  | nil => exact h.resolve_right List.not_mem_nil
  | cons g l ih =>
    obtain ⟨hg, hrest⟩ := List.forall_mem_cons.mp hl
    refine ih hrest (s := s.set g g.rst) ?_
    by_cases hkey : f.key = g.key
    · left
      calc (s.set g g.rst).get f = (s.set g g.rst).get g := by rw [State.get, State.get, hkey, hf, hg]
        _ = 0 := by rw [State.get_set_self, hg, Nat.zero_mod]
    · rcases h with h0 | hmem
      · exact Or.inl ((State.get_set_other s g f _ hkey).trans h0)
      · exact Or.inr ((List.mem_cons.mp hmem).resolve_left fun hfg => hkey (congrArg Fld.key hfg))

/-! ## The engine's slots and its busy time (R139, R200) -/

/-- The loft byte a pivot rudiment addresses (R212). -/
abbrev State.pivAddr (s : State) (d c : Nat) (r : PivRud) : Nat := s.loftAddr d (s.hOf d c) 0 r.ag

theorem State.pivSlots_of_owned {s : State} {t n : Nat} {gs : List Nat} {b : Bool} (h : s.pivOwned d c t n gs = some b) :
    s.pivSlots d c t n gs = (b, s) := by
  rw [State.pivSlots, h]

theorem State.pivBusyFor_mem (s : State) (d c n : Nat) : (s.pivBusyFor d c n).mem = s.mem := rfl
theorem State.pivBusyFor_cores (s : State) (d c n : Nat) : (s.pivBusyFor d c n).cores = s.cores := rfl
theorem State.pivBusyFor_ctxs (s : State) (d c n : Nat) : (s.pivBusyFor d c n).ctxs = s.ctxs := rfl

theorem State.pivBusyFor_pBusy (s : State) (d c n : Nat) : ((s.pivBusyFor d c n).cluster d c).pBusy = s.cycOf d c + n := by
  rw [State.pivBusyFor, State.set_cluster, State.setCluster_cluster]

theorem State.pivBusyFor_get {f : Fld} (hf : ¬ f.ofCluster d c) (s : State) (n : Nat) : (s.pivBusyFor d c n).get f = s.get f :=
  State.set_get_of_cluster hf (Fld.ofCluster_mk (by decide)) _ 1

/-- A loft read leaves the cycle that the cluster's context is in (R154). -/
theorem State.loftRead_cycOf (s : State) (d c a n : Nat) : (s.loftRead d c a n).cycOf d c = s.cycOf d c := by
  have hh := s.ctxOfCluster_lt d c
  have hsplit : (s.loftRead d c a n).ctxOfCluster d c = s.ctxOfCluster d c := by
    rw [State.ctxOfCluster, State.ctxOfCluster, State.split, State.split, State.flag, State.flag,
      State.loftRead_get (Fld.not_ofCluster_die (o := 0x102000) (by decide))]
  rw [State.cycOf, State.cycOf, hsplit, State.loftRead_get (Fld.not_ofCluster_ctx hh (by decide))]

/-! ## BEGIN (R205, R212, R222 to R224) -/

/-- The threshold a solve block at loft byte a gives, as BEGIN latches it (R205). -/
def State.solveBlock (s : State) (d c a : Nat) (dl : Bool) : PivBegin :=
  let m := s.readNat (loftBase d c + a) 8
  ⟨s.cycOf d c + 12, if m = 0 then 1 else m, sext 16 (s.readNat (loftBase d c + a + 8) 2) - s.get (CORE_PIV_CFG.t d c), dl⟩

theorem State.pivBegin_of_owned {s : State} {r : PivRud}
    (h : s.pivOwned d c (s.cycOf d c) 12 (groupsOf (s.pivAddr d c r) 16) = some true) :
    s.pivBegin d c r = ((s.loftRead d c (s.pivAddr d c r) 16).pivBusyFor d c 12,
      some (s.solveBlock d c (s.pivAddr d c r) r.dl)) := by
  rw [State.pivBegin, State.pivSlots_of_owned h]
  rfl

theorem State.solveBlock_tauM (s : State) (d c a : Nat) (dl : Bool) :
    (s.solveBlock d c a dl).tauM = if s.readNat (loftBase d c + a) 8 = 0 then 1 else s.readNat (loftBase d c + a) 8 := by
  simp only [State.solveBlock]

theorem State.solveBlock_tauE (s : State) (d c a : Nat) (dl : Bool) :
    (s.solveBlock d c a dl).tauE = sext 16 (s.readNat (loftBase d c + a + 8) 2) - s.get (CORE_PIV_CFG.t d c) := by
  simp only [State.solveBlock]

/-- The status and count fields that a BEGIN clears (R222 to R224). -/
def pivStatusFlds (d c : Nat) : List Fld :=
  [CORE_PIV_STATUS.slot_fault d c, CORE_PIV_STATUS.bad_entry d c, CORE_PIV_STATUS.poison d c, CORE_PIV_STATUS.entry d c,
   CORE_PIV_CNT.pert d c, CORE_PIV_CNT.neg d c, CORE_PIV_CNT.sat d c, CORE_PIV_FIRST.col d c, CORE_PIV_FIRST.valid d c]

theorem pivStatusFlds_rst (d c : Nat) : ∀ f ∈ pivStatusFlds d c, f.rst = 0 := by
  simp [pivStatusFlds]

/-- Without the deadline flag a BEGIN latches τ and clears those fields. -/
theorem State.pivBegun_of_no_deadline (s : State) {b : PivBegin} (h : b.dl = false) :
    s.pivBegun d c b =
      (s.setCluster d c { s.cluster d c with tauM := b.tauM, tauE := b.tauE, start := none }).clearFlds (pivStatusFlds d c) := by
  rw [State.pivBegun, h]
  rfl

theorem State.clusters_of_units {s t : State} (h : t.units = s.units) : t.clusters = s.clusters := congrArg (·.1.2.1) h

theorem State.clearFlds_cluster (s : State) (l : List Fld) (d c : Nat) : (s.clearFlds l).cluster d c = s.cluster d c :=
  congrArg (Tab.get Cluster.clear · (8 * d + c)) (State.clusters_of_units (s.clearFlds_units l))

section
variable {s : State} {b : PivBegin} (hdl : b.dl = false)
include hdl

theorem State.pivBegun_cluster :
    (s.pivBegun d c b).cluster d c = { s.cluster d c with tauM := b.tauM, tauE := b.tauE, start := none } := by
  rw [State.pivBegun_of_no_deadline s hdl, State.clearFlds_cluster, State.setCluster_cluster]

theorem State.pivBegun_get {f : Fld} (hf : f ∈ pivStatusFlds d c) : (s.pivBegun d c b).get f = 0 := by
  rw [State.pivBegun_of_no_deadline s hdl]
  exact State.clearFlds_get_zero (pivStatusFlds_rst d c) (pivStatusFlds_rst d c f hf) (.inr hf)

theorem State.pivBegun_mem : (s.pivBegun d c b).mem = s.mem := by
  rw [State.pivBegun_of_no_deadline s hdl, State.clearFlds_mem, State.setCluster_mem]

theorem State.pivBegun_cores : (s.pivBegun d c b).cores = s.cores := by
  rw [State.pivBegun_of_no_deadline s hdl, State.cores_of_units (State.clearFlds_units _ _), State.setCluster_cores]

theorem State.pivBegun_ctxs : (s.pivBegun d c b).ctxs = s.ctxs := by
  rw [State.pivBegun_of_no_deadline s hdl, State.ctxs_of_units (State.clearFlds_units _ _), State.setCluster_ctxs]

end

/-! ## DPT (R213, R214) -/

/-- The point a DPT reaches. -/
def State.dptPoint (s : State) (d h : Nat) : Nat := min (s.get (SEQ_DL_POINT.point d h) + 1) (2 ^ (SEQ_DL_POINT.point d h).w - 1)

theorem State.get_inc_point (s : State) (d h : Nat) : (s.inc (SEQ_DL_POINT.point d h) 1).get (SEQ_DL_POINT.point d h) = s.dptPoint d h := by
  rw [State.get_inc_self, State.dptPoint]

/-- Has the budget expired at that point? -/
def State.dptBudget (s : State) (d h : Nat) : Bool :=
  bitOf (s.get (SEQ_DL_CTL.mode d h)) 0 && decide (s.get (SEQ_DL_CTL.budget d h) ≤ s.dptPoint d h)
/-- Has the wall time expired? -/
def State.dptWall (s : State) (d h : Nat) : Bool :=
  bitOf (s.get (SEQ_DL_CTL.mode d h)) 1 && decide (s.get (SEQ_DL_TIME.time d h) ≤ s.get CD_TIME.ns)
/-- The word a DPT writes. -/
def State.dptWord (s : State) (d h : Nat) : Nat :=
  (s.dptBudget d h || s.dptWall d h).toNat + 2 * (s.dptBudget d h).toNat + 4 * (s.dptWall d h).toNat + 2 ^ 32 * s.dptPoint d h

/-- The point is counted, and what has expired is noted. -/
def State.dptCounted (s : State) (d h : Nat) (budget wall : Bool) : State :=
  let s1 := s.inc (SEQ_DL_POINT.point d h) 1
  let s2 := if budget then s1.set (SEQ_DL_POINT.by_budget d h) 1 else s1
  let s3 := if wall then s2.set (SEQ_DL_POINT.by_wall d h) 1 else s2
  if budget || wall then (s3.set (SEQ_DL_POINT.expired d h) 1).inc (SEQ_DL_POINT.deadlines d h) 1 else s3

theorem State.dptCounted_units (s : State) (d h : Nat) (budget wall : Bool) : (s.dptCounted d h budget wall).units = s.units := by
  rw [State.dptCounted]
  repeat' split
  all_goals simp only [State.inc_units, State.set_units]

theorem State.dptCounted_mem (s : State) (d h : Nat) (budget wall : Bool) : (s.dptCounted d h budget wall).mem = s.mem := by
  rw [State.dptCounted]
  repeat' split
  all_goals simp only [State.inc_mem, State.set_mem]

theorem State.dptCounted_point (s : State) (d h : Nat) (budget wall : Bool) :
    (s.dptCounted d h budget wall).get (SEQ_DL_POINT.point d h) = s.dptPoint d h := by
  have hother {x : Fld} (hx : (SEQ_DL_POINT.point d h).key ≠ x.key) (t : State) (v : Nat) :
      (t.set x v).get (SEQ_DL_POINT.point d h) = t.get (SEQ_DL_POINT.point d h) := State.get_set_other t x _ v hx
  have hbudget := hother (x := SEQ_DL_POINT.by_budget d h) (by simp only [Fld.key]; omega)
  have hwall := hother (x := SEQ_DL_POINT.by_wall d h) (by simp only [Fld.key]; omega)
  have hexpired := hother (x := SEQ_DL_POINT.expired d h) (by simp only [Fld.key]; omega)
  have hdeadlines := hother (x := SEQ_DL_POINT.deadlines d h) (by simp only [Fld.key]; omega)
  have hpoint : (s.inc (SEQ_DL_POINT.point d h) 1).get (SEQ_DL_POINT.point d h) = s.dptPoint d h := s.get_inc_point d h
  have hnoted (t : State) : ((t.set (SEQ_DL_POINT.expired d h) 1).inc (SEQ_DL_POINT.deadlines d h) 1).get (SEQ_DL_POINT.point d h) =
      t.get (SEQ_DL_POINT.point d h) := (hdeadlines _ _).trans (hexpired t 1)
  rw [State.dptCounted]
  repeat' split
  all_goals simp only [hnoted, hbudget, hwall, hpoint]

/-- The deadline's mode, budget and time, and package time, are read after the point is counted, which changes none of them. -/
theorem State.pivDpt_of_owned {s : State} {r : PivRud}
    (h : s.pivOwned d c (s.cycOf d c) 7 (groupsOf (s.pivAddr d c r) 8) = some true) :
    s.pivDpt d c r = ((s.dptCounted d (s.hOf d c) (s.dptBudget d (s.hOf d c)) (s.dptWall d (s.hOf d c))).pivBusyFor d c 1,
      some [(s.pivAddr d c r, leBytes 8 (s.dptWord d (s.hOf d c)), false)]) := by
  have hother {x : Fld} (hx : x.key ≠ (SEQ_DL_POINT.point d (s.hOf d c)).key) : (s.inc (SEQ_DL_POINT.point d (s.hOf d c)) 1).get x = s.get x :=
    State.get_inc_other s _ x 1 hx
  have hmode := hother (x := SEQ_DL_CTL.mode d (s.hOf d c)) (by simp only [Fld.key]; omega)
  have hbudget := hother (x := SEQ_DL_CTL.budget d (s.hOf d c)) (by simp only [Fld.key]; omega)
  have htime := hother (x := SEQ_DL_TIME.time d (s.hOf d c)) (by simp only [Fld.key]; omega)
  have hnow := hother (x := CD_TIME.ns) (by simp only [Fld.key, cdBlk, ctxBlk, dieBlk]; omega)
  have hpoint : (s.inc (SEQ_DL_POINT.point d (s.hOf d c)) 1).get (SEQ_DL_POINT.point d (s.hOf d c)) = s.dptPoint d (s.hOf d c) :=
    s.get_inc_point d _
  rw [State.pivDpt, State.pivSlots_of_owned h]
  simp only [hmode, hbudget, htime, hnow, hpoint, if_true]
  rfl

/-! ## CNT (R212) -/

/-- The bytes a CNT writes: the counts and the first perturbed column (R223, R224). -/
def State.cntBytes (s : State) (d c : Nat) : List Byte :=
  leBytes 8 (s.csrWord (CORE_PIV_CNT.pert d c).addr) ++ leBytes 8 (s.csrWord (CORE_PIV_FIRST.col d c).addr)

theorem State.cntBytes_length (s : State) (d c : Nat) : (s.cntBytes d c).length = 16 := by
  rw [State.cntBytes, List.length_append, leBytes_length, leBytes_length]

section
variable {s : State} {r : PivRud}

theorem State.pivCnt_of_owned (h : s.pivOwned d c (s.cycOf d c) 5 (groupsOf (s.pivAddr d c r) 16) = some true) :
    s.pivCnt d c r = (s.pivBusyFor d c 2, some [(s.pivAddr d c r, s.cntBytes d c, false)]) := by
  rw [State.pivCnt, State.pivSlots_of_owned h]
  rfl

theorem State.pivCnt_of_missed (h : s.pivOwned d c (s.cycOf d c) 5 (groupsOf (s.pivAddr d c r) 16) = some false) :
    s.pivCnt d c r = (s, none) := by
  rw [State.pivCnt, State.pivSlots_of_owned h]
  rfl

end

end

/-! ## The pivot operations as steps of their own (R212) -/

section
variable {s : State} {d c : Nat} {r : PivRud}

theorem State.pivStep_busy (op : Nat) (h : s.pivBusy d c = true) : s.pivStep d c op r = .next (s.raise d (s.hOf d c) 0x25 c 0) := by
  rw [State.pivStep, if_pos h]

theorem State.pivStep_free (op : Nat) (h : s.pivBusy d c = false) : s.pivStep d c op r = .next (s.pivOp d c op r) := by
  rw [State.pivStep, if_neg (Bool.eq_false_iff.mp h)]

theorem State.pivOp_begin (hown : s.pivOwned d c (s.cycOf d c) 12 (groupsOf (s.pivAddr d c r) 16) = some true) :
    s.pivOp d c 1 r = ((s.loftRead d c (s.pivAddr d c r) 16).pivBusyFor d c 12).pivBegun d c
      (s.solveBlock d c (s.pivAddr d c r) r.dl) := by
  rw [State.pivOp, State.pivBegin_of_owned hown]

theorem State.pivOp_run_none (h : r.count = 0) :
    s.pivOp d c 2 r = (s.setCluster d c { s.cluster d c with pBusy := s.cycOf d c + 8 }).set (CORE_PIV_STATUS.busy d c) 1 := by
  rw [State.pivOp, State.pivRun, h, State.pivEntries]

theorem pivNow_store (t : State) (a : Nat) (bs : List Byte) (p : Bool) : pivNow d c (t, some [(a, bs, p)]) = t.loftWrite d c a bs p := rfl

theorem State.pivOp_short {op : Nat} (hbegin : op ≠ 1) (hrun : op ≠ 2) : s.pivOp d c op r = pivNow d c (s.pivShort d c op r) := by
  rw [State.pivOp]
  · exact hbegin
  · exact hrun

theorem State.pivOp_dpt (hown : s.pivOwned d c (s.cycOf d c) 7 (groupsOf (s.pivAddr d c r) 8) = some true) :
    s.pivOp d c 3 r = ((s.dptCounted d (s.hOf d c) (s.dptBudget d (s.hOf d c)) (s.dptWall d (s.hOf d c))).pivBusyFor d c 1).loftWrite d c
      (s.pivAddr d c r) (leBytes 8 (s.dptWord d (s.hOf d c))) false := by
  rw [State.pivOp_short (by decide) (by decide), State.pivShort, if_pos rfl, State.pivDpt_of_owned hown, pivNow_store]

theorem State.pivOp_cnt (hown : s.pivOwned d c (s.cycOf d c) 5 (groupsOf (s.pivAddr d c r) 16) = some true) :
    s.pivOp d c 4 r = (s.pivBusyFor d c 2).loftWrite d c (s.pivAddr d c r) (s.cntBytes d c) false := by
  rw [State.pivOp_short (by decide) (by decide), State.pivShort, if_neg (by decide), State.pivCnt_of_owned hown, pivNow_store]

theorem State.pivOp_cnt_missed (hown : s.pivOwned d c (s.cycOf d c) 5 (groupsOf (s.pivAddr d c r) 16) = some false) :
    s.pivOp d c 4 r = s.pivSlotFault d c := by
  rw [State.pivOp_short (by decide) (by decide), State.pivShort, if_neg (by decide), State.pivCnt_of_missed hown, pivNow]

end

/-- Settles O40: every pivot operation is `pivStep` of its code, so each clause is the operation's equation on its slots, read field by field. -/
theorem pivotOperationsRunOrFault : Obligations.PivotOperationsRunOrFault := by
  intro s d c r
  refine ⟨fun x hx hbusy => ?busy, fun hfree hown hdl => ?begin, fun hfree hcount => ?runNone, fun hfree => ⟨_, State.pivStep_free 2 hfree⟩,
    fun hfree hown => ?cnt, fun hfree hown => ?dpt, fun hfree hown => ?missed⟩
  case busy =>
    have hstep (op : Nat) : s.pivStep d c op r = _ := State.pivStep_busy op hbusy
    simp only [List.mem_cons, List.not_mem_nil, or_false] at hx
    rcases hx with rfl | rfl | rfl | rfl
    · exact hstep 1
    · exact hstep 2
    · exact hstep 3
    · exact hstep 4
  case begin =>
    refine ⟨_, (State.pivStep_free 1 hfree).trans (congrArg _ (State.pivOp_begin hown)), ?_⟩
    have hcluster := State.pivBegun_cluster (s := (s.loftRead d c (s.pivAddr d c r) 16).pivBusyFor d c 12) (d := d) (c := c)
      (b := s.solveBlock d c (s.pivAddr d c r) r.dl) hdl
    have hunits := s.loftRead_units d c (s.pivAddr d c r) 16
    refine ⟨?mem, ?tauM, ?tauE, State.pivBegun_get hdl ?bad, State.pivBegun_get hdl ?poison, State.pivBegun_get hdl ?pert,
      State.pivBegun_get hdl ?neg, State.pivBegun_get hdl ?sat, State.pivBegun_get hdl ?valid, ?free, ?ctxs, ?cores⟩
    case mem => rw [State.pivBegun_mem hdl, State.pivBusyFor_mem, State.loftRead_mem]
    case tauM => rw [hcluster, State.solveBlock_tauM]
    case tauE => rw [hcluster, State.solveBlock_tauE]
    case free => rw [hcluster, State.pivBusyFor_pBusy, State.loftRead_cycOf]
    case ctxs => rw [State.pivBegun_ctxs hdl, State.pivBusyFor_ctxs, State.ctxs_of_units hunits]
    case cores => rw [State.pivBegun_cores hdl, State.pivBusyFor_cores, State.cores_of_units hunits]
    all_goals simp only [pivStatusFlds, List.mem_cons, true_or, or_true]
  case runNone =>
    refine ⟨_, (State.pivStep_free 2 hfree).trans (congrArg _ (State.pivOp_run_none hcount)), rfl, ?_, rfl, rfl⟩
    rw [State.set_cluster, State.setCluster_cluster]
  case cnt =>
    refine ⟨_, (State.pivStep_free 4 hfree).trans (congrArg _ (State.pivOp_cnt hown)), ?ctxs, ?cores, fun b => ?bytes⟩
    case ctxs => rw [State.ctxs_of_units (State.loftWrite_units ..), State.pivBusyFor_ctxs]
    case cores => rw [State.cores_of_units (State.loftWrite_units ..), State.pivBusyFor_cores]
    case bytes => rw [State.loftWrite_byte, State.cntBytes_length, State.cntBytes, State.pivBusyFor_mem]
  case dpt =>
    have hpoint : ¬ (SEQ_DL_POINT.point d (s.hOf d c)).ofCluster d c := Fld.not_ofCluster_ctx (s.ctxOfCluster_lt d c) (by decide)
    have hunits := s.dptCounted_units d (s.hOf d c) (s.dptBudget d (s.hOf d c)) (s.dptWall d (s.hOf d c))
    refine ⟨_, (State.pivStep_free 3 hfree).trans (congrArg _ (State.pivOp_dpt hown)), ?ctxs, ?cores, ?point, fun b => ?bytes⟩
    case ctxs => rw [State.ctxs_of_units (State.loftWrite_units ..), State.pivBusyFor_ctxs, State.ctxs_of_units hunits]
    case cores => rw [State.cores_of_units (State.loftWrite_units ..), State.pivBusyFor_cores, State.cores_of_units hunits]
    case point => rw [State.loftWrite_get hpoint, State.pivBusyFor_get hpoint, State.dptCounted_point, State.dptPoint]
    case bytes =>
      rw [State.loftWrite_byte, leBytes_length, State.pivBusyFor_mem, State.dptCounted_mem, State.dptWord, State.dptBudget, State.dptWall,
        State.dptPoint]
  case missed => exact (State.pivStep_free 4 hfree).trans (congrArg _ (State.pivOp_cnt_missed hown))

end Sys2Proof.Machine
end
